-- ==== Sys2Proof/Word.lean ====
section
/-! DEFINITION. The word types of the SK-4800 model and their plainest reading: 64-bit registers, bytes, 48-bit device addresses as natural numbers. -/
namespace Sys2Proof

/-- A 64-bit scalar value (R54). -/
abbrev Word : Type := BitVec 64

/-- One byte of memory or of a packet. -/
abbrev Byte : Type := BitVec 8

end Sys2Proof
end

