-- ==== Sys2Proof/Config.lean ====
section
/-! DEFINITION. What the build fixes and what the spec leaves open: the sizes of the standard build of B1 (R4, R14), and the free values, constants without a body that no proof can see into. -/
namespace Sys2Proof.Config

/-- DIES (R14). -/
def dies : Nat := 2
/-- PHYS_CORES_PER_DIE (R14). -/
def physCores : Nat := 160
/-- LOGICAL_CORES_PER_DIE (R14). -/
def logicalCores : Nat := 144
/-- SPARE_CORES_PER_DIE (R14). -/
def spareCores : Nat := 16
/-- QUAD_COLUMNS and QUAD_ROWS (R14). -/
def quadColumns : Nat := 8
def quadRows : Nat := 5
/-- MXA_K and MXA_N (R14). -/
def mxaK : Nat := 128
def mxaN : Nat := 64
/-- SPM_BYTES (R14). -/
def spmBytes : Nat := 0x300000
/-- ACS_ROWS and ACS_COLS (R14). -/
def acsRows : Nat := 128
def acsCols : Nat := 64
/-- THREADS_PER_CORE (R14). -/
def threads : Nat := 64
/-- DMA_PER_CORE (R14). -/
def dmaChannels : Nat := 4
/-- ICACHE_BYTES and HRC_BYTES (R14). -/
def icacheBytes : Nat := 0x40000
def hrcBytes : Nat := 0x3000000
/-- HBM_STACKS_PER_DIE (R14). -/
def stacksPerDie : Nat := 6
/-- TIER1_BYTES (R14). -/
def tier1Bytes : Nat := 0x12000000000
/-- TIER2_CHANNELS_PER_DIE (R14). -/
def channelsPerDie : Nat := 8
/-- TIER2_BYTES (R14). -/
def tier2Bytes : Nat := 0x10000000000
/-- LINKS_PER_DIE and MAX_PORTS (R14). -/
def linksPerDie : Nat := 12
def maxPorts : Nat := 8
/-- COMBINING_SLOTS_PER_DIE (R14). -/
def combiningSlots : Nat := 256
/-- TORUS_MAX_X, TORUS_MAX_Y, TORUS_MAX_Z (R14). -/
def torusMaxX : Nat := 64
def torusMaxY : Nat := 32
def torusMaxZ : Nat := 32

/-- The SIZE_TABLE (R14) as subindex, bytes of its type, value; subindex 0 is HIGHEST_SUB. -/
def sizeTable : List (Nat × Nat × Nat) :=
  [(0x00, 1, 0x19), (0x01, 1, dies), (0x02, 2, physCores), (0x03, 2, logicalCores), (0x04, 2, spareCores),
   (0x05, 1, quadColumns), (0x06, 1, quadRows), (0x07, 2, mxaK), (0x08, 2, mxaN), (0x09, 4, spmBytes),
   (0x0A, 2, acsRows), (0x0B, 2, acsCols), (0x0C, 1, threads), (0x0D, 1, dmaChannels), (0x0E, 4, icacheBytes),
   (0x0F, 4, hrcBytes), (0x10, 1, stacksPerDie), (0x11, 8, tier1Bytes), (0x12, 1, channelsPerDie),
   (0x13, 8, tier2Bytes), (0x14, 1, linksPerDie), (0x15, 1, maxPorts), (0x16, 2, combiningSlots),
   (0x17, 1, torusMaxX), (0x18, 1, torusMaxY), (0x19, 1, torusMaxZ)]

/-- Bytes of one instruction-cache line. DESIGN CHOICE (log 27): the spec gives the cache's size only. Unsafe. -/
def icacheLine : Nat := 64

/-- A fresh free value (log 15): the n-th value the spec leaves open. -/
opaque free : Nat → BitVec 64
/-- The byte an address of an undefined area reads as (R149, R410, R418 to R420; log 5). -/
opaque undefByte : (generation address : Nat) → BitVec 8
/-- The value and the side word of an ACS entry that nothing has initialised (R97; log 6). -/
opaque undefLa : (core entry : Nat) → BitVec 720
/-- Which of the results within its bound an approximate function returns (R127, R130, R135; log 7). -/
opaque approxPick : (fn : Nat) → (x : BitVec 32) → Nat
/-- The HRC set of a line address (R151 leaves the index function open; log 10). -/
opaque hrcSet : Nat → Nat
/-- The order in which a die withholds slots of a 64-slot window (R408; log 20). -/
opaque withholdOrder : (die window : Nat) → List Nat
/-- The servo's correction for an offset in units of 2^-32 ns, before the limits of R367 and R370 (log 21). -/
opaque servoCorrection : (offset : Int) → (previous : Int) → Int
/-- Factory identity (R347; log 12). -/
opaque serial : List (BitVec 8)
opaque deviceUid : BitVec 64
opaque mac : BitVec 48
/-- Identity key and certificate (R386; log 12). -/
opaque idPubKey : List (BitVec 8)
opaque idCert : List (BitVec 8)
/-- Factory key hashes of fuse slots 0 to 3, and the maintainer key hash (R379; log 12). -/
opaque fuseKeyHash : Nat → BitVec 256
opaque maintKeyHash : BitVec 256
/-- KEY_SLOT, SVN and measurement of a factory image by component and slot (R377, R378; log 12). -/
opaque factoryKeySlot : (component slot : Nat) → Fin 4
opaque factorySvn : (component slot : Nat) → Nat
opaque factoryMeasure : (component slot : Nat) → BitVec 256
/-- The signature the identity key makes over a report, with its n-th salt (R387; log 22). -/
opaque attestSignature : (report : BitVec 2048) → (n : Nat) → BitVec 3072
/-- The GUIDs of a CPER record that the UEFI specification or the maker fixes (R314; log 19): record notification, creator, section type. -/
opaque cperGuid : Nat → BitVec 128
/-- Calibrated latencies of a link, transmit and receive, in units of 2^-32 ns (R372; log 28). -/
opaque linkLatency : Nat → Int
/-- The fixed PHY latencies that correct a PTP timestamp, received and sent, in units of 2^-32 ns (R368, R396; log 28). -/
opaque phyRxLatency : Int
opaque phyTxLatency : Int
/-- The endpoint that a slice master fills next as a spare (R308 leaves the choice among spares open; log 29). -/
opaque spareEndpoint : Nat → BitVec 16
/-- OP, RED and FMT of the collective of an image with a TAG, as fields of a descriptor, for a router whose own module has started none with it (R257, R264; log 43). -/
opaque tagOp : (image : BitVec 256) → (tag : Nat) → BitVec 512
/-- Frequencies, offset and spread that an implementation measures (R402; log 28): kHz of a domain, REF_OFFSET and SPREAD_PPM at a tick. -/
opaque domainKhz : (domain tick : Nat) → BitVec 32
opaque refOffset : (tick : Nat) → BitVec 32
opaque spreadPpm : (tick : Nat) → BitVec 16
/-- Version and next pointer of the header of the i-th capability, and the ID of the Physical Layer 128.0 GT/s capability: the spec gives no layout of configuration space (R350; log 18). -/
opaque capLink : Nat → BitVec 16
opaque capPhys128 : BitVec 16
/-- Spare modules of the slice (R308; log 29), and the module that holds a member's buddy copy as the slice master knows it (R304, R308; log 29). -/
opaque spareCount : Nat
opaque buddyOf : (member : Nat) → BitVec 16
/-- The buddy that the slice master gives a member whose buddy was lost (R316), and the COMMITs of the complete drains of a lost member's two buffers (R309; log 29). -/
opaque newBuddy : (member lost : Nat) → BitVec 16
opaque lostDrains : (member : Nat) → List (BitVec 64)

end Sys2Proof.Config
end

