-- ==== Sys2Proof/Syntax.lean ====
section
/-! DEFINITION. The commands of the block: one constructor of Instr per row of spec/opcode_table.json, in the table's order, and the operand types they carry. -/
namespace Sys2Proof

/-- A logical core of the module (R12, R72): die and logical core number. -/
structure CoreRef where
  die : Nat
  core : Nat
deriving DecidableEq, Repr

/-- What the code of the instruction cache finds on the word that a thread issues (R182, R184, R192). -/
inductive LineCode where
  | good | corrected | bad
deriving DecidableEq, Repr

/-- A hardware thread: its core, its number in the core (R46), and, for an instruction it issues, what the code of the
instruction cache finds on the word. -/
structure ThreadRef where
  die : Nat
  core : Nat
  thread : Nat
  line : LineCode := .good
deriving DecidableEq, Repr

/-- The fields D, A, B, FL and IMM of an instruction word (R51); CLASS and OP are the command itself. -/
structure Fields where
  d : BitVec 5
  a : BitVec 5
  b : BitVec 5
  fl : BitVec 5
  imm : BitVec 32
deriving DecidableEq, Repr

/-- A correctable error of the PCI Express link (R362): a flit that was replayed, a receiver error, a bad data link packet. -/
inductive PortError where
  | replay | receiver | badDllp
deriving DecidableEq, Repr

/-- One thing that a code, the path parity or a link code finds on an access of a command (R182, R183, R190);
addresses are addresses of the store. -/
inductive Find where
  /-- A correctable code word. -/
  | ce (addr : Nat)
  /-- An uncorrectable code word. -/
  | ue (addr : Nat)
  /-- A path-parity miss on a byte that the command reads. -/
  | parity (addr : Nat)
  /-- A path-parity miss on a byte of a write of the command as it reaches its bank or controller (R191). -/
  | writeParity (addr : Nat)
  /-- An LPDDR link correction on an access to a tier 2 address (R183). -/
  | linkCe (addr : Nat)
  /-- A correctable or uncorrectable word of the line of the HRC that serves the command. -/
  | hrcCe
  | hrcUe
  /-- A correctable or uncorrectable limb or side word of an ACS entry, named by 64 row + column. -/
  | acsCe (entry : Nat)
  | acsUe (entry : Nat)
  /-- A correctable or uncorrectable piste-table entry that the command looks up. -/
  | pisteCe (ep : Nat)
  | pisteUe (ep : Nat)
  /-- A correctable error of the PCI Express link on a flit of the host's request (R362). -/
  | port (e : PortError)
deriving DecidableEq, Repr

/-- All that is found on the accesses of a command. -/
structure Chk where
  finds : List Find := []
deriving DecidableEq, Repr

/-- Nothing is found. -/
def Chk.ok : Chk := ⟨[]⟩

/-- A DOP datagram on the management segment (R319): source address and port, whether it was sent to ff02::1,
whether its UDP checksum is right, and its bytes. -/
structure NetFrame where
  addr : BitVec 128
  port : Nat
  toAll : Bool
  sumOk : Bool
  bytes : List Byte
deriving DecidableEq, Repr

/-- Where a DOP request comes from: it arrives on the segment now, or it is the head of the server's queue (R328). -/
inductive ReqRef where
  | net (f : NetFrame)
  | queue
deriving DecidableEq, Repr

/-- The capabilities of configuration space (R350). -/
inductive Capability where
  | powerManagement | express | msix | aer | resizableBar | serialNumber | dataLinkFeature | phys16 | phys32 | phys64 | phys128
deriving DecidableEq, Repr

/-- The configuration registers of the PCI Express function by name (R348, R350, R351): the spec gives no offsets. `header c` is the header of a capability. -/
inductive CfgReg where
  | ids | classRev | subsystem | command | bar0Lo | bar0Hi | bar2Lo | bar2Hi | bar4Lo | bar4Hi | expansionRom
  | interruptPin | pmCsr | deviceControl | deviceControl2 | msixControl | rebarControl
  | aerUncorStatus | aerUncorMask | aerUncorSeverity | aerCorStatus | aerCorMask | serialLo | serialHi | linkStatus
  | header (c : Capability) | deviceCapabilities | deviceCapabilities2 | linkCapabilities | linkCapabilities2 | msixTable | msixPba | rebarCapability
  | aerControl
deriving DecidableEq, Repr

/-- How a completion for a read of host memory ends (R359). -/
inductive CplStatus where
  | ok | unsupported | abort | poisoned
deriving DecidableEq, Repr

/-- The six power rails whose droops the lifetime record counts (R449), and the other rails of R405. -/
inductive Rail where
  | vmain0 | vmain1 | vsram0 | vsram1 | vser | vhbm | v12 | v3p3 | v1p8 | vhbmq | vlp2h | vlpq
deriving DecidableEq, Repr

/-- An assembly fitted to a fabric cage (R433). -/
inductive Assembly where
  | passive | active
deriving DecidableEq, Repr

/-- The fields of a received IEEE 1588 message that the port uses (R318, R368): source address, domain, source clock identity, sequence number. -/
structure PtpHead where
  addr : BitVec 128
  domain : BitVec 8
  source : BitVec 64
  seq : BitVec 16
deriving DecidableEq, Repr

/-- The data set of an Announce message that BMCA compares (R368). -/
structure PtpMaster where
  priority1 : BitVec 8
  clockClass : BitVec 8
  accuracy : BitVec 8
  variance : BitVec 16
  priority2 : BitVec 8
  identity : BitVec 64
  steps : BitVec 16
deriving DecidableEq, Repr

/-- The commands of the block. -/
inductive Instr where
  -- scalar class (R56)
  | nop (th : ThreadRef) (f : Fields)
  | add (th : ThreadRef) (f : Fields)
  | sub (th : ThreadRef) (f : Fields)
  | and (th : ThreadRef) (f : Fields)
  | or (th : ThreadRef) (f : Fields)
  | xor (th : ThreadRef) (f : Fields)
  | shl (th : ThreadRef) (f : Fields)
  | shr (th : ThreadRef) (f : Fields)
  | sra (th : ThreadRef) (f : Fields)
  | mul (th : ThreadRef) (f : Fields)
  | mulhu (th : ThreadRef) (f : Fields)
  | mulh (th : ThreadRef) (f : Fields)
  | min (th : ThreadRef) (f : Fields)
  | max (th : ThreadRef) (f : Fields)
  | slt (th : ThreadRef) (f : Fields)
  | sltu (th : ThreadRef) (f : Fields)
  | addi (th : ThreadRef) (f : Fields)
  | andi (th : ThreadRef) (f : Fields)
  | ori (th : ThreadRef) (f : Fields)
  | xori (th : ThreadRef) (f : Fields)
  | shli (th : ThreadRef) (f : Fields)
  | shri (th : ThreadRef) (f : Fields)
  | srai (th : ThreadRef) (f : Fields)
  | li (th : ThreadRef) (f : Fields)
  | lui (th : ThreadRef) (f : Fields)
  | seq (th : ThreadRef) (f : Fields)
  | ld (th : ThreadRef) (f : Fields)
  | ldU (th : ThreadRef) (f : Fields)
  | st (th : ThreadRef) (f : Fields) (chk : Chk)
  | cacheDrop (th : ThreadRef) (f : Fields)
  | rdspec (th : ThreadRef) (f : Fields)
  /-- The value of request `i` of the core, oldest first, returns; `chk` is what its read finds. -/
  | loadReturn (c : CoreRef) (i : Nat) (chk : Chk)
  -- branch class (R57)
  | br (th : ThreadRef) (f : Fields)
  | beq (th : ThreadRef) (f : Fields)
  | bne (th : ThreadRef) (f : Fields)
  | blt (th : ThreadRef) (f : Fields)
  | bge (th : ThreadRef) (f : Fields)
  | bltu (th : ThreadRef) (f : Fields)
  | bgeu (th : ThreadRef) (f : Fields)
  | call (th : ThreadRef) (f : Fields)
  | jr (th : ThreadRef) (f : Fields)
  | texit (th : ThreadRef) (f : Fields)
  | brk (th : ThreadRef) (f : Fields)
  /-- Issue of a word with a reserved class or an unlisted operation. -/
  | illegalInstruction (th : ThreadRef) (w : BitVec 64)
  -- array class (R58); `chk` is what the copy of the descriptor finds (R79)
  | mxaFill (th : ThreadRef) (f : Fields) (chk : Chk)
  | mxaRun (th : ThreadRef) (f : Fields) (chk : Chk)
  | mxaDrain (th : ThreadRef) (f : Fields) (chk : Chk)
  | acsAlloc (th : ThreadRef) (f : Fields)
  | acsAllocGrant (th : ThreadRef) (f : Fields)
  | acsFree (th : ThreadRef) (f : Fields)
  /-- The `i`-th release of freed rows that waits on the core. -/
  | acsRowsRelease (c : CoreRef) (i : Nat)
  | mxaSync (th : ThreadRef) (f : Fields)
  | mxaSyncWake (th : ThreadRef)
  | fillBegin (c : CoreRef) (chk : Chk)
  | fillComplete (c : CoreRef)
  | runBegin (c : CoreRef) (chk : Chk)
  | runComplete (c : CoreRef)
  | drainBegin (c : CoreRef) (chk : Chk)
  | drainComplete (c : CoreRef)
  -- vector class (R59)
  | vadd (th : ThreadRef) (f : Fields)
  | vsub (th : ThreadRef) (f : Fields)
  | vmul (th : ThreadRef) (f : Fields)
  | vfma (th : ThreadRef) (f : Fields)
  | vmax (th : ThreadRef) (f : Fields)
  | vmin (th : ThreadRef) (f : Fields)
  | vabs (th : ThreadRef) (f : Fields)
  | vneg (th : ThreadRef) (f : Fields)
  | vcvt (th : ThreadRef) (f : Fields)
  | vexp (th : ThreadRef) (f : Fields)
  | vlog (th : ThreadRef) (f : Fields)
  | vrcp (th : ThreadRef) (f : Fields)
  | vrsqrt (th : ThreadRef) (f : Fields)
  | vtanh (th : ThreadRef) (f : Fields)
  | vsigmoid (th : ThreadRef) (f : Fields)
  | vectorBegin (c : CoreRef) (chk : Chk)
  | vectorComplete (c : CoreRef)
  -- DMA class (R60)
  | dmaPush (th : ThreadRef) (f : Fields) (chk : Chk)
  | dmaStat (th : ThreadRef) (f : Fields)
  | dmaDescriptorBegin (c : CoreRef) (ch : Nat) (chk : Chk)
  | dmaDescriptorComplete (c : CoreRef) (ch : Nat)
  -- sync class (R61)
  | fenceLocal (th : ThreadRef) (f : Fields)
  | fenceLocalWake (th : ThreadRef)
  | waitflag (th : ThreadRef) (f : Fields) (chk : Chk)
  | waitflagRetest (th : ThreadRef) (chk : Chk)
  | waitflagTimeout (th : ThreadRef)
  | ksel (th : ThreadRef) (f : Fields)
  | setep (th : ThreadRef) (f : Fields)
  | aadd (th : ThreadRef) (f : Fields)
  | amax (th : ThreadRef) (f : Fields)
  | amin (th : ThreadRef) (f : Fields)
  | axchg (th : ThreadRef) (f : Fields)
  | acas (th : ThreadRef) (f : Fields)
  -- collective class (R63)
  | colStart (th : ThreadRef) (f : Fields) (chk : Chk)
  | bar (th : ThreadRef) (f : Fields)
  | sred (th : ThreadRef) (f : Fields)
  | colWait (th : ThreadRef) (f : Fields)
  /-- The `i`-th glide release on its way to the core reaches it; `chk` is what the reads of the operation that it lets begin find. -/
  | glideReleaseWake (c : CoreRef) (i : Nat) (chk : Chk)
  /-- The operation at place `i` of the collective queue completes; `chk` is what its reads find. -/
  | collectiveComplete (c : CoreRef) (i : Nat) (chk : Chk)
  -- kernels (R68 to R71, R285)
  | kernelBoundary (c : CoreRef)
  | kernelDescriptorArrive (c : CoreRef) (chk : Chk)
  | gateRelease (c : CoreRef)
  -- memories (R76, R151, R153, R187, R188, R195, R197)
  /-- The `i`-th packet of the die network reaches its bank. -/
  | spmRemoteWriteArrive (i : Nat) (chk : Chk)
  /-- The oldest entry of bank `bank` of physical core `phys` retires. -/
  | spmMergeRetire (die phys bank : Nat) (chk : Chk)
  /-- The oldest entry of a controller retires: 0 to 11 the tier 1 stacks, 16 + k the tier 2 controller k. -/
  | tierMergeRetire (ctrl : Nat) (chk : Chk)
  /-- A miss fill for request `i` of the core (or, with none, for its instruction fetch at `line`). -/
  | hrcMissFill (c : CoreRef) (line : Nat) (chk : Chk)
  | cacheDropComplete (c : CoreRef) (i : Nat)
  | resurfacerTierRead (chk : Chk)
  | resurfacerSpmRead (chk : Chk)
  | bucketLeakTick
  -- fabric links (R202 to R238)
  | linkPeerSignal (l : Nat)
  | linkPeerSignalLost (l : Nat)
  /-- The receiver locks; `scr` are the scrambler states its eight lanes synchronised to, `lanes` the lane numbers of their LANE_MARKs (R202, R204, R208, R432). -/
  | linkRxLock (l : Nat) (scr : List (BitVec 31)) (lanes : List Nat)
  /-- One frame: eight lane blocks of 112 bytes as received, still scrambled. -/
  | frameReceive (l : Nat) (lanes : List (List Byte))
  | frameTransmit (l : Nat)
  | scheduleWindowStart
  | linkRetrain (l : Nat)
  | linkTrainingTimeout (l : Nat)
  -- routers and packets: each takes the oldest packet of its kind that waits on die `die`
  | controlPacketRoute (die : Nat) (chk : Chk)
  | dataPacketRoute (die : Nat) (chk : Chk)
  | multicastForward (die : Nat)
  | writePacket (die : Nat) (chk : Chk)
  | reducePacket (die : Nat) (chk : Chk)
  | combiningSlotFlush (die slot : Nat)
  | chainPacket (die : Nat) (chk : Chk)
  | finalWrite (die : Nat) (chk : Chk)
  | finalWriteRelease (i : Nat) (chk : Chk)
  | glideBarrier (die : Nat)
  | glideSred (die : Nat)
  | collCtrlSig (die : Nat)
  | collCtrlAbort (die : Nat)
  | collCtrlDone (die : Nat)
  | objReq (die : Nat)
  | objRsp (die : Nat)
  | pisteUpdateWriteEntry (die : Nat)
  | pisteUpdateSetEpoch (die : Nat)
  | pisteUpdateSetId (die : Nat)
  | timeSync (die : Nat)
  | timeSyncSend (l : Nat)
  | unreachable (die : Nat)
  | pisteFault (die : Nat)
  -- step program (R275 to R286)
  | runStateRun (r : ReqRef) (chk : Chk)
  | runStateStop (r : ReqRef)
  | imageMeasureComplete (chk : Chk)
  | openingLiftRelease
  | openingLiftTimeout
  | liftArrival
  | liftRelease
  | liftTimeoutBeforeArrival
  | liftTimeoutAfterArrival
  | variantReqWrite (r : ReqRef)
  | roleEpochResync (r : ReqRef)
  -- snapshots, restore, failures (R296 to R312)
  | snapshotCheckRelease
  | snapshotCopyDone (chk : Chk)
  | resumeLiftRelease
  | buddyCopyComplete (chk : Chk)
  | hostDrainComplete (chk : Chk)
  | triggerAtWrite (r : ReqRef)
  | restoreGo (r : ReqRef)
  | restoreComplete (chk : Chk)
  | portDownReportTimer (port : Nat)
  | portReport (r : ReqRef)
  | livenessProbeTimeout (ep : BitVec 16)
  | fieldTestStart (r : ReqRef)
  /-- The test of a die ends; `pass` says whether every record equals its stored signature (R311). -/
  | fieldTestEnd (die : Nat) (pass : Bool)
  -- DOP (R326 to R342)
  | dopRead (r : ReqRef)
  | dopReadSnap (r : ReqRef)
  | dopReadStaged (r : ReqRef)
  | dopWrite (r : ReqRef)
  | dopStage (r : ReqRef)
  | dopCommit (r : ReqRef)
  | dopCommitDiscard (r : ReqRef)
  | consistencyGroupApply (g : Nat)
  | dopSubscribe (r : ReqRef)
  | notifyAck (f : NetFrame)
  | notifyResend (i : Nat)
  | notifyValuePoll (i : Nat)
  | subscriptionExpire (i : Nat)
  | captureExpire (i : Nat)
  | segmentWriteTimeout (i : Nat)
  | keptResponseExpire (i : Nat)
  | maintTokenWrite (r : ReqRef)
  | maintTokenExpire
  | maintKeyWrite (r : ReqRef)
  | neighbourSolicitation (src target : BitVec 128)
  | echoRequest (src : BitVec 128) (payload : List Byte)
  | dadComplete (duplicate : Bool)
  -- PCI Express (R343 to R362)
  /-- A host write to WIN_CTRL at window offset 0x1000. -/
  | winCtrlGo (value : BitVec 64)
  | bar0RegisterWrite (off : Nat) (data : List Byte) (disabled : List Nat)
  | bar2BaseWrite (value : BitVec 64)
  /-- A write to SIGNAL by the host. -/
  | signalWrite (value : BitVec 64)
  | bar2Write (off : Nat) (data : List Byte) (poisoned : Bool) (chk : Chk)
  | bar2Read (off : Nat) (len : Nat) (chk : Chk)
  | configRequest (reg : CfgReg) (write : Option (BitVec 32))
  | hostReadCompletion (tag : Nat) (data : List Byte) (status : CplStatus)
  | pmeTurnOff
  | pcieLinkUp (speed width : Nat) (flit : Bool)
  | pcieLinkDown
  /-- PERST_N takes a level: true is deasserted (high). -/
  | perstN (level : Bool)
  | hotReset
  | linkDisable
  | flr
  | imageFetchGo (r : ReqRef)
  | imageFetchComplete
  -- resets (R416 to R420)
  | resetRequestWarm (r : ReqRef)
  | resetRequestMgmt (r : ReqRef)
  | resetRequestFabric (r : ReqRef)
  | blockResetQuad (r : ReqRef)
  | blockResetLink (r : ReqRef)
  | blockResetChannel (r : ReqRef)
  -- counters and lifetime records (R242, R444 to R449)
  | counterClearCore (r : ReqRef)
  | counterClearDie (r : ReqRef)
  | telemetryClear (r : ReqRef)
  | saveNow (r : ReqRef)
  | lifetimeSaveTimer
  | lifetimeSaveComplete
  | poweredSecondTick
  | railDroopBegin (rail : Rail)
  /-- The rail returns; `depth` is its deepest point in units of 0.01 % below nominal. -/
  | railDroopEnd (rail : Rail) (depth : Nat)
  -- attestation, fuses, update (R377 to R387)
  | nonce (r : ReqRef)
  | attestationReady
  | raiseFloor (r : ReqRef)
  | revoke (r : ReqRef)
  | updateComponent (r : ReqRef)
  | updateChunk (r : ReqRef)
  | updateVerify (r : ReqRef)
  /-- Verification ends; `flashError` says whether a flash read failed (code 7). -/
  | updateVerifyComplete (flashError : Bool)
  | activate (r : ReqRef)
  /-- A die ends its handover; `selfCheckOk` says whether the new image passed its self-check. -/
  | mgmtHandoverComplete (die : Nat) (selfCheckOk : Bool)
  -- power, pins, clocks (R393, R404 to R416)
  | vinOn
  | vinOff
  | vinOvervoltage
  | pwrEnHigh
  | pwrEnLow
  | railStepValid
  | railOutOfBand (rail : Rail)
  /-- One sample: input millivolts, input watts, and the 92 temperatures (an empty list keeps the last ones). -/
  | powerSample (millivolts watts : Nat) (temps : List (BitVec 16))
  | thermalTrip
  | warmRstNAssert
  | warmResetRelease
  | watchdogExpire
  /-- The PLLs lock; the straps SLOT_ID and TEST_MODE are sampled as the load starts (R424). -/
  | pllLock (slotId : BitVec 6) (testMode : Bool)
  /-- The load attempts: for each, the three copies of every word as finally read (R413, R414). -/
  | optionLoadComplete (attempts : List (List (BitVec 64 × BitVec 64 × BitVec 64)))
  /-- The firmware slots that the flash fails to read, numbered 2 × component + slot with FSB 0, MGMT 1, LINK 2 (R378, R380). -/
  | bootChainComplete (unreadable : List Nat)
  | refLost
  | refReturn
  | refLostTimeout
  | cageInsert (cage : Nat) (a : Assembly)
  | cageRemove (cage : Nat)
  | cageOvercurrent (cage : Nat)
  -- PTP and fabric time (R368 to R374)
  /-- twoStepFlag, logSyncInterval, and the correction field in units of 2^-16 ns. -/
  | ptpSync (h : PtpHead) (twoStep : Bool) (logInterval correction : Int)
  /-- The precise origin time in nanoseconds, and the correction field in units of 2^-16 ns. -/
  | ptpFollowUp (h : PtpHead) (originNs : Nat) (correction : Int)
  /-- The receive time in nanoseconds; `mine`: the requesting port identity is this port's. -/
  | ptpDelayResp (h : PtpHead) (mine : Bool) (receiveNs : Nat) (correction : Int) (logInterval : Int)
  | ptpAnnounce (h : PtpHead) (m : PtpMaster) (logInterval : Int)
  | ptpDelayReqSend
  | ptpAnnounceTimeout
  | fabricMarkTimeout
  -- follow-ups
  | vinOvervoltageClear
  | resetRequestDelayExpire
  | instructionFetchReturn (th : ThreadRef) (chk : Chk)
  | hostReadCompletionTimeout (tag : Nat)
  | linkControllerLoadComplete
  | channelRetrainComplete (ch : Nat)
  | plcaBeaconReceived
  | plcaBeaconTimeout
  | remoteObjectRetry (tag : BitVec 16)
deriving DecidableEq, Repr

end Sys2Proof
end

