-- ==== Sys2Proof/Machine/State.lean ====
section
/-! DEFINITION. The state of the module as plain data, the reasons a command can stop, and the state at reset: an unpowered module with every field at its Reset value (log 26). INVENTORY.md lists every field with its rule. -/
namespace Sys2Proof.Machine

/-- A sparse table by number: rising keys, no repeats; a key that is not listed has the table's default. -/
abbrev SMap (β : Type) : Type := List (Nat × β)

/-- Why a command stops with a fault. Safe: the hardware has no such event. -/
inductive Fault where
  /-- The command names a unit the module does not have (a die, core, thread, link, port, cage beyond the build's sizes, R14).
  Raised by every meaning that looks such a unit up. Safe. -/
  | noSuchUnit
deriving DecidableEq, Repr

/-- Why a command is refused. -/
inductive Refusal where
  /-- The command has no meaning in the model yet. Raised by Dispatch only. Safe. -/
  | notModelled (mnemonic : String)
deriving DecidableEq, Repr

/-- A critical word: three copies, voted two of three (R185). -/
structure Tri (α : Type) where
  a : α
  b : α
  c : α
deriving DecidableEq, Repr

/-! ### Cores (R46 to R77) -/

/-- What a SLEEPING thread waits for (R46). -/
inductive Sleep where
  /-- FENCE.LOCAL (R167). -/
  | fence
  /-- WAITFLAG: SPM offset, value, destination, address of the instruction, tick from which it times out (R62). -/
  | waitflag (off : Nat) (val : Word) (d : BitVec 5) (pc : Word) (deadline : Nat)
  /-- MXA.SYNC (R58). -/
  | arraySync
  /-- BAR or SRED: the sequence number of its collective-queue entry (R246). -/
  | glide (seq : Nat)
  /-- COL.WAIT: the descriptor's offset and the destination (R265). -/
  | colWait (off : Nat) (d : BitVec 5)
deriving DecidableEq, Repr

/-- The stored part of a thread's state (R46): READY and WAITING are `active`, told apart by R48. -/
inductive ThreadMode where
  | inactive
  | active
  | sleeping (why : Sleep)
  | halted
deriving DecidableEq, Repr

structure Thread where
  pc : Word := 0
  regs : Vector Word 32 := Vector.replicate 32 0
  /-- Bit r: register r is pending (R49). -/
  busy : BitVec 32 := 0
  /-- ACLK cycle from which a register's value may be read (fixed latencies of R49). -/
  ready : Vector Nat 32 := Vector.replicate 32 0
  /-- Earliest ACLK cycle of the next issue (taken branches, R49). -/
  nextIssue : Nat := 0
  mode : ThreadMode := .inactive
  /-- Expected-epoch register (R77). -/
  expEpoch : BitVec 16 := 0
  /-- The thread is WAITING on an ACS.ALLOC that found no room (R109). -/
  allocWait : Bool := false
deriving DecidableEq, Repr

/-- The atomics of R61. -/
inductive AtomOp where
  | add | max | min | xchg | cas
deriving DecidableEq, Repr

/-- What an outstanding memory request does (R56, R61). -/
inductive ReqKind where
  | load (bytes : Nat) (signed : Bool) (uncached : Bool)
  | atomic (op : AtomOp) (bytes : Nat) (operand compare : Word)
deriving DecidableEq, Repr

structure MemReq where
  thread : Nat
  pc : Word
  d : BitVec 5
  addr : Nat
  kind : ReqKind
  /-- Expected epoch it carries (R77). -/
  epoch : BitVec 16
  /-- ACLK cycle of issue. -/
  at_ : Nat
  /-- Its place in the order in which the core's requests enter the die network (R44). -/
  id : Nat
  /-- Where it goes in the store, as the core map translated it when it entered the die network (R45). -/
  store : Option Nat
  /-- The value it returns, once it is fixed before a later store of the thread to its granule (R166). -/
  value : Option Word := none
  /-- An address of the store that could not be trusted when its value was fixed (R192). -/
  bad : Option Nat := none
deriving DecidableEq, Repr

/-- A kind of array instruction in the array queue, with its descriptor or rows (R58, R79, R109, R110). -/
inductive ArrayOp where
  | fill (desc : BitVec 256)
  | run (desc : BitVec 512)
  | drain (desc : BitVec 512)
  | alloc (d : BitVec 5) (first count : Nat) (value : Word)
  | free (first count : Nat)
deriving DecidableEq, Repr

/-- An entry of the array queue; `seq` numbers the core's array and collective instructions in issue order (R112). -/
structure ArrayEntry where
  seq : Nat
  thread : Nat
  pc : Word
  op : ArrayOp
deriving DecidableEq, Repr

/-- An array instruction that has begun: its begin cycle, the cycle in which it completes, whether it has nothing to feed, fill or
write (R95), the ACS entries it reaches (runs), the ACS rows it reads in their order with the read cycles of each (drains). -/
structure ArrayFlight where
  e : ArrayEntry
  began : Nat
  due : Nat
  empty : Bool := false
  reach : List Nat := []
  rows : List Nat := []
  rowCycles : Nat := 0
  /-- What its accesses still to come find. -/
  chk : Chk := .ok
  /-- A drain's mask parameter block, as read at its begin (R138). -/
  param : BitVec 128 := 0
  /-- Entry groups that a drain has read, and the scale and bias elements by column of the row that it is reading (R94, R142). -/
  groups : Nat := 0
  inputs : List (BitVec 32 × BitVec 32) := []
  /-- SPM writes to come, with their cycles. -/
  writes : List (Nat × Nat × List Byte) := []
deriving DecidableEq, Repr

/-- The class of a decoded element (R38): `zero` is an encoded zero, `far` a finite non-zero element that decoded to zero (R34). -/
inductive NumFlag where
  | finite | zero | far | nan | pinf | ninf
deriving DecidableEq, Repr

/-- One significand of the common internal form: sign, 12-bit significand, relative exponent (R32). -/
structure Part where
  neg : Bool := false
  sig : BitVec 12 := 0
  r : Int := 0
deriving DecidableEq, Repr

/-- A decoded element: its flag, its block reference, its high and low part (R32 to R38). -/
structure Elem where
  flag : NumFlag := .finite
  ref : Int := 0
  hi : Part := {}
  lo : Part := {}
deriving DecidableEq, Repr

/-- A stationary plane: the format of the fill that loaded it, and its unmasked cells by 64 k + n (R81). -/
structure Plane where
  fmt : Option (BitVec 4) := none
  cells : List (Nat × Elem) := []
deriving DecidableEq, Repr

/-- A long accumulator (R102, R103): the 640-bit value and the side word by field; `pend[j - 1]` carries into limb j. -/
structure LA where
  val : BitVec 640 := 0
  guard : BitVec 32 := 0
  pend : Vector (BitVec 4) 9 := Vector.replicate 9 0
  nan : Bool := false
  pinf : Bool := false
  ninf : Bool := false
  govf : Bool := false
  gsign : Bool := false
deriving DecidableEq, Repr

/-- The matrix array and the accumulator store of a core. -/
structure Mxa where
  active : Plane := {}
  /-- None: the shadow is empty. -/
  shadow : Option Plane := none
  /-- A fill has issued since the last run issued with COMMIT = 1 (R90, R97). -/
  fillIssued : Bool := false
  /-- L of R93. -/
  lastSlot : Option Nat := none
  /-- Begin cycle and count c of the fill that loaded the shadow, and of the last fill (R92, R93). -/
  fillBegan : Option (Nat × Nat) := none
  /-- Last commit cycle (R92). -/
  commitCycle : Option Nat := none
  /-- The cycle after the drain engine's last read (R92). -/
  drainReadEnd : Nat := 0
  /-- Entries that hold a defined value, by 64 row + column (R97: the others are undefined). -/
  acs : SMap LA := []
  /-- Reservation map: rows taken at issue (R109). -/
  taken : BitVec 128 := 0
  /-- Rows that count as reserved (R109: from the cycle in which the ALLOC begins). -/
  reserved : BitVec 128 := 0
  /-- ACS.FREEs that have begun and not completed: sequence number, thread, rows to release (R110). -/
  releasing : List (Nat × Nat × BitVec 128) := []
  /-- Cycle in which the last array instruction began (R92). -/
  lastBegin : Option Nat := none
  queue : List ArrayEntry := []
  flight : List ArrayFlight := []
deriving DecidableEq, Repr

/-- The vector operations of R59. -/
inductive VecOp where
  | add | sub | mul | fma | max | min | abs | neg | cvt | exp | log | rcp | rsqrt | tanh | sigmoid
deriving DecidableEq, Repr

structure VecEntry where
  seq : Nat
  thread : Nat
  pc : Word
  op : VecOp
  dst : Nat
  srcA : Nat
  srcB : Nat
  imm : BitVec 32
  sat : Bool
deriving DecidableEq, Repr

/-- A vector instruction that has begun: groups that it has read, SPM writes to come with their cycles (R136). -/
structure VecFlight where
  e : VecEntry
  began : Nat
  due : Nat
  groups : Nat := 0
  chk : Chk := .ok
  writes : List (Nat × Nat × List Byte) := []
deriving DecidableEq, Repr

/-- A descriptor in a channel's queue: its SPM offset and its copy (R154). -/
structure DmaEntry where
  off : Nat
  desc : BitVec 512
deriving DecidableEq, Repr

/-- The descriptor a channel executes (R156). -/
structure DmaExec where
  e : DmaEntry
  /-- Names its packets and host reads. -/
  id : Nat
  code : BitVec 8
  doneBytes : Nat
  /-- Data packets sent (REMOTE = 1). -/
  packets : Nat
  /-- ACLK cycle in which it began. -/
  began : Nat
  /-- What its accesses find (R182, R190), and the device address that it could not trust (R157). -/
  chk : Chk := .ok
  bad : Nat := 0
  /-- Bytes of its packets that this module's own router has discarded: they are never delivered (R156). -/
  discarded : Nat := 0
  /-- Its status word is written, and its flag is on the die network (R156 step 3). -/
  flagOut : Bool := false
deriving DecidableEq, Repr

structure DmaChannel where
  queue : List DmaEntry := []
  exec : Option DmaExec := none
  lastCode : BitVec 8 := 0
  err : Bool := false
  completed : BitVec 32 := 0
deriving DecidableEq, Repr

inductive ColKind where
  /-- COL.START: the copy of the descriptor and its SPM offset (R253). -/
  | bulk (desc : BitVec 512) (off : Nat)
  | bar
  | sred
deriving DecidableEq, Repr

/-- How far an operation of the collective queue has come (R247, R254, R256). -/
inductive ColPhase where
  | queued
  /-- Its signature is sent; it waits for its predecessor's (bulk only). -/
  | signature
  /-- Its glide arrival is sent. -/
  | arrived
  | data
  | ended (status : BitVec 8)
deriving DecidableEq, Repr

structure ColEntry where
  seq : Nat
  thread : Nat
  pc : Word
  kind : ColKind
  handle : Nat
  gepoch : BitVec 16
  d : BitVec 5
  fl : BitVec 5
  hi : Word
  lo : Word
  phase : ColPhase
  poison : Bool := false
  /-- Predecessor's signature has arrived (R254). -/
  sigSeen : Bool := false
  /-- COUNTs of the DONE packets received and not yet released, and how many have been released (R256). -/
  dones : List Nat := []
  released : Nat := 0
  /-- Contributions received by chunk (R264), or output codes by element (chained reductions). -/
  contrib : SMap Nat := []
  /-- Chunks finished (R264), or elements processed on this engine (R111). -/
  finished : Nat := 0
  /-- What the reads of its data phase still to come find. -/
  chk : Chk := .ok
  /-- Names its die-network packets. -/
  id : Nat := 0
deriving DecidableEq, Repr

/-- A collective started and not yet waited for (R265). -/
structure ColRecord where
  off : Nat
  seq : Nat
  status : Option (BitVec 8)
deriving DecidableEq, Repr

/-- A predecessor's signature that arrived before the operation began (R254). -/
structure SigNote where
  handle : Nat
  gepoch : BitVec 16
  optag : BitVec 16
  value : BitVec 64
deriving DecidableEq, Repr

/-- A CACHE.DROP in progress (R153). -/
structure CacheDrop where
  thread : Nat
  lo : Nat
  hi : Nat
  /-- Tick from which it has examined its lines. -/
  due : Nat
deriving DecidableEq, Repr

/-- Where a core stands between and inside kernels (R68 to R71, R280, R285). -/
inductive KernelPhase where
  | idle
  | running
  /-- The read of the descriptor at `addr` is out since ACLK cycle `since`. -/
  | fetching (addr : Nat) (since : Nat)
  | gate
  | ended
  | stopped
deriving DecidableEq, Repr

structure Core where
  threads : SMap Thread := []
  /-- Thread at which the issue search begins (R47). -/
  search : Nat := 0
  /-- Last ACLK cycle in which an instruction issued (R47). -/
  issuedAt : Option Nat := none
  icache : SMap (List Byte) := []
  requests : List MemReq := []
  drops : List CacheDrop := []
  role : BitVec 16 := 0
  kernel : BitVec 16 := 0
  ksel : Option (BitVec 16) := none
  desc : BitVec 256 := 0
  phase : KernelPhase := .idle
  kernelStart : Nat := 0
  /-- Cycle 1 of the last kernel boundary (R152). -/
  boundaryAt : Nat := 0
  epoch : Tri (BitVec 16) := ⟨0, 0, 0⟩
  windows : Vector (Tri (BitVec 16)) 8 := Vector.replicate 8 ⟨0, 0, 0⟩
  mxa : Mxa := {}
  vecQueue : List VecEntry := []
  vecFlight : List VecFlight := []
  dma : Vector DmaChannel 4 := Vector.replicate 4 {}
  colQueue : List ColEntry := []
  colRecords : List ColRecord := []
  /-- Threads asleep on WAITFLAG whose word's granule has been written since their last test, and whether a test at such a write found the value (R62). -/
  flags : SMap Bool := []
  sigNotes : List SigNote := []
  /-- Number of the next array or collective instruction. -/
  seq : Nat := 0
  /-- Role and epochs held at the step's start (R282). -/
  stepRole : BitVec 16 := 0
  stepEpoch : BitVec 16 := 0
  stepWindows : Vector (BitVec 16) 8 := Vector.replicate 8 0
  /-- Trap record (R67). -/
  trap : BitVec 128 := 0
  /-- Thread and cause of the trap that stopped the core (R65). -/
  trappedBy : Option (Nat × Nat) := none
deriving DecidableEq, Repr

/-! ### Memories (R143 to R199) -/

/-- An area of undefined contents: its bytes read as free values until they are written. -/
structure UndefArea where
  lo : Nat
  hi : Nat
  gen : Nat
  /-- Only the bytes of one stack or channel (R420), under an interleave in halves or not. -/
  unit : Option (Nat × Bool) := none
deriving DecidableEq, Repr

/-- A merge-buffer entry (R187, R188): the address of its code word, the bytes it holds by offset, its allocation time: the ACLK cycle of its die in an SPM, the root tick in a tier. -/
structure MergeEntry where
  base : Nat
  bytes : List (Nat × Byte)
  at_ : Nat
deriving DecidableEq, Repr

/-- A line of an HRC: address, 256 bytes, ACLK cycle of its fill (R151, R152). -/
structure HrcLine where
  addr : Nat
  data : List Byte
  filled : Nat
deriving DecidableEq, Repr

structure Memory where
  /-- Bytes by device address (tier 1, tier 2) and by physical core (SPM), rising, none equal to 0 outside undefined areas. -/
  cells : List Host.Cell := []
  undef : List UndefArea := []
  /-- Number of undefined areas made so far. -/
  gen : Nat := 0
  /-- Addresses of uncorrectable code words (R192). -/
  bad : List Nat := []
  /-- SPM merge buffers by 32 (256 die + physical core) + bank. -/
  spmMerge : SMap (List MergeEntry) := []
  /-- Controller merge buffers: stack s at s, tier 2 controller k at 16 + k. -/
  tierMerge : SMap (List MergeEntry) := []
  /-- HRC lines of each die, most recently used first. -/
  hrc : SMap (List HrcLine) := []
  tier1Mode : BitVec 8 := 0
  tier2Mode : BitVec 8 := 0
deriving DecidableEq, Repr

/-- What a die-network packet does at its destination (R76, R155). -/
structure NocPacket where
  id : Nat
  /-- Issuing core and thread; a DMA packet has the thread number 64. -/
  die : Nat
  core : Nat
  thread : Nat
  addr : Nat
  /-- Destination physical core, as the core map translated it when the packet entered (R45). -/
  phys : Nat
  data : List Byte
  epoch : BitVec 16
  /-- The DMA descriptor it belongs to. -/
  owner : Option Nat
deriving DecidableEq, Repr

/-- Buckets, resurfacer, reports (R194 to R198, R314). -/
structure Integrity where
  levels : SMap (BitVec 8) := []
  overflows : SMap (BitVec 16) := []
  period : BitVec 32 := 3600
  capacity : BitVec 8 := 16
  event : BitVec 128 := 0
  /-- Second after load-complete of the last leak tick. -/
  leaks : Nat := 0
  rsEnable : Bool := true
  tierPass : BitVec 32 := 86400
  spmPass : BitVec 32 := 600
  tierPasses : BitVec 32 := 0
  spmPasses : BitVec 32 := 0
  rsLate : BitVec 32 := 0
  /-- Next code word of each pass, tick at which the pass began, period in effect. -/
  tierPos : Nat := 0
  tierStart : Nat := 0
  tierRate : BitVec 32 := 86400
  spmPos : Nat := 0
  spmStart : Nat := 0
  spmRate : BitVec 32 := 600
  /-- Last CPER record (R314). -/
  cper : List Byte := []
  /-- Uncorrectable words that have lost merged bytes, whose step fault is still to be raised (R192). -/
  lost : List Nat := []
  /-- Addresses at which writes with a parity miss were discarded, likewise (R191). -/
  missed : List Nat := []
deriving DecidableEq, Repr

/-! ### Fabric (R200 to R270) -/

/-- A control packet (R220). -/
structure CtrlPkt where
  hdr : BitVec 128
  payload : BitVec 128
deriving DecidableEq, Repr

/-- A data packet with its BAD mark (R207, R223). -/
structure DataPkt where
  hdr : BitVec 256
  payload : List Byte
  bad : Bool
deriving DecidableEq, Repr

inductive LinkState where
  | disabled | down | training | up | failed
deriving DecidableEq, Repr

/-- A schedule entry with its budget in units of 1/1024 cell and the cells that remain (R233, R234). -/
structure SchedEntry where
  e : BitVec 64
  units : Nat
  left : Nat
deriving DecidableEq, Repr

/-- A data packet in an output data queue; injected packets wait for a budget, late ones for an idle cell (R234, R235). -/
structure OutData where
  pkt : DataPkt
  injected : Bool
  late : Bool
  /-- The DMA descriptor or collective it belongs to. -/
  owner : Option Nat
deriving DecidableEq, Repr

/-- A data packet being received: header, payload so far, cells still to come, bad mark (R206, R207). -/
structure Assembly where
  hdr : BitVec 256
  payload : List Byte
  left : Nat
  bad : Bool
deriving DecidableEq, Repr

/-- A cell in transmission: tag, 32 bytes, BAD mark (R206). -/
structure TxCell where
  tag : BitVec 2
  data : List Byte
  bad : Bool
deriving DecidableEq, Repr

structure Link where
  state : LinkState := .disabled
  preset : BitVec 8 := 0
  trained : BitVec 8 := 0
  peer : Bool := false
  permanent : Bool := false
  locked : Bool := false
  lstateRx : BitVec 3 := 0
  trainStart : Nat := 0
  trainFails : Nat := 0
  /-- Ticks at which the link left UP in the last 60 s (R210). -/
  downs : List Nat := []
  /-- Member of its port's active set (R213). -/
  active : Bool := false
  txScr : Vector (BitVec 31) 8 := Vector.replicate 8 (BitVec.allOnes 31)
  rxScr : Vector (BitVec 31) 8 := Vector.replicate 8 (BitVec.allOnes 31)
  txSeq : BitVec 16 := 0
  rxSeq : BitVec 16 := 0
  ueRun : Vector Nat 8 := Vector.replicate 8 0
  ueTimes : List Nat := []
  asm : Option Assembly := none
  /-- Data cells are discarded up to the next DATA_HEAD (R207, R238). -/
  dropping : Bool := false
  /-- Cells in the input data buffer (R238). -/
  inCells : Nat := 0
  xoffTx : Bool := false
  xoffRx : Bool := false
  /-- Tick up to which XOFF_CYCLES and STALL_CYCLES are counted (R242). -/
  xoffAt : Nat := 0
  txAt : Nat := 0
  outGlide : List CtrlPkt := []
  outCtrl : List CtrlPkt := []
  outData : List OutData := []
  txCells : List TxCell := []
  ctrlSent : Nat := 0
  sched : List SchedEntry := []
  /-- FEC_CORR, FEC_UE, CRC_ERR, BAD_SEEN, RETRAINS, XOFF_CYCLES, IN_HW, IN_OVF (R242). -/
  stats : Vector (BitVec 64) 8 := Vector.replicate 8 0
  /-- Marks of the current millisecond, own and peer average D, reports sent, last report, last mark (R371). -/
  markSum : Int := 0
  markCount : Nat := 0
  dOwn : Option Int := none
  dPeer : Option Int := none
  reports : BitVec 16 := 0
  reportAt : Nat := 0
  markAt : Option Nat := none
  delayPs : BitVec 32 := BitVec.allOnes 32
  /-- Bytes received and byte symbols corrected while UP, an uncorrectable codeword, UP at some moment, in the current BER period (R449). -/
  berBytes : Nat := 0
  berCorr : Nat := 0
  berUe : Bool := false
  berUp : Bool := false
deriving DecidableEq, Repr

/-- A packet at a router: the link it came on (none: injected here). -/
structure RoutedCtrl where
  src : Option Nat
  pkt : CtrlPkt
deriving DecidableEq, Repr

structure RoutedData where
  src : Option Nat
  pkt : DataPkt
  owner : Option Nat
  /-- The combining table of this router has been looked up, or needs not be (R264). -/
  passed : Bool := false
  /-- It goes late: bypassed or flushed (R264). -/
  late : Bool := false
deriving DecidableEq, Repr

/-- A combining slot in use (R264). -/
structure Slot where
  tag : BitVec 16
  chunk : Nat
  contrib : Nat
  hdr : BitVec 256
  payload : List Byte
  /-- Tick of the last arrival. -/
  at_ : Nat
deriving DecidableEq, Repr

/-- The router of a die. -/
structure Router where
  ctrlIn : List RoutedCtrl := []
  dataIn : List RoutedData := []
  /-- Packets whose route ends at this die and that wait to be acted on. -/
  ctrlBox : List RoutedCtrl := []
  dataBox : List DataPkt := []
  piste : SMap (BitVec 32) := []
  /-- IDs whose entry is uncorrectable (R192). -/
  pisteBad : List Nat := []
  combine : List (BitVec 64) := []
  slots : SMap Slot := []
  /-- NOROUTE_DROP, EPOCH_DROP, HOP_DROP, MISDELIVER_DROP, BAD_HEADER_DROP, PORT_DOWN_DROP, PISTE_AUTH_DROP, MCAST_CLIP, UNREACH_SENT (R242). -/
  stats : Vector (BitVec 64) 9 := Vector.replicate 9 0
  /-- BYPASS, SLOT_FLUSH, SIG_MISMATCH, GROUP_EPOCH_DROP, FXP_SAT, ABORT_RECV (R269). -/
  collStats : Vector (BitVec 64) 6 := Vector.replicate 6 0
deriving DecidableEq, Repr

/-- The torus and the slice (R215, R216). -/
structure Torus where
  extX : BitVec 8 := 0
  extY : BitVec 8 := 0
  extZ : BitVec 8 := 0
  x : BitVec 8 := 0
  y : BitVec 8 := 0
  z : BitVec 8 := 0
  ox : BitVec 8 := 0
  oy : BitVec 8 := 0
  oz : BitVec 8 := 0
  sx : BitVec 8 := 0
  sy : BitVec 8 := 0
  sz : BitVec 8 := 0
  master : Tri (BitVec 16) := ⟨0, 0, 0⟩
deriving DecidableEq, Repr

structure Fabric where
  links : Vector Link 24 := Vector.replicate 24 {}
  ports : Vector (BitVec 32) 8 := Vector.replicate 8 0
  /-- The 18 port counters of object 0x5040. -/
  portStats : Vector (Vector (BitVec 64) 18) 8 := Vector.replicate 8 (Vector.replicate 18 0)
  routers : Vector Router 2 := Vector.replicate 2 {}
  torus : Torus := {}
  ownId : BitVec 16 := 0
  hasId : Bool := false
  tableEpoch : Tri (BitVec 8) := ⟨0, 0, 0⟩
  /-- Per-XFER counts of packets landed or dropped (R222). -/
  xfer : SMap (BitVec 20) := []
  held : List CtrlPkt := []
  /-- Injected packets of each transfer on each port so far, by 65,536 port + XFER (R234). -/
  injected : SMap Nat := []
  /-- Schedule window in progress (R232). -/
  window : Option Nat := none
  unreachAt : SMap Nat := []
  pisteFaultAt : SMap Nat := []
  /-- Tick since which a port has no active link, and whether its report was sent (R307). -/
  portDownAt : Vector (Option Nat) 8 := Vector.replicate 8 none
  portReported : Vector Bool 8 := Vector.replicate 8 false
deriving DecidableEq, Repr

/-- An input of a glide operation at the module's router (R246). -/
inductive GlideSrc where
  | core (die core : Nat)
  | child (ep : BitVec 16)
  | sequencer
deriving DecidableEq, Repr

/-- A glide operation collecting its inputs (R246 to R249). -/
structure GlideOp where
  inputs : List GlideSrc := []
  op : Nat := 0
  mismatch : Bool := false
  value : BitVec 128 := 0
  la : Int := 0
  flags : BitVec 8 := 0
  /-- Parts of an FL 5 packet received so far, by child (R249). -/
  parts : List (BitVec 16 × Nat × BitVec 128) := []
  /-- The combined packet has gone up; the release is awaited. -/
  sent : Bool := false
deriving DecidableEq, Repr

/-- A glide release on its way to a member core or to the step sequencer (R250). -/
structure Release where
  dst : GlideSrc
  handle : Nat
  status : BitVec 8
  payload : BitVec 128
deriving DecidableEq, Repr

structure GroupRec where
  hdr : BitVec 128
  members : List (BitVec 32)
deriving DecidableEq, Repr

structure Groups where
  count : BitVec 16 := 0
  recs : SMap GroupRec := []
  epochs : SMap (BitVec 16) := []
  resync : Option (BitVec 16) := none
  /-- Descriptors of the collectives started since the start of the program, by TAG: they say how the routers combine a TAG's packets (R257, R264). -/
  tagOps : SMap (BitVec 512) := []
  glideTable : SMap Nat := []
  glideOps : SMap GlideOp := []
  releases : List Release := []
  /-- Group epochs that an ABORT with FAILED_MEMBER has ended (R266). -/
  failedEpoch : SMap (BitVec 16) := []
deriving DecidableEq, Repr

/-! ### Step program, failures, snapshots (R271 to R316) -/

inductive StepPhase where
  | idle
  | measuring
  | openMax
  | openMin
  | inStep
  | arrived
  | snapCheck
  | snapCopy
  | resume
deriving DecidableEq, Repr

inductive Gate where
  | undecided | opened | closed | faulted
deriving DecidableEq, Repr

/-- The tables of a schedule variant in the routers: schedule by link, EXPECT by handle, combining table (R233, R246, R263). -/
structure VariantTables where
  sched : List (List (BitVec 64)) := []
  glide : SMap Nat := []
  combine : List (BitVec 64) := []
deriving DecidableEq, Repr

structure Run where
  state : BitVec 8 := 0
  base : BitVec 64 := 0
  commit : Tri (BitVec 64) := ⟨0, 0, 0⟩
  skipped : BitVec 64 := 0
  variantReq : BitVec 8 := 0
  variant : BitVec 8 := 0
  conflicts : BitVec 32 := 0
  /-- 0x2004.01 was written in RUNNING (R281). -/
  variantAsked : Bool := false
  status : BitVec 8 := 0
  lifts : BitVec 64 := 0
  lastGate : BitVec 256 := 0
  /-- Header and section map of the image in effect, and its base (R271, R273). -/
  hdr : BitVec 512 := 0
  sections : List (BitVec 128) := []
  imageBase : Nat := 0
  imageHash : BitVec 256 := 0
  tables : SMap VariantTables := []
  phase : StepPhase := .idle
  /-- Tick at which the phase began. -/
  phaseAt : Nat := 0
  origin : BitVec 64 := 0
  attempt : BitVec 16 := 0
  epochShift : BitVec 16 := 0
  last : BitVec 8 := 0
  firstStep : Bool := true
  gate : Gate := .undecided
  faulted : Bool := false
  /-- The step is faulted by a fault kept from before it, which has stopped nothing (R281). -/
  carried : Bool := false
  faultKept : Bool := false
  openMaxResult : BitVec 64 := 0
  openBad : Option (BitVec 8) := none
  /-- Result of the lift whose snapshot stop runs (R281 step 7). -/
  liftResult : BitVec 64 := 0
deriving DecidableEq, Repr

inductive PhysState where
  | active | spare | testing | retired
deriving DecidableEq, Repr

/-- A unit of the failure history (R313). -/
inductive UnitId where
  | core (die phys : Nat)
  | link (l : Nat)
  | stack (s : Nat)
  | channel (c : Nat)
  | die (d : Nat)
deriving DecidableEq, Repr

structure CoreMaps where
  /-- Physical core of logical core l of die d, at 256 d + l; voted (R72, R185). -/
  toPhys : SMap (Tri (BitVec 8)) := []
  phys : SMap PhysState := []
  /-- Logical cores whose map entry changes at their next boundary, with the new physical core (R292). -/
  pending : List (Nat × BitVec 8) := []
  /-- Physical cores to be spared at the next lift release (256 d + p). -/
  failing : List Nat := []
  /-- Physical cores to be swapped for a field test at the next lift release. -/
  swapping : List Nat := []
deriving DecidableEq, Repr

structure RemoteReq where
  tag : BitVec 16
  dest : BitVec 16
  payload : BitVec 128
  sentAt : Nat
deriving DecidableEq, Repr

structure Failure where
  replayLimit : BitVec 16 := 8
  moduleState : BitVec 8 := 1
  mapHdr : BitVec 512 := 0
  regions : List (BitVec 128) := []
  mapState : BitVec 8 := 0
  snapBytes : BitVec 64 := 0
  cadence : BitVec 32 := 0
  drainCommit : BitVec 64 := BitVec.allOnes 64
  groupCommit : BitVec 64 := BitVec.allOnes 64
  drainBufs : BitVec 64 × BitVec 64 := (BitVec.allOnes 64, BitVec.allOnes 64)
  phase : BitVec 8 := 0
  /-- Background copy in progress: 0 none, 2 buddy copy, 3 host drain (R302), and the name of its packets. -/
  background : Nat := 0
  copyId : Nat := 0
  deferred : BitVec 32 := 0
  triggerAt : BitVec 64 := BitVec.allOnes 64
  /-- A deferred snapshot runs at the next commit lift (R299). -/
  pendingSnap : Bool := false
  copied : Bool := false
  /-- A background copy failed and restarts at the next lift (R302). -/
  copyRestart : Bool := false
  restoreCommit : BitVec 64 := 0
  restoreSource : BitVec 8 := 0
  restoreResult : BitVec 8 := 0
  /-- Reads of host memory of a restore: 0 none, 1 slot headers, 2 data. -/
  restoreStage : Nat := 0
  /-- Snapshot map of the restore and the header of its source slot (R305). -/
  restoreHdr : BitVec 512 := 0
  restoreRegions : List (BitVec 128) := []
  restoreSlot : BitVec 512 := 0
  buddyEp : BitVec 16 := 0
  wardEp : BitVec 16 := 0
  buddyEn : Bool := false
  deputy : BitVec 16 := 0
  queue : List (BitVec 16) := []
  /-- Step 4 of the takeover of the queue's head runs (R308). -/
  filling : Bool := false
  /-- The head is being filled from its drain, its last source (R309). -/
  fromDrain : Bool := false
  /-- A deputy's takeover waits for the members' answers to the new SLICE_MASTER (R306). -/
  moveWaits : Bool := false
  /-- Buddies that the slice master has assigned since the pairing it began with (R304, R308, R316). -/
  buddies : SMap (BitVec 16) := []
  /-- Spares that the slice master has filled (R308). -/
  sparesUsed : Nat := 0
  /-- Probes sent: endpoint and tick (R306). -/
  probes : List (BitVec 16 × BitVec 16 × Nat) := []
  /-- Probed endpoints whose report was that a port is down (pair reporter, member). -/
  reports : List (BitVec 16 × BitVec 16) := []
  testTarget : BitVec 16 := 0
  testState : BitVec 8 := 0
  /-- Physical core under test on each die, with its start tick. -/
  tests : SMap (Nat × Nat) := []
  /-- Permanent units whose report waits for the next group snapshot (R313). -/
  awaiting : List UnitId := []
  reportedLost : Bool := false
deriving DecidableEq, Repr

/-- Module flash and fuses: kept by every reset and by power-off (R406, R418). -/
structure Flash where
  /-- Bytes of firmware slots written by an update, by 2 component + slot; an unlisted slot holds its factory image. -/
  fw : SMap (List Byte) := []
  /-- Preferred slot of FSB, MGMT, LINK (R382). -/
  pref : Vector (BitVec 8) 3 := Vector.replicate 3 0
  maintKey : List Byte := []
  revoked : BitVec 4 × BitVec 4 := (0, 0)
  /-- Thermometers of the three floors, two copies of each bit (R379). -/
  floors : Vector (BitVec 64 × BitVec 64) 3 := Vector.replicate 3 (0, 0)
  /-- Failure history: unit and powered second of each event (R313). -/
  history : List (UnitId × Nat) := []
  permanent : List UnitId := []
  records : SMap (List Byte) := []
deriving DecidableEq, Repr

/-! ### Object server (R317 to R347) -/

inductive DopPath where
  | net (addr : BitVec 128) (port : Nat)
  | window
  | remote (ep : BitVec 16)
deriving DecidableEq, Repr

/-- A request in the server's queue: header of R326 and payload. -/
structure DopReq where
  path : DopPath
  hdr : BitVec 128
  payload : List Byte
  /-- Its response is discarded (R344). -/
  discard : Bool := false
deriving DecidableEq, Repr

structure Kept where
  path : DopPath
  reqId : BitVec 32
  resp : List Byte
  at_ : Nat
deriving DecidableEq, Repr

structure Capture where
  path : DopPath
  key : Nat
  value : List Byte
  /-- The value is a staged one (R340). -/
  stagedv : Bool
  at_ : Nat
deriving DecidableEq, Repr

structure SegWrite where
  path : DopPath
  op : Nat
  key : Nat
  next : Nat
  data : List Byte
  at_ : Nat
deriving DecidableEq, Repr

/-- A notification: key, type and value at the event (R334). -/
structure Notice where
  key : Nat
  typ : Nat
  value : List Byte
deriving DecidableEq, Repr

structure Subscription where
  addr : BitVec 128
  port : Nat
  key : Nat
  /-- Tick at which the lease expires. -/
  expires : Nat
  minMs : Nat
  queue : List Notice
  /-- Notification awaiting its acknowledgement: REQ_ID, frame, last send, sends. -/
  outstanding : Option (BitVec 32 × List Byte × Nat × Nat)
  sent : BitVec 32
  firstSend : Nat
  /-- Last value sent, by key (R334). -/
  last : SMap (List Byte)
deriving DecidableEq, Repr

structure Token where
  path : DopPath
  key : Nat
  op : Nat
  length : Nat
  hash : BitVec 256
  at_ : Nat
deriving DecidableEq, Repr

structure Dop where
  queue : List DopReq := []
  kept : List Kept := []
  captures : List Capture := []
  segs : List SegWrite := []
  subs : List Subscription := []
  staged : SMap (List Byte) := []
  pending : List Nat := []
  lastCheck : SMap (BitVec 8) := []
  token : Option Token := none
  challenge : BitVec 64 := 0
  counters : Vector (BitVec 64) 9 := Vector.replicate 9 0
  nodeId : BitVec 8 := 1
  toTimer : BitVec 8 := 0x20
  burstCount : BitVec 8 := 0
  burstTimer : BitVec 8 := 0x80
  plcaStatus : Bool := false
  dad : BitVec 8 := 0
  operators : List (BitVec 128) := []
  slot : BitVec 8 := 0
  /-- Object window (R343). -/
  winReq : List Byte := List.replicate 1040 0
  winRsp : List Byte := List.replicate 1040 0
  doneSeq : BitVec 32 := 0
  overrun : Bool := false
  winBusy : Bool := false
  remote : List RemoteReq := []
  nextTag : BitVec 16 := 0
deriving DecidableEq, Repr

/-! ### PCI Express (R348 to R364) -/

/-- Who reads host memory (R359). -/
inductive HostReader where
  | dma (id : Nat)
  | image
  | restore
  /-- Its requester has gone; what returns is dropped. -/
  | gone
deriving DecidableEq, Repr

structure HostRead where
  tag : Nat
  reader : HostReader
  /-- Destination of its bytes in the store, host bus address, length. -/
  dst : Nat
  bus : Nat
  len : Nat
  data : Option (List Byte) := none
  /-- Tick at which the request left; none while it waits for a tag (R348). -/
  sentAt : Option Nat := none
deriving DecidableEq, Repr

structure Pcie where
  inL0 : Bool := false
  speed : BitVec 8 := 0
  width : BitVec 8 := 0
  flit : Bool := false
  /-- PERST_N is asserted. -/
  perst : Bool := false
  memEnable : Bool := false
  busMaster : Bool := false
  command : BitVec 32 := 0
  bar0 : BitVec 64 := 0
  bar2 : BitVec 64 := 0
  /-- log2 of the BAR2 size. -/
  bar2Log : Nat := 34
  d3 : Bool := false
  maxPayload : Nat := 128
  maxRead : Nat := 512
  devCtl : BitVec 32 := 0x2000
  devCtl2 : BitVec 32 := 0
  msixEnable : Bool := false
  msixMask : Bool := false
  aerUncor : BitVec 32 := 0
  aerUncorMask : BitVec 32 := 0
  aerUncorSev : BitVec 32 := 0x62030
  aerCor : BitVec 32 := 0
  aerCorMask : BitVec 32 := 0x2000
  bar2Base : BitVec 64 := 0
  msix : Vector (BitVec 128) 64 := Vector.replicate 64 (1#128 <<< 96)
  pba : BitVec 64 := 0
  reads : List HostRead := []
  nextTag : Nat := 0
  /-- BAR2 writes held during a warm reset: address, bytes (R419). -/
  heldWrites : List (Nat × List Byte) := []
  fetchAddr : BitVec 64 := 0
  fetchLen : BitVec 64 := 0
  fetchResult : BitVec 8 := 0
  drainRate : BitVec 16 := 100
  linkDowns : BitVec 32 := 0
  corErr : BitVec 64 := 0
  uncorErr : BitVec 64 := 0
  poisonRx : BitVec 64 := 0
  unmapped : BitVec 64 := 0
deriving DecidableEq, Repr

/-! ### Time, clocks, power, boot, lifetime (R365 to R450) -/

/-- A PTP exchange in progress (R368). -/
structure Ptp where
  domain : BitVec 8 := 0
  /-- Offset from the master and mean path delay, in units of 2^-32 ns. -/
  offset : Int := 0
  meanPath : Int := 0
  /-- A path delay to the selected master has been measured. -/
  pathKnown : Bool := false
  gm : BitVec 64 := 0
  master : Option PtpMaster := none
  /-- Clock identity of the selected master's port. -/
  parent : BitVec 64 := 0
  syncSeq : Option (BitVec 16) := none
  /-- Local time of the Sync, less its correction; offset from master to slave before the path delay; in units of 2^-32 ns. -/
  syncAt : Int := 0
  msDiff : Int := 0
  delaySeq : BitVec 16 := 0
  delaySentAt : Option Int := none
  delayInterval : Int := 0
  /-- Tick of the last Announce and its interval in ticks. -/
  announceAt : Option Nat := none
  announceTicks : Nat := 0
  nextDelayReq : Nat := 0
  /-- SYNC_RX, FOLLOWUP_MISSING, DISCARDED, ANNOUNCE_TIMEOUTS (R369). -/
  counters : Vector (BitVec 64) 4 := Vector.replicate 4 0
deriving DecidableEq, Repr

structure TimeBase where
  /-- The time counters of the dies (R365). -/
  counter : Vector (BitVec 96) 2 := Vector.replicate 2 0
  nominal : BitVec 64 := 0x0000000A066A819B
  correction : Vector Int 2 := Vector.replicate 2 0
  mode : BitVec 8 := 0
  state : BitVec 8 := 0
  source : BitVec 8 := 0
  holdoverStart : Option Nat := none
  stepped : Bool := false
  /-- The servo has a correction to go on from, and the tick of its last one (R370). -/
  servoReady : Bool := false
  servoAt : Nat := 0
  ptp : Ptp := {}
deriving DecidableEq, Repr

structure Clock where
  /-- Cycles of the root since power (R390). -/
  tick : Nat := 0
  /-- ACLK cycles of each die (R394). -/
  aclk : Vector Nat 2 := Vector.replicate 2 0
  /-- ACLK slots of each die, withheld ones included. -/
  slots : Vector Nat 2 := Vector.replicate 2 0
  pll : Vector (BitVec 8) 2 := Vector.replicate 2 0
  refPresent : Bool := false
  refLosses : BitVec 32 := 0
  withheld : Vector (BitVec 64) 2 := Vector.replicate 2 0
  refLostAt : Option Nat := none
deriving DecidableEq, Repr

inductive PowerState where
  /-- No start: VIN or PWR_EN missing. -/
  | off
  /-- Rail step 1 to 6 is coming up (R405). -/
  | step (n : Nat)
  | on
  | overvoltage
  | tripped
  | optionFailure
  | testMode
deriving DecidableEq, Repr

inductive QuadState where
  | off | gated | on
deriving DecidableEq, Repr

structure Power where
  vin : Bool := false
  pwrEn : Bool := false
  warmRstN : Bool := true
  state : PowerState := .off
  pwrGood : Bool := false
  modFaultN : Bool := true
  /-- Cause latched for the next RESET_CAUSE (R409, R416). -/
  nextCause : BitVec 8 := 1
  resetCause : BitVec 8 := 0
  vinMv : BitVec 32 := 0
  /-- Samples of the last 10 ms, newest first (R408), and of the last second's peak. -/
  samples : List Nat := []
  peaks : List (Nat × Nat) := []
  limit : BitVec 16 := 3200
  thermal : BitVec 8 := 105
  quadOffEn : Bool := true
  w : Vector (BitVec 8) 2 := Vector.replicate 2 0
  /-- W exceeded 0 in the current powered second (R449). -/
  wSeen : Vector Bool 2 := Vector.replicate 2 false
  /-- Tick of each die's last slow change of W. -/
  wAt : Vector Nat 2 := Vector.replicate 2 0
  temps : Vector (BitVec 16) 92 := Vector.replicate 92 0
  quads : SMap QuadState := []
  pwrEnLowAt : Option Nat := none
deriving DecidableEq, Repr

/-- Kinds of requested reset (R417). -/
inductive ResetKind where
  | warm | management | fabric
deriving DecidableEq, Repr

structure OptionLoad where
  loaded : Bool := false
  words : List (Tri (BitVec 64)) := []
  hash : BitVec 256 := 0
  optWords : BitVec 16 := 0
  repairs : BitVec 32 := 0
  attempts : BitVec 8 := 0
  /-- Tick of load-complete. -/
  loadedAt : Nat := 0
deriving DecidableEq, Repr

structure Boot where
  state : BitVec 8 := 0
  /-- MGMT serves DOP (R380 step 6). -/
  serving : Bool := false
  /-- A management reset is in progress: requests are not answered (R418). -/
  silent : Bool := false
  active : Vector (BitVec 8) 3 := Vector.replicate 3 0
  log : Vector (BitVec 8) 3 := Vector.replicate 3 0
  svn : Vector (BitVec 8) 3 := Vector.replicate 3 0
  measure : Vector (BitVec 256) 3 := Vector.replicate 3 0
  /-- Fuse words as read at boot: key hashes, maintainer hash, floors, revocations (R185, R379). -/
  keyHash : Vector (Tri (BitVec 256)) 4 := Vector.replicate 4 ⟨0, 0, 0⟩
  maintHash : Tri (BitVec 256) := ⟨0, 0, 0⟩
  floors : Vector (Tri (BitVec 64)) 3 := Vector.replicate 3 ⟨0, 0, 0⟩
  revoked : Tri (BitVec 4) := ⟨0, 0, 0⟩
  upComponent : BitVec 8 := 0
  upOffset : BitVec 32 := 0
  upStatus : BitVec 8 := 0
  /-- Dies that have handed over, links that have loaded, in the running activation. -/
  handed : List Nat := []
  linksLoaded : Nat := 0
  /-- When the controller that loads LINK now began its pause (R385). -/
  pauseAt : Nat := 0
  prefBefore : BitVec 8 := 0
  /-- The ACTIVATE request whose response the new image sends (R385). -/
  activateReq : Option DopReq := none
  report : BitVec 5120 := 0
  reportState : BitVec 8 := 0
  reports : Nat := 0
  progHash : BitVec 256 := 0
  progBase : BitVec 64 := 0
  progBytes : BitVec 64 := 0
  progValid : Bool := false
  watchdogAt : Nat := 0
  /-- Requested reset and the tick of its response (R417). -/
  resetReq : Option (ResetKind × Nat) := none
  /-- A warm reset is in its held steps (R419). -/
  resetting : Bool := false
  /-- LINK is loaded into the link controllers (R380 step 5). -/
  linkLoaded : Bool := false
  /-- Channels that retrain after a block reset (R420). -/
  retraining : List Nat := []
deriving DecidableEq, Repr

structure Lifetime where
  /-- Accumulators by byte offset of R448. -/
  acc : SMap (BitVec 32) := []
  poweredS : BitVec 32 := 0
  seq : BitVec 32 := 1
  /-- A save in progress: slot, record bytes with MAGIC still 0. -/
  saving : Option (Nat × List Byte) := none
  /-- Header of the last save (R447). -/
  lastHdr : BitVec 512 := 0
  droops : List Rail := []
  /-- Powered seconds counted since load-complete, and their count at the last save of the timer. -/
  seconds : Nat := 0
  timerAt : Nat := 0
deriving DecidableEq, Repr

/-- The header of a request to host memory: its bus address, whether 64-bit addressing is used, and its attributes, Relaxed Ordering, ID-Based Ordering and No Snoop (R359). -/
structure Tlp where
  addr : Nat
  wide : Bool
  relaxed : Bool := false
  idBased : Bool := false
  noSnoop : Bool := false
deriving DecidableEq, Repr

/-- What the module sends to the outside (log 13). -/
inductive Output where
  | datagram (dst : BitVec 128) (port : Nat) (bytes : List Byte)
  | icmp (dst : BitVec 128) (kind : Nat) (body : List Byte)
  /-- The PAM4 levels of the eight lanes in one frame, in the order of their symbols (R200). -/
  | frame (link : Nat) (lanes : List (List Int))
  | msix (vector : Nat) (addr data : Nat)
  | hostWrite (tlp : Tlp) (bytes : List Byte)
  | hostRead (tag : Nat) (tlp : Tlp) (len : Nat)
  | completion (bytes : List Byte) (poisoned : Bool)
  /-- The answer to a configuration request, or with no value Request Retry Status, of a BAR0 request too (R349, R362). -/
  | configReply (value : Option (BitVec 32))
  /-- An AER message: 0 correctable, 1 non-fatal, 2 fatal (R362). -/
  | errMessage (kind : Nat)
  | pmeToAck
  /-- A Delay_Req: destination, port, domain, sequence number (R368). -/
  | delayReq (dst : BitVec 128) (port : Nat) (domain : BitVec 8) (seq : BitVec 16)
  /-- The module reports itself lost to an endpoint (R186, R294, R306; log 30). -/
  | lostReport (dst : BitVec 16)
deriving DecidableEq, Repr

/-- The state of the module, and the queue of the commands that wait. -/
structure State where
  pending : List Instr := []
  out : List Output := []
  /-- Free values taken so far (log 15). -/
  free : Nat := 0
  /-- Next name of a packet or transfer (the model's own). -/
  ids : Nat := 0
  clk : Clock := {}
  time : TimeBase := {}
  pwr : Power := {}
  opt : OptionLoad := {}
  boot : Boot := {}
  flash : Flash := {}
  dop : Dop := {}
  pcie : Pcie := {}
  run : Run := {}
  fail : Failure := {}
  grp : Groups := {}
  cores : SMap Core := []
  map : CoreMaps := {}
  mem : Memory := {}
  noc : List NocPacket := []
  /-- Cores that stopped on a trap: the ACLK cycle, and the core as it stood before the stop (R66). -/
  trapped : SMap (Nat × Core) := []
  intg : Integrity := {}
  /-- Per physical core counters of R442, at 10 (256 die + p) + i; die counters of R443, at 15 die + i. -/
  coreStats : SMap (BitVec 64) := []
  dieStats : SMap (BitVec 64) := []
  fab : Fabric := {}
  life : Lifetime := {}
  cages : Vector (BitVec 8) 12 := Vector.replicate 12 0
deriving DecidableEq, Repr

/-- The module right after reset: unpowered, every field at its Reset value, no command waiting (log 26). -/
def State.reset : State := {}

end Sys2Proof.Machine
end

