-- ==== Sys2Proof/Machine/Maps.lean ====
section
/-! DEFINITION. Sparse tables, saturating counters, little-endian bytes (R9, R10) and list helpers that every operation of the machine shares. -/
namespace Sys2Proof.Machine

/-- The entry of a sparse table at a key. -/
def mfind {β : Type} : SMap β → Nat → Option β
  | [], _ => none
  | (k', v) :: m, k => if k = k' then some v else mfind m k

/-- The entry of a sparse table, or its default. -/
def mget {β : Type} (d : β) (m : SMap β) (k : Nat) : β := (mfind m k).getD d

/-- A sparse table with one entry replaced, keys rising. -/
def mset {β : Type} : SMap β → Nat → β → SMap β
  | [], k, v => [(k, v)]
  | (k', v') :: m, k, v =>
    if k < k' then (k, v) :: (k', v') :: m
    else if k = k' then (k, v) :: m
    else (k', v') :: mset m k v

/-- A sparse table without one key. -/
def mdel {β : Type} : SMap β → Nat → SMap β
  | [], _ => []
  | (k', v') :: m, k => if k = k' then mdel m k else (k', v') :: mdel m k

/-- An event counter's next value: it saturates at all ones (R10). -/
def satInc {w : Nat} (c : BitVec w) : BitVec w := if c = BitVec.allOnes w then c else c + 1

/-- A counter advanced by `n` events (R10). -/
def satAdd {w : Nat} (c : BitVec w) (n : Nat) : BitVec w :=
  if c.toNat + n < 2 ^ w then BitVec.ofNat w (c.toNat + n) else BitVec.allOnes w

/-- The `n` little-endian bytes of a number (R9). -/
def toLE : (n : Nat) → (v : Nat) → List Byte
  | 0, _ => []
  | n + 1, v => BitVec.ofNat 8 v :: toLE n (v / 256)

/-- The number that little-endian bytes spell (R9). -/
def ofLE : List Byte → Nat
  | [] => 0
  | b :: bs => b.toNat + 256 * ofLE bs

/-- A big-endian reading (RSA octet strings, SHA-256 words, R336). -/
def ofBE (bs : List Byte) : Nat := bs.foldl (fun acc b => 256 * acc + b.toNat) 0

/-- The `n` big-endian bytes of a number. -/
def toBE (n v : Nat) : List Byte := (toLE n v).reverse

/-- The list without its entry at place `i`. -/
def dropAt {α : Type} : List α → Nat → List α
  | [], _ => []
  | _ :: xs, 0 => xs
  | x :: xs, i + 1 => x :: dropAt xs i

/-- The list with its entry at place `i` replaced. -/
def putAt {α : Type} : List α → Nat → α → List α
  | [], _, _ => []
  | _ :: xs, 0, y => y :: xs
  | x :: xs, i + 1, y => x :: putAt xs i y

/-- The first entry that passes a test, with its place. -/
def findAt {α : Type} (p : α → Bool) : List α → Option (Nat × α)
  | [] => none
  | x :: xs => if p x then some (0, x) else (findAt p xs).map (fun (i, y) => (i + 1, y))

/-- ceil(a ÷ b), 0 for b = 0. -/
def ceilDiv (a b : Nat) : Nat := if b = 0 then 0 else (a + b - 1) / b

/-- A quotient rounded to the nearest whole number, ties to even (R7). -/
def divEven (a : Int) (b : Nat) : Int :=
  let q := a / b
  let r := 2 * (a % b)
  if r < b ∨ b = 0 then q else if b < r then q + 1 else if q % 2 = 0 then q else q + 1

/-- A vector entry replaced, unchanged beyond its end. -/
def vset {α : Type} {n : Nat} (v : Vector α n) (i : Nat) (x : α) : Vector α n := v.setIfInBounds i x

/-- A vector entry, or a default beyond its end. -/
def vget {α : Type} {n : Nat} (d : α) (v : Vector α n) (i : Nat) : α := v[i]?.getD d

/-- The field [hi:lo] of a value read as a number. -/
def field {w : Nat} (x : BitVec w) (hi lo : Nat) : Nat := (x.toNat >>> lo) % 2 ^ (hi + 1 - lo)

/-- One bit of a value. -/
def bit {w : Nat} (x : BitVec w) (i : Nat) : Bool := x.getLsbD i

/-- A value with the field [hi:lo] replaced. -/
def setField {w : Nat} (x : BitVec w) (hi lo v : Nat) : BitVec w :=
  let mask := BitVec.ofNat w ((2 ^ (hi + 1 - lo) - 1) * 2 ^ lo)
  (x &&& ~~~mask) ||| (BitVec.ofNat w (v * 2 ^ lo) &&& mask)

/-- Bytes padded with zeros on the right to a length. -/
def padTo (n : Nat) (bs : List Byte) : List Byte := bs ++ List.replicate (n - bs.length) 0

/-- Bytes [off, off + n) of a list, zeros beyond its end. -/
def slice (bs : List Byte) (off n : Nat) : List Byte := padTo n ((bs.drop off).take n)

/-- A list of bytes with the part at an offset replaced; bytes beyond its end are dropped. -/
def splice (bs : List Byte) (off : Nat) (new : List Byte) : List Byte :=
  ((bs.take off) ++ new ++ bs.drop (off + new.length)).take bs.length

/-- The place of a logical core in the core table. -/
def coreKey (c : CoreRef) : Nat := 256 * c.die + c.core

/-- The outcome of a command. -/
abbrev Result : Type := Host.Outcome State Fault Refusal

/-- A command on a unit that exists takes its next state; on a unit that does not exist there is no such event. -/
def whenUnit (exists_ : Bool) (t : State) : Result := if exists_ then .next t else .fault .noSuchUnit

/-- The majority of a critical word's copies, or the first copy when all differ (R185, R186). -/
def Tri.value {α : Type} [DecidableEq α] (t : Tri α) : α := if t.b = t.c then t.b else t.a

/-- All three copies written together (R185). -/
def triple {α : Type} (x : α) : Tri α := ⟨x, x, x⟩

/-- Two copies agree (R186). -/
def Tri.agrees {α : Type} [DecidableEq α] (t : Tri α) : Bool := t.a = t.b || t.b = t.c || t.a = t.c

end Sys2Proof.Machine
end

