-- ==== Sys2Proof/Machine/Numbers.lean ====
section
/-! DEFINITION. Exact values, the element formats of R21 to R24, the conversions of R40 to R43, FP32 and FP64 arithmetic with one rounding (R7). -/
namespace Sys2Proof.Machine

/-- A value: NaN, an infinity, or the exact magnitude `mag` × 2^e with a sign (a zero keeps its sign). -/
inductive Val where
  | nan
  | inf (neg : Bool)
  | fin (neg : Bool) (mag : Nat) (e : Int)
deriving DecidableEq, Repr

/-- +0. -/
def Val.zero : Val := .fin false 0 0

/-- Exact integer value. -/
def Val.ofInt (n : Int) : Val := .fin (decide (n < 0)) n.natAbs 0

/-- The signed numerator of a finite value against the weight 2^e, for e at most its own exponent. -/
def scaleTo (neg : Bool) (mag : Nat) (e e0 : Int) : Int :=
  let n : Int := mag * 2 ^ (e - e0).toNat
  if neg then -n else n

/-- Sign inverted; a NaN stays NaN. -/
def Val.negate : Val → Val
  | .nan => .nan
  | .inf s => .inf (!s)
  | .fin s m e => .fin (!s) m e

/-- Sign cleared. -/
def Val.abs : Val → Val
  | .nan => .nan
  | .inf _ => .inf false
  | .fin _ m e => .fin false m e

/-- Exact sum; infinities of both signs give NaN, an exact zero of unlike signs is +0 (R126). -/
def Val.add : Val → Val → Val
  | .nan, _ => .nan
  | _, .nan => .nan
  | .inf s, .inf t => if s = t then .inf s else .nan
  | .inf s, _ => .inf s
  | _, .inf t => .inf t
  | .fin s m e, .fin t n f =>
    if m = 0 ∧ n = 0 then .fin (s && t) 0 0
    else
      let e0 := min e f
      let x := scaleTo s m e e0 + scaleTo t n f e0
      .fin (decide (x < 0)) x.natAbs e0

/-- Exact product; an infinity times zero gives NaN. -/
def Val.mul : Val → Val → Val
  | .nan, _ => .nan
  | _, .nan => .nan
  | .inf s, .inf t => .inf (s != t)
  | .inf s, .fin t n _ => if n = 0 then .nan else .inf (s != t)
  | .fin s m _, .inf t => if m = 0 then .nan else .inf (s != t)
  | .fin s m e, .fin t n f => .fin (s != t) (m * n) (e + f)

/-- Numerical order with −0 below +0 (R132, R133): true when the first is below the second. -/
def Val.below : Val → Val → Bool
  | .nan, _ => false
  | _, .nan => false
  | .inf s, .inf t => s && !t
  | .inf s, _ => s
  | _, .inf t => !t
  | .fin s m e, .fin t n f =>
    if m = 0 ∧ n = 0 then s && !t
    else
      let e0 := min e f
      decide (scaleTo s m e e0 < scaleTo t n f e0)

/-- Maximum and minimum; NaN when either is NaN (R134). -/
def Val.max (x y : Val) : Val :=
  match x, y with
  | .nan, _ => .nan
  | _, .nan => .nan
  | x, y => if x.below y then y else x
def Val.min (x y : Val) : Val :=
  match x, y with
  | .nan, _ => .nan
  | _, .nan => .nan
  | x, y => if y.below x then y else x

/-- floor(log2) of a positive magnitude × 2^e. -/
def topExp (mag : Nat) (e : Int) : Int := (Nat.log2 mag : Int) + e

/-- mag × 2^e rounded to a multiple of 2^q, ties to even, as that multiple (R7). -/
def roundTo (mag : Nat) (e q : Int) : Nat :=
  if q ≤ e then mag * 2 ^ (e - q).toNat
  else
    let s := (q - e).toNat
    let d := mag / 2 ^ s
    let r := mag % 2 ^ s
    if 2 * r > 2 ^ s ∨ (2 * r = 2 ^ s ∧ d % 2 = 1) then d + 1 else d

/-- A binary format: fraction bits, exponent bits, bias. -/
structure BinFmt where
  mbits : Nat
  ebits : Nat
  bias : Nat
deriving DecidableEq, Repr

def fp32 : BinFmt := ⟨23, 8, 127⟩
def fp16 : BinFmt := ⟨10, 5, 15⟩
def bf16 : BinFmt := ⟨7, 8, 127⟩
def e5m2 : BinFmt := ⟨2, 5, 15⟩
def e4m3 : BinFmt := ⟨3, 4, 7⟩
def e3m2 : BinFmt := ⟨2, 3, 3⟩
def e2m3 : BinFmt := ⟨3, 2, 1⟩
def e2m1 : BinFmt := ⟨1, 2, 1⟩
def fp64 : BinFmt := ⟨52, 11, 1023⟩

/-- Quantum exponent of a format at a positive value: the weight of its last fraction bit there. -/
def quantum (f : BinFmt) (mag : Nat) (e : Int) : Int := max (topExp mag e) (1 - f.bias) - f.mbits

/-- The code, sign apart, of a positive magnitude rounded to a format whose exponent range has no upper bound. -/
def roundCode (f : BinFmt) (mag : Nat) (e : Int) : Nat :=
  if mag = 0 then 0
  else
    let q := quantum f mag e
    let n := roundTo mag e q
    let x := topExp mag e
    if x < 1 - f.bias then n
    else (x + f.bias - 1).toNat * 2 ^ f.mbits + n

/-- The value of a code without special codes. -/
def codeValue (f : BinFmt) (neg : Bool) (code : Nat) : Val :=
  let ex := (code / 2 ^ f.mbits) % 2 ^ f.ebits
  let fr := code % 2 ^ f.mbits
  if ex = 0 then .fin neg fr (1 - f.bias - f.mbits)
  else .fin neg (2 ^ f.mbits + fr) ((ex : Int) - f.bias - f.mbits)

/-- An IEEE 754 code of a format with infinities (R23). -/
def ieeeValue (f : BinFmt) (bits : Nat) : Val :=
  let neg := bits / 2 ^ (f.mbits + f.ebits) % 2 = 1
  let code := bits % 2 ^ (f.mbits + f.ebits)
  if code / 2 ^ f.mbits = 2 ^ f.ebits - 1 then
    (if code % 2 ^ f.mbits = 0 then .inf neg else .nan)
  else codeValue f neg code

/-- A value rounded once to an IEEE 754 format; overflow gives the infinity, NaN the canonical code. -/
def ieeeRound (f : BinFmt) (v : Val) : Nat :=
  let signBit (s : Bool) := if s then 2 ^ (f.mbits + f.ebits) else 0
  let infCode := (2 ^ f.ebits - 1) * 2 ^ f.mbits
  match v with
  | .nan => infCode + 2 ^ (f.mbits - 1)
  | .inf s => signBit s + infCode
  | .fin s m e => signBit s + Nat.min (roundCode f m e) infCode

/-- FP32 code of a value, and the value of an FP32 code (R40, R41). -/
def toF32 (v : Val) : BitVec 32 := BitVec.ofNat 32 (ieeeRound fp32 v)
def ofF32 (x : BitVec 32) : Val := ieeeValue fp32 x.toNat

/-- FP64 code of a value with the canonical NaN 0x7FF8_0000_0000_0000, and back (R114). -/
def toF64 (v : Val) : BitVec 64 := BitVec.ofNat 64 (ieeeRound fp64 v)
def ofF64 (x : BitVec 64) : Val := ieeeValue fp64 x.toNat

/-- FP64 sum, difference and product, each one operation rounded to nearest, ties to even (R114). -/
def f64add (a b : BitVec 64) : BitVec 64 := toF64 ((ofF64 a).add (ofF64 b))
def f64sub (a b : BitVec 64) : BitVec 64 := toF64 ((ofF64 a).add (ofF64 b).negate)
def f64mul (a b : BitVec 64) : BitVec 64 := toF64 ((ofF64 a).mul (ofF64 b))

/-- n ÷ d × 2^e for positive n and d to at least `bits` bits, with a sticky last bit: it rounds as the exact quotient to any format of fewer bits. -/
def quotient (bits n d : Nat) (e : Int) : Nat × Int :=
  let k := bits + 2 + Nat.log2 d - Nat.log2 n
  let q := n * 2 ^ k / d
  let sticky := if n * 2 ^ k % d = 0 then 0 else 1
  (2 * q + sticky, e - k - 1)

/-- Exact quotient of two values up to rounding to fewer than 160 bits. -/
def Val.div : Val → Val → Val
  | .nan, _ => .nan
  | _, .nan => .nan
  | .inf _, .inf _ => .nan
  | .inf s, .fin t _ _ => .inf (s != t)
  | .fin s _ _, .inf t => .fin (s != t) 0 0
  | .fin s m e, .fin t n f =>
    if n = 0 then (if m = 0 then .nan else .inf (s != t))
    else if m = 0 then .fin (s != t) 0 0
    else
      let (q, k) := quotient 160 m n (e - f)
      .fin (s != t) q k

def f64div (a b : BitVec 64) : BitVec 64 := toF64 ((ofF64 a).div (ofF64 b))

/-- Integer square root by digits: the largest r with r² ≤ n, for n below 4^fuel. -/
def isqrt : (fuel : Nat) → (n : Nat) → Nat
  | 0, _ => 0
  | fuel + 1, n =>
    let r := 2 * isqrt fuel (n / 4)
    if (r + 1) * (r + 1) ≤ n then r + 1 else r

/-- Square root of a positive magnitude × 2^e, with a sticky last bit, to at least 160 bits. -/
def sqrtVal (mag : Nat) (e : Int) : Nat × Int :=
  let k : Nat := 2 * (170 - Nat.log2 mag / 2) + (if e % 2 = 0 then 0 else 1)
  let n := mag * 2 ^ k
  let r := isqrt (Nat.log2 n / 2 + 1) n
  let sticky := if r * r = n then 0 else 1
  (2 * r + sticky, (e - k) / 2 - 1)

/-! ### Element formats by code (R21, R53) -/

/-- Width in bits of a format code. -/
def fmtWidth (fmt : Nat) : Nat :=
  match fmt with
  | 0 => 32 | 1 => 16 | 2 => 16 | 3 => 8 | 4 => 8 | 5 => 6 | 6 => 6 | 7 => 4 | _ => 8

/-- The binary layout of a floating-point format code. -/
def fmtBin (fmt : Nat) : BinFmt :=
  match fmt with
  | 0 => fp32 | 1 => fp16 | 2 => bf16 | 3 => e5m2 | 4 => e4m3 | 5 => e3m2 | 6 => e2m3 | _ => e2m1

/-- Bytes of `n` packed elements (R22). -/
def packedBytes (fmt n : Nat) : Nat :=
  match fmt with
  | 7 => ceilDiv n 2
  | 5 => 3 * ceilDiv n 4
  | 6 => 3 * ceilDiv n 4
  | f => n * (fmtWidth f / 8)

/-- Bits of element `i` in packed bytes (R22). -/
def unpackElem (fmt : Nat) (bs : List Byte) (i : Nat) : Nat :=
  match fmt with
  | 7 => ofLE (slice bs (i / 2) 1) / 16 ^ (i % 2) % 16
  | 5 => ofLE (slice bs (3 * (i / 4)) 3) / 64 ^ (i % 4) % 64
  | 6 => ofLE (slice bs (3 * (i / 4)) 3) / 64 ^ (i % 4) % 64
  | f => ofLE (slice bs (i * (fmtWidth f / 8)) (fmtWidth f / 8))

/-- Packed bytes of element codes (R22). -/
def packElems (fmt : Nat) (codes : List Nat) : List Byte :=
  match fmt with
  | 7 => (List.range (ceilDiv codes.length 2)).map
      (fun i => BitVec.ofNat 8 (codes.getD (2 * i) 0 + 16 * codes.getD (2 * i + 1) 0))
  | 5 => (List.range (ceilDiv codes.length 4)).flatMap
      (fun i => toLE 3 ((List.range 4).foldl (fun acc j => acc + codes.getD (4 * i + j) 0 * 64 ^ j) 0))
  | 6 => (List.range (ceilDiv codes.length 4)).flatMap
      (fun i => toLE 3 ((List.range 4).foldl (fun acc j => acc + codes.getD (4 * i + j) 0 * 64 ^ j) 0))
  | f => codes.flatMap (fun c => toLE (fmtWidth f / 8) c)

/-- The value of an element code, INT8 as an integer (R23, R27). -/
def elemValue (fmt bits : Nat) : Val :=
  match fmt with
  | 0 => ieeeValue fp32 bits
  | 1 => ieeeValue fp16 bits
  | 2 => ieeeValue bf16 bits
  | 3 => ieeeValue e5m2 bits
  | 4 => if bits % 128 = 127 then .nan else codeValue e4m3 (decide (bits / 128 % 2 = 1)) (bits % 128)
  | 5 => codeValue e3m2 (decide (bits / 32 % 2 = 1)) (bits % 32)
  | 6 => codeValue e2m3 (decide (bits / 32 % 2 = 1)) (bits % 32)
  | 7 => codeValue e2m1 (decide (bits / 8 % 2 = 1)) (bits % 8)
  | _ => Val.ofInt (BitVec.ofNat 8 bits).toInt

/-- Format offset O of R33 (largest unbiased exponent of a finite element). -/
def fmtOffset (fmt : Nat) : Int :=
  match fmt with
  | 0 => 127 | 1 => 15 | 2 => 127 | 3 => 15 | 4 => 8 | 5 => 4 | 6 => 2 | 7 => 2 | _ => 1

/-- Code of the largest finite magnitude of a floating-point target (R41). -/
def fmtMaxCode (fmt : Nat) : Nat :=
  match fmt with
  | 0 => 0x7F7FFFFF | 1 => 0x7BFF | 2 => 0x7F7F | 3 => 0x7B | 4 => 0x7E | 5 => 0x1F | 6 => 0x1F | _ => 0x7

/-- Sign bit weight of a floating-point code. -/
def fmtSign (fmt : Nat) : Nat := 2 ^ (fmtWidth fmt - 1)

/-- Code of a NaN source (R41, R42). -/
def fmtNan (fmt : Nat) : Nat :=
  match fmt with
  | 0 => 0x7FC00000 | 1 => 0x7E00 | 2 => 0x7FC0 | 3 => 0x7E | 4 => 0x7F | _ => 0

/-- Code of an overflow or infinity (R41). -/
def fmtOver (fmt : Nat) (sat neg : Bool) : Nat :=
  let s := if neg then fmtSign fmt else 0
  match fmt with
  | 0 => s + 0x7F800000
  | 1 => s + 0x7C00
  | 2 => s + 0x7F80
  | 3 => if sat then s + 0x7B else s + 0x7C
  | 4 => if sat then s + 0x7E else 0x7F
  | 8 => if neg then 0x80 else 0x7F
  | f => s + fmtMaxCode f

/-- Conversion of an exact value to a format code, and whether a finite value overflowed (R40 to R42). A source of exactly -0 gives the zero code of its own sign where the format has a signed zero: R40 speaks of non-zero sources that round to zero and of an LA value of zero (DESIGN CHOICE, log 122). -/
def convert (fmt : Nat) (sat : Bool) (v : Val) : Nat × Bool :=
  match v with
  | .nan => (fmtNan fmt, false)
  | .inf s => (fmtOver fmt sat s, false)
  | .fin s m e =>
    if fmt = 8 then
      let n := roundTo m e 0
      if s then (if n > 128 then (0x80, true) else ((256 - n) % 256, false))
      else (if n > 127 then (0x7F, true) else (n, false))
    else
      let c := roundCode (fmtBin fmt) m e
      if c > fmtMaxCode fmt then (fmtOver fmt sat s, true)
      else if c = 0 ∧ 5 ≤ fmt then (0, false)
      else ((if s then fmtSign fmt else 0) + c, false)

/-- A value times 2^k. -/
def Val.shift (v : Val) (k : Int) : Val :=
  match v with
  | .fin s m e => .fin s m (e + k)
  | v => v

/-- A value is NaN or infinite. -/
def Val.nonFinite : Val → Bool
  | .fin _ _ _ => false
  | _ => true

/-- Scale code of an output block (R43): 0xFF with a NaN or infinity, 0x7F with zeros only, else (X − O) + 127 clamped. -/
def outScale (fmt : Nat) (block : List Val) : Nat :=
  if block.any Val.nonFinite then 0xFF
  else
    let tops := block.filterMap (fun v => match v with
      | .fin _ m e => if m = 0 then none else some (topExp m e)
      | _ => none)
    match tops with
    | [] => 0x7F
    | x :: xs =>
      let big := xs.foldl max x
      let o : Int := if fmt = 8 then 0 else fmtOffset fmt
      (min 0xFE (max 0 (big - o + 127))).toNat

/-- One element of a scaled output block (R43), and whether it overflowed. -/
def scaledCode (fmt scale : Nat) (v : Val) : Nat × Bool :=
  if scale = 0xFF then (0, false)
  else
    let y := v.shift (127 - (scale : Int) + (if fmt = 8 then 6 else 0))
    match y with
    | .fin s m e =>
      if fmt = 8 then convert 8 true y
      else
        let c := roundCode (fmtBin fmt) m e
        if c > fmtMaxCode fmt then ((if s then fmtSign fmt else 0) + fmtMaxCode fmt, true)
        else convert fmt true y
    | _ => (0, false)

end Sys2Proof.Machine
end

