-- ==== Sys2Proof/Machine/Accum.lean ====
section
/-! DEFINITION. The long accumulator (R102 to R108), compensated pairs (R113, R114), sums of squares (R120), and the Welford state of R121. -/
namespace Sys2Proof.Machine

/-- Σ PEND_j × 2^(64j) of an entry (R103). -/
def laPendSum (x : LA) : Int :=
  (List.range 9).foldl (fun acc j => acc + (vget 0 x.pend j).toInt * 2 ^ (64 * (j + 1))) 0

/-- The exact value V of an entry in units of 2^-352 (R103). -/
def laValue (x : LA) : Int := x.guard.toInt * 2 ^ 640 + x.val.toNat + laPendSum x

/-- The resolved form of a value: limbs, GUARD, no pending carry (R105). -/
def laResolved (x : LA) : LA :=
  let v := laValue x
  { x with
    val := BitVec.ofInt 640 v
    guard := BitVec.ofInt 32 (v / 2 ^ 640)
    pend := Vector.replicate 9 0 }

/-- The judgement after every update: a resolved GUARD outside 32 bits sets GOVF and GSIGN (R106). -/
def laJudge (x : LA) : LA :=
  let g := laValue x / 2 ^ 640
  if g < -2 ^ 31 ∨ 2 ^ 31 ≤ g then { x with govf := true, gsign := decide (laValue x < 0) } else x

/-- The limbs that hold bits lo to hi of an addend, with the carry out of the highest one (R104). -/
def laAddAt (x : LA) (a : Int) (lo hi : Nat) : BitVec 640 × Nat × Int :=
  let j := lo / 64
  let k := hi / 64
  let w := 64 * (k + 1 - j)
  let seg : Int := (x.val.toNat / 2 ^ (64 * j) % 2 ^ w : Nat)
  let sum := seg + a / 2 ^ (64 * j)
  let new := (sum % 2 ^ w).toNat
  (setField x.val (64 * (k + 1) - 1) (64 * j) new, k, sum / 2 ^ w)

/-- An addend `a` in units of 2^-352 whose bits lie from lo to hi is added into an entry; the pending carries are resolved first where a PEND field, or GUARD, could not hold its sum (R104 to R106). -/
def laUpdate (x : LA) (a : Int) (lo hi : Nat) : LA :=
  if x.govf then x
  else
    let place (x : LA) : LA × Bool :=
      let (v, k, carry) := laAddAt x a lo hi
      if 9 ≤ k then
        let g := x.guard.toInt + carry
        ({ x with val := v, guard := BitVec.ofInt 32 g }, decide (-2 ^ 31 ≤ g ∧ g < 2 ^ 31))
      else
        let p := (vget 0 x.pend k).toInt + carry
        ({ x with val := v, pend := vset x.pend k (BitVec.ofInt 4 p) }, decide (-8 ≤ p ∧ p ≤ 7))
    let (y, fits) := place x
    let y := if fits then y else (place (laResolved x)).1
    -- GUARD is judged on the exact value (R106)
    let v := laValue x + a
    let g := v / 2 ^ 640
    if g < -2 ^ 31 ∨ 2 ^ 31 ≤ g then { y with govf := true, gsign := decide (v < 0) } else y

/-- A slice sum C × 2^(R − 118) is added with its least significant bit at LA bit R + 234 (R104). -/
def laAddSlice (x : LA) (c : Int) (r : Int) : LA :=
  let p := r + 234
  let a := if 0 ≤ p then c * 2 ^ p.toNat else c / 2 ^ (-p).toNat
  laUpdate x a (max p 0).toNat (min (p + 127) 639).toNat

/-- A contribution's flags reach the entry (R38, R106: also after GOVF). -/
def laFlags (x : LA) (nan pinf ninf : Bool) : LA :=
  { x with nan := x.nan || nan, pinf := x.pinf || pinf, ninf := x.ninf || ninf }

/-- A full-width exact addition (R116, R120). -/
def laAddExact (x : LA) (a : Int) : LA :=
  if x.govf then x
  else
    let v := laValue x + a
    laJudge { x with
      val := BitVec.ofInt 640 v
      guard := BitVec.ofInt 32 (v / 2 ^ 640)
      pend := Vector.replicate 9 0
      govf := decide (v / 2 ^ 640 < -2 ^ 31 ∨ 2 ^ 31 ≤ v / 2 ^ 640)
      gsign := decide (v < 0) && decide (v / 2 ^ 640 < -2 ^ 31) }

/-- A finite addend of `m` × 2^e, a multiple of 2^-352, added like a slice sum: into the limbs of the 128 bits from its lowest one on (R108). -/
def laAddFinite (x : LA) (neg : Bool) (m : Nat) (e : Int) : LA :=
  let p := e + 352
  let a : Int := if 0 ≤ p then (m : Int) * 2 ^ p.toNat else (m : Int) / 2 ^ (-p).toNat
  let lo := Nat.min p.toNat 639
  laUpdate x (if neg then -a else a) lo (Nat.min (lo + 127) 639)

/-- An FP64 value added into an entry, and whether rounding to the grid changed it (R108). -/
def laAddF64 (x : LA) (d : BitVec 64) : LA × Bool :=
  match ofF64 d with
  | .nan => ({ x with nan := true }, false)
  | .inf s => (laFlags x false (!s) s, false)
  | .fin s m e =>
    if -352 ≤ e then (laAddFinite x s m e, false)
    else (laAddFinite x s (roundTo m e (-352)) (-352), decide (m % 2 ^ (-352 - e).toNat ≠ 0))

/-- In range: the value fits 640-bit two's complement (R103). -/
def laInRange (v : Int) : Bool := decide (-2 ^ 639 ≤ v ∧ v < 2 ^ 639)

/-- The value an entry converts as at a drain, and whether it was saturated (R107). -/
def laDrain (x : LA) : Val × Bool :=
  let v := laValue x
  if x.nan ∨ (x.pinf ∧ x.ninf) then (.nan, false)
  else if x.pinf then (.inf false, false)
  else if x.ninf then (.inf true, false)
  else if x.govf then (.inf x.gsign, true)
  else if laInRange v then (.fin (decide (v < 0)) v.natAbs (-352), false)
  else (.inf (decide (v < 0)), true)

/-- An exact value in units of 2^-352 as an FP64 pair: hi rounded, lo the rounded rest (R113). -/
def pairOf (v : Int) : BitVec 64 × BitVec 64 :=
  let hi := toF64 (.fin (decide (v < 0)) v.natAbs (-352))
  match ofF64 hi with
  | .fin s m e =>
    let rest := (Val.fin (decide (v < 0)) v.natAbs (-352)).add (.fin (!s) m e)
    (hi, toF64 rest)
  | _ => (hi, 0)

/-- Canonical FP64 NaN and the infinities. -/
def f64Nan : BitVec 64 := 0x7FF8000000000000
def f64Inf (neg : Bool) : BitVec 64 := if neg then 0xFFF0000000000000 else 0x7FF0000000000000

/-- An entry as an FP64 pair (R113). -/
def laPair (x : LA) : BitVec 64 × BitVec 64 :=
  if x.nan ∨ (x.pinf ∧ x.ninf) then (f64Nan, 0)
  else if x.pinf then (f64Inf false, 0)
  else if x.ninf then (f64Inf true, 0)
  else if x.govf then (f64Inf x.gsign, 0)
  else pairOf (laValue x)

/-- two_sum of R114. -/
def twoSum (a b : BitVec 64) : BitVec 64 × BitVec 64 :=
  let s := f64add a b
  let v := f64sub s a
  (s, f64add (f64sub a (f64sub s v)) (f64sub b v))

/-- fast_two_sum of R114. -/
def fastTwoSum (a b : BitVec 64) : BitVec 64 × BitVec 64 :=
  let s := f64add a b
  (s, f64sub b (f64sub s a))

/-- combine of R114: x incoming, y own. -/
def combinePair (xh xl yh yl : BitVec 64) : BitVec 64 × BitVec 64 :=
  if (ofF64 xh).nonFinite ∨ (ofF64 yh).nonFinite then (f64add xh yh, 0)
  else
    let (sh, sl) := twoSum xh yh
    let (th, tl) := twoSum xl yl
    let sl := f64add sl th
    let (sh, sl) := fastTwoSum sh sl
    let sl := f64add sl tl
    fastTwoSum sh sl

/-- An entry in the exact form: its 640 bits and the flag byte (R116, R117). -/
def laExact (x : LA) : BitVec 640 × BitVec 8 :=
  let v := laValue x
  let clean := !x.nan && !x.pinf && !x.ninf && !x.govf && laInRange v
  if clean then (BitVec.ofInt 640 v, 0)
  else if x.nan ∨ (x.pinf ∧ x.ninf) then (0, 1)
  else
    let neg := if x.pinf then false else if x.ninf then true else if x.govf then x.gsign else decide (v < 0)
    (0, if neg then 4 else 2)

/-- The flag byte of an entry: a guard overflow is the infinity of its sign (R116). -/
def laFlagByte (x : LA) : BitVec 8 :=
  (if x.nan then 1 else 0) ||| (if x.pinf || (x.govf && !x.gsign) then 2 else 0) ||| (if x.ninf || (x.govf && x.gsign) then 4 else 0)

/-- An exact element received is added into an entry as a full-width update, its flags ORed (R116). -/
def laMergeExact (x : LA) (v : Int) (flags : BitVec 8) : LA :=
  laFlags (laAddExact x v) (bit flags 0) (bit flags 1) (bit flags 2)

/-- A value's square added exactly; non-finite values set their flags (R120). -/
def laAddSquare (x : LA) (v : Val) : LA :=
  match v with
  | .nan => { x with nan := true }
  | .inf _ => { x with pinf := true }
  | .fin _ m e =>
    laAddFinite x false (m * m) (2 * e)

/-- The state of the one-pass mean and variance (R121); `bad`: an element was NaN or infinite. -/
structure Welford where
  n : Nat := 0
  bad : Bool := false
  mh : BitVec 64 := 0
  ml : BitVec 64 := 0
  qh : BitVec 64 := 0
  ql : BitVec 64 := 0
deriving DecidableEq, Repr

/-- welford_step of R121. -/
def welfordStep (s : Welford) (x : BitVec 64) : Welford :=
  let n := s.n + 1
  let nf := toF64 (Val.ofInt n)
  let d := f64sub (f64sub x s.mh) s.ml
  let (mh, ml) := combinePair s.mh s.ml (f64div d nf) 0
  let e := f64sub (f64sub x mh) ml
  let (qh, ql) := combinePair s.qh s.ql (f64mul d e) 0
  { s with n := n, mh := mh, ml := ml, qh := qh, ql := ql }

/-- One element of the set: its value converts to FP64 exactly; a masked one is skipped (R121). -/
def welfordElem (s : Welford) (masked : Bool) (v : Val) : Welford :=
  if masked then s else if v.nonFinite then { s with n := s.n + 1, bad := true } else welfordStep s (toF64 v)

/-- A mean and variance over a set of elements in ascending order (R121). -/
def welfordOf (xs : List (Bool × Val)) : Welford := xs.foldl (fun s x => welfordElem s x.1 x.2) {}

/-- welford_merge of R121. -/
def welfordMerge (a b : Welford) : Welford :=
  if b.n = 0 then a
  else if a.n = 0 then b
  else if a.bad || b.bad then { n := a.n + b.n, bad := true }
  else
    let n := a.n + b.n
    let f (k : Nat) := toF64 (Val.ofInt k)
    let d := f64add (f64sub b.mh a.mh) (f64sub b.ml a.ml)
    let (mh, ml) := combinePair a.mh a.ml (f64div (f64mul d (f b.n)) (f n)) 0
    let (qh, ql) := combinePair a.qh a.ql b.qh b.ql
    let (qh, ql) := combinePair qh ql (f64mul (f64mul d d) (f64div (f64mul (f a.n) (f b.n)) (f n))) 0
    ⟨n, false, mh, ml, qh, ql⟩

/-- An FP64 pair as one exact value. -/
def pairVal (hi lo : BitVec 64) : Val := if (ofF64 hi).nonFinite then ofF64 hi else (ofF64 hi).add (ofF64 lo)

/-- The mean, as the value that is rounded once to the output format (R121). -/
def welfordMean (s : Welford) : Val := if s.bad then .nan else pairVal s.mh s.ml

/-- The population variance, as the FP64 value that is converted to the output format by R40 (R121). -/
def welfordVar (s : Welford) : Val :=
  if s.bad then .nan else if s.n ≤ 1 then .zero else ofF64 (toF64 ((pairVal s.qh s.ql).div (Val.ofInt s.n)))

/-- Mean and variance in an output format (R121). -/
def welfordOut (fmt : Nat) (sat : Bool) (s : Welford) : Nat × Nat :=
  ((convert fmt sat (welfordMean s)).1, (convert fmt sat (welfordVar s)).1)

end Sys2Proof.Machine
end

