-- ==== Sys2Proof/WellFormed.lean ====
section
/-! DEFINITION. When a command names units that the module has (sizes of R14). A command that names another unit cannot occur on the hardware. -/
namespace Sys2Proof

/-- Dies are 0 and 1 (DIES of R14). -/
def dieOk (die : Nat) : Bool := decide (die < Config.dies)
/-- Physical cores of a die (PHYS_CORES_PER_DIE of R14). -/
def physOk (phys : Nat) : Bool := decide (phys < Config.physCores)
/-- SPM banks of a core are 0 to 31 (R145). -/
def bankOk (bank : Nat) : Bool := decide (bank < 32)
/-- Memory controllers: tier 1 stacks 0 to 11, tier 2 controllers 16 to 23, two channels each (R149 to R150). -/
def controllerOk (ctrl : Nat) : Bool :=
  decide (ctrl < Config.dies * Config.stacksPerDie) || (decide (16 ≤ ctrl) && decide (ctrl < 16 + Config.dies * Config.channelsPerDie / 2))
/-- Links of the module (LINKS_PER_DIE of R14). -/
def linkOk (l : Nat) : Bool := decide (l < Config.dies * Config.linksPerDie)
/-- Ports (MAX_PORTS of R14). -/
def portOk (port : Nat) : Bool := decide (port < Config.maxPorts)
/-- Fabric cages (R432). -/
def cageOk (cage : Nat) : Bool := decide (cage < 12)
/-- DMA channels of a core (DMA_PER_CORE of R14). -/
def dmaChannelOk (ch : Nat) : Bool := decide (ch < Config.dmaChannels)
/-- Combining slots of a router (R263). -/
def slotOk (slot : Nat) : Bool := decide (slot < Config.combiningSlots)
/-- Memory channels by the codes of the channel reset: 0 to 11 a tier 1 stack, 16 + c tier 2 channel c (R420). -/
def channelCodeOk (ch : Nat) : Bool :=
  decide (ch < Config.dies * Config.stacksPerDie) || (decide (16 ≤ ch) && decide (ch < 16 + Config.dies * Config.channelsPerDie))

/-- A logical core of the module. -/
def CoreRef.wf (c : CoreRef) : Bool := dieOk c.die && decide (c.core < Config.logicalCores)
/-- A thread of a logical core. -/
def ThreadRef.wf (t : ThreadRef) : Bool := dieOk t.die && decide (t.core < Config.logicalCores) && decide (t.thread < Config.threads)

/-- The command names only units of the module. -/
def Instr.wf : Instr → Bool
  | .nop th _ => th.wf
  | .add th _ => th.wf
  | .sub th _ => th.wf
  | .and th _ => th.wf
  | .or th _ => th.wf
  | .xor th _ => th.wf
  | .shl th _ => th.wf
  | .shr th _ => th.wf
  | .sra th _ => th.wf
  | .mul th _ => th.wf
  | .mulhu th _ => th.wf
  | .mulh th _ => th.wf
  | .min th _ => th.wf
  | .max th _ => th.wf
  | .slt th _ => th.wf
  | .sltu th _ => th.wf
  | .addi th _ => th.wf
  | .andi th _ => th.wf
  | .ori th _ => th.wf
  | .xori th _ => th.wf
  | .shli th _ => th.wf
  | .shri th _ => th.wf
  | .srai th _ => th.wf
  | .li th _ => th.wf
  | .lui th _ => th.wf
  | .seq th _ => th.wf
  | .ld th _ => th.wf
  | .ldU th _ => th.wf
  | .st th _ _ => th.wf
  | .cacheDrop th _ => th.wf
  | .rdspec th _ => th.wf
  | .loadReturn c _ _ => c.wf
  | .br th _ => th.wf
  | .beq th _ => th.wf
  | .bne th _ => th.wf
  | .blt th _ => th.wf
  | .bge th _ => th.wf
  | .bltu th _ => th.wf
  | .bgeu th _ => th.wf
  | .call th _ => th.wf
  | .jr th _ => th.wf
  | .texit th _ => th.wf
  | .brk th _ => th.wf
  | .illegalInstruction th _ => th.wf
  | .mxaFill th _ _ => th.wf
  | .mxaRun th _ _ => th.wf
  | .mxaDrain th _ _ => th.wf
  | .acsAlloc th _ => th.wf
  | .acsAllocGrant th _ => th.wf
  | .acsFree th _ => th.wf
  | .acsRowsRelease c _ => c.wf
  | .mxaSync th _ => th.wf
  | .mxaSyncWake th => th.wf
  | .fillBegin c _ => c.wf
  | .fillComplete c => c.wf
  | .runBegin c _ => c.wf
  | .runComplete c => c.wf
  | .drainBegin c _ => c.wf
  | .drainComplete c => c.wf
  | .vadd th _ => th.wf
  | .vsub th _ => th.wf
  | .vmul th _ => th.wf
  | .vfma th _ => th.wf
  | .vmax th _ => th.wf
  | .vmin th _ => th.wf
  | .vabs th _ => th.wf
  | .vneg th _ => th.wf
  | .vcvt th _ => th.wf
  | .vexp th _ => th.wf
  | .vlog th _ => th.wf
  | .vrcp th _ => th.wf
  | .vrsqrt th _ => th.wf
  | .vtanh th _ => th.wf
  | .vsigmoid th _ => th.wf
  | .vectorBegin c _ => c.wf
  | .vectorComplete c => c.wf
  | .dmaPush th _ _ => th.wf
  | .dmaStat th _ => th.wf
  | .dmaDescriptorBegin c ch _ => c.wf && dmaChannelOk ch
  | .dmaDescriptorComplete c ch => c.wf && dmaChannelOk ch
  | .fenceLocal th _ => th.wf
  | .fenceLocalWake th => th.wf
  | .waitflag th _ _ => th.wf
  | .waitflagRetest th _ => th.wf
  | .waitflagTimeout th => th.wf
  | .ksel th _ => th.wf
  | .setep th _ => th.wf
  | .aadd th _ => th.wf
  | .amax th _ => th.wf
  | .amin th _ => th.wf
  | .axchg th _ => th.wf
  | .acas th _ => th.wf
  | .colStart th _ _ => th.wf
  | .bar th _ => th.wf
  | .sred th _ => th.wf
  | .colWait th _ => th.wf
  | .glideReleaseWake c _ _ => c.wf
  | .collectiveComplete c _ _ => c.wf
  | .kernelBoundary c => c.wf
  | .kernelDescriptorArrive c _ => c.wf
  | .gateRelease c => c.wf
  | .spmRemoteWriteArrive _ _ => true
  | .spmMergeRetire die phys bank _ => dieOk die && physOk phys && bankOk bank
  | .tierMergeRetire ctrl _ => controllerOk ctrl
  | .hrcMissFill c _ _ => c.wf
  | .cacheDropComplete c _ => c.wf
  | .resurfacerTierRead _ => true
  | .resurfacerSpmRead _ => true
  | .bucketLeakTick => true
  | .linkPeerSignal l => linkOk l
  | .linkPeerSignalLost l => linkOk l
  | .linkRxLock l scr lanes => linkOk l && decide (scr.length = 8 ∧ lanes.length = 8)
  | .frameReceive l _ => linkOk l
  | .frameTransmit l => linkOk l
  | .scheduleWindowStart => true
  | .linkRetrain l => linkOk l
  | .linkTrainingTimeout l => linkOk l
  | .controlPacketRoute die _ => dieOk die
  | .dataPacketRoute die _ => dieOk die
  | .multicastForward die => dieOk die
  | .writePacket die _ => dieOk die
  | .reducePacket die _ => dieOk die
  | .combiningSlotFlush die slot => dieOk die && slotOk slot
  | .chainPacket die _ => dieOk die
  | .finalWrite die _ => dieOk die
  | .finalWriteRelease _ _ => true
  | .glideBarrier die => dieOk die
  | .glideSred die => dieOk die
  | .collCtrlSig die => dieOk die
  | .collCtrlAbort die => dieOk die
  | .collCtrlDone die => dieOk die
  | .objReq die => dieOk die
  | .objRsp die => dieOk die
  | .pisteUpdateWriteEntry die => dieOk die
  | .pisteUpdateSetEpoch die => dieOk die
  | .pisteUpdateSetId die => dieOk die
  | .timeSync die => dieOk die
  | .timeSyncSend l => linkOk l
  | .unreachable die => dieOk die
  | .pisteFault die => dieOk die
  | .runStateRun _ _ => true
  | .runStateStop _ => true
  | .imageMeasureComplete _ => true
  | .openingLiftRelease => true
  | .openingLiftTimeout => true
  | .liftArrival => true
  | .liftRelease => true
  | .liftTimeoutBeforeArrival => true
  | .liftTimeoutAfterArrival => true
  | .variantReqWrite _ => true
  | .roleEpochResync _ => true
  | .snapshotCheckRelease => true
  | .snapshotCopyDone _ => true
  | .resumeLiftRelease => true
  | .buddyCopyComplete _ => true
  | .hostDrainComplete _ => true
  | .triggerAtWrite _ => true
  | .restoreGo _ => true
  | .restoreComplete _ => true
  | .portDownReportTimer port => portOk port
  | .portReport _ => true
  | .livenessProbeTimeout _ => true
  | .fieldTestStart _ => true
  | .fieldTestEnd die _ => dieOk die
  | .dopRead _ => true
  | .dopReadSnap _ => true
  | .dopReadStaged _ => true
  | .dopWrite _ => true
  | .dopStage _ => true
  | .dopCommit _ => true
  | .dopCommitDiscard _ => true
  | .consistencyGroupApply _ => true
  | .dopSubscribe _ => true
  | .notifyAck _ => true
  | .notifyResend _ => true
  | .notifyValuePoll _ => true
  | .subscriptionExpire _ => true
  | .captureExpire _ => true
  | .segmentWriteTimeout _ => true
  | .keptResponseExpire _ => true
  | .maintTokenWrite _ => true
  | .maintTokenExpire => true
  | .maintKeyWrite _ => true
  | .neighbourSolicitation _ _ => true
  | .echoRequest _ _ => true
  | .dadComplete _ => true
  | .winCtrlGo _ => true
  | .bar0RegisterWrite _ _ _ => true
  | .bar2BaseWrite _ => true
  | .signalWrite _ => true
  | .bar2Write _ _ _ _ => true
  | .bar2Read _ _ _ => true
  | .configRequest _ _ => true
  | .hostReadCompletion _ _ _ => true
  | .pmeTurnOff => true
  | .pcieLinkUp _ _ _ => true
  | .pcieLinkDown => true
  | .perstN _ => true
  | .hotReset => true
  | .linkDisable => true
  | .flr => true
  | .imageFetchGo _ => true
  | .imageFetchComplete => true
  | .resetRequestWarm _ => true
  | .resetRequestMgmt _ => true
  | .resetRequestFabric _ => true
  | .blockResetQuad _ => true
  | .blockResetLink _ => true
  | .blockResetChannel _ => true
  | .counterClearCore _ => true
  | .counterClearDie _ => true
  | .telemetryClear _ => true
  | .saveNow _ => true
  | .lifetimeSaveTimer => true
  | .lifetimeSaveComplete => true
  | .poweredSecondTick => true
  | .railDroopBegin _ => true
  | .railDroopEnd _ _ => true
  | .nonce _ => true
  | .attestationReady => true
  | .raiseFloor _ => true
  | .revoke _ => true
  | .updateComponent _ => true
  | .updateChunk _ => true
  | .updateVerify _ => true
  | .updateVerifyComplete _ => true
  | .activate _ => true
  | .mgmtHandoverComplete die _ => dieOk die
  | .vinOn => true
  | .vinOff => true
  | .vinOvervoltage => true
  | .pwrEnHigh => true
  | .pwrEnLow => true
  | .railStepValid => true
  | .railOutOfBand _ => true
  | .powerSample _ _ _ => true
  | .thermalTrip => true
  | .warmRstNAssert => true
  | .warmResetRelease => true
  | .watchdogExpire => true
  | .pllLock _ _ => true
  | .optionLoadComplete _ => true
  | .bootChainComplete unreadable => unreadable.all (fun k => decide (k < 6))
  | .refLost => true
  | .refReturn => true
  | .refLostTimeout => true
  | .cageInsert cage _ => cageOk cage
  | .cageRemove cage => cageOk cage
  | .cageOvercurrent cage => cageOk cage
  | .ptpSync _ _ _ _ => true
  | .ptpFollowUp _ _ _ => true
  | .ptpDelayResp _ _ _ _ _ => true
  | .ptpAnnounce _ _ _ => true
  | .ptpDelayReqSend => true
  | .ptpAnnounceTimeout => true
  | .fabricMarkTimeout => true
  | .vinOvervoltageClear => true
  | .resetRequestDelayExpire => true
  | .instructionFetchReturn th _ => th.wf
  | .hostReadCompletionTimeout _ => true
  | .linkControllerLoadComplete => true
  | .channelRetrainComplete ch => channelCodeOk ch
  | .plcaBeaconReceived => true
  | .plcaBeaconTimeout => true
  | .remoteObjectRetry _ => true

end Sys2Proof
end

