-- ==== Sys2Proof/Decode.lean ====
section
/-! DEFINITION. The instruction words of the cores (R51, R52): the word of a class, an operation and its fields, the fields of a word, the listed operations; and the decoder of opcode-table words, of which the table has none. -/
namespace Sys2Proof

/-- The instruction word of a class, an operation and its fields (R51). -/
def encodeWord (cls op : Nat) (f : Fields) : BitVec 64 :=
  BitVec.ofNat 64 (cls % 16 * 2 ^ 60 + op % 256 * 2 ^ 52 + f.d.toNat * 2 ^ 47 + f.a.toNat * 2 ^ 42
    + f.b.toNat * 2 ^ 37 + f.fl.toNat * 2 ^ 32 + f.imm.toNat)

/-- CLASS of a word (R51). -/
def wordClass (w : BitVec 64) : Nat := w.toNat / 2 ^ 60
/-- OP of a word (R51). -/
def wordOp (w : BitVec 64) : Nat := w.toNat / 2 ^ 52 % 256
/-- D, A, B, FL and IMM of a word (R51). -/
def wordFields (w : BitVec 64) : Fields where
  d := w.extractLsb' 47 5
  a := w.extractLsb' 42 5
  b := w.extractLsb' 37 5
  fl := w.extractLsb' 32 5
  imm := w.extractLsb' 0 32

/-- The operations that the class tables list (R52, R56 to R63). -/
def opListed (cls op : Nat) : Bool :=
  match cls with
  | 0 => decide (op ≤ 0x19) || decide (0x20 ≤ op ∧ op ≤ 0x23) || decide (op = 0x30)
  | 1 => decide (op ≤ 0x06) || decide (0x08 ≤ op ∧ op ≤ 0x09) || decide (0x10 ≤ op ∧ op ≤ 0x11)
  | 2 => decide (0x01 ≤ op ∧ op ≤ 0x06)
  | 3 => decide (0x01 ≤ op ∧ op ≤ 0x09) || decide (0x10 ≤ op ∧ op ≤ 0x15)
  | 4 => decide (0x01 ≤ op ∧ op ≤ 0x02)
  | 5 => decide (0x01 ≤ op ∧ op ≤ 0x04) || decide (0x10 ≤ op ∧ op ≤ 0x14)
  | 6 => decide (0x01 ≤ op ∧ op ≤ 0x04)
  | _ => false

/-- The registers an operation reads or writes as scalar registers (R48 check 2, R56 to R63): the numbers of its D, A and B fields that it uses. -/
def wordRegs (cls op : Nat) (f : Fields) : List (BitVec 5) :=
  let dab := [f.d, f.a, f.b]
  let da := [f.d, f.a]
  match cls with
  | 0 =>
    if op = 0 then []
    else if op ≤ 0x0F ∨ op = 0x19 then dab
    else if op ≤ 0x16 then da
    else if op = 0x17 ∨ op = 0x18 then [f.d]
    else if op = 0x20 ∨ op = 0x21 then da
    else if op = 0x22 ∨ op = 0x23 then [f.a, f.b]
    else if op = 0x30 then [f.d]
    else []
  | 1 =>
    if 1 ≤ op ∧ op ≤ 6 then [f.a, f.b]
    else if op = 8 then [f.d]
    else if op = 9 then [f.a]
    else []
  | 2 =>
    if 1 ≤ op ∧ op ≤ 3 then [f.a]
    else if op = 4 then [f.d]
    else if op = 5 then [f.a]
    else []
  | 3 => if (1 ≤ op ∧ op ≤ 6) then dab else if opListed 3 op then da else []
  | 4 => if op = 1 then [f.a] else if op = 2 then [f.d] else []
  | 5 =>
    if op = 2 then dab
    else if op = 4 then [f.a]
    else if 0x10 ≤ op ∧ op ≤ 0x14 then dab
    else []
  | 6 =>
    if op = 1 then [f.a]
    else if op = 2 then [f.d]
    else if op = 3 then (if f.fl = 5 then [f.d, f.d + 1, f.a, f.b] else da)
    else if op = 4 then da
    else []
  | _ => []

/-- The command that a word spells by the opcode table's bits: no row of the table gives bits, so none. -/
def decodeTableWord (_nbits _w : Nat) : Option Instr := none

end Sys2Proof
end

