-- ==== Sys2Proof/Machine/Crypto.lean ====
section
/-! DEFINITION. SHA-256, RSASSA-PSS verification (R336, R377), CRC-32 (R225), the Reed-Solomon code of the lanes (R203), the lane scrambler (R204) and the dropout mask generator (R140). -/
namespace Sys2Proof.Machine

/-! ### SHA-256 (FIPS 180-4) -/

/-- The largest r below 2^bits with r^k ≤ n, bit by bit from the top. -/
def rootFloor (k n : Nat) : (bits : Nat) → (found : Nat) → Nat
  | 0, r => r
  | i + 1, r => rootFloor k n i (if (r + 2 ^ i) ^ k ≤ n then r + 2 ^ i else r)

/-- The first 32 bits of the fraction of the k-th root of a number below 2^12. -/
def rootFraction (k p : Nat) : Nat := rootFloor k (p * 2 ^ (32 * k)) 38 0 % 2 ^ 32

/-- The primes below 312: there are 64 of them. -/
def smallPrimes : List Nat :=
  (List.range 312).filter (fun p => decide (2 ≤ p) && (List.range 18).all (fun d => decide (d < 2) || decide (p ≤ d) || decide (p % d ≠ 0)))

/-- Round constants: fractions of the cube roots of the first 64 primes. -/
def shaK : List Nat := smallPrimes.map (rootFraction 3)

/-- The eight working words. -/
structure ShaState where
  a : BitVec 32
  b : BitVec 32
  c : BitVec 32
  d : BitVec 32
  e : BitVec 32
  f : BitVec 32
  g : BitVec 32
  h : BitVec 32
deriving DecidableEq, Repr

/-- The first words: fractions of the square roots of the first eight primes. -/
def shaInit : ShaState :=
  let w (p : Nat) : BitVec 32 := BitVec.ofNat 32 (rootFraction 2 p)
  ⟨w 2, w 3, w 5, w 7, w 11, w 13, w 17, w 19⟩

/-- One round with its schedule word. -/
def shaRound (s : ShaState) (k w : BitVec 32) : ShaState :=
  let s1 := s.e.rotateRight 6 ^^^ s.e.rotateRight 11 ^^^ s.e.rotateRight 25
  let ch := (s.e &&& s.f) ^^^ (~~~s.e &&& s.g)
  let t1 := s.h + s1 + ch + k + w
  let s0 := s.a.rotateRight 2 ^^^ s.a.rotateRight 13 ^^^ s.a.rotateRight 22
  let maj := (s.a &&& s.b) ^^^ (s.a &&& s.c) ^^^ (s.b &&& s.c)
  ⟨t1 + s0 + maj, s.a, s.b, s.c, s.d + t1, s.e, s.f, s.g⟩

/-- Rounds of one block; the list holds the 16 newest schedule words, oldest first. -/
def shaRounds : List Nat → List (BitVec 32) → ShaState → ShaState
  | [], _, s => s
  | k :: ks, w, s =>
    let w0 := w.getD 0 0
    let x := w.getD 1 0
    let y := w.getD 14 0
    let g0 := x.rotateRight 7 ^^^ x.rotateRight 18 ^^^ (x >>> 3)
    let g1 := y.rotateRight 17 ^^^ y.rotateRight 19 ^^^ (y >>> 10)
    shaRounds ks (w.drop 1 ++ [w0 + g0 + w.getD 9 0 + g1]) (shaRound s (BitVec.ofNat 32 k) w0)

/-- One 64-byte block. -/
def shaBlock (s : ShaState) (block : List Byte) : ShaState :=
  let w := (List.range 16).map (fun i => BitVec.ofNat 32 (ofBE (slice block (4 * i) 4)))
  let t := shaRounds shaK w s
  ⟨s.a + t.a, s.b + t.b, s.c + t.c, s.d + t.d, s.e + t.e, s.f + t.f, s.g + t.g, s.h + t.h⟩

/-- The blocks of a padded message, `n` of them. -/
def shaBlocks : (n : Nat) → List Byte → ShaState → ShaState
  | 0, _, s => s
  | n + 1, bs, s => shaBlocks n (bs.drop 64) (shaBlock s (bs.take 64))

/-- SHA-256 as its 32 bytes in the order of the standard. -/
def sha256Bytes (m : List Byte) : List Byte :=
  let zeros := (119 - m.length % 64) % 64
  let padded := m ++ [0x80] ++ List.replicate zeros 0 ++ toBE 8 (8 * m.length)
  let s := shaBlocks (padded.length / 64) padded shaInit
  [s.a, s.b, s.c, s.d, s.e, s.f, s.g, s.h].flatMap (fun x => toBE 4 x.toNat)

/-- SHA-256 as a value whose byte 0 is the digest's first byte (R9). -/
def sha256 (m : List Byte) : BitVec 256 := BitVec.ofNat 256 (ofLE (sha256Bytes m))

/-! ### RSASSA-PSS (PKCS #1 v2.2) with RSA-3072, SHA-256, MGF1 and a 32-byte salt -/

/-- b^e mod n by the bits of e, `fuel` of them. -/
def powMod : (fuel b e n : Nat) → Nat
  | 0, _, _, n => 1 % n
  | fuel + 1, b, e, n =>
    let r := powMod fuel (b * b % n) (e / 2) n
    if e % 2 = 1 then r * b % n else r

/-- MGF1 with SHA-256: the first `len` bytes over `blocks` blocks. -/
def mgf1 (seed : List Byte) (len : Nat) : List Byte :=
  ((List.range (ceilDiv len 32)).flatMap (fun i => sha256Bytes (seed ++ toBE 4 i))).take len

/-- A 388-byte public key: its modulus, most significant byte first, and its exponent (R337). -/
def keyModulus (key : List Byte) : Nat := ofBE (key.take 384)
def keyExponent (key : List Byte) : Nat := ofLE (slice key 384 4)

/-- The signature over `m` verifies under a 388-byte key. -/
def pssVerify (key m sig : List Byte) : Bool :=
  let n := keyModulus key
  let sv := ofBE sig
  let emBits := Nat.log2 n
  let emLen := ceilDiv emBits 8
  let em := toBE emLen (powMod 32 sv (keyExponent key) n)
  let dbLen := emLen - 33
  let masked := em.take dbLen
  let h := slice em dbLen 32
  let top := 8 * emLen - emBits
  let mask := mgf1 h dbLen
  let db := (masked.zip mask).map (fun (a, b) => a ^^^ b)
  let db : List Byte := match db with
    | [] => []
    | x :: xs => BitVec.ofNat 8 (x.toNat % 2 ^ (8 - top)) :: xs
  let padLen := dbLen - 33
  let salt := db.drop (padLen + 1)
  decide (sig.length = 384) && decide (key.length = 388) && decide (3071 ≤ emBits) && decide (sv < n)
    && decide ((em.headD 0).toNat / 2 ^ (8 - top) = 0) && decide (em.getLast? = some 0xBC)
    && (db.take padLen).all (fun (b : Byte) => b.toNat == 0) && ((db.getD padLen 0).toNat == 1)
    && decide (sha256Bytes (List.replicate 8 0 ++ sha256Bytes m ++ salt) = h)

/-! ### CRC-32 (R225) -/

/-- Eight steps of the reflected CRC on a remainder. -/
def crcBits : (n : Nat) → BitVec 32 → BitVec 32
  | 0, r => r
  | n + 1, r => crcBits n (if r.getLsbD 0 then (r >>> 1) ^^^ 0xEDB88320 else r >>> 1)

/-- CRC-32 of IEEE 802.3. -/
def crc32 (bs : List Byte) : BitVec 32 :=
  ~~~(bs.foldl (fun r b => crcBits 8 (r ^^^ b.setWidth 32)) (BitVec.allOnes 32))

/-! ### RS(56, 52) over GF(2^8), field polynomial x^8 + x^4 + x^3 + x^2 + 1 (R203) -/

/-- Product by shifts: `n` bits of the second factor. -/
def gfMulAux : (n : Nat) → Byte → Byte → Byte → Byte
  | 0, _, _, acc => acc
  | n + 1, x, y, acc =>
    gfMulAux n (if x.getLsbD 7 then (x <<< 1) ^^^ 0x1D else x <<< 1) (y >>> 1) (if y.getLsbD 0 then acc ^^^ x else acc)

def gfMul (x y : Byte) : Byte := gfMulAux 8 x y 0

/-- α^n. -/
def gfPow : Nat → Byte
  | 0 => 1
  | n + 1 => gfMul (gfPow n) 2

/-- x^n. -/
def gfExp (x : Byte) : Nat → Byte
  | 0 => 1
  | n + 1 => gfMul (gfExp x n) x

/-- Inverse: x^254. -/
def gfInv (x : Byte) : Byte := gfExp x 254

/-- A codeword's value at a point, highest-order coefficient first. -/
def gfEval (word : List Byte) (x : Byte) : Byte := word.foldl (fun acc b => gfMul acc x ^^^ b) 0

/-- Check bytes of 52 data bytes: the remainder of data × x^4 by (x − 1)(x − α)(x − α²)(x − α³), highest order first. -/
def rsCheck (data : List Byte) : List Byte :=
  let step (r : Byte × Byte × Byte × Byte) (b : Byte) : Byte × Byte × Byte × Byte :=
    let f := b ^^^ r.1
    (r.2.1 ^^^ gfMul f 0x0F, r.2.2.1 ^^^ gfMul f 0x36, r.2.2.2 ^^^ gfMul f 0x78, gfMul f 0x40)
  let (a, b, c, d) := data.foldl step (0, 0, 0, 0)
  [a, b, c, d]

/-- The four syndromes of a codeword. -/
def rsSyndromes (word : List Byte) : List Byte := [gfEval word 1, gfEval word 2, gfEval word 4, gfEval word 8]

/-- The word with an error value added at a place counted from its end. -/
def rsFix (word : List Byte) (place : Nat) (e : Byte) : List Byte :=
  let i := word.length - 1 - place
  putAt word i (word.getD i 0 ^^^ e)

/-- A codeword decoded: the corrected word and the number of corrected symbols, or none when it cannot be corrected (R203). -/
def rsDecode (word : List Byte) : Option (List Byte × Nat) :=
  match rsSyndromes word with
  | [s0, s1, s2, s3] =>
    if s0 = 0 ∧ s1 = 0 ∧ s2 = 0 ∧ s3 = 0 then some (word, 0)
    else
      let ok (w : List Byte) : Bool := (rsSyndromes w).all (fun s => s = 0)
      let single := (List.range word.length).find? (fun p => ok (rsFix word p s0))
      match single with
      | some p => some (rsFix word p s0, 1)
      | none =>
        let det := gfMul s0 s2 ^^^ gfMul s1 s1
        if det = 0 then none
        else
          let inv := gfInv det
          let l1 := gfMul inv (gfMul s0 s3 ^^^ gfMul s1 s2)
          let l2 := gfMul inv (gfMul s1 s3 ^^^ gfMul s2 s2)
          let isRoot (p : Nat) : Bool :=
            let x := gfPow p
            (gfMul x x ^^^ gfMul l1 x ^^^ l2) = 0
          match (List.range word.length).filter isRoot with
          | [p, q] =>
            let xp := gfPow p
            let xq := gfPow q
            let eq := gfMul (s1 ^^^ gfMul s0 xp) (gfInv (xp ^^^ xq))
            let fixed := rsFix (rsFix word p (s0 ^^^ eq)) q eq
            if ok fixed then some (fixed, 2) else none
          | _ => none
  | _ => none

/-! ### Scrambler x^31 + x^28 + 1 (R204) -/

/-- The next `n` bits of the scrambler, first bit least significant, and its state after them; bit 0 of the state is the newest bit. -/
def scrambleBits : (n i : Nat) → BitVec 31 → Nat → Nat × BitVec 31
  | 0, _, s, acc => (acc, s)
  | n + 1, i, s, acc =>
    let b := s.getLsbD 30 != s.getLsbD 27
    scrambleBits n (i + 1) ((s <<< 1) ||| (if b then 1 else 0)) (acc + (if b then 2 ^ i else 0))

/-- Bytes combined with the scrambler's next bits, bit 7 of each byte first (R200), and its state after them. -/
def scramble : List Byte → BitVec 31 → List Byte × BitVec 31
  | [], s => ([], s)
  | b :: bs, s =>
    let (k, s1) := scrambleBits 8 0 s 0
    let (rest, s2) := scramble bs s1
    ((b ^^^ (BitVec.ofNat 8 k).reverse) :: rest, s2)

/-! ### Dropout masks (R139 to R141) -/

/-- Rotation amounts of the eight rounds (R140). -/
def maskRotA : List Nat := [7, 19, 11, 27, 5, 23, 14, 9]
def maskRotB : List Nat := [22, 3, 17, 12, 29, 8, 25, 18]

/-- The four counter words of a mask call. -/
structure MaskWords where
  x0 : BitVec 32
  x1 : BitVec 32
  x2 : BitVec 32
  x3 : BitVec 32
deriving DecidableEq, Repr

/-- Round `i` of a mask call (R140). -/
def maskRound (k0 k1 : BitVec 32) (x : MaskWords) (i : Nat) : MaskWords :=
  let w := BitVec.ofNat 32 (i * 0x9e3779b9)
  let x0 := x.x0 + (k0 + w)
  let x2 := x.x2 + (k1 ^^^ w.rotateLeft 11)
  let x1 := (x.x1 ^^^ x0).rotateLeft (maskRotA.getD i 0)
  let x3 := (x.x3 ^^^ x2).rotateLeft (maskRotB.getD i 0)
  ⟨x1, x2 + x1, x3, x0 + x3⟩

/-- One call of the mask generator (R139, R140). -/
def maskCall (key : BitVec 64) (step : BitVec 32) (layer stream : BitVec 16) (elem : BitVec 64) : BitVec 128 :=
  let k0 := key.setWidth 32
  let k1 := (key >>> 32).setWidth 32
  let x : MaskWords := ⟨elem.setWidth 32, (elem >>> 32).setWidth 32, stream ++ layer, step⟩
  let y := (List.range 8).foldl (maskRound k0 k1) x
  (y.x3 ++ (y.x2 + k1) ++ y.x1 ++ (y.x0 + k0) : BitVec 128)

/-- Element e is kept (R141). -/
def maskKeeps (key : BitVec 64) (step : BitVec 32) (layer stream : BitVec 16) (e : Nat) (keep : Nat) : Bool :=
  let out := maskCall key step layer stream (BitVec.ofNat 64 (e / 16 * 16))
  decide ((out.toNat >>> (8 * (e % 16))) % 256 < keep)

end Sys2Proof.Machine
end

