-- ==== Sys2Proof/Machine/Memory.lean ====
section
/-! DEFINITION. The memories as one store of bytes: regions (R143), interleave (R148, R150), code words (R182), merge buffers (R187 to R189), reads and landing writes (R163 to R165). -/
namespace Sys2Proof.Machine

/-- Bases of the device address regions (R143). -/
def tier2Base : Nat := 0x040000000000
def spmBase : Nat := 0x080000000000
def controlBase : Nat := 0x0C0000000000
def hostBase : Nat := 0x800000000000

/-- Where a device address range lies (R143). -/
inductive Place where
  | tier1
  | tier2
  | spm (die core off : Nat)
  | control (off : Nat)
  | host (bus : Nat)
  | unmapped
deriving DecidableEq, Repr

/-- The place of the bytes [addr, addr + len), which must lie wholly in one mapped part (R143). -/
def placeOf (addr len : Nat) : Place :=
  let last := addr + (len - 1)
  if last < Config.tier1Bytes then .tier1
  else if tier2Base ≤ addr ∧ last < tier2Base + Config.tier2Bytes then .tier2
  else if spmBase ≤ addr ∧ addr < controlBase then
    let o := addr - spmBase
    let die := o / 2 ^ 32
    let core := o / 2 ^ 24 % 256
    let off := o % 2 ^ 24
    if die < Config.dies ∧ core < Config.logicalCores ∧ o / 2 ^ 24 < 2 ^ 16 ∧ off + (len - 1) < Config.spmBytes
    then .spm die core off else .unmapped
  else if controlBase ≤ addr ∧ last < controlBase + 0x4000000 then .control (addr - controlBase)
  else if hostBase ≤ addr ∧ last < 2 ^ 48 then .host (addr - hostBase)
  else .unmapped

/-- Address of an SPM byte in the store, by physical core. -/
def spmAddr (die phys off : Nat) : Nat := spmBase + die * 2 ^ 32 + phys * 2 ^ 24 + off

/-- The physical core of a logical core (R72). -/
def physOf (m : CoreMaps) (die core : Nat) : Nat := (mget ⟨0, 0, 0⟩ m.toPhys (256 * die + core)).value.toNat

/-- The logical core that a physical core holds (R72). -/
def logicalOf (m : CoreMaps) (die phys : Nat) : Option Nat :=
  (List.range Config.logicalCores).find? (fun l => (mfind m.toPhys (256 * die + l)).isSome && decide (physOf m die l = phys))

/-- The address in the store of a device address in tier 1, tier 2 or an SPM window. -/
def toStore (m : CoreMaps) (addr len : Nat) : Option Nat :=
  match placeOf addr len with
  | .tier1 => some addr
  | .tier2 => some addr
  | .spm die core off => some (spmAddr die (physOf m die core) off)
  | _ => none

/-- Die, physical core and offset of an SPM address of the store. -/
def storeDie (a : Nat) : Nat := (a - spmBase) / 2 ^ 32
def storePhys (a : Nat) : Nat := (a - spmBase) / 2 ^ 24 % 256
def storeOff (a : Nat) : Nat := a % 2 ^ 24

/-- The device address of an address of the store; an SPM of no logical core keeps its physical number. -/
def toDevice (m : CoreMaps) (a : Nat) : Nat :=
  if a < spmBase then a
  else spmAddr (storeDie a) ((logicalOf m (storeDie a) (storePhys a)).getD (storePhys a)) (storeOff a)

/-- The unit that holds an offset of a tier, of `n` units on each die: global unit number (R148, R150). -/
def interleave (perDie : Bool) (n bytes off : Nat) : Nat :=
  let g := off / 4096
  if perDie then (if off < bytes / 2 then g % n else n + (g - bytes / 8192) % n)
  else g % (2 * n)

/-- Global stack of a tier 1 address (R148). -/
def stackOf (m : Memory) (a : Nat) : Nat := interleave (decide (m.tier1Mode = 1)) Config.stacksPerDie Config.tier1Bytes a

/-- Global channel of a tier 2 address (R150). -/
def channelOf (m : Memory) (a : Nat) : Nat :=
  interleave (decide (m.tier2Mode = 1)) Config.channelsPerDie Config.tier2Bytes (a - tier2Base)

/-- The number of a granule within its unit, of `n` units on each die (R148, R150). -/
def inUnit (perDie : Bool) (n bytes off : Nat) : Nat :=
  let g := off / 4096
  if perDie then (if off < bytes / 2 then g / n else (g - bytes / 8192) / n)
  else g / (2 * n)

/-- Where a tier 1 address lies: global stack, granule of the stack, channel of its 256-byte block, pseudo-channel of the granule (R148). -/
def stackPlace (m : Memory) (a : Nat) : Nat × Nat × Nat × Nat :=
  let g := inUnit (decide (m.tier1Mode = 1)) Config.stacksPerDie Config.tier1Bytes a
  (stackOf m a, g, a / 256 % 16, g % 2)

/-- Where a tier 2 address lies: global channel, granule of the channel (R150). -/
def channelPlace (m : Memory) (a : Nat) : Nat × Nat :=
  (channelOf m a, inUnit (decide (m.tier2Mode = 1)) Config.channelsPerDie Config.tier2Bytes (a - tier2Base))

/-- Bytes of the code word at an address (R182), and its first address. -/
def wordBytes (a : Nat) : Nat := if a < tier2Base then 32 else 8
def wordBase (a : Nat) : Nat := a - a % wordBytes a

/-- The unit of a tier address under an interleave: stack s at s, channel c at 16 + c. -/
def unitCode (perDie : Bool) (a : Nat) : Nat :=
  if a < tier2Base then interleave perDie Config.stacksPerDie Config.tier1Bytes a
  else 16 + interleave perDie Config.channelsPerDie Config.tier2Bytes (a - tier2Base)

/-- An address lies in one area. -/
def areaHas (u : UndefArea) (a : Nat) : Bool :=
  decide (u.lo ≤ a) && decide (a < u.hi) &&
    (match u.unit with
     | none => true
     | some (c, perDie) => decide (unitCode perDie a = c))

/-- An address lies in an area of undefined contents. -/
def inUndef (m : Memory) (a : Nat) : Bool := m.undef.any (fun u => areaHas u a)

/-- What an address that nothing has written reads as: 0, or in an undefined area a free value (log 4, log 5). -/
def emptyByte (m : Memory) (a : Nat) : Byte :=
  match m.undef.find? (fun u => areaHas u a) with
  | some u => Config.undefByte u.gen a
  | none => 0

/-- The stored byte at an address. -/
def cellByte (m : Memory) (a : Nat) : Byte :=
  match mfind m.cells a with
  | some b => b
  | none => emptyByte m a

/-- The store with one byte written; the canonical form lists no 0 outside undefined areas. -/
def cellPut (m : Memory) (a : Nat) (b : Byte) : Memory :=
  { m with cells := if b = 0 ∧ inUndef m a = false then mdel m.cells a else mset m.cells a b }

/-- The store with consecutive bytes written. -/
def cellPutAll : List Byte → Nat → Memory → Memory
  | [], _, m => m
  | b :: bs, a, m => cellPutAll bs (a + 1) (cellPut m a b)

/-- Cells with rising addresses. -/
def cellsRising : List Host.Cell → Bool
  | [] => true
  | [_] => true
  | (a, _) :: (b, y) :: rest => decide (a < b) && cellsRising ((b, y) :: rest)

/-- The canonical form of the store. -/
def Memory.wf (m : Memory) : Bool :=
  cellsRising m.cells && m.cells.all (fun c => decide (c.2 ≠ 0) || inUndef m c.1)

/-- An area whose contents become undefined (R149, R410, R418 to R420). -/
def addUndef (m : Memory) (u : UndefArea) : Memory :=
  let out (a : Nat) : Bool := !areaHas u a
  { m with
    cells := m.cells.filter (fun c => out c.1)
    undef := u :: m.undef
    gen := m.gen + 1
    bad := m.bad.filter out
    spmMerge := m.spmMerge.map (fun (k, es) => (k, es.filter (fun e => out e.base)))
    tierMerge := m.tierMerge.map (fun (k, es) => (k, es.filter (fun e => out e.base))) }

/-- A range, and one stack or channel of a range. -/
def makeUndef (m : Memory) (lo hi : Nat) : Memory := addUndef m { lo := lo, hi := hi, gen := m.gen }
def makeUndefUnit (m : Memory) (lo hi c : Nat) (perDie : Bool) : Memory := addUndef m { lo := lo, hi := hi, gen := m.gen, unit := some (c, perDie) }

/-! ### Merge buffers -/

/-- The merge buffer of an address: its number in its table, and its entries (R187, R188). -/
def mergeKey (m : Memory) (a : Nat) : Nat :=
  if spmBase ≤ a then 32 * (256 * storeDie a + storePhys a) + storeOff a / 64 % 32
  else if a < tier2Base then stackOf m a
  else 16 + channelOf m a / 2

def mergeDepth (a : Nat) : Nat := if spmBase ≤ a then 8 else if a < tier2Base then 64 else 32

def mergeList (m : Memory) (a : Nat) : List MergeEntry :=
  if spmBase ≤ a then mget [] m.spmMerge (mergeKey m a) else mget [] m.tierMerge (mergeKey m a)

def setMergeList (m : Memory) (a : Nat) (es : List MergeEntry) : Memory :=
  if spmBase ≤ a then { m with spmMerge := if es = [] then mdel m.spmMerge (mergeKey m a) else mset m.spmMerge (mergeKey m a) es }
  else { m with tierMerge := if es = [] then mdel m.tierMerge (mergeKey m a) else mset m.tierMerge (mergeKey m a) es }

/-- The byte a read returns: the stored byte merged with the entry of its code word (R189). -/
def readByte (m : Memory) (a : Nat) : Byte :=
  match (mergeList m a).find? (fun e => decide (e.base = wordBase a)) with
  | some e => (mfind e.bytes (a - e.base)).getD (cellByte m a)
  | none => cellByte m a

/-- `n` bytes as a read returns them. -/
def readBytes (m : Memory) (a n : Nat) : List Byte := (List.range n).map (fun i => readByte m (a + i))

/-- A little-endian number of `n` bytes. -/
def readNum (m : Memory) (a n : Nat) : Nat := ofLE (readBytes m a n)

/-- The bytes of an entry written into the stored word. -/
def mergeInto (m : Memory) (e : MergeEntry) : Memory :=
  e.bytes.foldl (fun m (o, b) => cellPut m (e.base + o) b) m

/-- An entry retires: it is merged into its word, or discarded when the word is uncorrectable (R187, R192). The word's address is answered in the second case. -/
def retireEntry (m : Memory) (e : MergeEntry) : Memory × Option Nat :=
  let m := setMergeList m e.base ((mergeList m e.base).filter (fun x => decide (x.base ≠ e.base)))
  if m.bad.contains e.base then (m, some e.base) else (mergeInto m e, none)

/-- A write of part of a code word enters the merge buffer; a full one first retires its oldest entry (R187, R188). -/
def landNarrow (m : Memory) (tick a : Nat) (bs : List Byte) : Memory × List Nat :=
  let base := wordBase a
  let new : List (Nat × Byte) := bs.mapIdx (fun i b => (a - base + i, b))
  let es := mergeList m a
  match es.find? (fun e => decide (e.base = base)) with
  | some _ =>
    (setMergeList m a (es.map (fun e =>
      if e.base = base then { e with bytes := new.foldl (fun acc (o, b) => mset acc o b) e.bytes } else e)), [])
  | none =>
    let (m, lost) := if mergeDepth a ≤ es.length then
        (match es with
         | [] => (m, [])
         | e :: _ => let (m, l) := retireEntry m e; (m, l.toList))
      else (m, [])
    (setMergeList m a (mergeList m a ++ [⟨base, new.foldl (fun acc (o, b) => mset acc o b) [], tick⟩]), lost)

/-- A write of one whole code word: the entry of the word is discarded, and the word takes a new code (R189). -/
def landWord (m : Memory) (a : Nat) (bs : List Byte) : Memory :=
  let m := setMergeList m a ((mergeList m a).filter (fun e => decide (e.base ≠ a)))
  cellPutAll bs a { m with bad := m.bad.filter (fun b => decide (b ≠ a)) }

/-- A write lands: code word by code word in ascending order. The uncorrectable words that lost merged bytes are answered. -/
def landFuel : (fuel : Nat) → Memory → (tick a : Nat) → List Byte → Memory × List Nat
  | 0, m, _, _, _ => (m, [])
  | fuel + 1, m, tick, a, bs =>
    if bs = [] then (m, [])
    else
      let n := Nat.min bs.length (wordBase a + wordBytes a - a)
      let (m, l) := if n = wordBytes a then (landWord m a (bs.take n), [])
        else landNarrow m tick a (bs.take n)
      let (m, l') := landFuel fuel m tick (a + n) (bs.drop n)
      (m, l ++ l')

def landMem (m : Memory) (tick a : Nat) (bs : List Byte) : Memory × List Nat := landFuel bs.length m tick a bs

/-- The first uncorrectable code word that a read of [a, a + n) meets, as the first of its addresses that the read covers. -/
def badIn (m : Memory) (a n : Nat) : Option Nat :=
  (m.bad.filter (fun b => decide (b < a + n) && decide (a < b + wordBytes b))).foldl
    (fun acc b =>
      let x := Nat.max a b
      match acc with
      | none => some x
      | some y => some (Nat.min x y)) none

end Sys2Proof.Machine
end

