-- ==== Sys2Proof/Machine/Ops.lean ====
section
/-! DEFINITION. The named operations over the machine: cores, threads and registers (R46, R54), time, outputs, MSI-X (R357), notifications (R334), buckets (R195), lifetime accumulators (R448), failure history (R313), CPER records (R314), reads with what the codes find (R192). -/
namespace Sys2Proof.Machine

/-! ### Units of time: the root clock has 5,200 cycles in 1 µs (R390) -/

def usTicks (n : Nat) : Nat := 5200 * n
def msTicks (n : Nat) : Nat := 5200000 * n
def secTicks (n : Nat) : Nat := 5200000000 * n
def nsTicks (n : Nat) : Nat := ceilDiv (52 * n) 10

/-- ACLK cycle of a die. -/
def aclkOf (s : State) (die : Nat) : Nat := vget 0 s.clk.aclk die

/-- Bits [95:32] of a die's time counter (R365). -/
def timeNs (s : State) (die : Nat) : BitVec 64 := (vget 0 s.time.counter die).extractLsb' 32 64

/-! ### Cores, threads, registers -/

def getCore (s : State) (c : CoreRef) : Core := mget {} s.cores (coreKey c)
def putCore (s : State) (c : CoreRef) (k : Core) : State := { s with cores := mset s.cores (coreKey c) k }
def getThread (k : Core) (t : Nat) : Thread := mget {} k.threads t
def putThread (k : Core) (t : Nat) (x : Thread) : Core := { k with threads := mset k.threads t x }

/-- The core of a thread. -/
def coreOf (th : ThreadRef) : CoreRef := ⟨th.die, th.core⟩

def threadOf (s : State) (th : ThreadRef) : Thread := getThread (getCore s (coreOf th)) th.thread
def putThreadOf (s : State) (th : ThreadRef) (x : Thread) : State :=
  putCore s (coreOf th) (putThread (getCore s (coreOf th)) th.thread x)

/-- A scalar register; s0 reads as 0 (R54). -/
def reg (t : Thread) (r : BitVec 5) : Word := if r = 0 then 0 else vget 0 t.regs r.toNat

/-- A scalar register written; writes to s0 are discarded (R54). -/
def setReg (t : Thread) (r : BitVec 5) (v : Word) : Thread :=
  if r = 0 then t else { t with regs := vset t.regs r.toNat v }

/-- A register marked pending, unless it is s0 (R48, R49). -/
def markBusy (t : Thread) (r : BitVec 5) : Thread :=
  if r = 0 then t else { t with busy := t.busy ||| (1#32 <<< r.toNat) }

/-- A pending register takes its value and is no longer pending. -/
def returnReg (t : Thread) (r : BitVec 5) (v : Word) : Thread :=
  { setReg t r v with busy := t.busy &&& ~~~(1#32 <<< r.toNat) }

/-- The state of a thread (R46); every thread of a core that stopped on a trap is HALTED (R65). -/
def threadMode (k : Core) (t : Nat) : ThreadMode :=
  if k.phase = .stopped then .halted else (getThread k t).mode

/-- Every logical core of the module. -/
def allCores : List CoreRef :=
  (List.range Config.dies).flatMap (fun d => (List.range Config.logicalCores).map (fun l => ⟨d, l⟩))

/-- The physical core of a logical core of the module. -/
def physCore (s : State) (c : CoreRef) : Nat := physOf s.map c.die c.core

/-- The store address of an offset in a core's own SPM. -/
def ownSpm (s : State) (c : CoreRef) (off : Nat) : Nat := spmAddr c.die (physCore s c) off

/-- Counters of a physical core (R442): FAR_ELEM, CHAIN_DROP, LA_SAT, LA_UFL, NF_DRAIN, NF_VXU, CVT_OVF, EARLY_ROLE_DROP, STALE_ROLE_DROP, SPM_PARITY_DROP. -/
def physCount (s : State) (die phys i n : Nat) : State :=
  if n = 0 then s
  else
    let key := 10 * (256 * die + phys) + i
    { s with coreStats := mset s.coreStats key (satAdd (mget 0 s.coreStats key) n) }
def coreCount (s : State) (c : CoreRef) (i n : Nat) : State := physCount s c.die (physCore s c) i n

/-- Counters of a die (R443). -/
def dieCount (s : State) (die i : Nat) : State :=
  { s with dieStats := mset s.dieStats (15 * die + i) (satInc (mget 0 s.dieStats (15 * die + i))) }

/-- A fresh free value (log 15). -/
def takeFree (s : State) : BitVec 64 × State := (Config.free s.free, { s with free := s.free + 1 })

/-- A fresh name for a packet or transfer. -/
def takeId (s : State) : Nat × State := (s.ids, { s with ids := s.ids + 1 })

/-- Something leaves the module (log 13). -/
def emit (s : State) (o : Output) : State := { s with out := s.out ++ [o] }

/-! ### MSI-X (R357) -/

/-- A vector is raised: its message is sent, or its PBA bit is set while it is masked or cannot be sent (log 16). -/
def msix (v : Nat) (s : State) : State :=
  let e := vget 0 s.pcie.msix v
  if s.pcie.msixEnable && !s.pcie.msixMask && !bit e 96 && s.pcie.busMaster && s.pcie.inL0 && !s.pcie.d3 then
    emit s (.msix v (field e 63 0) (field e 95 64))
  else { s with pcie := { s.pcie with pba := s.pcie.pba ||| (1#64 <<< v) } }

/-! ### Notifications (R333 to R335) -/

/-- A DOP header (R326). -/
def dopHeader (op code : Nat) (resp more snap stagedv discard : Bool) (index sub typ len seg reqId : Nat) : BitVec 128 :=
  let b (x : Bool) (i : Nat) : Nat := if x then 2 ^ i else 0
  BitVec.ofNat 128 (2 ^ 124 + op % 16 * 2 ^ 120 + code % 256 * 2 ^ 112 + b resp 111 + b more 110 + b snap 109
    + b stagedv 108 + b discard 107 + index % 2 ^ 16 * 2 ^ 88 + sub % 256 * 2 ^ 80 + typ % 16 * 2 ^ 76
    + len % 2 ^ 16 * 2 ^ 48 + seg % 2 ^ 16 * 2 ^ 32 + reqId % 2 ^ 32)

/-- The NOTIFY datagram of a notice (R334). -/
def noticeFrame (n : Notice) (reqId : BitVec 32) : List Byte :=
  let first := n.value.take 1024
  toLE 16 (dopHeader 5 0 false (decide (1024 < n.value.length)) false false false (n.key / 256) (n.key % 256) n.typ
    first.length 0 reqId.toNat).toNat ++ first

/-- An address lies in fe80::/10. -/
def isLinkLocal (a : BitVec 128) : Bool := decide (field a 127 118 = 0x3FA)

/-- The module may speak on the segment: duplicate address detection has succeeded (R318). -/
def segmentOpen (s : State) : Bool := decide (s.dop.dad = 1)

/-- Counter `i` of object 0x1212 (R338): RX, TX, BAD, RETRIED, BUSY, AUTH_FAIL, NOTIFY_SENT, NOTIFY_LOST, REMOTE_REQ. -/
def dopCount (s : State) (i : Nat) : State :=
  { s with dop := { s.dop with counters := vset s.dop.counters i (satInc (vget 0 s.dop.counters i)) } }

/-- A subscription sends its next queued notification when none is outstanding and MIN_MS has passed since the previous first send (R335). -/
def pumpSub (tick : Nat) (u : Subscription) : Subscription × Option (List Byte) :=
  match u.outstanding, u.queue with
  | none, n :: rest =>
    if u.sent = 0 ∨ u.firstSend + msTicks u.minMs ≤ tick then
      let id := u.sent + 1
      let frame := noticeFrame n id
      ({ u with queue := rest, outstanding := some (id, frame, tick, 1), sent := id, firstSend := tick }, some frame)
    else (u, none)
  | _, _ => (u, none)

/-- Subscription `i` sends what it may. -/
def pumpAt (i : Nat) (s : State) : State :=
  match s.dop.subs[i]? with
  | none => s
  | some u =>
    if segmentOpen s then
      match pumpSub s.clk.tick u with
      | (u', some frame) =>
        let s := { s with dop := { s.dop with subs := putAt s.dop.subs i u' } }
        dopCount (dopCount (emit s (.datagram u.addr u.port frame)) 6) 1
      | (_, none) => s
    else s

/-- A notification enters a subscription's queue of 8; the oldest is dropped when it is full (R335). -/
def queueNotice (i : Nat) (n : Notice) (s : State) : State :=
  match s.dop.subs[i]? with
  | none => s
  | some u =>
    let full := decide (8 ≤ u.queue.length)
    let q := (if full then u.queue.drop 1 else u.queue) ++ [n]
    let s := { s with dop := { s.dop with subs := putAt s.dop.subs i { u with queue := q, last := mset u.last n.key n.value } } }
    pumpAt i (if full then dopCount s 7 else s)

/-- A notice of an object that is not acknowledged yet is dropped: nothing of it is sent any more. -/
def dropNotices (index : Nat) (s : State) : State :=
  { s with dop := { s.dop with subs := s.dop.subs.map (fun u => { u with
    queue := u.queue.filter (fun n => decide (n.key / 256 ≠ index))
    outstanding := match u.outstanding with
      | some (id, frame, at_, n) => if field (BitVec.ofNat 128 (ofLE (frame.take 16))) 103 88 = index then none else some (id, frame, at_, n)
      | none => none }) } }

/-- A subscription covers a key (256 index + subindex): its own, or all subindices of its object (R333). -/
def subCovers (u : Subscription) (key : Nat) : Bool :=
  decide (u.key = key) || (decide (u.key % 256 = 0) && decide (u.key / 256 = key / 256))

/-- Every subscription of an object is notified (R334). -/
def notify (key typ : Nat) (value : List Byte) (s : State) : State :=
  (List.range s.dop.subs.length).foldl (fun s i =>
    match s.dop.subs[i]? with
    | some u => if subCovers u key then queueNotice i ⟨key, typ, value⟩ s else s
    | none => s) s

/-! ### Lifetime accumulators (R448), regions (R194) -/

/-- An accumulator at a byte offset of the record gains `n`, while the module is loaded (R445). -/
def lifeAdd (off n : Nat) (s : State) : State :=
  if s.opt.loaded then
    { s with life := { s.life with acc := mset s.life.acc off (satAdd (mget 0 s.life.acc off) n) } }
  else s

/-- One 16-bit half of a field-test accumulator gains 1 (R448). -/
def lifeTest (off : Nat) (failed : Bool) (s : State) : State :=
  if s.opt.loaded then
    let x := mget 0 s.life.acc off
    let lo := satAdd (x.extractLsb' 0 16) (if failed then 0 else 1)
    let hi := satAdd (x.extractLsb' 16 16) (if failed then 1 else 0)
    { s with life := { s.life with acc := mset s.life.acc off (hi ++ lo) } }
  else s

/-- Bucket regions (R194). -/
def regionSpm (die phys : Nat) : Nat := 28 + 160 * die + phys
def regionIcache (die phys : Nat) : Nat := 348 + 160 * die + phys
def regionAcs (die phys : Nat) : Nat := 668 + 160 * die + phys
def regionHrc (die : Nat) : Nat := 988 + die
def regionPiste (die : Nat) : Nat := 990 + die
def regionCritical (die : Nat) : Nat := 992 + die

/-- The region that holds an address of the store (R194). -/
def regionOf (m : Memory) (a : Nat) : Nat :=
  if a < tier2Base then stackOf m a else if a < spmBase then 12 + channelOf m a else regionSpm (storeDie a) (storePhys a)

/-- The die of an address of the store. -/
def dieOfStore (m : Memory) (a : Nat) : Nat :=
  if a < tier2Base then stackOf m a / Config.stacksPerDie
  else if a < spmBase then channelOf m a / Config.channelsPerDie else storeDie a

/-! ### Failure history (R313) -/

/-- Events of a unit within 720 hours of the hour meter. -/
def historyCount (s : State) (u : UnitId) : Nat :=
  let now := s.life.poweredS.toNat / 3600
  (s.flash.history.filter (fun e => decide (e.1 = u) && decide (now < e.2 / 3600 + 720))).length

/-- The unit of the history that a region belongs to; caches, piste tables and critical words belong to their die's history. -/
def regionUnitId (r : Nat) : UnitId :=
  if r < 12 then .stack r
  else if r < 28 then .channel (r - 12)
  else if r < 988 then .core ((r - 28) / 160 % 2) ((r - 28) % 160)
  else .die ((r - 988) % 2)

/-! ### CPER records (R314, R315) -/

/-- What a CPER record says of a failure. -/
structure Signature where
  cls : Nat
  action : Nat := 0
  unitType : Nat := 5
  unitIndex : Nat := 0
  detail : Nat := 0
  die : Nat := 0
  lcore : Nat := 0xFF
  addr : Nat := 0
  history : Nat := 0
deriving DecidableEq, Repr

/-- The vendor section (R315). -/
def cperSection (s : State) (g : Signature) : List Byte :=
  let at_ (v hi lo : Nat) : Nat := v % 2 ^ (hi + 1 - lo) * 2 ^ lo
  toLE 64 (at_ 1 511 496 + at_ g.cls 495 488 + at_ g.action 487 480 + at_ g.unitType 479 472 + at_ g.unitIndex 471 456
    + at_ g.detail 455 448 + at_ s.fab.ownId.toNat 447 432 + at_ g.die 431 431 + at_ g.lcore 430 423 + at_ g.addr 415 368
    + at_ s.run.commit.value.toNat 367 304 + at_ (timeNs s g.die).toNat 303 240 + at_ s.run.attempt.toNat 239 224
    + at_ (Nat.min g.history 255) 223 216)

/-- Two decimal digits. -/
def bcd (n : Nat) : Nat := n / 10 % 10 * 16 + n % 10

/-- Year, month and day of a day counted from 1970-01-01. -/
def civil (days : Nat) : Nat × Nat × Nat :=
  let z := days + 719468
  let era := z / 146097
  let doe := z % 146097
  let yoe := (doe - doe / 1460 + doe / 36524 - doe / 146096) / 365
  let doy := doe - (365 * yoe + yoe / 4 - yoe / 100)
  let mp := (5 * doy + 2) / 153
  let d := doy - (153 * mp + 2) / 5 + 1
  let m := if mp < 10 then mp + 3 else mp - 9
  (yoe + era * 400 + (if m ≤ 2 then 1 else 0), m, d)

/-- The timestamp of a CPER record: seconds, minutes, hours, flags, day, month, year, century in BCD (log 19). -/
def cperTime (ns : Nat) : List Byte :=
  let secs := ns / 1000000000
  let (y, m, d) := civil (secs / 86400)
  [bcd (secs % 60), bcd (secs / 60 % 60), bcd (secs / 3600 % 24), 1, bcd d, bcd m, bcd (y % 100), bcd (y / 100)].map (BitVec.ofNat 8)

/-- Error Severity (R314). -/
def cperSeverity (cls : Nat) : Nat := if cls = 1 then 2 else if cls = 9 ∨ cls = 10 then 1 else 0

/-- A whole record: header, one section descriptor, the vendor section (R314; log 19). -/
def cperRecord (s : State) (g : Signature) : List Byte :=
  let disciplined := decide (s.time.state = 2)
  let guid (i : Nat) := toLE 16 (Config.cperGuid i).toNat
  let sev := toLE 4 (cperSeverity g.cls)
  [0x43, 0x50, 0x45, 0x52] ++ toLE 2 0x0101 ++ toLE 4 0xFFFFFFFF ++ toLE 2 1 ++ sev
    ++ toLE 4 (if disciplined then 2 else 0) ++ toLE 4 264
    ++ (if disciplined then cperTime (timeNs s g.die).toNat else List.replicate 8 0)
    ++ List.replicate 32 0 ++ guid 1 ++ guid 0 ++ toLE 8 0 ++ toLE 4 0 ++ List.replicate 20 0
    ++ toLE 4 200 ++ toLE 4 64 ++ toLE 2 0x0100 ++ [0, 0] ++ toLE 4 0 ++ guid 2 ++ List.replicate 16 0 ++ sev
    ++ List.replicate 20 0 ++ cperSection s g

/-- A CPER record is exported: object 0x8040, its notification and vector 1 (R314). -/
def cperBare (g : Signature) (s : State) : State :=
  let r := cperRecord s g
  msix 1 (notify 0x804000 0xA r { s with intg := { s.intg with cper := r } })

/-! ### Leaky buckets (R195) -/

/-- The reported unit of a region: UNIT_TYPE, UNIT_INDEX, die (R315). -/
def regionUnit (r : Nat) : Nat × Nat × Nat :=
  if r < 12 then (1, r, r / 6)
  else if r < 28 then (2, r - 12, (r - 12) / 8)
  else if r < 988 then (0, (r - 28) % 160, (r - 28) / 160 % 2)
  else (4, (r - 988) % 2, (r - 988) % 2)

/-- The logical core that a physical core of a die holds, as a CPER record names it: 0xFF if none (R315). -/
def lcoreOf (s : State) (die phys : Nat) : Nat := (logicalOf s.map die phys).getD 0xFF

/-- The signature of a region's unit: its kind, number, die, logical core and history (R315). -/
def regionSignature (s : State) (r : Nat) (g : Signature) : Signature :=
  let (ut, ui, die) := regionUnit r
  { g with unitType := ut, unitIndex := ui, die := die, lcore := if ut = 0 then lcoreOf s die ui else 0xFF
           history := historyCount s (regionUnitId r) }

/-- One correctable error of a region (R184, R195), with the export that its record takes: the bucket, and at an overflow the event, the interrupt, the notification and the record. -/
def correctableWith (out : Signature → State → State) (r : Nat) (s : State) : State :=
  let s := lifeAdd (9960 + 4 * r) 1 s
  let lvl := (mget 0 s.intg.levels r).toNat
  let cap := s.intg.capacity.toNat
  if lvl + 1 ≤ cap then { s with intg := { s.intg with levels := mset s.intg.levels r (BitVec.ofNat 8 (lvl + 1)) } }
  else
    let die := (regionUnit r).2.2
    let ov := satInc (mget 0 s.intg.overflows r)
    let ev : BitVec 128 := BitVec.ofNat 128 ((timeNs s die).toNat * 2 ^ 64 + r * 2 ^ 48 + cap / 2 * 2 ^ 40 + ov.toNat * 2 ^ 16)
    let s := { s with intg := { s.intg with
      levels := mset s.intg.levels r (BitVec.ofNat 8 (cap / 2)), overflows := mset s.intg.overflows r ov, event := ev } }
    let s := msix 2 (notify 0x401400 0xA (toLE 16 ev.toNat) s)
    out (regionSignature s r { cls := 1, action := 1 }) s

/-! ### Critical words (R185, R186) -/

/-- How many copies of a critical word agree: all, two (a repair), none. -/
inductive Vote where
  | agree | repaired | lost
deriving DecidableEq, Repr

def voteOf {α : Type} [DecidableEq α] (t : Tri α) : Vote :=
  if t.a = t.b ∧ t.b = t.c then .agree else if t.agrees then .repaired else .lost

/-- The word after the vote. -/
def votedWord {α : Type} [DecidableEq α] (t : Tri α) : Tri α := if t.agrees then triple t.value else t

/-- A vote inside an operation that goes on whatever it finds: one differing copy is rewritten and counted (R185); three differing copies stand for the next vote that can take the fatal path (log 117). -/
def repairWord {α : Type} [DecidableEq α] (t : Tri α) (die : Nat) (put : Tri α → State → State) (s : State) : State :=
  match voteOf t with
  | .repaired => correctableWith cperBare (regionCritical die) (put (votedWord t) s)
  | _ => s

/-- A CPER record reads the step commit counter, which votes (R185, R315). -/
def cper (g : Signature) (s : State) : State :=
  cperBare g (repairWord s.run.commit 0 (fun t s => { s with run := { s.run with commit := t } }) s)

/-- One correctable error of a region (R184, R195). -/
def correctable (r : Nat) (s : State) : State := correctableWith cper r s

/-- A record names the unit that holds the data at an address of the store, with that unit's history (R192, R313, R315; log 45). -/
def heldAt (s : State) (a : Nat) (g : Signature) : Signature :=
  { regionSignature s (regionOf s.mem a) g with addr := toDevice s.map a }

/-- The state of a physical core (R293). -/
def physState (s : State) (die phys : Nat) : PhysState := mget .active s.map.phys (256 * die + phys)
def setPhysState (s : State) (die phys : Nat) (x : PhysState) : State :=
  { s with map := { s.map with phys := mset s.map.phys (256 * die + phys) x } }

/-- A unit becomes permanent and its action follows (R292, R313); a core that fails during a snapshot stop brings a step fault after the resume (R316). -/
def declarePermanent (u : UnitId) (s : State) : State :=
  if s.flash.permanent.contains u then s
  else
    let s := { s with flash := { s.flash with permanent := s.flash.permanent ++ [u] } }
    let n := historyCount s u
    match u with
    | .core d p =>
      (match logicalOf s.map d p with
       | some _ => { s with
           run := { s.run with faultKept := s.run.faultKept || s.run.phase == .snapCheck || s.run.phase == .snapCopy || s.run.phase == .resume }
           map := { s.map with failing := if s.map.failing.contains (256 * d + p) then s.map.failing else s.map.failing ++ [256 * d + p] } }
       | none => cper { cls := 7, action := 3, unitType := 0, unitIndex := p, die := d, history := n } (setPhysState s d p .retired))
    | .link l => { s with fab := { s.fab with links := vset s.fab.links l { vget {} s.fab.links l with permanent := true } } }
    | u => { s with fail := { s.fail with awaiting := s.fail.awaiting ++ [u] } }

/-- One event enters a unit's history; three in the window make it permanent (R313). -/
def addHistory (u : UnitId) (s : State) : State :=
  let s := { s with flash := { s.flash with history := s.flash.history ++ [(u, s.life.poweredS.toNat)] } }
  if 3 ≤ historyCount s u then declarePermanent u s else s

/-- One uncorrectable-class event of a region, and of the unit it belongs to (R192, R313, R449). -/
def uncorrectable (region : Nat) (s : State) : State := addHistory (regionUnitId region) (lifeAdd (13936 + 4 * region) 1 s)

/-- The uncorrectable-class event of the unit that holds an address of the store. -/
def uncorrectableAt (a : Nat) (s : State) : State := uncorrectable (regionOf s.mem a) s

/-! ### Reads and what the codes find (R182 to R184, R190, R192) -/

/-- An address lies in a code word that one of the ranges reads. -/
def covers (ranges : List (Nat × Nat)) (a : Nat) : Bool :=
  ranges.any (fun r => decide (wordBase r.1 ≤ a) && decide (a < r.1 + r.2 + (wordBytes a - 1)) && decide (0 < r.2)
    && decide (wordBase a < r.1 + r.2))

/-- An address is one of the bytes of the ranges. -/
def inRanges (ranges : List (Nat × Nat)) (a : Nat) : Bool :=
  ranges.any (fun r => decide (r.1 ≤ a) && decide (a < r.1 + r.2))

/-- The lower of two addresses. -/
def lowerOf : Option Nat → Option Nat → Option Nat
  | none, y => y
  | x, none => x
  | some x, some y => some (Nat.min x y)

/-- The first address of several ranges that cannot be trusted: in an uncorrectable word, or with a path-parity miss. -/
def firstBad (m : Memory) (parities : List Nat) : List (Nat × Nat) → Option Nat
  | [] => none
  | (a, n) :: rest =>
    match (parities.filter (fun p => decide (a ≤ p) && decide (p < a + n))).foldl (fun acc p => lowerOf acc (some p)) (badIn m a n) with
    | some x => some x
    | none => firstBad m parities rest

/-- The addresses of the path-parity misses on reads, and on the write of a command. -/
def readParities (chk : Chk) : List Nat := chk.finds.filterMap (fun x => match x with | .parity a => some a | _ => none)
def writeParities (chk : Chk) : List Nat := chk.finds.filterMap (fun x => match x with | .writeParity a => some a | _ => none)

/-- One finding by the code word it is in, so that a word counts once (R184). -/
def Find.byWord : Find → Find
  | .ce a => .ce (wordBase a)
  | .ue a => .ue (wordBase a)
  | x => x

/-- The findings of a command, each code word once. -/
def findings (chk : Chk) : List Find := (chk.finds.map Find.byWord).eraseDups

/-- What one finding on a read of some ranges leaves: a corrected word is counted (R184), an uncorrectable one stays so until it is written, a miss is counted at its checking point (R190), a link correction in its channel's counter (R183). -/
def noteFind (point die : Nat) (ranges : List (Nat × Nat)) (s : State) (x : Find) : State :=
  match x with
  | .ce a => if covers ranges a && !s.mem.bad.contains a then correctable (regionOf s.mem a) s else s
  | .ue a => if covers ranges a && !s.mem.bad.contains a then { s with mem := { s.mem with bad := a :: s.mem.bad } } else s
  | .parity a => if inRanges ranges a then dieCount s die point else s
  | .linkCe a =>
    if covers ranges a && decide (tier2Base ≤ a) && decide (a < spmBase) then
      dieCount s (channelOf s.mem a / Config.channelsPerDie) (7 + channelOf s.mem a % Config.channelsPerDie)
    else s
  | _ => s

/-- A read of some ranges of the store at a checking point of a die (R190): what is found is counted, and the first address that cannot be trusted is answered. -/
def checkRead (chk : Chk) (point die : Nat) (ranges : List (Nat × Nat)) (s : State) : State × Option Nat :=
  let s := (findings chk).foldl (noteFind point die ranges) s
  match firstBad s.mem (readParities chk) ranges with
  | some a => (uncorrectableAt a s, some a)
  | none => (s, none)

/-! ### Landing -/

/-- The SPM offset and value of a thread that sleeps on WAITFLAG (R62). -/
def flagAwaited (k : Core) (t : Nat) : Option (Nat × Word) :=
  if k.phase = .stopped then none
  else match (getThread k t).mode with
    | .sleeping (.waitflag off val _ _ _) => some (off, val)
    | _ => none

/-- The threads of a core that sleep on a word of a granule that a write has just reached test it (R62); the flags by thread say whether a test has found the value. -/
def testSleepers (m : Memory) (base off n : Nat) (k : Core) : Core :=
  { k with flags := k.threads.foldl (fun fl (t, _) =>
      match flagAwaited k t with
      | some (w, val) =>
        if off / 64 ≤ w / 64 ∧ w / 64 ≤ (off + (n - 1)) / 64 then
          mset fl t (mget false fl t || decide (val.toNat ≤ readNum m (base + w) 8))
        else fl
      | none => fl) k.flags }

/-- A write of `n` bytes has landed at an address of the store: in an SPM, its core's sleepers test their words (R62). -/
def flagWrite (a n : Nat) (s : State) : State :=
  if a < spmBase ∨ n = 0 then s
  else
    match logicalOf s.map (storeDie a) (storePhys a) with
    | some l => { s with cores := s.cores.map (fun e =>
        if e.1 = 256 * storeDie a + l then (e.1, testSleepers s.mem (a - storeOff a) (storeOff a) n e.2) else e) }
    | none => s

/-- The time at which a merge-buffer entry of a write is allocated: the ACLK cycle of its die for an SPM, the root tick for a tier (R187, R188). -/
def landTime (s : State) (a : Nat) : Nat := if spmBase ≤ a then aclkOf s (storeDie a) else s.clk.tick

/-- A write lands in the store; merged bytes lost to an uncorrectable word are counted, and the word is kept for the step fault that `settleLost` raises (R187, R192). -/
def landQuiet (a : Nat) (bs : List Byte) (s : State) : State :=
  let (m, lost) := landMem s.mem (landTime s a) a bs
  flagWrite a bs.length
    (lost.foldl (fun s b => uncorrectableAt b { s with intg := { s.intg with lost := s.intg.lost ++ [b] } }) { s with mem := m })

/-- The merge buffer of an address holds an entry for its code word. -/
def hasEntry (m : Memory) (a : Nat) : Bool := (mergeList m a).any (fun e => decide (e.base = wordBase a))

/-- A write of [a, a + n) retires the entry of a code word to make room: the entry is gone, and the write does not cover the word (R187). -/
def forcedOut (m m' : Memory) (a n b : Nat) : Bool :=
  hasEntry m b && !hasEntry m' b && !(decide (a ≤ b) && decide (b + wordBytes b ≤ a + n))

/-- What a finding on a write leaves: on the word that an entry retired by the write reads, and on the link to a tier 2 channel (R183, R184, R187). -/
def noteWrite (m' : Memory) (a n : Nat) (s : State) (x : Find) : State :=
  match x with
  | .ce b => if forcedOut s.mem m' a n b && !s.mem.bad.contains b then correctable (regionOf s.mem b) s else s
  | .ue b => if forcedOut s.mem m' a n b && !s.mem.bad.contains b then { s with mem := { s.mem with bad := b :: s.mem.bad } } else s
  | .linkCe b => noteFind 5 0 [(a, n)] s (.linkCe b)
  | _ => s

/-- A write lands with what its command finds. -/
def landWith (chk : Chk) (a : Nat) (bs : List Byte) (s : State) : State :=
  landQuiet a bs ((findings chk).foldl (noteWrite (landMem s.mem (landTime s a) a bs).1 a bs.length) s)

/-- A path-parity miss lies in a write of [a, a + n). -/
def parityMiss (chk : Chk) (a n : Nat) : Bool := (writeParities chk).any (fun p => decide (a ≤ p) && decide (p < a + n))

/-- A bank or controller finds a parity miss in an arriving write: it discards it whole, counts it, and keeps it for its step fault; one uncorrectable-class event of the unit (R190 to R193). -/
def writeMissed (a : Nat) (s : State) : State :=
  let s := uncorrectableAt a { s with intg := { s.intg with missed := s.intg.missed ++ [a] } }
  if spmBase ≤ a then physCount (dieCount s (storeDie a) 4) (storeDie a) (storePhys a) 9 1 else dieCount s (dieOfStore s.mem a) 5

/-- A write arrives with what its command finds: a parity miss discards it (R191), else it lands. -/
def arriveQuiet (chk : Chk) (a : Nat) (bs : List Byte) (s : State) : State :=
  if parityMiss chk a bs.length then writeMissed a s else landWith chk a bs s

/-! ### Run state (R276, R356, R357) -/

/-- RUN_STATE takes a value; vector 3 is raised when it changes. -/
def setRunState (v : BitVec 8) (s : State) : State :=
  if s.run.state = v then s else msix 3 { s with run := { s.run with state := v } }

/-- PHASE of object 0x7010 takes a value: a notification and vector 4 at a change (R303). -/
def setPhase (v : BitVec 8) (s : State) : State :=
  if s.fail.phase = v then s
  else msix 4 (notify 0x701008 1 [v] { s with fail := { s.fail with phase := v } })

/-! ### Packets that the module injects (R220, R225) -/

/-- Bytes of a control packet in ascending order. -/
def ctrlBytes (p : CtrlPkt) : List Byte := toLE 16 p.hdr.toNat ++ toLE 16 p.payload.toNat

/-- The CRC of a control packet: CRC and HOPS taken as 0 (R225). -/
def ctrlCrc (p : CtrlPkt) : BitVec 32 :=
  crc32 (ctrlBytes { p with hdr := setField (setField p.hdr 31 0 0) 82 76 0 })

/-- The piste-table entry of an endpoint at a die; an uncorrectable one reads as invalid (R192, R218). -/
def pisteEntry (s : State) (die ep : Nat) : BitVec 32 :=
  let r := vget {} s.fab.routers die
  if r.pisteBad.contains ep then 0 else mget 0 r.piste ep

/-- A control packet from this module: header of R220 with HOPS 0, the entry's epoch and its CRC. -/
def mkCtrl (s : State) (die dest typ : Nat) (glide : Bool) (destDie destCore exp tag : Nat) (payload : BitVec 128) : CtrlPkt :=
  let ep := field (pisteEntry s die dest) 23 16
  let h : BitVec 128 := BitVec.ofNat 128 (dest % 2 ^ 16 * 2 ^ 112 + s.fab.ownId.toNat * 2 ^ 96 + ep * 2 ^ 88 + typ % 16 * 2 ^ 84
    + (if glide then 2 ^ 83 else 0) + destDie % 2 * 2 ^ 75 + destCore % 256 * 2 ^ 67 + exp % 2 ^ 16 * 2 ^ 48 + tag % 2 ^ 16 * 2 ^ 32)
  let p : CtrlPkt := ⟨h, payload⟩
  { p with hdr := setField p.hdr 31 0 (ctrlCrc p).toNat }

def getRouter (s : State) (die : Nat) : Router := vget {} s.fab.routers die
def putRouter (s : State) (die : Nat) (r : Router) : State :=
  { s with fab := { s.fab with routers := vset s.fab.routers die r } }

/-- A control packet enters the router of a die. -/
def injectCtrl (s : State) (die : Nat) (p : CtrlPkt) : State :=
  let r := getRouter s die
  putRouter s die { r with ctrlIn := r.ctrlIn ++ [⟨none, p⟩] }

/-- The slice master's endpoint ID (R216). -/
def masterEp (s : State) : BitVec 16 := s.fab.torus.master.value

/-- This module is the slice master. -/
def isMaster (s : State) : Bool := s.fab.hasId && decide (masterEp s = s.fab.ownId)

/-- The vote of the slice master's ID as a report takes it along (R185). -/
def repairMaster (s : State) : State :=
  repairWord s.fab.torus.master 0 (fun t s => { s with fab := { s.fab with torus := { s.fab.torus with master := t } } }) s

/-- A router that reads an uncorrectable entry reports it to the slice master, at most once per ID in 1 ms (R192, R229). -/
def reportPiste (die ep : Nat) (s : State) : State :=
  if !(getRouter s die).pisteBad.contains ep then s
  else
    let key := 65536 * die + ep
    let recent := match mfind s.fab.pisteFaultAt key with
      | some t => decide (s.clk.tick < t + msTicks 1)
      | none => false
    if recent then s
    else
      let s := repairMaster s
      injectCtrl { s with fab := { s.fab with pisteFaultAt := mset s.fab.pisteFaultAt key s.clk.tick } } die
        (mkCtrl s die (masterEp s).toNat 0xA false 0 0 0 0 (BitVec.ofNat 128 (ep * 2 ^ 112)))

/-- What the code of a piste-table entry finds as it is looked up (R182, R184, R218). -/
def notePiste (die ep : Nat) (s : State) (x : Find) : State :=
  let r := getRouter s die
  match x with
  | .pisteCe e => if e = ep ∧ r.pisteBad.contains ep = false then correctable (regionPiste die) s else s
  | .pisteUe e => if e = ep ∧ r.pisteBad.contains ep = false then putRouter s die { r with pisteBad := ep :: r.pisteBad } else s
  | _ => s

/-- A look-up of a piste-table entry: what its code finds, one uncorrectable-class event of the die where it cannot be trusted, and the report (R184, R192, R229). -/
def readPiste (die ep : Nat) (chk : Chk) (s : State) : State :=
  let s := (findings chk).foldl (notePiste die ep) s
  if (getRouter s die).pisteBad.contains ep then reportPiste die ep (uncorrectable (regionPiste die) s) else s

end Sys2Proof.Machine
end

