-- ==== Sys2Proof/Machine/DmaMove.lean ====
section
/-! DEFINITION. DMA descriptors (R154) and the movement of their bytes (R155, R226): pieces, prefixes, status words (R156, R157). -/
namespace Sys2Proof.Machine

/-- Fields of a DMA descriptor (R154). -/
def dmaSrc (d : BitVec 512) : Nat := field d 511 464
def dmaDst (d : BitVec 512) : Nat := field d 463 416
def dmaFlagAddr (d : BitVec 512) : Nat := field d 415 368
def dmaFlagVal (d : BitVec 512) : Nat := field d 367 304
def dmaLength (d : BitVec 512) : Nat := field d 303 272
def dmaSrcPitch (d : BitVec 512) : Nat := field d 271 240
def dmaDstPitch (d : BitVec 512) : Nat := field d 239 208
def dmaRows (d : BitVec 512) : Nat := field d 207 192
def dmaDestEp (d : BitVec 512) : Nat := field d 191 176
def dmaEpoch (d : BitVec 512) : Nat := field d 175 160
def dmaXfer (d : BitVec 512) : Nat := field d 159 144
def dmaRemote (d : BitVec 512) : Bool := bit d 143
def dmaFlagEn (d : BitVec 512) : Bool := bit d 142

/-- Bytes the descriptor moves. -/
def dmaTotal (d : BitVec 512) : Nat := dmaRows d * dmaLength d

/-- Source and destination of row j (R155: modulo 2^48). -/
def dmaRowSrc (d : BitVec 512) (j : Nat) : Nat := (dmaSrc d + j * dmaSrcPitch d) % 2 ^ 48
def dmaRowDst (d : BitVec 512) (j : Nat) : Nat := (dmaDst d + j * dmaDstPitch d) % 2 ^ 48

/-- The pieces of `n` bytes from `src` to `dst`, cut where the destination is a multiple of `cut`. -/
def cutPieces : (fuel cut src dst n : Nat) → List (Nat × Nat × Nat)
  | 0, _, _, _, _ => []
  | fuel + 1, cut, src, dst, n =>
    if n = 0 then []
    else
      let k := Nat.min n (cut - dst % cut)
      (src, dst, k) :: cutPieces fuel cut (src + k) (dst + k) (n - k)

/-- The pieces of the first `n` bytes of a descriptor in row order: source, destination, length. -/
def dmaPieces (d : BitVec 512) (cut n : Nat) : List (Nat × Nat × Nat) :=
  (List.range (dmaRows d)).flatMap (fun j =>
    let len := Nat.min (dmaLength d) (n - j * dmaLength d)
    cutPieces (len / cut + 2) cut (dmaRowSrc d j) (dmaRowDst d j) len)

/-- The largest prefix of at most `n` bytes that ends at a row's end or at a granule boundary of the destination (R157: before the affected granule). -/
def granulePrefix (d : BitVec 512) (n : Nat) : Nat :=
  if dmaLength d = 0 then 0
  else
    let j := n / dmaLength d
    let k := n % dmaLength d
    if k = 0 then n else n - Nat.min k ((dmaRowDst d j + k) % 64)

/-- The offset in row order of the first byte of the descriptor whose source address the store cannot trust. -/
def dmaBadAt (s : State) (d : BitVec 512) (bad : Nat) : Option Nat :=
  (List.range (dmaRows d)).findSome? (fun j =>
    match toStore s.map (dmaRowSrc d j) (dmaLength d) with
    | some a => if a ≤ bad ∧ bad < a + dmaLength d then some (j * dmaLength d + (bad - a)) else none
    | none => none)

/-- Source ranges of a descriptor in the store. -/
def dmaRanges (s : State) (d : BitVec 512) : List (Nat × Nat) :=
  (List.range (dmaRows d)).filterMap (fun j => (toStore s.map (dmaRowSrc d j) (dmaLength d)).map (fun a => (a, dmaLength d)))

/-- An address lies in host memory. -/
def isHost (a : Nat) : Bool :=
  match placeOf a 1 with
  | .host _ => true
  | _ => false

/-- Some source row, and some destination row, of a descriptor lies in host memory. -/
def dmaHostSrc (d : BitVec 512) : Bool := decide (dmaTotal d ≠ 0) && (List.range (dmaRows d)).any (fun j => isHost (dmaRowSrc d j))
def dmaHostDst (d : BitVec 512) : Bool := decide (dmaTotal d ≠ 0) && (List.range (dmaRows d)).any (fun j => isHost (dmaRowDst d j))

/-- The header of a request to a bus address: 64-bit addressing from 4 GiB, every attribute 0 (R359). -/
def tlpTo (a : Nat) : Tlp := { addr := a, wide := decide (2 ^ 32 ≤ a) }

/-- Host bytes leave in write TLPs of at most Max Payload Size that cross no 4 KiB boundary (R359). -/
def hostPieces : (fuel mps addr : Nat) → List Byte → List (Nat × List Byte)
  | 0, _, _, _ => []
  | fuel + 1, mps, addr, bs =>
    if bs = [] then []
    else
      let k := Nat.min (Nat.max mps 1) (4096 - addr % 4096)
      (addr, bs.take k) :: hostPieces fuel mps (addr + k) (bs.drop k)

def writeHost (addr : Nat) (bs : List Byte) (s : State) : State :=
  (hostPieces bs.length s.pcie.maxPayload addr bs).foldl (fun s (a, p) => emit s (.hostWrite (tlpTo a) p)) s

/-- One write of an agent of a core within the module, with what its command finds: into the core's own SPM or a tier it lands; to another core's SPM it goes as a die-network packet with the epoch it expects, to the physical core that the map names now (R45, R76, R155); to host memory it leaves as TLPs. -/
def localWrite (chk : Chk) (c : CoreRef) (thread epoch : Nat) (owner : Option Nat) (dst : Nat) (bs : List Byte) (s : State) : State :=
  match placeOf dst bs.length with
  | .spm die core off =>
    if die = c.die ∧ core = c.core then arriveQuiet chk (ownSpm s c off) bs s
    else
      let (id, s) := takeId s
      { s with noc := s.noc ++ [⟨id, c.die, c.core, thread, dst, physOf s.map die core, bs, BitVec.ofNat 16 epoch, owner⟩] }
  | .host bus => writeHost bus bs s
  | .tier1 => arriveQuiet chk dst bs s
  | .tier2 => arriveQuiet chk dst bs s
  | _ => s

/-- The bytes of a source range as a read returns them. -/
def sourceBytes (s : State) (src n : Nat) : List Byte :=
  match toStore s.map src n with
  | some a => readBytes s.mem a n
  | none => List.replicate n 0

/-- A destination address lies in another core's SPM window. -/
def otherSpm (c : CoreRef) (a : Nat) : Bool :=
  match placeOf a 1 with
  | .spm die core _ => decide (die ≠ c.die ∨ core ≠ c.core)
  | _ => false

/-- Some row of a descriptor goes to another core's SPM window. -/
def dmaExternal (c : CoreRef) (d : BitVec 512) : Bool :=
  (List.range (dmaRows d)).any (fun j => otherSpm c (dmaRowDst d j))

/-- Pieces of a descriptor that leave the core are cut at multiples of 4096 (R155); the others land granule by granule. -/
def dmaCut (c : CoreRef) (d : BitVec 512) : Nat :=
  if dmaHostDst d || dmaExternal c d then 4096 else 64

/-- The first `n` bytes of a local descriptor move, in order. -/
def dmaMove (chk : Chk) (c : CoreRef) (id : Nat) (d : BitVec 512) (n : Nat) (s : State) : State :=
  (dmaPieces d (dmaCut c d) n).foldl (fun s (src, dst, k) =>
    localWrite chk c 64 (dmaEpoch d) (some id) dst (sourceBytes s src k) s) s

/-- The first `n` bytes of a descriptor, taken from given bytes in row order, move to its destination. -/
def dmaMoveBytes (chk : Chk) (c : CoreRef) (id : Nat) (d : BitVec 512) (bs : List Byte) (n : Nat) (s : State) : State :=
  ((dmaPieces d (dmaCut c d) n).foldl (fun (s, rest) (_, dst, k) =>
    (localWrite chk c 64 (dmaEpoch d) (some id) dst (slice rest 0 k) s, rest.drop k)) (s, bs)).1

/-- Die-network packets of a descriptor that have not arrived. -/
def nocOwned (s : State) (id : Nat) : List NocPacket := s.noc.filter (fun p => decide (p.owner = some id))

/-- The leading packets whose bytes total at most `n`. -/
def nocWithin : List NocPacket → Nat → List NocPacket
  | [], _ => []
  | p :: ps, n => if p.data.length ≤ n then p :: nocWithin ps (n - p.data.length) else []

def getChannel (s : State) (c : CoreRef) (ch : Nat) : DmaChannel := vget {} (getCore s c).dma ch
def putChannel (s : State) (c : CoreRef) (ch : Nat) (x : DmaChannel) : State :=
  let k := getCore s c
  putCore s c { k with dma := vset k.dma ch x }

/-- A descriptor's status word is written to bytes 0 to 7 of its SPM location (R156 step 2, R157). -/
def writeDmaStatus (c : CoreRef) (off code done : Nat) (s : State) : State :=
  landQuiet (ownSpm s c off) (toLE 8 (code * 2 ^ 56 + done % 2 ^ 48)) s

/-- A descriptor has completed with a code: the channel's status word counts it (R161). -/
def countDma (c : CoreRef) (ch code : Nat) (s : State) : State :=
  let x := getChannel s c ch
  putChannel s c ch { x with lastCode := BitVec.ofNat 8 code, err := x.err || decide (code ≠ 1), completed := x.completed + 1 }

/-- The executing descriptor has completed; a code other than DONE cancels what is queued (R158). -/
def closeDma (c : CoreRef) (ch code : Nat) (s : State) : State :=
  let s := countDma c ch code s
  let x := getChannel s c ch
  let s := putChannel s c ch { x with exec := none, queue := if code = 1 then x.queue else [] }
  (if code = 1 then [] else x.queue).foldl (fun s (q : DmaEntry) => countDma c ch 7 (writeDmaStatus c q.off 7 0 s)) s

/-- The executing descriptor ends with a code: its status word is written, then its flag; it has completed when the flag has landed, at once unless the flag is a die-network packet (R155, R156). -/
def finishDma (c : CoreRef) (ch : Nat) (e : DmaEntry) (code done : Nat) (s : State) : State :=
  let s := writeDmaStatus c e.off code done s
  if code = 1 ∧ dmaFlagEn e.desc ∧ !dmaRemote e.desc then
    let x := getChannel s c ch
    let s := localWrite ((x.exec.map (fun y => y.chk)).getD .ok) c 64 (dmaEpoch e.desc) (x.exec.map (fun y => y.id)) (dmaFlagAddr e.desc)
      (toLE 8 (dmaFlagVal e.desc)) s
    if otherSpm c (dmaFlagAddr e.desc) && x.exec.isSome then
      putChannel s c ch { x with exec := x.exec.map (fun y => { y with flagOut := true }) }
    else closeDma c ch code s
  else closeDma c ch code s

/-- Data packets of a descriptor that wait in this module: in a router, or in an output queue (R156, R231). -/
def waitingData (s : State) (id : Nat) : List DataPkt :=
  (s.fab.routers.toList.flatMap (fun r => r.dataIn.filterMap (fun (p : RoutedData) => if p.owner = some id then some p.pkt else none)))
    ++ (s.fab.links.toList.flatMap (fun l => l.outData.filterMap (fun (p : OutData) => if p.owner = some id then some p.pkt else none)))

/-- BYTES of a data packet (R223). -/
def dataBytes (p : DataPkt) : Nat := field p.hdr 125 113

/-- Bytes of a descriptor that a bank or the own router has discarded are never delivered (R156, R191). -/
def discardOwned (owner : Option Nat) (n : Nat) (s : State) : State :=
  match owner with
  | none => s
  | some id => { s with cores := s.cores.map (fun (key, k) => (key, { k with dma := k.dma.map (fun x =>
      { x with exec := x.exec.map (fun e => if e.id = id then { e with discarded := e.discarded + n } else e) }) })) }

/-- The reads of a requester are given up: those that have left still get their completions, which are dropped. -/
def dropReads (reader : HostReader) (s : State) : State :=
  let kept := s.pcie.reads.filter (fun r => decide (r.reader ≠ reader) || (r.sentAt.isSome && r.data.isNone))
  { s with pcie := { s.pcie with reads := kept.map (fun r => if r.reader = reader then { r with reader := .gone } else r) } }

/-- The module's waiting data packets of a descriptor are withdrawn. -/
def withdrawData (id : Nat) (s : State) : State :=
  { s with fab := { s.fab with
    routers := s.fab.routers.map (fun r => { r with dataIn := r.dataIn.filter (fun p => decide (p.owner ≠ some id)) })
    links := s.fab.links.map (fun l => { l with outData := l.outData.filter (fun p => decide (p.owner ≠ some id)) }) } }

/-- A channel halts with its core (R65 step 4): what has moved by then is free within the rate of R160, in whole granules. -/
def haltDma (c : CoreRef) (ch : Nat) (s : State) : State :=
  let x := getChannel s c ch
  match x.exec with
  | none =>
    -- the descriptor at the head has not begun (R157)
    (match x.queue with
     | [] => s
     | e :: rest => finishDma c ch e 5 0 (putChannel s c ch { x with queue := rest }))
  | some e =>
    let d := e.e.desc
    if e.flagOut then closeDma c ch 1 s
    else if dmaRemote d then
      let waiting := ((waitingData s e.id).map dataBytes).sum
      finishDma c ch e.e 5 (e.doneBytes - waiting - e.discarded) (withdrawData e.id s)
    else
      let s := dropReads (.dma e.id) s
      let (f, s) := takeFree s
      let most := Nat.min (dmaTotal d) (64 * (aclkOf s c.die - e.began))
      if 0 < e.doneBytes then
        -- its packets are on the die network: what has not been sent by the halt is withdrawn
        let mine := nocOwned s e.id
        let landed := e.doneBytes - (mine.map (fun p => p.data.length)).sum
        let sent := nocWithin mine (f.toNat % (most - landed + 1))
        let s := { s with noc := s.noc.filter (fun p => decide (p.owner ≠ some e.id) || sent.contains p) }
        finishDma c ch e.e 5 (landed + (sent.map (fun p => p.data.length)).sum) s
      else if dmaHostSrc d then finishDma c ch e.e 5 0 s
      else
        let n := if e.code = 1 then granulePrefix d (f.toNat % (most + 1)) else 0
        finishDma c ch e.e 5 n (dmaMove .ok c e.id d n s)

end Sys2Proof.Machine
end

