-- ==== Sys2Proof/Machine/Fault.lean ====
section
/-! DEFINITION. Traps (R65 to R67), step faults (R193, R290), aborts (R266), the fatal integrity path (R186), votes of critical words (R185), and landing writes with the fault of R192. -/
namespace Sys2Proof.Machine

/-! ### Glide releases (R246, R250) -/

/-- The epoch of a group (R245). -/
def groupEpoch (s : State) (h : Nat) : BitVec 16 := mget 0 s.grp.epochs h

/-- The group handle of the lift (R271). -/
def stepGroup (s : State) : Nat := field s.run.hdr 239 224

/-- ORIGIN at the slice master: its time rounded up to 4096 ns, plus 16,384 ns (R232). -/
def originNow (s : State) : Nat := ceilDiv (timeNs s 0).toNat 4096 * 4096 + 16384

/-- A release goes to every input that sent an arrival, and the operation's state is cleared (R246, R247). -/
def releaseGlide (h : Nat) (status : Nat) (payload : BitVec 128) (s : State) : State :=
  let op := mget {} s.grp.glideOps h
  let s := { s with grp := { s.grp with glideOps := mdel s.grp.glideOps h } }
  let typ := if op.op ≤ 5 then 3 else 2
  op.inputs.foldl (fun s (i : GlideSrc) =>
    match i with
    | .child ep => injectCtrl s 0 (mkCtrl s 0 ep.toNat typ true 0 0 (groupEpoch s h).toNat (0x8000 + status % 8 * 4096 + h % 4096) payload)
    | i => { s with grp := { s.grp with releases := s.grp.releases ++ [⟨i, h, BitVec.ofNat 8 status, payload⟩] } }) s

/-- The payload of a root's release: on STEP_GROUP every release carries ORIGIN (R280). -/
def rootPayload (s : State) (h : Nat) (result : BitVec 128) : BitVec 128 :=
  if h = stepGroup s then BitVec.ofNat 128 (originNow s * 2 ^ 64 + field result 63 0) else result

/-- The root releases an operation in progress with an abort's status (R266). -/
def rootAbort (status h : Nat) (s : State) : State :=
  match mfind s.grp.glideOps h with
  | none => s
  | some _ => if status = 3 ∧ h = stepGroup s then s else releaseGlide h status (rootPayload s h 0) s

/-! ### Aborts (R266) -/

/-- Endpoint of a member list entry. -/
def memberEp (e : BitVec 32) : Nat := field e 31 16

/-- Handles of the groups that hold a module. -/
def groupsOf (s : State) (ep : Nat) : List Nat :=
  s.grp.recs.filterMap (fun (h, r) => if r.members.any (fun e => decide (memberEp e = ep)) then some h else none)

/-- Endpoints of a group's members, once each. -/
def groupEps (s : State) (h : Nat) : List Nat :=
  match mfind s.grp.recs h with
  | none => []
  | some r => (r.members.map memberEp).eraseDups

/-- The payload of an ABORT (R255). -/
def abortPayload (s : State) (h reason : Nat) : BitVec 128 :=
  BitVec.ofNat 128 (2 * 2 ^ 120 + (groupEpoch s h).toNat * 2 ^ 104 + reason % 16 * 2 ^ 84 + s.run.commit.value.toNat)

/-- One ABORT of a group to a module: it reads the step commit counter, which votes (R185, R454). -/
def sendAbort (dest h reason : Nat) (s : State) : State :=
  let s := repairWord s.run.commit 0 (fun t s => { s with run := { s.run with commit := t } }) s
  injectCtrl s 0 (mkCtrl s 0 dest 4 false 0 0 0 h (abortPayload s h reason))

/-- The slice master relays an abort to the other members of its group; the root releases that group's glide operation on FAILED_MEMBER, and on MEMBER_STOPPED every glide operation in progress but the lift (R266). -/
def relayAbort (reason except_ h : Nat) (s : State) : State :=
  let s := ((groupEps s h).filter (fun e => decide (e ≠ s.fab.ownId.toNat) && decide (e ≠ except_))).foldl (fun s e => sendAbort e h reason s) s
  (if reason = 3 then s.grp.glideOps.map (fun o => o.1) else [h]).foldl (fun s g => rootAbort reason g s) s

/-! ### Stopping a core (R65 steps 1 to 5) -/

/-- The new word of an atomic from its old word, at its width (R61). -/
def atomicResult (op : AtomOp) (bytes : Nat) (old operand compare : Nat) : Nat :=
  let w := 8 * bytes
  let sgn (x : Nat) : Int := (BitVec.ofNat w x).toInt
  match op with
  | .add => (old + operand) % 2 ^ w
  | .max => if sgn old < sgn operand then operand % 2 ^ w else old
  | .min => if sgn operand < sgn old then operand % 2 ^ w else old
  | .xchg => operand % 2 ^ w
  | .cas => if old = operand % 2 ^ w then compare % 2 ^ w else old

/-- A window of a core by an SPM offset (R74). -/
def windowOf (off : Nat) : Nat := off / (Config.spmBytes / 8)

/-- d of R76: expected minus current, modulo 65,536. -/
def epochDelta (expected current : BitVec 16) : Nat := (expected - current).toNat

/-- The epoch of a window of a core. -/
def windowEpoch (s : State) (c : CoreRef) (w : Nat) : BitVec 16 := (vget ⟨0, 0, 0⟩ (getCore s c).windows w).value

/-- A dropped packet is counted at the destination core (R76): 7 early, 8 stale. -/
def countDrop (s : State) (c : CoreRef) (d : Nat) : State := coreCount s c (if d < 32768 then 7 else 8) 1

/-- The window of another core's SPM that a request addresses (R76, R77). -/
def remoteWindow (c : CoreRef) (r : MemReq) : Option (CoreRef × Nat) :=
  match placeOf r.addr 1 with
  | .spm die core off => if die = c.die ∧ core = c.core then none else some (⟨die, core⟩, windowOf off)
  | _ => none

/-- A window epoch written, and its vote inside an operation that goes on (R185). -/
def putWindow (c : CoreRef) (w : Nat) (t : Tri (BitVec 16)) (s : State) : State :=
  putCore s c { getCore s c with windows := vset (getCore s c).windows w t }
def repairWindow (c : CoreRef) (w : Nat) (s : State) : State :=
  repairWord (vget ⟨0, 0, 0⟩ (getCore s c).windows w) c.die (putWindow c w) s

/-- The vote of a core role epoch that a packet of the core takes along (R185, R454). -/
def repairEpoch (c : CoreRef) (s : State) : State :=
  repairWord (getCore s c).epoch c.die (fun t s => putCore s c { getCore s c with epoch := t }) s

/-- An atomic acts on its word (R177); the write is quiet, and a word that cannot be trusted is not written. Answers the old word, or none when its epoch is refused (R180). -/
def atomicAct (c : CoreRef) (r : MemReq) (op : AtomOp) (bytes : Nat) (operand compare : Word) (s : State) : State × Option Nat :=
  let refused : Option (CoreRef × Nat) := match remoteWindow c r with
    | some (t, w) =>
      let d := epochDelta r.epoch (windowEpoch s t w)
      if d = 0 then none else some (t, d)
    | none => none
  match refused with
  | some (t, d) => (countDrop s t d, none)
  | none =>
    match r.store with
    | none => (s, none)
    | some a =>
      let old := readNum s.mem a bytes
      if (badIn s.mem a bytes).isSome then (s, some old)
      else (landQuiet a (toLE bytes (atomicResult op bytes old operand.toNat compare.toNat)) s, some old)

/-- Outstanding requests of a stopping core: loads are discarded, atomics already sent act unless they have acted (R65 step 5; log 31). -/
def dropRequests (c : CoreRef) (s : State) : State :=
  let reqs := (getCore s c).requests
  let s := reqs.foldl (fun s (r : MemReq) =>
    match r.kind, r.value with
    | .atomic op bytes operand compare, none =>
      let s := match remoteWindow c r with
        | some (t, w) => repairWindow t w s
        | none => s
      (atomicAct c r op bytes operand compare s).1
    | _, _ => s) s
  putCore s c { getCore s c with requests := [], drops := [] }

/-- STATUS of a collective's descriptor is written at completion (R253, R265). -/
def writeColStatus (c : CoreRef) (off status : Nat) (s : State) : State :=
  landQuiet (ownSpm s c off) (toLE 8 (status * 2 ^ 56)) s

/-! ### The commit gate (R284, R286) -/

/-- FP32 square root of an exact sum, rounded once (R286). -/
def sqrtF32 (v : Val) : BitVec 32 :=
  match v with
  | .fin s m e => if m = 0 then 0 else if s then 0x7FC00000 else let (r, k) := sqrtVal m e; toF32 (.fin false r k)
  | .inf _ => 0x7F800000
  | .nan => 0x7FC00000

/-- CLIP of R286: CLIP_NORM ÷ √sum rounded once, 1.0 where the rule says so; none for an infinite threshold against an infinite sum, on which the spec states nothing. -/
def clipF32 (clip sum : Val) : Option (BitVec 32) :=
  match clip, sum with
  | .fin _ 0 _, _ => some 0x3F800000
  | _, .fin _ 0 _ => some 0x3F800000
  | .inf _, .fin _ _ _ => some 0x3F800000
  | .inf _, _ => none
  | _, .inf _ => some 0
  | .nan, _ => some 0x7FC00000
  | _, .nan => some 0x7FC00000
  | c, x =>
    let sq := c.mul c
    if sq.below x then some (sqrtF32 (sq.div x)) else some 0x3F800000

/-- The gate record (R286). -/
def gateRecord (decision nonfinite sumHi : Nat) (norm clip : BitVec 32) : BitVec 256 :=
  BitVec.ofNat 256 (nonfinite % 2 ^ 64 * 2 ^ 192 + sumHi % 2 ^ 64 * 2 ^ 128 + norm.toNat * 2 ^ 96 + clip.toNat * 2 ^ 64 + decision * 2 ^ 56)

/-- The record at GATE_RECORD and in object 0x2008 (R286). -/
def writeGate (g : Gate) (r : BitVec 256) (s : State) : State :=
  let s := { s with run := { s.run with gate := g, lastGate := r } }
  landQuiet (field s.run.hdr 383 320) (toLE 32 r.toNat) s

/-- The gate closes with a fault: no valid record exists (R284, R286). -/
def gateFaulted (s : State) : State :=
  writeGate .faulted (gateRecord 3 (2 ^ 64 - 1) 0x7FF8000000000000 0x7FC00000 0x7FC00000) s

/-- The gate is decided by a record with status OK (R284, R286). -/
def gateDecided (hi lo : BitVec 64) (nonfinite : Nat) (s : State) : State :=
  let sum := (ofF64 hi).add (ofF64 lo)
  let closed := decide (0 < nonfinite)
  let (f, s') := takeFree s
  let bad := closed && sum.nonFinite
  match clipF32 (ofF32 (BitVec.ofNat 32 (field s.run.hdr 287 256))) sum with
  | some c =>
    writeGate (if closed then .closed else .opened)
      (gateRecord (if closed then 2 else 1) nonfinite hi.toNat (if bad then 0x7FC00000 else sqrtF32 sum) (if bad then 0x7FC00000 else c)) s
  | none =>
    if bad then writeGate .closed (gateRecord 2 nonfinite hi.toNat 0x7FC00000 0x7FC00000) s
    else writeGate (if closed then .closed else .opened)
      (gateRecord (if closed then 2 else 1) nonfinite hi.toNat (sqrtF32 sum) (f.setWidth 32)) s'

/-- A collective is the gate operation of the step, whose gate is not decided (R284). -/
def isGateOp (s : State) (e : ColEntry) : Bool :=
  match e.kind with
  | .bulk d _ =>
    decide (field d 267 264 = 7) && decide (field s.run.hdr 223 208 ≠ 0xFFFF) && decide (e.handle = field s.run.hdr 223 208)
      && decide (field d 319 304 = field s.run.hdr 207 192) && s.run.gate == .undecided && s.run.phase == .inStep
  | _ => false

/-- The collective engine of a stopping core: queued operations are discarded, operations in progress end with MEMBER_STOPPED, an operation that had ended otherwise with its own status (R65 step 3, R266); a gate operation that does not end with OK closes the gate with a fault (R284). -/
def dropCollectives (c : CoreRef) (s : State) : State :=
  let k := getCore s c
  let s := k.colQueue.foldl (fun s (e : ColEntry) =>
    match e.kind, e.phase with
    | .bulk _ _, .queued => s
    | .bulk _ off, .ended x => writeColStatus c off (if x = 2 then 2 else 3) (if isGateOp s e then gateFaulted s else s)
    | .bulk _ off, _ => writeColStatus c off 3 (if isGateOp s e then gateFaulted s else s)
    | _, _ => s) s
  let k := getCore s c
  putCore s c { k with colQueue := [], colRecords := k.colRecords.map (fun r => { r with status := some (r.status.getD 3) }) }

/-- A core stops: nothing issues any more and every unit is cut off; what has been written stays (R65 steps 1 to 5). Planes and the record of an issued fill stand as they are (DESIGN CHOICE, log 126). -/
def haltCore (c : CoreRef) (s : State) : State :=
  if (getCore s c).phase = .stopped then s
  else
    let s := dropCollectives c (dropRequests c s)
    let s := (List.range Config.dmaChannels).foldl (fun s ch => haltDma c ch s) s
    let k := getCore s c
    let lost := (k.mxa.flight.flatMap (fun (f : ArrayFlight) => f.reach))
    let m := { k.mxa with queue := [], flight := [], releasing := [], acs := k.mxa.acs.filter (fun e => !lost.contains e.1) }
    putCore s c { k with
      phase := .stopped, mxa := m, vecQueue := [], vecFlight := [], flags := [],
      threads := k.threads.map (fun (t, x) => (t, { x with mode := .halted, busy := 0, allocWait := false })) }

/-- Every core of the module stops (R290 step 1). -/
def haltAll (s : State) : State :=
  (s.cores.map (fun e => e.1)).foldl (fun s key => haltCore ⟨key / 256, key % 256⟩ s) s

/-! ### Fatal integrity path (R186) and votes (R185) -/

/-- The module reports itself lost, once: to the slice master, or to the deputy when it is the slice master itself (R186, R306; log 30). -/
def markLost (s : State) : State :=
  if s.fail.reportedLost then s
  else
    let s := repairMaster { s with fail := { s.fail with reportedLost := true } }
    if s.fab.hasId then emit s (.lostReport (if isMaster s then s.fail.deputy else masterEp s)) else s

/-- The module reports itself lost, once, with its record of class 0x09 (R294, R313, R314, R393; log 30). -/
def reportLost (s : State) : State :=
  if s.fail.reportedLost then s else markLost (cper { cls := 9, action := 5 } s)

/-- The critical words (R185). -/
inductive CriticalWord where
  | coreEpoch (c : CoreRef)
  | windowEpoch (c : CoreRef) (w : Nat)
  | commitCounter
  | tableEpoch
  | sliceMaster
  | keyHash (i : Nat)
  | maintainerHash
  | floor (i : Nat)
  | revocation
  | optionWord (i : Nat)
  /-- An entry of the core map, loaded from the option words (R72). -/
  | mapEntry (die core : Nat)
deriving DecidableEq, Repr

/-- The die of a critical word. -/
def CriticalWord.die : CriticalWord → Nat
  | .coreEpoch c => c.die
  | .windowEpoch c _ => c.die
  | .mapEntry die _ => die
  | _ => 0

/-- How a record names a critical word: its number in DETAIL, RDSPEC's index where it has one, and an option word's place in ADDR (R55, R186; log 118). -/
def CriticalWord.code : CriticalWord → Nat × Nat
  | .coreEpoch _ => (0x05, 0)
  | .windowEpoch _ w => (0x08 + w, 0)
  | .commitCounter => (0x11, 0)
  | .tableEpoch => (0x20, 0)
  | .sliceMaster => (0x21, 0)
  | .keyHash i => (0x30 + i, 0)
  | .maintainerHash => (0x34, 0)
  | .floor i => (0x38 + i, 0)
  | .revocation => (0x3B, 0)
  | .optionWord i => (0x40, i)
  | .mapEntry _ core => (0x41, core)

/-- The record of a lost critical word: its core, or its die (R186, R315). -/
def wordSignature (s : State) (w : CriticalWord) : Signature :=
  let g : Signature := { cls := 0xA, action := 5, unitType := 4, unitIndex := w.die, die := w.die, detail := w.code.1, addr := w.code.2,
                         history := historyCount s (.die w.die) }
  match w with
  | .coreEpoch c => { g with unitType := 0, unitIndex := physCore s c, lcore := c.core, history := historyCount s (.core c.die (physCore s c)) }
  | .windowEpoch c _ => { g with unitType := 0, unitIndex := physCore s c, lcore := c.core, history := historyCount s (.core c.die (physCore s c)) }
  | _ => g

/-- The step program fails: every core stops, and a snapshot stop ends with it (R278, R281 to R283, R303, R308). -/
def failRun (status : BitVec 8) (s : State) : State :=
  let s := haltAll (setRunState 4 { s with run := { s.run with status := status, phase := .idle } })
  if s.fail.phase = 1 then setPhase 0 s else s

/-- The step program, if it loads or runs, stops at once without a commit (R186). -/
def stopForGood (status : BitVec 8) (s : State) : State :=
  if s.run.state = 2 ∨ s.run.state = 3 ∨ s.run.state = 1 then failRun status s else s

/-- The fatal integrity path: the step program stops, a record names the word, and the module reports itself lost (R186); one uncorrectable-class event of the die (R192, R313). -/
def fatalIntegrity (w : CriticalWord) (s : State) : State :=
  let s := uncorrectable (regionCritical w.die) (stopForGood 0x13 s)
  markLost (cper (wordSignature s w) s)

/-- A read of a critical word votes: one differing copy is rewritten and counted; three differing copies take the fatal path (R185, R186). -/
def vote {α : Type} [DecidableEq α] (w : CriticalWord) (t : Tri α) (put : Tri α → State → State) (s : State) : State :=
  match voteOf t with
  | .agree => s
  | .repaired => correctable (regionCritical w.die) (put (votedWord t) s)
  | .lost => fatalIntegrity w s

/-- Votes of the words that a command reads. -/
def voteCommit (s : State) : State := vote .commitCounter s.run.commit (fun t s => { s with run := { s.run with commit := t } }) s
def voteTable (s : State) : State := vote .tableEpoch s.fab.tableEpoch (fun t s => { s with fab := { s.fab with tableEpoch := t } }) s
def voteMaster (s : State) : State :=
  vote .sliceMaster s.fab.torus.master (fun t s => { s with fab := { s.fab with torus := { s.fab.torus with master := t } } }) s
def voteEpoch (c : CoreRef) (s : State) : State :=
  vote (.coreEpoch c) (getCore s c).epoch (fun t s => putCore s c { getCore s c with epoch := t }) s
def voteWindow (c : CoreRef) (w : Nat) (s : State) : State :=
  vote (.windowEpoch c w) (vget ⟨0, 0, 0⟩ (getCore s c).windows w) (putWindow c w) s
def voteKeyHash (i : Nat) (s : State) : State :=
  vote (.keyHash i) (vget ⟨0, 0, 0⟩ s.boot.keyHash i) (fun t s => { s with boot := { s.boot with keyHash := vset s.boot.keyHash i t } }) s
def voteMaintHash (s : State) : State :=
  vote .maintainerHash s.boot.maintHash (fun t s => { s with boot := { s.boot with maintHash := t } }) s
def voteFloor (i : Nat) (s : State) : State :=
  vote (.floor i) (vget ⟨0, 0, 0⟩ s.boot.floors i) (fun t s => { s with boot := { s.boot with floors := vset s.boot.floors i t } }) s
def voteRevoked (s : State) : State := vote .revocation s.boot.revoked (fun t s => { s with boot := { s.boot with revoked := t } }) s
def voteWordAt (i : Nat) (s : State) : State :=
  vote (.optionWord i) (s.opt.words.getD i ⟨0, 0, 0⟩) (fun t s => { s with opt := { s.opt with words := putAt s.opt.words i t } }) s

/-! ### Step faults (R193, R281, R290) -/

/-- A module with a step fault or a trap sends MEMBER_STOPPED, on STEP_GROUP (R266, R290; log 48). -/
def abortStopped (s : State) : State :=
  let s := voteCommit (voteMaster s)
  if isMaster s then relayAbort 3 s.fab.ownId.toNat (stepGroup s) s
  else sendAbort (masterEp s).toNat (stepGroup s) 3 s

/-- The step in progress is marked not committable: cores stop and the abort goes out, once; a fault found after the arrival is kept for the next step. -/
def markFault (s : State) : State :=
  match s.run.phase with
  | .inStep =>
    if s.run.faulted && !s.run.carried then s
    else abortStopped (haltAll { s with run := { s.run with faulted := true, carried := false } })
  | .arrived => { s with run := { s.run with faultKept := true } }
  | .snapCheck => { s with run := { s.run with faultKept := true } }
  | .snapCopy => { s with run := { s.run with faultKept := true } }
  | .resume => { s with run := { s.run with faultKept := true } }
  | _ => s

/-- A step fault: its CPER record, then the mark (R193). What the stop itself writes may lose bytes, whose faults `stepFault` raises as well. -/
def faultOnce (g : Signature) (s : State) : State := markFault (cper g (voteCommit s))

/-- The step faults of the words that have lost merged bytes (R187, R192) and of the writes that were discarded (R191). -/
def raiseLost (s : State) : State :=
  (s.intg.lost ++ s.intg.missed).foldl (fun s b => faultOnce (heldAt s b { cls := 6, action := 2 }) s) { s with intg := { s.intg with lost := [], missed := [] } }

/-- Every one of them gets its step fault, those of the writes of a stop that the first ones cause included. -/
def settleLost (s : State) : State := if s.intg.lost = [] ∧ s.intg.missed = [] then s else raiseLost (raiseLost s)

/-- A step fault (R193). -/
def stepFault (g : Signature) (s : State) : State := settleLost (faultOnce g s)

/-- A step fault of class 0x06 at an address of the store. -/
def storeFault (a : Nat) (s : State) : State := stepFault (heldAt s a { cls := 6, action := 2 }) s

/-- A write lands; merged bytes lost to an uncorrectable word raise a step fault (R187, R192). -/
def land (a : Nat) (bs : List Byte) (s : State) : State := settleLost (landQuiet a bs s)

/-- A write arrives with what its command finds: a parity miss discards it with a step fault (R191), else it lands. -/
def landFrom (chk : Chk) (a : Nat) (bs : List Byte) (s : State) : State := settleLost (arriveQuiet chk a bs s)

/-! ### Traps (R64 to R67) -/

def trapIllegal : Nat := 1
def trapAlign : Nat := 2
def trapAddr : Nat := 3
def trapUe : Nat := 4
def trapUeLoad : Nat := 5
def trapUeArray : Nat := 6
def trapDesc : Nat := 7
def trapBreak : Nat := 8
def trapKill : Nat := 9

/-- The failure class of a trap (R289). -/
def trapClass (cause : Nat) : Nat :=
  if cause = trapUe then 2 else if cause = trapUeArray then 4 else if cause = trapUeLoad then 5 else 6

/-- The trap record (R67). -/
def trapRecord (cause thread : Nat) (epoch : BitVec 16) (addr pc : Nat) : BitVec 128 :=
  BitVec.ofNat 128 (cause * 2 ^ 120 + thread % 64 * 2 ^ 114 + epoch.toNat * 2 ^ 96 + addr % 2 ^ 48 * 2 ^ 48 + pc % 2 ^ 48)

/-- The trap that a thread has taken: the recorded cause, TRAP_KILL on every other thread of a core that stopped on a trap, 0 for none (R64, R65). -/
def threadCause (k : Core) (t : Nat) : Nat :=
  match k.trappedBy with
  | some (t', cause) => if t = t' then cause else trapKill
  | none => 0

/-- A trap's record, and the stop of the core: every other thread takes TRAP_KILL (R65, R67). -/
def trapStop (c : CoreRef) (thread cause addr pc : Nat) (s : State) : State :=
  let s := voteEpoch c s
  let k := getCore s c
  haltCore c (putCore { s with trapped := mset s.trapped (coreKey c) (aclkOf s c.die, k) } c
    { k with trap := trapRecord cause thread k.epoch.value addr pc, trappedBy := some (thread, cause) })

/-- A primary trap: the record, the stop of the core, the CPER record and the step fault of R290 (R65). -/
def trap (c : CoreRef) (thread cause addr pc : Nat) (s : State) : State :=
  let s := trapStop c thread cause addr pc s
  let g : Signature := { cls := trapClass cause, action := 2, unitType := 0, unitIndex := physCore s c, detail := cause, die := c.die,
                         lcore := c.core, addr := addr % 2 ^ 48, history := historyCount s (.core c.die (physCore s c)) }
  stepFault g s

/-- A primary trap on an uncorrectable word at an address of the store: the trap record holds the core's own view of the address, the CPER record names the unit that holds the data (R67, R192, R315; log 45). -/
def trapHeld (c : CoreRef) (thread cause a pc : Nat) (s : State) : State :=
  let s := trapStop c thread cause (toDevice s.map a) pc s
  stepFault (heldAt s a { cls := trapClass cause, action := 2, detail := cause }) s

/-- A trap on an uncorrectable word whose trap record takes another address than the word's (R68). -/
def trapHeldAs (c : CoreRef) (thread cause a addr pc : Nat) (s : State) : State :=
  let s := trapStop c thread cause addr pc s
  stepFault { heldAt s a { cls := trapClass cause, action := 2, detail := cause } with addr := addr % 2 ^ 48 } s

/-- A unit or a returning request may find a primary trap. On a core that stopped on a trap in this very ACLK cycle it is tried on the core as it stood: if it traps a lower thread, that trap is the one recorded, and the first thread takes TRAP_KILL (R66; log 52). -/
def mayTrap (c : CoreRef) (act : State → State) (s : State) : State :=
  if (getCore s c).phase ≠ .stopped then act s
  else
    match mfind s.trapped (coreKey c) with
    | none => act s
    | some (cycle, k) =>
      if cycle ≠ aclkOf s c.die then act s
      else
        let s' := act (putCore { s with trapped := mdel s.trapped (coreKey c) } c k)
        match (getCore s' c).trappedBy, (getCore s c).trappedBy with
        | some (t', x), some (t, _) =>
          if t' < t then
            putCore { s with
              intg := s'.intg, dieStats := s'.dieStats, flash := s'.flash, life := s'.life, dop := s'.dop, pcie := s'.pcie, out := s'.out,
              map := s'.map, fail := s'.fail, trapped := s'.trapped,
              mem := { s.mem with bad := s'.mem.bad } } c
              { getCore s c with trap := (getCore s' c).trap, trappedBy := some (t', x) }
          else s
        | _, _ => s

end Sys2Proof.Machine
end

