-- ==== Sys2Proof/Machine/Issue.lean ====
section
/-! DEFINITION. Issue (R47 to R50): the word a thread would issue, the readiness checks, the choice among READY threads, and the frame of every instruction's meaning. -/
namespace Sys2Proof.Machine

/-- The address of the instruction-cache line of a pc. -/
def icacheBase (pc : Word) : Nat := pc.toNat / Config.icacheLine * Config.icacheLine

/-- The instruction word at an address, if its line is in the instruction cache (R48 check 1; log 27). -/
def cachedWord (k : Core) (pc : Word) : Option (BitVec 64) :=
  match mfind k.icache (icacheBase pc) with
  | some line => some (BitVec.ofNat 64 (ofLE (slice line (pc.toNat % Config.icacheLine) 8)))
  | none => none

/-- The lowest run of `n` consecutive rows that the reservation map has free (R109). -/
def freeRun (taken : BitVec 128) (n : Nat) : Option Nat :=
  (List.range (Config.acsRows + 1 - n)).find? (fun r => (List.range n).all (fun i => !bit taken (r + i)))

/-- ACS.ALLOC of `n` rows passes check 5 (R109). -/
def canAlloc (m : Mxa) (n : Nat) : Bool :=
  decide (n = 0) || decide (Config.acsRows < n) || (freeRun m.taken n).isSome

/-- Outstanding memory requests of a thread. -/
def outstanding (k : Core) (t : Nat) : Nat := (k.requests.filter (fun r => decide (r.thread = t))).length

/-- Descriptors in a channel's queue, the one in execution included (R161). -/
def channelDepth (x : DmaChannel) : Nat := x.queue.length + (if x.exec.isSome then 1 else 0)

/-- Checks 3 to 5 of R48. Check 3 holds for every instruction of the array, vector and DMA classes, MXA.SYNC and DMA.STAT included, and for COL.START, BAR and SRED. -/
def unitRoom (k : Core) (t : Nat) (cls op : Nat) (f : Fields) : Bool :=
  match cls with
  | 0 => if op = 0x20 ∨ op = 0x21 then decide (outstanding k t < 8) else true
  | 2 =>
    if opListed 2 op = false then true
    else decide (k.mxa.queue.length < 8) && (op != 4 || canAlloc k.mxa f.imm.toNat)
  | 3 => !opListed 3 op || decide (k.vecQueue.length < 4)
  | 4 => !opListed 4 op || decide (channelDepth (vget {} k.dma (f.fl.toNat % 4)) < 16)
  | 5 => if 0x10 ≤ op ∧ op ≤ 0x14 then decide (outstanding k t < 8) else true
  | 6 => if 1 ≤ op ∧ op ≤ 3 then decide (k.colQueue.length < 8) else true
  | _ => true

/-- No named register is pending, and none is within its latency (R48 check 2, R49). -/
def regsReady (x : Thread) (now : Nat) (rs : List (BitVec 5)) : Bool :=
  rs.all (fun r => decide (r = 0) || (!bit x.busy r.toNat && decide (vget 0 x.ready r.toNat ≤ now)))

/-- The word that a thread would issue in this cycle, if it is READY (R46, R48). -/
def readyWord (s : State) (c : CoreRef) (t : Nat) : Option (BitVec 64) :=
  let k := getCore s c
  let x := getThread k t
  let now := aclkOf s c.die
  if threadMode k t = .active ∧ x.nextIssue ≤ now then
    match cachedWord k x.pc with
    | none => none
    | some w =>
      let cls := wordClass w
      let op := wordOp w
      let f := wordFields w
      if opListed cls op = false then some w
      else if regsReady x now (wordRegs cls op f) && unitRoom k t cls op f then some w else none
  else none

/-- The thread that a core picks: the first READY one from the search position, in cyclic order (R47). -/
def pickThread (s : State) (c : CoreRef) : Option Nat :=
  ((List.range Config.threads).map (fun i => ((getCore s c).search + i) % Config.threads)).find? (fun t => (readyWord s c t).isSome)

/-- The core runs a kernel, has not issued in this cycle, picks the thread, and the word is the thread's next one. -/
def slotFor (s : State) (th : ThreadRef) (w : BitVec 64) : Bool :=
  let c := coreOf th
  let k := getCore s c
  decide (k.phase = .running) && decide (k.issuedAt ≠ some (aclkOf s c.die))
    && decide (pickThread s c = some th.thread) && decide (readyWord s c th.thread = some w)

/-- A thread issues a given word in this cycle: the slot is its own, and the word can be trusted (R47, R192). -/
def issuable (s : State) (th : ThreadRef) (w : BitVec 64) : Bool := slotFor s th w && decide (th.line ≠ .bad)

/-- The instruction-cache line of a thread's next instruction is discarded, and counts as correctable in its region (R184, R192). -/
def dropLine (th : ThreadRef) (s : State) : State :=
  let c := coreOf th
  let k := getCore s c
  correctable (regionIcache c.die (physCore s c)) (putCore s c { k with icache := mdel k.icache (icacheBase (getThread k th.thread).pc) })

/-- The state in which an instruction has issued: the slot is used, the search moves on, the pc stands at the next word; a word that was corrected leaves the cache. -/
def issued (s : State) (th : ThreadRef) : State :=
  let s := if th.line = .corrected then dropLine th s else s
  let c := coreOf th
  let k := getCore s c
  let x := getThread k th.thread
  putCore s c (putThread { k with issuedAt := some (aclkOf s c.die), search := (th.thread + 1) % Config.threads }
    th.thread { x with pc := x.pc + 8, allocWait := false })

/-- The frame of an instruction: a thread that exists issues the word when it may, and otherwise nothing happens (log 2); a word that cannot be trusted does not issue, and its line is discarded to be fetched again (R192). `k` acts after the issue. -/
def issueThen (th : ThreadRef) (w : BitVec 64) (s : State) (k : State → State) : Result :=
  whenUnit th.wf (if issuable s th w then k (issued s th) else if slotFor s th w then dropLine th s else s)

/-- Address of the instruction that a thread has just issued. -/
def issuedPc (s : State) (th : ThreadRef) : Word := (threadOf s th).pc - 8

/-- A trap precise at the instruction that a thread has just issued: the pc stands at it again (R65). -/
def trapIssued (th : ThreadRef) (cause addr : Nat) (s : State) : State :=
  let x := threadOf s th
  let pc := issuedPc s th
  trap (coreOf th) th.thread cause addr pc.toNat (putThreadOf s th { x with pc := pc })

/-- A register of a thread. -/
def readReg (s : State) (th : ThreadRef) (r : BitVec 5) : Word := reg (threadOf s th) r

/-- A result written at issue, to be read `latency` cycles later (R49). -/
def writeResult (th : ThreadRef) (r : BitVec 5) (v : Word) (latency : Nat) (s : State) : State :=
  let x := threadOf s th
  putThreadOf s th (if r = 0 then x else { setReg x r v with ready := vset x.ready r.toNat (aclkOf s th.die + latency) })

/-- The thread jumps; its next instruction issues 2 ACLK cycles later at the earliest (R49). -/
def jump (th : ThreadRef) (target : Word) (s : State) : State :=
  let x := threadOf s th
  putThreadOf s th { x with pc := target, nextIssue := aclkOf s th.die + 2 }

/-- IMM sign-extended. -/
def sext (f : Fields) : Word := f.imm.signExtend 64
/-- IMM zero-extended. -/
def zext (f : Fields) : Word := f.imm.setWidth 64

end Sys2Proof.Machine
end

