-- ==== Sys2Proof/Machine/Operands.lean ====
section
/-! DEFINITION. The operand forms of the array, vector and collective classes: descriptor fields (R80, R84, R88, R124, R253), the bytes each uses (R90, R125), block scales (R28, R29) and the decode of operand tiles into the common internal form (R30 to R35, R81, R82, R85). -/
namespace Sys2Proof.Machine

/-! ### Descriptor fields -/

/-- The fields that fill and run descriptors share about their operand tile (R80, R84). -/
structure Tile where
  base : Nat
  pitch : Nat
  scaleBase : Nat
  scalePitch : Nat
  fmt : Nat
  /-- BLOCK code. -/
  block : Nat
  across : Bool
  ext : Bool
deriving DecidableEq, Repr

/-- Block size S of a BLOCK code (R80). -/
def blockSize (code : Nat) : Nat := 8 * 2 ^ code

/-- External scales apply: FP32, FP16 and BF16 always use derived ones (R26). -/
def Tile.external (t : Tile) : Bool := t.ext && decide (3 ≤ t.fmt)

def fillTile (d : BitVec 256) : Tile where
  base := field d 191 168
  pitch := field d 167 144
  scaleBase := field d 143 120
  scalePitch := field d 119 104
  fmt := field d 63 60
  block := field d 59 57
  across := bit d 56
  ext := bit d 55

def fillReadyVal (d : BitVec 256) : Nat := field d 255 192
def fillReadyOff (d : BitVec 256) : Nat := field d 103 80
def fillK (d : BitVec 256) : Nat := field d 79 72
def fillN (d : BitVec 256) : Nat := field d 71 64
def fillColumn (d : BitVec 256) : Bool := bit d 54
def fillXpose (d : BitVec 256) : Bool := bit d 53
def fillReadyEn (d : BitVec 256) : Bool := bit d 52
/-- c of R92 to R95: rows of a row fill, columns of a column fill. -/
def fillCount (d : BitVec 256) : Nat := if fillColumn d then fillN d else fillK d

def runTile (d : BitVec 512) : Tile where
  base := field d 319 296
  pitch := field d 295 272
  scaleBase := field d 271 248
  scalePitch := field d 247 232
  fmt := field d 167 164
  block := field d 163 161
  across := bit d 160
  ext := bit d 159

def runKmask (d : BitVec 512) (k : Nat) : Bool := bit d (384 + k)
def runReadyVal (d : BitVec 512) : Nat := field d 383 320
def runReadyOff (d : BitVec 512) : Nat := field d 231 208
def runMmaskOff (d : BitVec 512) : Nat := field d 207 184
def runM (d : BitVec 512) : Nat := field d 183 176
def runRow (d : BitVec 512) : Nat := field d 175 168
def runMmaskEn (d : BitVec 512) : Bool := bit d 158
def runReadyEn (d : BitVec 512) : Bool := bit d 157
def runCommit (d : BitVec 512) : Bool := bit d 156
def runAcc (d : BitVec 512) : Bool := bit d 155

def drainBase (d : BitVec 512) : Nat := field d 511 488
def drainPitch (d : BitVec 512) : Nat := field d 487 464
def drainMmaskOff (d : BitVec 512) : Nat := field d 463 440
def drainRows (d : BitVec 512) : Nat := field d 439 432
def drainRow (d : BitVec 512) : Nat := field d 431 424
def drainN (d : BitVec 512) : Nat := field d 423 416
def drainMmaskEn (d : BitVec 512) : Bool := bit d 415
def drainStats (d : BitVec 512) : Bool := bit d 414
def epiElemBase (d : BitVec 512) : Nat := field d 383 320
def epiElemPitch (d : BitVec 512) : Nat := field d 319 288
def epiScaleImm (d : BitVec 512) : BitVec 32 := BitVec.ofNat 32 (field d 287 256)
def epiLayer (d : BitVec 512) : BitVec 16 := BitVec.ofNat 16 (field d 255 240)
def epiStream (d : BitVec 512) : BitVec 16 := BitVec.ofNat 16 (field d 239 224)
def epiScaleOff (d : BitVec 512) : Nat := field d 223 200
def epiBiasOff (d : BitVec 512) : Nat := field d 199 176
def epiParamOff (d : BitVec 512) : Nat := field d 175 152
def epiOscaleOff (d : BitVec 512) : Nat := field d 151 128
def epiOscalePitch (d : BitVec 512) : Nat := field d 127 112
def epiKeep (d : BitVec 512) : Nat := field d 111 103
def epiAct (d : BitVec 512) : Nat := field d 102 99
def epiFmt (d : BitVec 512) : Nat := field d 98 95
def epiOblock (d : BitVec 512) : Nat := field d 94 92
def epiScaleMode (d : BitVec 512) : Nat := field d 91 90
def epiBiasEn (d : BitVec 512) : Bool := bit d 89
def epiMaskEn (d : BitVec 512) : Bool := bit d 88
def epiOscaleEn (d : BitVec 512) : Bool := bit d 87
def epiSat (d : BitVec 512) : Bool := bit d 86

/-- Fields of a collective descriptor (R253). -/
def colSrc (d : BitVec 512) : Nat := field d 511 464
def colDst (d : BitVec 512) : Nat := field d 463 416
def colWork (d : BitVec 512) : Nat := field d 415 368
def colCount (d : BitVec 512) : Nat := field d 367 336
def colFxpExp (d : BitVec 512) : Int := (BitVec.ofNat 16 (field d 335 320)).toInt
def colTag (d : BitVec 512) : Nat := field d 319 304
def colXfer (d : BitVec 512) : Nat := field d 303 288
def colRoot (d : BitVec 512) : Nat := field d 287 268
def colOp (d : BitVec 512) : Nat := field d 267 264
def colRed (d : BitVec 512) : Nat := field d 263 261
def colFmt (d : BitVec 512) : Nat := field d 260 257
def colOutFmt (d : BitVec 512) : Nat := field d 256 253
def colExact (d : BitVec 512) : Bool := bit d 252
def colSat (d : BitVec 512) : Bool := bit d 251
def colAcsRow (d : BitVec 512) : Nat := field d 250 243
def colAcsRows (d : BitVec 512) : Nat := field d 242 235
def colAcsN (d : BitVec 512) : Nat := field d 234 227
/-- ACS_CHAIN of the operation table. -/
def colIsAcs (d : BitVec 512) : Bool := decide (colOp d = 8)

/-! ### Bytes in use (R90, R125) and spans (R92) -/

/-- Scale byte of element (j, k): offset from SCALE_BASE (R29). -/
def Tile.scaleAt (t : Tile) (j k : Nat) : Nat :=
  if t.across then j / blockSize t.block * t.scalePitch + k else j * t.scalePitch + k / blockSize t.block

/-- The bytes in use of a fill: tile, scale tile, ready word, as offset and length (R90). -/
def fillSpans (d : BitVec 256) : List (Nat × Nat) :=
  let t := fillTile d
  let k := fillK d
  let n := fillN d
  let (outer, inner) := if fillColumn d then (n, k) else (k, n)
  let tile := if k = 0 ∨ n = 0 then []
    else
      (t.base, (outer - 1) * t.pitch + packedBytes t.fmt inner)
        :: (if t.external then
              [(t.scaleBase, (if fillColumn d && fillXpose d then t.scaleAt (k - 1) (n - 1) else t.scaleAt (n - 1) (k - 1)) + 1)]
            else [])
  tile ++ (if fillReadyEn d then [(fillReadyOff d, 8)] else [])

/-- The bytes in use of a run: all MXA_K elements of every row below M_COUNT, scales, M mask, ready word (R90). -/
def runSpans (d : BitVec 512) : List (Nat × Nat) :=
  let t := runTile d
  let m := runM d
  let tile := if m = 0 then []
    else
      (t.base, (m - 1) * t.pitch + packedBytes t.fmt Config.mxaK)
        :: (if t.external then [(t.scaleBase, t.scaleAt (m - 1) (Config.mxaK - 1) + 1)] else [])
  tile ++ (if runMmaskEn d then [(runMmaskOff d, 16)] else []) ++ (if runReadyEn d then [(runReadyOff d, 8)] else [])

/-- The bytes that a drain reads besides the ACS (R92, R125). -/
def drainReadSpans (d : BitVec 512) : List (Nat × Nat) :=
  (if drainMmaskEn d then [(drainMmaskOff d, 16)] else [])
    ++ (if epiBiasEn d then [(epiBiasOff d, 4 * drainN d)] else [])
    ++ (if epiScaleMode d = 2 then [(epiScaleOff d, 4 * drainN d)]
        else if epiScaleMode d = 3 then [(epiScaleOff d, 4 * drainRows d)] else [])
    ++ (if epiMaskEn d then [(epiParamOff d, 16)] else [])

/-- The bytes that a drain may write: output rows or records, and scale bytes (R92). -/
def drainWriteSpans (d : BitVec 512) : List (Nat × Nat) :=
  let rows := drainRows d
  let n := drainN d
  if rows = 0 ∨ n = 0 then []
  else if drainStats d then [(drainBase d, (rows - 1) * drainPitch d + 32)]
  else (drainBase d, (rows - 1) * drainPitch d + packedBytes (epiFmt d) n)
    :: (if epiOscaleEn d then [(epiOscaleOff d, (rows - 1) * epiOscalePitch d + ceilDiv n (blockSize (epiOblock d)))] else [])

/-- The first operand whose bytes in use extend past SPM_BYTES. -/
def spanBeyond (spans : List (Nat × Nat)) : Option Nat :=
  (spans.find? (fun x => decide (0 < x.2) && decide (Config.spmBytes < x.1 + x.2))).map (fun x => x.1)

/-- The span from the lowest to the highest byte of some ranges, end exclusive (R92). -/
def hull (spans : List (Nat × Nat)) : Option (Nat × Nat) :=
  (spans.filter (fun x => decide (0 < x.2))).foldl (fun acc x =>
    match acc with
    | none => some (x.1, x.1 + x.2)
    | some (lo, hi) => some (Nat.min lo x.1, Nat.max hi (x.1 + x.2))) none

/-- Two spans share a byte. -/
def spansMeet (a b : Option (Nat × Nat)) : Bool :=
  match a, b with
  | some (l, h), some (l', h') => decide (l < h') && decide (l' < h)
  | _, _ => false

/-- Bits 0 to n − 1 of a value that are 1, rising. -/
def bitsSet {w : Nat} (x : BitVec w) (n : Nat) : List Nat := (List.range n).filter (fun i => bit x i)

/-! ### Decode of operand tiles -/

/-- One element of an operand tile before its decode: its place in the plane or row, the scale-tile row and byte that its block has (R29; for derived scales they name the block), its value. -/
structure RawElem where
  place : Nat
  blockRow : Nat
  blockCol : Nat
  val : Val

/-- The block of element (j, k): row and column of the scale tile (R28, R29). -/
def Tile.blockOf (t : Tile) (j k : Nat) : Nat × Nat :=
  if t.across then (j / blockSize t.block, k) else (j, k / blockSize t.block)

/-- The value of an element code; INT8 with external scales is the integer × 2^-6 (R27). -/
def tileValue (t : Tile) (code : Nat) : Val :=
  let v := elemValue t.fmt code
  if t.fmt = 8 ∧ t.external then v.shift (-6) else v

/-- One element decoded in a block with reference `b` (R32 to R35), and the count of far elements (R34). -/
def decodeElem (fmt : Nat) (external : Bool) (b : Int) (v : Val) : Elem × Nat :=
  match v with
  | .nan => ({ flag := .nan }, 0)
  | .inf s => ({ flag := if s then .ninf else .pinf }, 0)
  | .fin s m e =>
    if m = 0 then ({ flag := .zero }, 0)
    else
      let x := topExp m e
      let r := if external then x - fmtOffset fmt else x - b
      if r < -63 then ({ flag := .far, hi := { neg := s } }, 1)
      else if fmt = 0 then
        -- R35: high part bits [23:12], low part bits [11:0] with relative exponent r - 12
        let sig := m * 2 ^ (23 - Nat.log2 m)
        let low := sig % 4096
        let lost := decide (low ≠ 0) && decide (r - 12 < -63)
        ({ ref := b, hi := ⟨s, BitVec.ofNat 12 (sig / 4096), r⟩,
           lo := ⟨s, if lost then 0 else BitVec.ofNat 12 low, r - 12⟩ }, if lost then 1 else 0)
      else ({ ref := b, hi := ⟨s, BitVec.ofNat 12 (m * 2 ^ (11 - Nat.log2 m)), r⟩ }, 0)

/-- The largest unbiased exponent of the finite non-zero elements of each block (R30), blocks by 65536 row + column. -/
def derivedRefs (xs : List RawElem) : SMap Int :=
  xs.foldl (fun acc x =>
    match x.val with
    | .fin _ m e =>
      if m = 0 then acc
      else
        let key := 65536 * x.blockRow + x.blockCol
        match mfind acc key with
        | some y => mset acc key (max y (topExp m e))
        | none => mset acc key (topExp m e)
    | _ => acc) []

/-- The elements of a tile decoded (R30, R33, R34), with the count of far elements; `scale` reads a byte of the scale tile. -/
def decodeTile (t : Tile) (scale : Nat → Nat) (xs : List RawElem) : List (Nat × Elem) × Nat :=
  let refs := if t.external then [] else derivedRefs xs
  let one (x : RawElem) : Elem × Nat :=
    if t.external then
      let c := scale (x.blockRow * t.scalePitch + x.blockCol)
      if c = 255 then ({ flag := .nan }, 0) else decodeElem t.fmt true ((c : Int) - 127 + fmtOffset t.fmt) x.val
    else decodeElem t.fmt false (mget 0 refs (65536 * x.blockRow + x.blockCol)) x.val
  let ys := xs.map (fun x => (x.place, one x))
  (ys.map (fun y => (y.1, y.2.1)), (ys.map (fun y => y.2.2)).sum)

/-- The source rows of a fill: offset in SPM and elements (R81). -/
def fillRows (d : BitVec 256) : List (Nat × Nat) :=
  let t := fillTile d
  let (outer, inner) := if fillColumn d then (fillN d, fillK d) else (fillK d, fillN d)
  if inner = 0 then [] else (List.range outer).map (fun i => (t.base + i * t.pitch, inner))

/-- The elements that a fill places, plane place 64 k + n (R81, R82); `row` reads bytes of the core's SPM. -/
def fillElems (d : BitVec 256) (row : Nat → Nat → List Byte) : List RawElem :=
  let t := fillTile d
  let col := fillColumn d
  let flip := col && fillXpose d && t.external
  ((fillRows d).zipIdx).flatMap (fun ((off, inner), i) =>
    let bs := row off (packedBytes t.fmt inner)
    (List.range inner).map (fun j =>
      let k := if col then j else i
      let n := if col then i else j
      let b := if flip then t.blockOf k n else t.blockOf n k
      ⟨64 * k + n, b.1, b.2, tileValue t (unpackElem t.fmt bs j)⟩))

/-- The elements that a run decodes: row m, K place k; `keep` says which K rows are unmasked (R85). -/
def runElems (d : BitVec 512) (fed : List Nat) (keep : Nat → Bool) (row : Nat → Nat → List Byte) : List RawElem :=
  let t := runTile d
  fed.flatMap (fun m =>
    let bs := row (t.base + m * t.pitch) (packedBytes t.fmt Config.mxaK)
    ((List.range Config.mxaK).filter keep).map (fun k =>
      let b := t.blockOf m k
      ⟨128 * m + k, b.1, b.2, tileValue t (unpackElem t.fmt bs k)⟩))

/-- The scale bytes that some elements need, once each. R29 has the feeder read one row of the scale tile at a time and does not say how far: the bytes that count as read, for the codes and the parity, are those of the elements decoded (DESIGN CHOICE, log 121). -/
def scaleRanges (t : Tile) (xs : List RawElem) : List (Nat × Nat) :=
  if t.external then (xs.map (fun x => (t.scaleBase + x.blockRow * t.scalePitch + x.blockCol, 1))).eraseDups else []

end Sys2Proof.Machine
end

