-- ==== Sys2Proof/Machine/ArrayQueue.lean ====
section
/-! DEFINITION. The array queue of a core (R48, R58, R92): entries in issue order, the rows they name, ACS.ALLOC and ACS.FREE, which begin at the queue head (R109, R110; log 32), and completion (R95, R112). -/
namespace Sys2Proof.Machine

/-- ACS rows [first, first + count) as a mask; rows of ACS_ROWS or above are left out (R110). -/
def rowsMask (first count : Nat) : BitVec 128 :=
  if 128 ≤ first then 0 else BitVec.ofNat 128 ((2 ^ Nat.min count (128 - first) - 1) * 2 ^ first)

/-- An array instruction names an ACS row (R84, R88). -/
def namesRow (op : ArrayOp) (row : Nat) : Bool :=
  match op with
  | .run d => decide (runRow d ≤ row) && decide (row < runRow d + runM d)
  | .drain d => decide (drainRow d ≤ row) && decide (row < drainRow d + drainRows d)
  | _ => false

/-- Two array instructions name a common row. -/
def shareRow (a b : ArrayOp) : Bool := (List.range Config.acsRows).any (fun r => namesRow a r && namesRow b r)

/-- A chained reduction that waits or runs holds a row: it has not finished with it (R111, R112). -/
def chainHolds (e : ColEntry) (row : Nat) : Bool :=
  match e.kind, e.phase with
  | _, .ended _ => false
  | .bulk d _, _ =>
    colIsAcs d && decide (colAcsRow d ≤ row) && decide (row < colAcsRow d + colAcsRows d)
      && decide (e.finished < (row - colAcsRow d + 1) * colAcsN d)
  | _, _ => false

/-- Rows freed by an ACS.FREE that is queued or has begun (R90). -/
def freedRows (m : Mxa) : BitVec 128 :=
  (m.queue.foldl (fun acc e =>
    match e.op with
    | .free a n => acc ||| rowsMask a n
    | _ => acc) 0) ||| m.releasing.foldl (fun acc x => acc ||| x.2.2) 0

/-- A row is reserved by a completed ACS.ALLOC and not freed (R90). -/
def rowUsable (m : Mxa) (row : Nat) : Bool := bit m.reserved row && !bit (freedRows m) row

/-- The ACS.ALLOC or ACS.FREE at the head of the queue begins, if no array instruction has begun in this cycle (R92, R109, R110). An ACS.ALLOC completes as it begins; the spec does not say whether one that reserves nothing waits for the earlier array instructions, as R110 says of an ACS.FREE with n = 0: it does not (DESIGN CHOICE, log 123). -/
def settleArray (c : CoreRef) (s : State) : State :=
  let k := getCore s c
  let now := aclkOf s c.die
  if k.phase = .stopped ∨ k.mxa.lastBegin = some now then s
  else
    match k.mxa.queue with
    | [] => s
    | e :: rest =>
      let m := { k.mxa with queue := rest, lastBegin := some now }
      match e.op with
      | .alloc d first count v =>
        let x := getThread k e.thread
        let k := { k with mxa := { m with reserved := m.reserved ||| rowsMask first count } }
        putCore s c (if x.mode = .inactive then k
          else putThread k e.thread { returnReg x d v with ready := vset x.ready d.toNat (now + 1) })
      | .free a n =>
        let held := m.releasing.foldl (fun acc x => acc ||| x.2.2) 0
        putCore s c { k with mxa := { m with releasing := m.releasing ++ [(e.seq, e.thread, rowsMask a n &&& m.reserved &&& ~~~held)] } }
      | _ => s

/-- An array instruction enters the queue under the core's next number (R48, R112). -/
def enqueueArray (th : ThreadRef) (op : ArrayOp) (s : State) : State :=
  let c := coreOf th
  let pc := issuedPc s th
  let k := getCore s c
  settleArray c (putCore s c { k with
    seq := k.seq + 1, mxa := { k.mxa with queue := k.mxa.queue ++ [⟨k.seq, th.thread, pc, op⟩] } })

/-- Array instructions of a core issued before number `seq` have all completed (R95). -/
def earlierDone (m : Mxa) (seq : Nat) : Bool :=
  m.queue.all (fun e => decide (seq ≤ e.seq)) && m.flight.all (fun f => decide (seq ≤ f.e.seq))
    && m.releasing.all (fun x => decide (seq ≤ x.1))

/-- Every array instruction of a thread has completed (R58, R168). -/
def arrayDone (m : Mxa) (t : Nat) : Bool :=
  m.queue.all (fun e => decide (e.thread ≠ t)) && m.flight.all (fun f => decide (f.e.thread ≠ t))
    && m.releasing.all (fun x => decide (x.2.1 ≠ t))

end Sys2Proof.Machine
end

