-- ==== Sys2Proof/Machine/Approx.lean ====
section
/-! DEFINITION. The approximate functions of R127 and R135. Each is evaluated to far more bits than its bound; the result is any FP32 value within the bound, and which one it is stays free (log 7). -/
namespace Sys2Proof.Machine

/-- Fraction bits of the fixed-point evaluation. -/
def fixBits : Nat := 256

/-- Σ over i below n of t^(2i+1) ÷ (2i+1) in fixed point, `p` being t^(2i+1) and `t2` being t². -/
def atanhSeries : (n i : Nat) → (p t2 acc : Int) → Int
  | 0, _, _, _, acc => acc
  | n + 1, i, p, t2, acc => atanhSeries n (i + 1) (p * t2 / 2 ^ fixBits) t2 (acc + p / (2 * i + 1))

/-- ln 2 in fixed point: 2 atanh(1/3). -/
def ln2Fix : Int := 2 * atanhSeries 90 0 (2 ^ fixBits / 3) (2 ^ fixBits / 9) 0

/-- Σ r^i ÷ i! in fixed point. -/
def expSeries : (n i : Nat) → (p r acc : Int) → Int
  | 0, _, _, _, acc => acc
  | n + 1, i, p, r, acc => expSeries n (i + 1) (p * r / 2 ^ fixBits / (i + 1)) r (acc + p)

/-- m × 2^e in fixed point (rounded down below the last bit). -/
def toFix (m : Int) (e : Int) : Int :=
  if 0 ≤ e + fixBits then m * 2 ^ (e + fixBits).toNat else m / 2 ^ (-(e + fixBits)).toNat

/-- e^(z ÷ 2^256) as a magnitude and an exponent. -/
def expFix (z : Int) : Nat × Int :=
  let k := z / ln2Fix
  let r := z - k * ln2Fix
  ((expSeries 70 0 (2 ^ fixBits) r 0).toNat, k - fixBits)

/-- ln(mag × 2^e) in fixed point, for a positive magnitude. -/
def logFix (mag : Nat) (e : Int) : Int :=
  let top := Nat.log2 mag
  let y : Int := toFix mag (-(top : Int))
  let t := (y - 2 ^ fixBits) * 2 ^ fixBits / (y + 2 ^ fixBits)
  2 * atanhSeries 90 0 t (t * t / 2 ^ fixBits) 0 + ((top : Int) + e) * ln2Fix

/-- 1 ÷ (1 + e^(−z)) as a positive magnitude and an exponent, z in fixed point. -/
def sigmoidFix (z : Int) : Nat × Int :=
  let cut : Int := 400 * 2 ^ fixBits
  if z > cut then (1, 0)
  else
    let z' := max z (-cut)
    -- e^z' ÷ (1 + e^z')
    let (n, k) := expFix z'
    let one := if k ≤ 0 then 2 ^ (-k).toNat else 1
    let den := if k ≤ 0 then one + n else 1 + n * 2 ^ k.toNat
    let num := if k ≤ 0 then n else n * 2 ^ k.toNat
    quotient 200 num den 0

/-- tanh of a positive magnitude × 2^e. -/
def tanhPos (mag : Nat) (e : Int) : Nat × Int :=
  if topExp mag e < -60 then
    -- x − x³/3 to relative 2^-240
    quotient 200 (3 * mag * 2 ^ ((-2 * e).toNat) - mag * mag * mag) (3 * 2 ^ ((-2 * e).toNat)) e
  else if topExp mag e > 9 then (1, 0)
  else
    let (n, k) := expFix (2 * toFix mag e)
    if k ≤ 0 then quotient 200 (n - 2 ^ (-k).toNat) (n + 2 ^ (-k).toNat) 0
    else quotient 200 (n * 2 ^ k.toNat - 1) (n * 2 ^ k.toNat + 1) 0

/-- Magnitude cut to a format's grid from below, and whether it lay on the grid. -/
def truncCode (f : BinFmt) (mag : Nat) (e : Int) : Nat × Bool :=
  if mag = 0 then (0, true)
  else
    let q := quantum f mag e
    let x := topExp mag e
    let n := if q ≤ e then mag * 2 ^ (e - q).toNat else mag / 2 ^ (q - e).toNat
    let exact := if q ≤ e then true else decide (mag % 2 ^ (q - e).toNat = 0)
    (if x < 1 - f.bias then n else (x + f.bias - 1).toNat * 2 ^ f.mbits + n, exact)

/-- Largest FP32 place at or below, and smallest at or above, a signed exact value; places count FP32 values upward through 0. -/
def f32Floor (neg : Bool) (mag : Nat) (e : Int) : Int :=
  let (c, exact) := truncCode fp32 mag e
  if neg then -(c + (if exact then 0 else 1) : Int) else c
def f32Ceil (neg : Bool) (mag : Nat) (e : Int) : Int :=
  let (c, exact) := truncCode fp32 mag e
  if neg then -(c : Int) else c + (if exact then 0 else 1)

/-- The FP32 code at a place; places beyond the largest finite values are the infinities. -/
def f32AtPlace (n : Int) : BitVec 32 :=
  let c := Nat.min n.natAbs 0x7F800000
  BitVec.ofNat 32 (if n < 0 then 0x80000000 + c else c)

/-- Some FP32 value within `ulps` units in the last place of the exact result, or within 2^absExp where that is larger (R127, R135); free among them. -/
def within (fn ulps : Nat) (absExp : Option Int) (x : BitVec 32) (neg : Bool) (mag : Nat) (e : Int) : BitVec 32 :=
  let q := quantum fp32 (if mag = 0 then 1 else mag) (if mag = 0 then -1000 else e)
  let b : Nat × Int := match absExp with
    | some a => if (ulps : Int) * 2 ^ (q - min q a).toNat < 2 ^ (a - min q a).toNat then (1, a) else (ulps, q)
    | none => (ulps, q)
  let e0 := min e b.2
  let y := scaleTo neg mag e e0
  let d : Int := b.1 * 2 ^ (b.2 - e0).toNat
  let lo := f32Ceil (decide (y - d < 0)) (y - d).natAbs e0
  let hi := f32Floor (decide (y + d < 0)) (y + d).natAbs e0
  f32AtPlace (lo + (Config.approxPick fn x % ((hi - lo).toNat + 1) : Nat))

/-- VEXP of an FP32 source: at most 1 ulp (R134, R135). -/
def expF32 (x : BitVec 32) : BitVec 32 :=
  match ofF32 x with
  | .nan => toF32 .nan
  | .inf s => if s then 0 else toF32 (.inf false)
  | .fin s m e =>
    if m = 0 then 0x3F800000
    else if topExp m e > 9 then (if s then within 0 1 none x false 1 (-1000) else toF32 (.inf false))
    else
      let (n, k) := expFix (toFix (if s then -m else m) e)
      within 0 1 none x false n k

/-- VLOG: at most 1 ulp. -/
def logF32 (x : BitVec 32) : BitVec 32 :=
  match ofF32 x with
  | .nan => toF32 .nan
  | .inf s => if s then toF32 .nan else toF32 (.inf false)
  | .fin s m e =>
    if m = 0 then toF32 (.inf true)
    else if s then toF32 .nan
    else if x = 0x3F800000 then 0
    else
      let l := logFix m e
      within 1 1 none x (decide (l < 0)) l.natAbs (-fixBits)

/-- VRCP: correctly rounded. -/
def rcpF32 (x : BitVec 32) : BitVec 32 := toF32 ((Val.fin false 1 0).div (ofF32 x))

/-- VRSQRT: at most 1 ulp. -/
def rsqrtF32 (x : BitVec 32) : BitVec 32 :=
  match ofF32 x with
  | .nan => toF32 .nan
  | .inf s => if s then toF32 .nan else 0
  | .fin s m e =>
    if m = 0 then toF32 (.inf s)
    else if s then toF32 .nan
    else
      let (r, k) := sqrtVal m e
      let (q, j) := quotient 160 1 r (-k)
      within 2 1 none x false q j

/-- tanh with the function number of its unit: at most 2 ulp. -/
def tanhF32 (fn : Nat) (x : BitVec 32) : BitVec 32 :=
  match ofF32 x with
  | .nan => toF32 .nan
  | .inf s => if s then 0xBF800000 else 0x3F800000
  | .fin s m e =>
    if m = 0 then x
    else
      let (q, k) := tanhPos m e
      within fn 2 none x s q k

/-- sigmoid with the function number of its unit: at most 2 ulp. -/
def sigmoidF32 (fn : Nat) (x : BitVec 32) : BitVec 32 :=
  match ofF32 x with
  | .nan => toF32 .nan
  | .inf s => if s then 0 else 0x3F800000
  | .fin s m e =>
    if m = 0 then 0x3F000000
    else
      let z := if topExp m e > 12 then (if s then -(5000 * 2 ^ fixBits : Int) else 5000 * 2 ^ fixBits)
        else toFix (if s then -m else m) e
      let (q, k) := sigmoidFix z
      within fn 2 none x false q k

/-- x times a sigmoid of z: the form of GELU and SILU. -/
def gatedF32 (fn : Nat) (x : BitVec 32) (s : Bool) (m : Nat) (e z : Int) : BitVec 32 :=
  let (q, k) := sigmoidFix z
  within fn 4 (some (-40)) x s (m * q) (e + k)

/-- GELU of R127: 0.5 x (1 + tanh(c (x + 0.044715 x³))) = x ÷ (1 + e^(−2c (x + 0.044715 x³))), c = 0.7978845608. -/
def geluF32 (x : BitVec 32) : BitVec 32 :=
  match ofF32 x with
  | .nan => toF32 .nan
  | .inf s => if s then 0x80000000 else toF32 (.inf false)
  | .fin s m e =>
    if m = 0 then x
    else
      let big : Int := 5000 * 2 ^ fixBits
      let z := if topExp m e > 12 then (if s then -big else big)
        else
          let t := toFix (if s then -m else m) e
          let t3 := t * t / 2 ^ fixBits * t / 2 ^ fixBits
          2 * 7978845608 * (t + 44715 * t3 / 1000000) / 10000000000
      gatedF32 5 x s m e z

/-- SILU of R127: x ÷ (1 + e^(−x)). -/
def siluF32 (x : BitVec 32) : BitVec 32 :=
  match ofF32 x with
  | .nan => toF32 .nan
  | .inf s => if s then 0x80000000 else toF32 (.inf false)
  | .fin s m e =>
    if m = 0 then x
    else
      let big : Int := 5000 * 2 ^ fixBits
      let z := if topExp m e > 12 then (if s then -big else big) else toFix (if s then -m else m) e
      gatedF32 6 x s m e z

end Sys2Proof.Machine
end

