-- ==== Sys2Proof/Machine/Flags.lean ====
section
/-! DEFINITION. What products and results set besides their value: the NaN and infinity flags of element pairs (R38), dropped products (R100), non-finite and overflow counts (R137), and the epilogue that forms them (R123 to R132). -/
namespace Sys2Proof.Machine

/-! ### Products (R37, R38, R99, R100) -/

/-- Flags that a pair of unmasked elements sets: NaN, +Inf, -Inf (R38). -/
def pairFlags (a b : Elem) : Bool × Bool × Bool :=
  let sgn (x : Elem) : Bool := match x.flag with
    | .ninf => true
    | .pinf => false
    | _ => x.hi.neg
  let inf (x : Elem) : Bool := x.flag == .pinf || x.flag == .ninf
  if a.flag = .nan ∨ b.flag = .nan then (true, false, false)
  else if inf a || inf b then
    (if a.flag = .zero ∨ b.flag = .zero then (true, false, false)
     else if sgn a != sgn b then (false, false, true) else (false, true, false))
  else (false, false, false)

/-- The sum of a slot in one column: C and R of R99, flags, dropped products. -/
structure SlotSum where
  c : Int := 0
  r : Int := 0
  nan : Bool := false
  pinf : Bool := false
  ninf : Bool := false
  drops : Nat := 0
deriving DecidableEq, Repr

/-- The parts of the operands that enter together: high or low (R87). -/
structure PartPair where
  movLow : Bool
  statLow : Bool
deriving DecidableEq, Repr

def partOf (x : Elem) (low : Bool) : Part := if low then x.lo else x.hi

/-- A decoded part takes part in products and in the slice reference R: its element is finite and its SIG is not 0. R99 names the elements that are not zero and does not say whether a pair with a NaN or infinite element counts in R: it is left out (DESIGN CHOICE, log 119). -/
def partLive (x : Elem) (low : Bool) : Bool := x.flag == .finite && (partOf x low).sig != 0

/-- The slice sum of the unmasked pairs of a slot (R99, R100), with their flags (R38). -/
def slotSum (p : PartPair) (pairs : List (Elem × Elem)) : SlotSum :=
  let live := pairs.filter (fun x => partLive x.1 p.movLow && partLive x.2 p.statLow)
  let r := match live.map (fun x => x.1.ref + x.2.ref) with
    | [] => 0
    | y :: ys => ys.foldl (fun a b => if a < b then b else a) y
  let fl := pairs.map (fun x => pairFlags x.1 x.2)
  let start : SlotSum := { r := r, nan := fl.any (fun f => f.1), pinf := fl.any (fun f => f.2.1), ninf := fl.any (fun f => f.2.2) }
  live.foldl (fun acc x =>
    let a := partOf x.1 p.movLow
    let b := partOf x.2 p.statLow
    let q := a.r + b.r + (x.1.ref + x.2.ref - r)
    if q ≤ -95 then { acc with drops := acc.drops + 1 }
    else
      let t : Int := (a.sig.toNat * b.sig.toNat * 2 ^ (q + 96).toNat : Nat)
      { acc with c := if a.neg != b.neg then acc.c - t else acc.c + t }) start

/-- The parts of a fed row by the formats of the two operands, in slot order (R87). -/
def slotParts (mov : Nat) (stat : Option (BitVec 4)) : List PartPair :=
  let ms := if mov = 0 then [false, true] else [false]
  let ss := if stat = some 0 then [false, true] else [false]
  ms.flatMap (fun m => ss.map (fun s => ⟨m, s⟩))

/-- Both formats are FP6 or FP4: two rows enter in one slot (R87). -/
def dualMode (mov : Nat) (stat : Option (BitVec 4)) : Bool :=
  decide (5 ≤ mov ∧ mov ≤ 7) && (match stat with
    | some f => decide (5 ≤ f.toNat ∧ f.toNat ≤ 7)
    | none => false)

/-- Z of R93. -/
def slotCount (mov : Nat) (stat : Option (BitVec 4)) (fed : Nat) : Nat :=
  if dualMode mov stat then ceilDiv fed 2 else fed * (slotParts mov stat).length

/-! ### The epilogue (R123 to R129) -/

/-- An exact zero result is +0 (R126). -/
def plusZero : Val → Val
  | .fin s m e => if m = 0 then .fin false 0 0 else .fin s m e
  | v => v

/-- Stage 3 (R126, R127). -/
def activate (act : Nat) (v : Val) : Val :=
  match act with
  | 0 => v
  | 1 => (match v with
    | .nan => .nan
    | .inf s => if s then .zero else .inf s
    | .fin s m e => if s ∨ m = 0 then .zero else .fin s m e)
  | 2 => ofF32 (geluF32 (toF32 v))
  | 3 => ofF32 (siluF32 (toF32 v))
  | 4 => ofF32 (tanhF32 8 (toF32 v))
  | _ => ofF32 (sigmoidF32 9 (toF32 v))

/-- What a drain has read: scale and bias elements, each as its entry group was read, key and step of the mask parameter block (R124, R138, R142). -/
structure EpiInputs where
  /-- The factor s of column n in scale modes 2 and 3. -/
  scale : Nat → BitVec 32
  bias : Nat → BitVec 32
  key : BitVec 64
  step : BitVec 32

/-- The element of range row r, column n is kept (R128, R141). -/
def epiKept (d : BitVec 512) (x : EpiInputs) (r n : Nat) : Bool :=
  let keep := epiKeep d
  if 256 ≤ keep then true
  else if keep = 0 then false
  else maskKeeps x.key x.step (epiLayer d) (epiStream d) ((epiElemBase d + r * epiElemPitch d + n) % 2 ^ 64) keep

/-- Stages 1 to 4 of the epilogue on the value of range row r, column n (R123 to R128). -/
def epiStages (d : BitVec 512) (x : EpiInputs) (r n : Nat) (v : Val) : Val :=
  let v := match epiScaleMode d with
    | 0 => v
    | 1 => plusZero (v.mul (ofF32 (epiScaleImm d)))
    | _ => plusZero (v.mul (ofF32 (x.scale n)))
  let v := if epiBiasEn d then plusZero (v.add (ofF32 (x.bias n))) else v
  let v := activate (epiAct d) v
  if epiMaskEn d then
    if epiKept d x r n then
      plusZero (v.mul (ofF32 (toF32 ((Val.fin false 256 0).div (.fin false (epiKeep d) 0)))))
    else if v.nonFinite then .nan else .zero
  else v

/-- Counts of a conversion: non-finite sources, finite values that overflow (R137). -/
structure CvtCounts where
  nf : Nat := 0
  ovf : Nat := 0
deriving DecidableEq, Repr

/-- Stage 5 on a row: packed bytes, scale bytes, counts (R129, R40 to R43). -/
def epiConvert (d : BitVec 512) (vs : List Val) : List Byte × List Byte × CvtCounts :=
  let fmt := epiFmt d
  let nf := (vs.filter Val.nonFinite).length
  if epiOscaleEn d then
    let size := blockSize (epiOblock d)
    let blocks := (List.range (ceilDiv vs.length size)).map (fun b => (vs.drop (b * size)).take size)
    let scales := blocks.map (outScale fmt)
    let codes := (blocks.zip scales).flatMap (fun (b, c) => b.map (scaledCode fmt c))
    (packElems fmt (codes.map (fun c => c.1)), scales.map (BitVec.ofNat 8), ⟨nf, (codes.filter (fun c => c.2)).length⟩)
  else
    let codes := vs.map (convert fmt (epiSat d))
    (packElems fmt (codes.map (fun c => c.1)), [], ⟨nf, (codes.filter (fun c => c.2)).length⟩)

/-- The statistics record of a row (R131, R132) and its counts. -/
def statsRecord (vs : List Val) : List Byte × CvtCounts :=
  let ws := vs.map (fun v => (convert 0 false v).1)
  let ovf := (vs.filter (fun v => (convert 0 false v).2)).length
  let fs := ws.map (fun w => ofF32 (BitVec.ofNat 32 w))
  let la := fs.foldl (fun (x : LA) v =>
    match v with
    | .nan => { x with nan := true }
    | .inf s => laFlags x false (!s) s
    | .fin s m e => laAddFinite x s m e) ({} : LA)
  let bad := la.nan || (la.pinf && la.ninf)
  let (hi, lo) := laPair la
  let top (xs : List Val) : Val := match xs with
    | [] => .zero
    | y :: ys => ys.foldl Val.max y
  let max := if bad then 0x7FC00000 else (toF32 (top fs)).toNat
  let maxAbs := if bad then 0x7FC00000 else (toF32 (top (fs.map Val.abs))).toNat
  let low := if bad then f64Nan else lo
  let nf := (fs.filter Val.nonFinite).length
  (toLE 32 (hi.toNat * 2 ^ 192 + low.toNat * 2 ^ 128 + max * 2 ^ 96 + maxAbs * 2 ^ 64 + nf % 2 ^ 16 * 2 ^ 48 + vs.length % 256 * 2 ^ 40),
   ⟨(vs.filter Val.nonFinite).length, ovf⟩)

/-! ### Vector results (R133 to R137) -/

/-- A result element of the VXU: its code in the destination format, and its counts. Where the exact result is a zero its sign is that of IEEE 754, as Val.add and Val.mul form it: R133 states none (DESIGN CHOICE, log 120). -/
def vecResult (op : VecOp) (src dst : Nat) (sat : Bool) (a b old : Nat) : Nat × CvtCounts :=
  let x := elemValue src a
  let y := elemValue src b
  let done (sat : Bool) (v : Val) : Nat × CvtCounts :=
    let (c, o) := convert dst sat v
    (c, ⟨if v.nonFinite then 1 else 0, if o then 1 else 0⟩)
  -- a function of the FP32 source value; an infinite result of a finite one is an overflow where the exact result is finite
  let fn (g : BitVec 32 → BitVec 32) (ovf : Bool) : Nat × CvtCounts :=
    let r := ofF32 (g (toF32 x))
    let (c, o) := convert dst false r
    if ovf && r.nonFinite then (c, ⟨0, 1⟩) else (c, ⟨if r.nonFinite then 1 else 0, if o then 1 else 0⟩)
  match op with
  | .add => done false (x.add y)
  | .sub => done false (x.add y.negate)
  | .mul => done false (x.mul y)
  | .fma => done false ((x.mul y).add (elemValue dst old))
  | .max => done false (x.max y)
  | .min => done false (x.min y)
  | .abs => done false x.abs
  | .neg => done false x.negate
  | .cvt => done sat x
  | .exp => fn expF32 (!x.nonFinite)
  | .log => fn logF32 false
  | .rcp => fn rcpF32 (match x with
      | .fin _ m _ => decide (m ≠ 0)
      | _ => false)
  | .rsqrt => fn rsqrtF32 false
  | .tanh => fn (tanhF32 3) false
  | .sigmoid => fn (sigmoidF32 4) false

end Sys2Proof.Machine
end

