-- ==== Sys2Proof/Machine/Array.lean ====
section
/-! DEFINITION. The array class (R58) and the matrix array: issue and its checks (R79, R90, R125), the begin of fills, runs and drains with their cycles (R92 to R95), their completion, the release of freed rows (R110). -/
namespace Sys2Proof.Machine

/-! ### Issue -/

/-- The device address of an SPM operand in a trap record: the core's own window. -/
def spmOperand (th : ThreadRef) (off : Nat) : Nat := spmAddr th.die th.core off

/-- The copy of a descriptor of `size` bytes at the offset in sA (R79, R253): TRAP_ADDR when misaligned or beyond the SPM, TRAP_UE_LOAD when it cannot be trusted. -/
def copyDescriptor (th : ThreadRef) (off size : Nat) (chk : Chk) (k : Nat → State → State) (s : State) : State :=
  if off % size ≠ 0 ∨ Config.spmBytes < off + size then trapIssued th trapAddr (spmOperand th off) s
  else
    let a := ownSpm s (coreOf th) off
    match checkRead chk 2 th.die [(a, size)] s with
    | (s, some b) => trapIssued th trapUeLoad (toDevice s.map b) s
    | (s, none) => k (readNum s.mem a size) s

/-- Fields of a tile are in range; base and pitch are multiples of 8 where they are in use: a pitch counts as in use whenever the tile has an element, with one row too, which R90 leaves open (DESIGN CHOICE, log 124). -/
def tileOk (t : Tile) (used : Bool) : Bool :=
  decide (t.fmt ≤ 8) && decide (t.block ≤ 5)
    && (!used || (decide (t.base % 8 = 0) && decide (t.pitch % 8 = 0)
        && (!t.external || (decide (t.scaleBase % 8 = 0) && decide (t.scalePitch % 8 = 0)))))

/-- A fill descriptor passes R90 and R82. -/
def fillOk (d : BitVec 256) : Bool :=
  let t := fillTile d
  decide (fillK d ≤ Config.mxaK) && decide (fillN d ≤ Config.mxaN)
    && tileOk t (decide (0 < fillK d) && decide (0 < fillN d))
    && (!fillReadyEn d || decide (fillReadyOff d % 8 = 0))
    && !(fillXpose d && !fillColumn d)
    && !(fillXpose d && t.ext && decide (5 ≤ t.fmt) && decide (t.fmt ≤ 7))

/-- A run descriptor passes R90 and R83 on a core. -/
def runOk (m : Mxa) (d : BitVec 512) : Bool :=
  let t := runTile d
  decide (runM d ≤ Config.acsRows)
    && (decide (runM d = 0) || (decide (runRow d + runM d ≤ Config.acsRows)
        && (List.range (runM d)).all (fun i => rowUsable m (runRow d + i))))
    && tileOk t (decide (0 < runM d))
    && (!runMmaskEn d || decide (runMmaskOff d % 16 = 0))
    && (!runReadyEn d || decide (runReadyOff d % 8 = 0))
    && (t.external || !t.across)
    && (!runCommit d || m.fillIssued)

/-- A drain descriptor passes R90 and R125; its pitch counts as in use with one row too (DESIGN CHOICE, log 124). -/
def drainOk (d : BitVec 512) : Bool :=
  let used := decide (0 < drainRows d) && decide (0 < drainN d)
  decide (drainRows d ≤ Config.acsRows)
    && (decide (drainRows d = 0) || decide (drainRow d + drainRows d ≤ Config.acsRows))
    && decide (drainN d ≤ Config.acsCols)
    && (!used || (decide (drainBase d % 8 = 0) && decide (drainPitch d % 8 = 0)))
    && (!drainMmaskEn d || decide (drainMmaskOff d % 16 = 0))
    && decide (epiAct d ≤ 5)
    && (!epiMaskEn d || (decide (epiKeep d ≤ 256) && decide (epiParamOff d % 16 = 0)))
    && (decide (epiScaleMode d < 2) || decide (epiScaleOff d % 8 = 0))
    && (!epiBiasEn d || decide (epiBiasOff d % 8 = 0))
    && (if drainStats d then decide (32 ≤ drainPitch d)
        else decide (epiFmt d ≤ 8)
          && (!epiOscaleEn d || (decide (epiOblock d ≤ 5) && decide (3 ≤ epiFmt d) && decide (epiOscalePitch d % 8 = 0))))

/-- The checks of a descriptor: TRAP_DESC for a field, TRAP_ADDR for an operand beyond the SPM (R90, R125), then the queue. A descriptor that fails both takes TRAP_DESC: the spec gives the two no order (DESIGN CHOICE, log 125). -/
def issueArray (th : ThreadRef) (ok : Bool) (spans : List (Nat × Nat)) (op : ArrayOp) (mark : Mxa → Mxa) (s : State) : State :=
  if !ok then trapIssued th trapDesc 0 s
  else
    match spanBeyond spans with
    | some off => trapIssued th trapAddr (spmOperand th off) s
    | none =>
      let k := getCore s (coreOf th)
      enqueueArray th op (putCore s (coreOf th) { k with mxa := mark k.mxa })

def startFill (th : ThreadRef) (f : Fields) (chk : Chk) (s : State) : State :=
  copyDescriptor th (readReg s th f.a).toNat 32 chk (fun v s =>
    let d := BitVec.ofNat 256 v
    issueArray th (fillOk d) (fillSpans d) (.fill d) (fun m => { m with fillIssued := true }) s) s

def startRun (th : ThreadRef) (f : Fields) (chk : Chk) (s : State) : State :=
  copyDescriptor th (readReg s th f.a).toNat 64 chk (fun v s =>
    let d := BitVec.ofNat 512 v
    issueArray th (runOk (getCore s (coreOf th)).mxa d) (runSpans d) (.run d)
      (fun m => if runCommit d then { m with fillIssued := false } else m) s) s

def startDrain (th : ThreadRef) (f : Fields) (chk : Chk) (s : State) : State :=
  copyDescriptor th (readReg s th f.a).toNat 64 chk (fun v s =>
    let d := BitVec.ofNat 512 v
    issueArray th (drainOk d) (drainReadSpans d ++ drainWriteSpans d) (.drain d) id s) s

def execMxaFill (th : ThreadRef) (f : Fields) (chk : Chk) (s : State) : Result :=
  issueThen th (encodeWord 2 0x01 f) s (startFill th f chk)
def execMxaRun (th : ThreadRef) (f : Fields) (chk : Chk) (s : State) : Result :=
  issueThen th (encodeWord 2 0x02 f) s (startRun th f chk)
def execMxaDrain (th : ThreadRef) (f : Fields) (chk : Chk) (s : State) : Result :=
  issueThen th (encodeWord 2 0x03 f) s (startDrain th f chk)

/-- ACS.ALLOC at issue: the lowest free run of rows is reserved in the map; sD is pending until the ALLOC begins (R58, R109). -/
def startAlloc (th : ThreadRef) (f : Fields) (s : State) : State :=
  let n := f.imm.toNat
  let k := getCore s (coreOf th)
  let (first, count, v) : Nat × Nat × Word :=
    if n = 0 then (0, 0, 0)
    else if Config.acsRows < n then (0, 0, BitVec.allOnes 64)
    else
      let r := (freeRun k.mxa.taken n).getD 0
      (r, n, BitVec.ofNat 64 r)
  let s := putCore s (coreOf th) { k with mxa := { k.mxa with taken := k.mxa.taken ||| rowsMask first count } }
  let s := putThreadOf s th (markBusy (threadOf s th) f.d)
  enqueueArray th (.alloc f.d first count v) s

/-- A thread whose next word is this ACS.ALLOC and lacks only free rows stays WAITING (R109). -/
def allocBlocked (s : State) (th : ThreadRef) (f : Fields) : Bool :=
  let k := getCore s (coreOf th)
  let x := getThread k th.thread
  decide (k.phase = .running) && decide (threadMode k th.thread = .active)
    && decide (cachedWord k x.pc = some (encodeWord 2 0x04 f)) && !canAlloc k.mxa f.imm.toNat

def execAcsAlloc (th : ThreadRef) (f : Fields) (s : State) : Result :=
  if allocBlocked s th f then whenUnit th.wf (putThreadOf s th { threadOf s th with allocWait := true })
  else issueThen th (encodeWord 2 0x04 f) s (startAlloc th f)

/-- A waiting ACS.ALLOC is granted: the issue search picks its thread once rows are free (R47, R109). -/
def execAcsAllocGrant (th : ThreadRef) (f : Fields) (s : State) : Result :=
  if (threadOf s th).allocWait then issueThen th (encodeWord 2 0x04 f) s (startAlloc th f) else whenUnit th.wf s

def execAcsFree (th : ThreadRef) (f : Fields) (s : State) : Result :=
  issueThen th (encodeWord 2 0x05 f) s (fun s => enqueueArray th (.free (readReg s th f.a).toNat f.imm.toNat) s)

/-- MXA.SYNC: the thread sleeps until its array instructions have completed (R58). -/
def execMxaSync (th : ThreadRef) (f : Fields) (s : State) : Result :=
  issueThen th (encodeWord 2 0x06 f) s (fun s => putThreadOf s th { threadOf s th with mode := .sleeping .arraySync })

def execMxaSyncWake (th : ThreadRef) (s : State) : Result :=
  whenUnit th.wf <|
    let k := getCore s (coreOf th)
    if threadMode k th.thread = .sleeping .arraySync ∧ arrayDone k.mxa th.thread then
      putThreadOf s th { threadOf s th with mode := .active }
    else s

/-! ### Begin -/

/-- Ranges of a core's own SPM in the store. -/
def spmRanges (s : State) (c : CoreRef) (xs : List (Nat × Nat)) : List (Nat × Nat) := xs.map (fun x => (ownSpm s c x.1, x.2))

/-- Bytes of a core's own SPM. -/
def spmBytesAt (s : State) (c : CoreRef) (off n : Nat) : List Byte := readBytes s.mem (ownSpm s c off) n

/-- No earlier drain that has not completed writes into a span (R92). -/
def drainsClear (m : Mxa) (span : Option (Nat × Nat)) : Bool :=
  m.flight.all (fun f =>
    match f.e.op with
    | .drain d => !spansMeet (hull (drainWriteSpans d)) span
    | _ => true)

/-- The chained reductions started before an entry have finished with its rows (R112). -/
def chainsClear (k : Core) (e : ArrayEntry) : Bool :=
  k.colQueue.all (fun q => decide (e.seq < q.seq) || (List.range Config.acsRows).all (fun r => !(namesRow e.op r && chainHolds q r)))

/-- The array instruction at the queue head, when the core can begin one in this cycle (R92). -/
def arrayHead (s : State) (c : CoreRef) : Option ArrayEntry :=
  let k := getCore s c
  if k.phase = .stopped ∨ k.mxa.lastBegin = some (aclkOf s c.die) then none else k.mxa.queue.head?

/-- The head begins: it leaves the queue and is in flight. -/
def beginFlight (c : CoreRef) (fl : ArrayFlight) (mark : Mxa → Mxa) (s : State) : State :=
  let k := getCore s c
  let m := mark k.mxa
  putCore s c { k with mxa := { m with
    queue := m.queue.drop 1, flight := m.flight ++ [fl], lastBegin := some fl.began } }

/-- TRAP_UE_ARRAY of an array instruction (R192). -/
def trapArray (c : CoreRef) (e : ArrayEntry) (a : Nat) (s : State) : State :=
  trapHeld c e.thread trapUeArray a e.pc.toNat s

/-- What the code of the ACS finds on the entries that a command reads: each corrected limb counts, one that cannot be trusted is one uncorrectable-class event of the core (R184, R192). -/
def checkAcs (chk : Chk) (keys : List Nat) (c : CoreRef) (s : State) : State × Bool :=
  let s := (findings chk).foldl (fun s x => match x with
    | .acsCe e => if keys.contains e then correctable (regionAcs c.die (physCore s c)) s else s
    | _ => s) s
  if (findings chk).any (fun x => match x with
    | .acsUe e => keys.contains e
    | _ => false) then (uncorrectable (regionAcs c.die (physCore s c)) s, true) else (s, false)

/-- The findings that are still to come, after a read of some ranges. -/
def laterFinds (chk : Chk) (ranges : List (Nat × Nat)) : Chk :=
  ⟨chk.finds.filter (fun x => match x with
    | .ce a => !covers ranges a
    | .ue a => !covers ranges a
    | .parity a => !inRanges ranges a
    | _ => true)⟩

/-- A ready word holds (R61, R84): the 64-bit word is at least the value, unsigned. -/
def readyHolds (s : State) (c : CoreRef) (en : Bool) (off val : Nat) : Bool :=
  !en || decide (val ≤ readNum s.mem (ownSpm s c off) 8)

/-- The fill engine accepts a fill: the commit of every earlier run has passed, and the previous fill has written its rows (R92). -/
def fillEngineFree (m : Mxa) (now : Nat) : Bool :=
  (match m.commitCycle with
   | some x => decide (x < now)
   | none => true)
  && (match m.fillBegan with
   | some (b, n) => decide (b + Nat.max n 1 ≤ now)
   | none => true)

/-- MXA.FILL begins: its tile is read and decoded, and the shadow plane takes it (R81, R92, R94, R95). What a trap leaves of the planes is not stated: the shadow of a fill that has begun stands whole, a fill that its own read stops leaves the shadow as it was, and the record of an issued fill stands although the fill is dropped (DESIGN CHOICE, log 126). -/
def beginFill (c : CoreRef) (chk : Chk) (e : ArrayEntry) (d : BitVec 256) (s : State) : State :=
  let m := (getCore s c).mxa
  let now := aclkOf s c.die
  if !fillEngineFree m now || !drainsClear m (hull (fillSpans d)) then s
  else
    let t := fillTile d
    let ready := readyHolds s c (fillReadyEn d) (fillReadyOff d) (fillReadyVal d)
    let word := if fillReadyEn d then [(fillReadyOff d, 8)] else []
    let xs := fillElems d (spmBytesAt s c)
    let tile := (fillRows d).map (fun r => (r.1, packedBytes t.fmt r.2)) ++ scaleRanges t xs
    match checkRead chk 0 c.die (spmRanges s c (if ready then word ++ tile else word)) s with
    | (s, some a) => trapArray c e a s
    | (s, none) =>
      if !ready then s
      else
        let (cells, far) := decodeTile t (fun o => readNum s.mem (ownSpm s c (t.scaleBase + o)) 1) xs
        let n := fillCount d
        let fl : ArrayFlight := { e := e, began := now, due := now + 6 + Nat.max n 1, empty := decide (n = 0) }
        coreCount (beginFlight c fl (fun m => { m with
          shadow := some ⟨some (BitVec.ofNat 4 t.fmt), cells⟩, fillBegan := some (now, n) }) s) c 0 far

/-- The rows that a run feeds (R85). -/
def fedRows (d : BitVec 512) (mask : BitVec 128) : List Nat :=
  (List.range (runM d)).filter (fun m => !runMmaskEn d || bit mask m)

/-- K rows of a plane that hold elements, and columns that hold elements (R85). -/
def planeRow (p : Plane) (k : Nat) : Bool := p.cells.any (fun x => decide (x.1 / 64 = k))
def planeCols (p : Plane) : List Nat := (List.range Config.mxaN).filter (fun n => p.cells.any (fun x => decide (x.1 % 64 = n)))

/-- An ACS entry that nothing has initialised (R97; log 6). -/
def undefEntry (core key : Nat) : LA :=
  let x := Config.undefLa core key
  { val := x.extractLsb' 0 640
    pend := Vector.ofFn (fun (i : Fin 9) => x.extractLsb' (640 + 4 * i) 4)
    guard := x.extractLsb' 676 32
    gsign := bit x 708
    govf := bit x 709
    ninf := bit x 710
    pinf := bit x 711
    nan := bit x 712 }

/-- The entry of ACS row and column 64 row + column. -/
def acsEntry (s : State) (c : CoreRef) (key : Nat) : LA :=
  (mfind (getCore s c).mxa.acs key).getD (undefEntry (coreKey c) key)

/-- A slot's sum is added into an entry with its flags (R104, R106). -/
def addSlot (la : LA) (x : SlotSum) : LA := laFlags (laAddSlice la x.c x.r) x.nan x.pinf x.ninf

/-- The slot sums of a fed row in a column, in slot order (R78, R87). -/
def columnSlots (d : BitVec 512) (p : Plane) (moving : List (Nat × Elem)) (m n : Nat) : List SlotSum :=
  let pairs := p.cells.filterMap (fun x =>
    if x.1 % 64 = n then (mfind moving (128 * m + x.1 / 64)).map (fun a => (a, x.2)) else none)
  (slotParts (runTile d).fmt p.fmt).map (fun q => slotSum q pairs)

/-- The ACS entries that a run reaches (R85, R86). -/
def runReach (d : BitVec 512) (p : Plane) (fed : List Nat) : List Nat :=
  fed.flatMap (fun m => (planeCols p).map (fun n => 64 * (runRow d + m) + n))

/-- The whole effect of a run on the ACS, and its dropped products (R78, R86, R100). -/
def runSums (d : BitVec 512) (p : Plane) (fed : List Nat) (moving : List (Nat × Elem)) (entry : Nat → LA) (acs : SMap LA) : SMap LA × Nat :=
  fed.foldl (fun acc m =>
    (planeCols p).foldl (fun (acs, drops) n =>
      let key := 64 * (runRow d + m) + n
      let xs := columnSlots d p moving m n
      let la := xs.foldl addSlot (if runAcc d then entry key else {})
      (mset acs key la, drops + (xs.map (fun x => x.drops)).sum)) acc) (acs, 0)

/-- The first slot of a run (R93). -/
def firstSlot (m : Mxa) (d : BitVec 512) (now : Nat) : Nat :=
  if runCommit d then
    let x := match m.lastSlot with
      | some l => Nat.max (now + 6) (l + 2)
      | none => now + 6
    match m.fillBegan with
    | some (f, _) => if m.shadow.isSome then Nat.max x (f + 8) else x
    | none => x
  else
    match m.lastSlot with
    | some l => Nat.max (now + 6) (l + 1)
    | none => now + 6

/-- An earlier drain has read the rows that a run names (R92). -/
def rowsRead (op : ArrayOp) (f : ArrayFlight) (now : Nat) : Bool :=
  match f.e.op with
  | .drain _ => f.rows.zipIdx.all (fun (r, i) => !namesRow op r || decide (f.began + (i + 1) * f.rowCycles ≤ now))
  | _ => true

/-- The feed engine accepts a run (R92). -/
def feedAccepts (m : Mxa) (now : Nat) : Bool :=
  match m.lastSlot with
  | some l => decide (l ≤ now + 5)
  | none => true

/-- MXA.RUN begins: commit, feed and sums, with the cycles of R93 and R95 (R78, R85 to R87, R92). A commit whose run a trap stops stands (DESIGN CHOICE, log 126). -/
def beginRun (c : CoreRef) (chk : Chk) (e : ArrayEntry) (d : BitVec 512) (s : State) : State :=
  let k := getCore s c
  let m := k.mxa
  let now := aclkOf s c.die
  if !feedAccepts m now || !m.flight.all (fun f => rowsRead e.op f now) || !drainsClear m (hull (runSpans d)) || !chainsClear k e then s
  else
    let t := runTile d
    let ready := readyHolds s c (runReadyEn d) (runReadyOff d) (runReadyVal d)
    let word := if runReadyEn d then [(runReadyOff d, 8)] else []
    let mask : BitVec 128 := BitVec.ofNat 128 (readNum s.mem (ownSpm s c (runMmaskOff d)) 16)
    let fed := fedRows d mask
    let plane := if runCommit d then m.shadow.getD {} else m.active
    let kept := (List.range Config.mxaK).filter (fun i => runKmask d i && planeRow plane i)
    let xs := runElems d fed (fun i => kept.contains i) (spmBytesAt s c)
    let tile := (if runMmaskEn d then [(runMmaskOff d, 16)] else [])
      ++ fed.map (fun r => (t.base + r * t.pitch, packedBytes t.fmt Config.mxaK)) ++ scaleRanges t xs
    let z := slotCount t.fmt plane.fmt fed.length
    let x := firstSlot m d now
    let fl : ArrayFlight := {
      e := e, began := now, reach := runReach d plane fed, empty := decide (z = 0)
      due := if 0 < z then x + z + 192 else if runCommit d then x + 190 else now }
    let commit (m : Mxa) : Mxa :=
      let m := if runCommit d then { m with active := plane, shadow := none, commitCycle := some (x - 1) } else m
      if 0 < z then { m with lastSlot := some (x + z - 1) } else if runCommit d then { m with lastSlot := some (x - 1) } else m
    match checkRead chk 0 c.die (spmRanges s c (if ready then word ++ tile else word)) s with
    | (s, some a) => trapArray c e a (if ready then beginFlight c fl commit s else s)
    | (s, none) =>
      if !ready then s
      else
        match checkAcs chk (if runAcc d then fl.reach else []) c s with
        | (s, true) => trap c e.thread trapUeArray 0 e.pc.toNat (beginFlight c fl commit s)
        | (s, false) =>
          let (moving, far) := decodeTile t (fun o => readNum s.mem (ownSpm s c (t.scaleBase + o)) 1) xs
          let (acs, drops) := runSums d plane fed moving (acsEntry s c) (getCore s c).mxa.acs
          let s := beginFlight c fl (fun m => { commit m with acs := acs }) s
          coreCount (coreCount s c 0 far) c 1 drops

/-! ### Drains -/

/-- The rows that a drain drains (R89). -/
def drainedRows (d : BitVec 512) (mask : BitVec 128) : List Nat :=
  if drainN d = 0 then [] else (List.range (drainRows d)).filter (fun r => !drainMmaskEn d || bit mask r)

/-- Cycles of a drained row: groups of up to 32 columns (R94). -/
def drainGroups (d : BitVec 512) : Nat := ceilDiv (drainN d) 32

/-- What a drain of a row writes, by group: the group's place, SPM offset, bytes (R94, R129, R131). A scale byte goes with the last group of its block: R94 does not name the cycle of a block's byte that spans several (DESIGN CHOICE, log 127). -/
def rowWrites (d : BitVec 512) (r : Nat) (vs : List Val) : List (Nat × Nat × List Byte) × CvtCounts :=
  let dest := drainBase d + r * drainPitch d
  if drainStats d then
    let (rec, n) := statsRecord vs
    ([(drainGroups d - 1, dest, rec)], n)
  else
    let (bs, scales, n) := epiConvert d vs
    let cut (g : Nat) : Nat := packedBytes (epiFmt d) (Nat.min (32 * g) (drainN d))
    let rows := (List.range (drainGroups d)).map (fun g => (g, dest + cut g, (bs.drop (cut g)).take (cut (g + 1) - cut g)))
    let size := blockSize (epiOblock d)
    let scs := scales.zipIdx.map (fun (b, i) =>
      ((Nat.min ((i + 1) * size) (drainN d) - 1) / 32, epiOscaleOff d + r * epiOscalePitch d + i, [b]))
    (rows ++ scs, n)

/-- The core's array instruction in flight under a sequence number, and that instruction replaced. -/
def getFlight (k : Core) (seq : Nat) : Option ArrayFlight := k.mxa.flight.find? (fun f => decide (f.e.seq = seq))
def putFlight (c : CoreRef) (f : ArrayFlight) (s : State) : State :=
  let k := getCore s c
  putCore s c { k with mxa := { k.mxa with flight := k.mxa.flight.map (fun x => if x.e.seq = f.e.seq then f else x) } }

/-- Columns of entry group g (R94). -/
def groupCols (d : BitVec 512) (g : Nat) : List Nat := (List.range (Nat.min 32 (drainN d - 32 * g))).map (fun j => 32 * g + j)

/-- The scale and bias bytes that a drain reads with entry group g of range row r (R124, R142). -/
def groupReads (d : BitVec 512) (r g : Nat) : List (Nat × Nat) :=
  let n := 4 * (groupCols d g).length
  (if epiBiasEn d then [(epiBiasOff d + 128 * g, n)] else [])
    ++ (if epiScaleMode d = 2 then [(epiScaleOff d + 128 * g, n)] else if epiScaleMode d = 3 then [(epiScaleOff d + 4 * r, 4)] else [])

/-- The scale and bias elements of column n of range row r. -/
def groupInput (s : State) (c : CoreRef) (d : BitVec 512) (r n : Nat) : BitVec 32 × BitVec 32 :=
  let num (off : Nat) : BitVec 32 := BitVec.ofNat 32 (readNum s.mem (ownSpm s c off) 4)
  (if epiScaleMode d = 2 then num (epiScaleOff d + 4 * n) else if epiScaleMode d = 3 then num (epiScaleOff d + 4 * r) else 0,
   if epiBiasEn d then num (epiBiasOff d + 4 * n) else 0)

/-- The pending carries of some entries are resolved before they are read (R105); an undefined entry stays so. -/
def resolveEntries (c : CoreRef) (keys : List Nat) (s : State) : State :=
  let k := getCore s c
  putCore s c { k with mxa := { k.mxa with acs := k.mxa.acs.map (fun e => if keys.contains e.1 then (e.1, laResolved e.2) else e) } }

/-- A drained row whose last entry group has been read passes the epilogue: its writes follow 12 cycles after each group's read, and its conversions count (R94, R123 to R132, R137). -/
def finishRow (c : CoreRef) (f : ArrayFlight) (d : BitVec 512) (s : State) : State :=
  let i := (f.groups - 1) / f.rowCycles
  let row := f.rows.getD i 0
  let r := row - drainRow d
  let x : EpiInputs := {
    scale := fun n => (f.inputs.getD n (0, 0)).1
    bias := fun n => (f.inputs.getD n (0, 0)).2
    key := f.param.extractLsb' 0 64
    step := f.param.extractLsb' 64 32 }
  let vs := (List.range (drainN d)).map (fun n => epiStages d x r n (laDrain (acsEntry s c (64 * row + n))).1)
  let (ws, n) := rowWrites d r vs
  let at_ := f.began + i * f.rowCycles + 12
  coreCount (coreCount (putFlight c { f with inputs := [], writes := f.writes ++ ws.map (fun w => (at_ + w.1, w.2)) } s) c 4 n.nf) c 6 n.ovf

/-- A drain reads its next entry group: the entries, resolved, with the scale and bias elements of their columns (R94, R105, R142); saturated entries count (R107). -/
def readGroup (c : CoreRef) (f : ArrayFlight) (d : BitVec 512) (s : State) : State :=
  let g := f.groups % f.rowCycles
  let row := f.rows.getD (f.groups / f.rowCycles) 0
  let r := row - drainRow d
  let keys := (groupCols d g).map (fun n => 64 * row + n)
  let ranges := spmRanges s c (groupReads d r g)
  match checkRead f.chk 0 c.die ranges s with
  | (s, some a) => trapArray c f.e a s
  | (s, none) =>
    match checkAcs f.chk keys c s with
    | (s, true) => trap c f.e.thread trapUeArray 0 f.e.pc.toNat s
    | (s, false) =>
      let s := resolveEntries c keys s
      let s := coreCount s c 2 (keys.filter (fun key => (laDrain (acsEntry s c key)).2)).length
      let f := { f with
        chk := laterFinds f.chk ranges, groups := f.groups + 1, inputs := f.inputs ++ (groupCols d g).map (groupInput s c d r) }
      if g + 1 = f.rowCycles then finishRow c f d s else putFlight c f s

/-- The entry groups whose cycle has come are read, one a cycle in each drain in flight. -/
def drainCycle (c : CoreRef) (s : State) : State :=
  ((getCore s c).mxa.flight.map (fun f => f.e.seq)).foldl (fun s seq =>
    match getFlight (getCore s c) seq with
    | none => s
    | some f =>
      match f.e.op with
      | .drain d => if f.groups < f.rows.length * f.rowCycles ∧ f.began + f.groups ≤ aclkOf s c.die then readGroup c f d s else s
      | _ => s) s

/-- MXA.DRAIN begins: the row mask and the mask parameter block are read, and the first entry group with them (R89, R92, R94, R95, R138). -/
def beginDrain (c : CoreRef) (chk : Chk) (e : ArrayEntry) (d : BitVec 512) (s : State) : State :=
  let k := getCore s c
  let m := k.mxa
  let now := aclkOf s c.die
  let runsDone := m.flight.all (fun f => match f.e.op with
    | .run _ => !shareRow e.op f.e.op
    | _ => true)
  if !runsDone || decide (now < m.drainReadEnd) || !drainsClear m (hull (drainReadSpans d)) || !chainsClear k e then s
  else
    let mask : BitVec 128 := BitVec.ofNat 128 (readNum s.mem (ownSpm s c (drainMmaskOff d)) 16)
    let rows := drainedRows d mask
    let block := epiMaskEn d && decide (0 < drainRows d) && decide (0 < drainN d)
    let reads := (if drainMmaskEn d then [(drainMmaskOff d, 16)] else []) ++ (if block then [(epiParamOff d, 16)] else [])
    let ranges := spmRanges s c reads
    match checkRead chk 0 c.die ranges s with
    | (s, some a) => trapArray c e a s
    | (s, none) =>
      let g := drainGroups d
      let cycles := rows.length * g
      let fl : ArrayFlight := {
        e := e, began := now, due := if rows.isEmpty then now else now + cycles + 12, empty := rows.isEmpty
        rows := rows.map (fun r => drainRow d + r), rowCycles := g, chk := laterFinds chk ranges
        param := if block then BitVec.ofNat 128 (readNum s.mem (ownSpm s c (epiParamOff d)) 16) else 0 }
      drainCycle c (beginFlight c fl (fun m => { m with drainReadEnd := now + Nat.max cycles 1 }) s)

def execFillBegin (c : CoreRef) (chk : Chk) (s : State) : Result :=
  whenUnit c.wf <| mayTrap c (fun s =>
    match arrayHead s c with
    | some e => (match e.op with
      | .fill d => beginFill c chk e d s
      | _ => s)
    | none => s) s

def execRunBegin (c : CoreRef) (chk : Chk) (s : State) : Result :=
  whenUnit c.wf <| mayTrap c (fun s =>
    match arrayHead s c with
    | some e => (match e.op with
      | .run d => beginRun c chk e d s
      | _ => s)
    | none => s) s

def execDrainBegin (c : CoreRef) (chk : Chk) (s : State) : Result :=
  whenUnit c.wf <| mayTrap c (fun s =>
    match arrayHead s c with
    | some e => (match e.op with
      | .drain d => beginDrain c chk e d s
      | _ => s)
    | none => s) s

/-! ### Completion -/

/-- Which engine an array instruction runs on: 0 fill, 1 feed, 2 drain. -/
def engineOf (op : ArrayOp) : Nat :=
  match op with
  | .fill _ => 0
  | .run _ => 1
  | .drain _ => 2
  | _ => 3

/-- The oldest instruction of an engine that completes by now (R93 to R95). -/
def dueFlight (m : Mxa) (engine now : Nat) : Option (Nat × ArrayFlight) :=
  findAt (fun f => decide (engineOf f.e.op = engine) && decide (f.due ≤ now) && (!f.empty || earlierDone m f.e.seq)) m.flight

/-- SPM writes of an instruction land in their order, with what its accesses find (R187, R190, R192). -/
def landAll (chk : Chk) (c : CoreRef) (ws : List (Nat × Nat × List Byte)) (s : State) : State :=
  ws.foldl (fun s w => landFrom chk (ownSpm s c w.2.1) w.2.2 s) s

/-- An array instruction completes: it leaves its engine, with every write of a drain landed. -/
def completeArray (c : CoreRef) (engine : Nat) (s : State) : State :=
  let k := getCore s c
  match dueFlight k.mxa engine (aclkOf s c.die) with
  | some (i, f) => landAll f.chk c f.writes (putCore s c { k with mxa := { k.mxa with flight := dropAt k.mxa.flight i } })
  | none => s

def execFillComplete (c : CoreRef) (s : State) : Result := whenUnit c.wf (completeArray c 0 s)
def execRunComplete (c : CoreRef) (s : State) : Result := whenUnit c.wf (completeArray c 1 s)
def execDrainComplete (c : CoreRef) (s : State) : Result := whenUnit c.wf (completeArray c 2 s)

/-- The rows of an ACS.FREE that may be released: of each, the earlier array instructions that name it have completed, and chained reductions are done with it (R92, R110). -/
def releasable (k : Core) (seq : Nat) (rows : BitVec 128) : BitVec 128 :=
  (bitsSet rows Config.acsRows).foldl (fun acc r =>
    if k.mxa.flight.all (fun f => decide (seq < f.e.seq) || !namesRow f.e.op r) && k.colQueue.all (fun q => !chainHolds q r)
    then acc ||| rowsMask r 1 else acc) 0

/-- The `i`-th ACS.FREE releases every row whose own conditions hold, and completes with its last; one that releases nothing completes in queue order (R95, R110). -/
def execAcsRowsRelease (c : CoreRef) (i : Nat) (s : State) : Result :=
  whenUnit c.wf <|
    let k := getCore s c
    match k.mxa.releasing[i]? with
    | some (seq, t, rows) =>
      let free := releasable k seq rows
      let left := rows &&& ~~~free
      if rows = 0 ∧ earlierDone k.mxa seq = false then s
      else
        putCore s c { k with mxa := { k.mxa with
          taken := k.mxa.taken &&& ~~~free, reserved := k.mxa.reserved &&& ~~~free
          releasing := if left = 0 then dropAt k.mxa.releasing i else putAt k.mxa.releasing i (seq, t, left) } }
    | none => s

end Sys2Proof.Machine
end

