-- ==== Sys2Proof/Machine/Routing.lean ====
section
/-! DEFINITION. Directions and ports of the torus (R211, R213, R229), data packets of this module (R223, R225), and the transfers of the schedule in effect (R233). -/
namespace Sys2Proof.Machine

def getLink (s : State) (l : Nat) : Link := vget {} s.fab.links l
def putLink (s : State) (l : Nat) (x : Link) : State := { s with fab := { s.fab with links := vset s.fab.links l x } }

/-- Die of a global link (R211). -/
def linkDie (l : Nat) : Nat := l / Config.linksPerDie

/-- Links of a port's bundle, ascending; DIR of a port (R211). -/
def portLinks (s : State) (p : Nat) : List Nat := bitsSet24 (vget 0 s.fab.ports p)
where
  bitsSet24 (x : BitVec 32) : List Nat := (List.range 24).filter (fun i => bit x i)
def portDir (s : State) (p : Nat) : Nat := field (vget 0 s.fab.ports p) 26 24

/-- The active set of a port (R213). -/
def activeLinks (s : State) (p : Nat) : List Nat := (portLinks s p).filter (fun l => (getLink s l).active)

/-- The non-empty port of a direction (R211: 2 × axis, + 1 for the − way). -/
def portOfDir (s : State) (dir : Nat) : Option Nat :=
  (List.range Config.maxPorts).find? (fun p => decide (portLinks s p ≠ []) && decide (portDir s p = dir))

/-- The port that holds a link. -/
def portOfLink (s : State) (l : Nat) : Option Nat :=
  (List.range Config.maxPorts).find? (fun p => (portLinks s p).contains l)

/-! ### Positions (R215, R216, R218) -/

/-- Coordinate of an entry, of this module, extent, slice size and origin on axis 0 X, 1 Y, 2 Z. -/
def entryCoord (e : BitVec 32) (a : Nat) : Nat := if a = 0 then field e 15 10 else if a = 1 then field e 9 5 else field e 4 0
def axisOf (a : Nat) (x y z : BitVec 8) : Nat := if a = 0 then x.toNat else if a = 1 then y.toNat else z.toNat
def ownCoord (s : State) (a : Nat) : Nat := axisOf a s.fab.torus.x s.fab.torus.y s.fab.torus.z
def extentOf (s : State) (a : Nat) : Nat := axisOf a s.fab.torus.extX s.fab.torus.extY s.fab.torus.extZ
def sliceSize (s : State) (a : Nat) : Nat := axisOf a s.fab.torus.sx s.fab.torus.sy s.fab.torus.sz
def sliceOrigin (s : State) (a : Nat) : Nat := axisOf a s.fab.torus.ox s.fab.torus.oy s.fab.torus.oz

/-- step of R229: none when there, else whether the way is −. -/
def axisStep (s : State) (a x t : Nat) : Option Bool :=
  if x = t then none
  else if sliceSize s a = extentOf s a then
    let k := if extentOf s a = 0 then 0 else (t + extentOf s a - x % extentOf s a) % extentOf s a
    some (decide (extentOf s a < 2 * k))
  else some (decide (t < x))

/-- Direction of the next hop toward an entry's coordinates: none to deliver here (R229). -/
def nextDir (s : State) (e : BitVec 32) : Option Nat :=
  [0, 1, 2].findSome? (fun a => (axisStep s a (ownCoord s a) (entryCoord e a)).map (fun neg => 2 * a + (if neg then 1 else 0)))

/-- VALID of an entry (R218). -/
def entryValid (e : BitVec 32) : Bool := bit e 31

/-- XFER of a schedule entry (R233). -/
def schedXfer (e : BitVec 64) : Nat := field e 63 48

/-- The transfer is one of the schedule in effect toward an endpoint; the module's own endpoint is exempt (R157, R233). -/
def scheduled (s : State) (die dest xfer : Nat) : Bool :=
  if dest = s.fab.ownId.toNat then true
  else
    match nextDir s (pisteEntry s die dest) with
    | none => false
    | some dir =>
      match portOfDir s dir with
      | none => false
      | some p => (portLinks s p).any (fun l => (getLink s l).sched.any (fun x => decide (schedXfer x.e = xfer)))

/-- DEST_EP has a valid piste-table entry, and XFER is a transfer of the schedule (R157). -/
def routable (s : State) (die dest xfer : Nat) : Bool :=
  entryValid (pisteEntry s die dest) && scheduled s die dest xfer

/-! ### Data packets (R223, R225) -/

/-- Payload bytes with padding. -/
def padUnits (bs : List Byte) : List Byte := padTo (256 * ceilDiv bs.length 256) bs
/-- Cells of a data packet (R234). -/
def dataCells (p : DataPkt) : Nat := 1 + 8 * ceilDiv (dataBytes p) 256
def pktMcast (p : DataPkt) : Bool := bit p.hdr 36
def pktXfer (p : DataPkt) : Nat := field p.hdr 112 97
def pktEpoch (p : DataPkt) : Nat := field p.hdr 96 81
def pktAddr (p : DataPkt) : Nat := field p.hdr 80 37
def pktType (p : DataPkt) : Nat := field p.hdr 35 32
def pktDest (p : DataPkt) : Nat := field p.hdr 255 240
def pktSrc (p : DataPkt) : Nat := field p.hdr 239 224
def pktTag (p : DataPkt) : Nat := field p.hdr 208 193
def pktBytes (p : DataPkt) : List Byte := p.payload.take (dataBytes p)

/-- The CRC of a data packet: CRC and, in the unicast form, HOPS taken as 0 (R225). -/
def dataCrc (p : DataPkt) : BitVec 32 :=
  let h := setField p.hdr 31 0 0
  let h := if pktMcast p then h else setField h 215 209 0
  crc32 (toLE 32 h.toNat ++ p.payload)

/-- A packet with its CRC. -/
def sealData (hdr : BitVec 256) (bs : List Byte) : DataPkt :=
  let p : DataPkt := ⟨hdr, padUnits bs, false⟩
  { p with hdr := setField p.hdr 31 0 (dataCrc p).toNat }

/-- A unicast data packet of this module: type 1 WRITE, 2 REDUCE, 3 CHAIN. -/
def mkData (s : State) (die dest typ xfer exp tag addr : Nat) (bs : List Byte) : DataPkt :=
  let ep := field (pisteEntry s die dest) 23 16
  sealData (BitVec.ofNat 256 (dest % 2 ^ 16 * 2 ^ 240 + s.fab.ownId.toNat * 2 ^ 224 + ep * 2 ^ 216 + tag % 2 ^ 16 * 2 ^ 193
    + bs.length * 2 ^ 113 + xfer % 2 ^ 16 * 2 ^ 97 + exp % 2 ^ 16 * 2 ^ 81 + addr % 2 ^ 44 * 2 ^ 37 + typ * 2 ^ 32)) bs

/-- Data packets of a unit of this module enter the router of its die. -/
def injectData (s : State) (die : Nat) (owner : Option Nat) (ps : List DataPkt) : State :=
  let r := getRouter s die
  putRouter s die { r with dataIn := r.dataIn ++ ps.map (fun p => { src := none, pkt := p, owner := owner }) }

/-- A FINAL_WRITE: COUNT, FLAG_ADDR and FLAG_VAL, or no flag (R222). -/
def sendFinal (die dest xfer exp count : Nat) (flag : Option (Nat × Nat)) (s : State) : State :=
  let body := match flag with
    | some (a, v) => a % 2 ^ 44 * 2 ^ 64 + v % 2 ^ 64
    | none => 3 * 2 ^ 106
  injectCtrl s die (mkCtrl s die dest 1 false 0 0 exp xfer (BitVec.ofNat 128 (count % 2 ^ 20 * 2 ^ 108 + body)))

end Sys2Proof.Machine
end

