-- ==== Sys2Proof/Machine/Dma.lean ====
section
/-! DEFINITION. The DMA class (R60) and the execution of descriptors (R154 to R161, R226, R359). -/
namespace Sys2Proof.Machine

/-- The descriptor's copy enters the channel's queue (R154). -/
def startPush (th : ThreadRef) (f : Fields) (chk : Chk) (s : State) : State :=
  let off := (readReg s th f.a).toNat
  let ch := f.fl.toNat % 4
  copyDescriptor th off 64 chk (fun v s =>
    let x := getChannel s (coreOf th) ch
    putChannel s (coreOf th) ch { x with queue := x.queue ++ [⟨off, BitVec.ofNat 512 v⟩] }) s

def execDmaPush (th : ThreadRef) (f : Fields) (chk : Chk) (s : State) : Result :=
  issueThen th (encodeWord 4 0x01 f) s (startPush th f chk)

/-- The status word of a channel (R161). -/
def channelStatus (x : DmaChannel) : Word :=
  BitVec.ofNat 64 (x.lastCode.toNat * 2 ^ 56 + channelDepth x * 2 ^ 48 + (if x.exec.isSome then 2 ^ 47 else 0)
    + (if x.err then 2 ^ 46 else 0) + x.completed.toNat)

/-- DMA.STAT returns the status word and clears ERR (R161). -/
def startStat (th : ThreadRef) (f : Fields) (s : State) : State :=
  let ch := f.fl.toNat % 4
  let x := getChannel s (coreOf th) ch
  writeResult th f.d (channelStatus x) 1 (putChannel s (coreOf th) ch { x with err := false })

def execDmaStat (th : ThreadRef) (f : Fields) (s : State) : Result :=
  issueThen th (encodeWord 4 0x02 f) s (startStat th f)

/-! ### Checks (R144, R157, R159, R359) -/

/-- The module may send requests to host memory (R359). -/
def hostUsable (s : State) : Bool := s.pcie.busMaster && !s.pcie.d3 && s.pcie.inL0

/-- Bytes that a DMA end may lie in: a host end only where it is allowed. -/
def dmaReach (s : State) (host : Bool) (a n : Nat) : Bool :=
  match placeOf a n with
  | .tier1 => true
  | .tier2 => true
  | .spm _ _ _ => true
  | .host _ => host && hostUsable s
  | _ => false

/-- Every byte lies where R144 allows; both ends in host memory do not. -/
def dmaAddrOk (s : State) (d : BitVec 512) : Bool :=
  let loc := !dmaRemote d
  (decide (dmaTotal d = 0) || (List.range (dmaRows d)).all (fun j =>
    dmaReach s loc (dmaRowSrc d j) (dmaLength d) && dmaReach s loc (dmaRowDst d j) (dmaLength d)))
    && !(dmaHostSrc d && dmaHostDst d)
    && (!dmaFlagEn d || dmaReach s loc (dmaFlagAddr d) 8)

/-- The code that the checks before the first byte give: 1 when they pass (R157). -/
def dmaCode (s : State) (c : CoreRef) (d : BitVec 512) : Nat :=
  if !dmaAddrOk s d then 3
  else if dmaFlagEn d && decide (dmaFlagAddr d % 8 ≠ 0) then 4
  else if dmaRemote d && !routable s c.die (dmaDestEp d) (dmaXfer d) then 6
  else 1

/-! ### Begin -/

/-- The packets of the first `n` bytes of a REMOTE descriptor (R226). -/
def dmaPackets (s : State) (c : CoreRef) (d : BitVec 512) (n : Nat) : List DataPkt :=
  (dmaPieces d 4096 n).map (fun (src, dst, k) =>
    mkData s c.die (dmaDestEp d) 1 (dmaXfer d) (dmaEpoch d) 0 dst (sourceBytes s src k))

/-- Requests of a row of host memory: at most Max Read Request Size each, none across 4 KiB (R359). -/
def hostCuts : (fuel mrrs addr n : Nat) → List (Nat × Nat)
  | 0, _, _, _ => []
  | fuel + 1, mrrs, addr, n =>
    if n = 0 then []
    else
      let k := Nat.min n (Nat.min (Nat.max mrrs 1) (4096 - addr % 4096))
      (addr, k) :: hostCuts fuel mrrs (addr + k) (n - k)

/-- Requests that wait leave while fewer than 4096 are outstanding (R348). -/
def pumpReads (s : State) : State :=
  let room := 4096 - (s.pcie.reads.filter (fun r => r.sentAt.isSome && r.data.isNone)).length
  if hostUsable s then
    ((s.pcie.reads.filter (fun r => r.sentAt.isNone)).take room).foldl (fun s x =>
      emit { s with pcie := { s.pcie with
        reads := s.pcie.reads.map (fun r => if r.tag = x.tag then { r with sentAt := some s.clk.tick } else r) } }
        (.hostRead x.tag (tlpTo x.bus) x.len)) s
  else s

/-- The module asks for `n` bytes of host memory from a bus address, bound for the store from `dst` on (R359). -/
def readHost (reader : HostReader) (bus dst n : Nat) (s : State) : State :=
  pumpReads ((hostCuts n s.pcie.maxRead bus n).foldl (fun s (a, k) =>
    let tag := s.pcie.nextTag
    { s with pcie := { s.pcie with
      nextTag := tag + 1, reads := s.pcie.reads ++ [{ tag := tag, reader := reader, dst := dst + (a - bus), bus := a, len := k }] } }) s)

/-- The reads of the rows of a descriptor whose source is host memory. -/
def sendHostReads (id : Nat) (d : BitVec 512) (s : State) : State :=
  (List.range (dmaRows d)).foldl (fun s j =>
    if isHost (dmaRowSrc d j) then readHost (.dma id) (dmaRowSrc d j - hostBase) 0 (dmaLength d) s else s) s

/-- The step fault of a DMA read that cannot be trusted (R192, R289). -/
def poisonFault (c : CoreRef) (addr : Nat) (s : State) : State :=
  let g : Signature := { cls := 3, action := 2, detail := 2 }
  stepFault (match toStore s.map addr 1 with
    | some a => heldAt s a g
    | none => { g with unitIndex := physCore s c, unitType := 0, die := c.die, lcore := c.core, addr := addr }) s

/-- A request of the core's threads, issued before request `id`, is still on its way to a granule of some device address ranges: the die network delivers a core's requests to one granule in issue order (R44, R175). -/
def nocAhead (s : State) (c : CoreRef) (id : Nat) (ranges : List (Nat × Nat)) : Bool :=
  s.noc.any (fun p => decide (p.die = c.die) && decide (p.core = c.core) && decide (p.thread < 64) && decide (p.id < id)
    && ranges.any (fun r => decide (0 < r.2) && decide (r.1 / 64 ≤ (p.addr + (p.data.length - 1)) / 64) && decide (p.addr / 64 ≤ (r.1 + (r.2 - 1)) / 64)))

/-- Source rows of a descriptor as device address ranges. -/
def dmaSources (d : BitVec 512) : List (Nat × Nat) :=
  if dmaTotal d = 0 then [] else (List.range (dmaRows d)).map (fun j => (dmaRowSrc d j, dmaLength d))

/-- A descriptor begins to move (R155, R156): a source in host memory is asked for; a REMOTE descriptor sends its packets, and one with rows to other SPMs its die-network packets, up to the first granule that cannot be trusted (R157); the others move when they complete. -/
def beginMove (c : CoreRef) (ch : Nat) (chk : Chk) (e : DmaEntry) (s : State) : State :=
  let d := e.desc
  let (id, s) := takeId s
  let start (code : BitVec 8) (done packets bad : Nat) (s : State) : State :=
    let x := getChannel s c ch
    putChannel s c ch { x with exec := some { e := e, id := id, code := code, doneBytes := done, packets := packets, began := aclkOf s c.die, chk := chk, bad := bad } }
  if dmaHostSrc d then sendHostReads id d (start 1 0 0 0 s)
  else
    match checkRead chk 3 c.die (if dmaTotal d = 0 then [] else dmaRanges s d) s with
    | (s, some bad) =>
      let n := granulePrefix d ((dmaBadAt s d bad).getD 0)
      if dmaRemote d then
        let ps := dmaPackets s c d n
        injectData (start 2 n ps.length (toDevice s.map bad) s) c.die (some id) ps
      else dmaMove chk c id d n (start 2 n 0 (toDevice s.map bad) s)
    | (s, none) =>
      if dmaRemote d then
        let ps := if dmaTotal d = 0 then [] else dmaPackets s c d (dmaTotal d)
        injectData (start 1 (dmaTotal d) ps.length 0 s) c.die (some id) ps
      else if dmaTotal d ≠ 0 ∧ dmaExternal c d then dmaMove chk c id d (dmaTotal d) (start 1 (dmaTotal d) 0 0 s)
      else start 1 0 0 0 s

/-- The descriptor at a channel's head begins when the one before has completed (R156). -/
def execDmaDescriptorBegin (c : CoreRef) (ch : Nat) (chk : Chk) (s : State) : Result :=
  whenUnit (c.wf && dmaChannelOk ch) <|
    let x := getChannel s c ch
    match x.exec, x.queue with
    | none, e :: rest =>
      if (getCore s c).phase = .stopped then s
      else
        let s := if dmaRemote e.desc then readPiste c.die (dmaDestEp e.desc) chk s else s
        let code := dmaCode s c e.desc
        if code = 1 ∧ nocAhead s c s.ids (dmaSources e.desc) then s
        else if code = 1 then settleLost (beginMove c ch chk e (putChannel s c ch { x with queue := rest }))
        else
          let (id, s) := takeId s
          putChannel s c ch { x with queue := rest, exec := some { e := e, id := id, code := BitVec.ofNat 8 code, doneBytes := 0, packets := 0, began := aclkOf s c.die } }
    | _, _ => s

/-! ### Host reads that return (R359) -/

/-- The channel that executes a descriptor. -/
def dmaOwner (s : State) (id : Nat) : Option (CoreRef × Nat × DmaExec) :=
  s.cores.findSome? (fun (key, k) =>
    (List.range Config.dmaChannels).findSome? (fun ch =>
      match (vget {} k.dma ch).exec with
      | some e => if e.id = id then some (⟨key / 256, key % 256⟩, ch, e) else none
      | none => none))

/-- Bytes of the leading reads that have returned. -/
def leadingData : List HostRead → List Byte
  | [] => []
  | r :: rs =>
    match r.data with
    | some bs => bs ++ leadingData rs
    | none => []

/-- The bytes of a descriptor in row order: host rows from what has returned, the others as a read returns them now. -/
def dmaGather (s : State) (d : BitVec 512) (host : List Byte) : List Byte :=
  ((List.range (dmaRows d)).foldl (fun (acc : List Byte × List Byte) j =>
    if isHost (dmaRowSrc d j) then (acc.1 ++ acc.2.take (dmaLength d), acc.2.drop (dmaLength d))
    else (acc.1 ++ sourceBytes s (dmaRowSrc d j) (dmaLength d), acc.2)) ([], host)).1

/-- The offset in row order of the first byte of a descriptor that follows `n` bytes returned from host memory. -/
def dmaHostAt (d : BitVec 512) (n : Nat) : Nat :=
  ((List.range (dmaRows d)).foldl (fun (acc : Nat × Option Nat) j =>
    if acc.2.isSome then acc
    else if isHost (dmaRowSrc d j) then
      (if acc.1 < dmaLength d then (acc.1, some (j * dmaLength d + acc.1)) else (acc.1 - dmaLength d, none))
    else acc) (n, none)).2.getD (dmaTotal d)

/-- The reads of a descriptor have returned, or one has failed: the bytes move up to the first that cannot be trusted, and the reads are done with (R157, R359). -/
def settleHostReads (id : Nat) (failed : Bool) (s : State) : State :=
  let mine := s.pcie.reads.filter (fun r => decide (r.reader = .dma id))
  match dmaOwner s id with
  | none => s
  | some (c, ch, e) =>
    if failed || mine.all (fun r => r.data.isSome) then
      let d := e.e.desc
      let got := leadingData mine
      let s := dropReads (.dma id) s
      let (s, hit) := checkRead e.chk 3 c.die (dmaRanges s d) s
      let stop := lowerOf (if failed then some (dmaHostAt d got.length) else none) (hit.bind (fun a => dmaBadAt s d a))
      let n := match stop with
        | some x => granulePrefix d x
        | none => dmaTotal d
      let bad := match stop with
        | some x => if hit.bind (fun a => dmaBadAt s d a) = some x then toDevice s.map (hit.getD 0)
            else dmaRowSrc d (x / dmaLength d) + x % dmaLength d
        | none => 0
      let x := getChannel s c ch
      let s := putChannel s c ch { x with exec := some { e with code := if stop.isSome then 2 else 1, doneBytes := n, bad := bad } }
      settleLost (dmaMoveBytes e.chk c id d (dmaGather s d got) n s)
    else s

/-! ### Completion -/

/-- The executing descriptor has done all that precedes its status word, at no more than 64 bytes per ACLK cycle; bytes that the own router has discarded are never delivered (R156, R160, R168). -/
def dmaSettled (s : State) (c : CoreRef) (e : DmaExec) : Bool :=
  decide (e.code ≠ 1 ∧ e.code ≠ 2)
    || (decide (e.began + ceilDiv (if e.code = 1 then dmaTotal e.e.desc else e.doneBytes) 64 ≤ aclkOf s c.die)
      && decide (waitingData s e.id = []) && decide (nocOwned s e.id = []) && decide (e.discarded = 0)
      && s.pcie.reads.all (fun r => decide (r.reader ≠ .dma e.id))
      && (decide (e.doneBytes ≠ 0) || dmaRemote e.e.desc || !nocAhead s c e.id (dmaSources e.e.desc)))

/-- A descriptor with POISON: the status word is written after all that precedes the affected granule is at the destination, a REMOTE one sends its final write without a flag, the step fault follows (R156 to R158). -/
def finishPoison (c : CoreRef) (ch : Nat) (e : DmaExec) (s : State) : State :=
  let d := e.e.desc
  let s := finishDma c ch e.e 2 e.doneBytes s
  let s := if dmaRemote d then sendFinal c.die (dmaDestEp d) (dmaXfer d) 0 e.packets none s else s
  poisonFault c e.bad s

/-- A local descriptor whose bytes have not moved moves them; a granule that cannot be trusted ends it with POISON before it (R155 to R157). A write that its bank discards leaves it without completion (R156, R191). -/
def moveAndFinish (c : CoreRef) (ch : Nat) (e : DmaExec) (s : State) : State :=
  let d := e.e.desc
  match checkRead e.chk 3 c.die (dmaRanges s d) s with
  | (s, some bad) =>
    let n := granulePrefix d ((dmaBadAt s d bad).getD 0)
    let s := dmaMove e.chk c e.id d n s
    if s.intg.missed = [] then finishPoison c ch { e with doneBytes := n, bad := toDevice s.map bad } s else s
  | (s, none) =>
    let s := dmaMove e.chk c e.id d (dmaTotal d) s
    if s.intg.missed = [] then finishDma c ch e.e 1 (dmaTotal d) s else s

/-- The descriptor completes: the status word, then the flag or the final write (R156, R157). -/
def completeDma (c : CoreRef) (ch : Nat) (e : DmaExec) (s : State) : State :=
  let d := e.e.desc
  if e.flagOut then closeDma c ch 1 s
  else if e.code = 2 then finishPoison c ch e s
  else if e.code ≠ 1 then finishDma c ch e.e e.code.toNat e.doneBytes s
  else if dmaRemote d then
    sendFinal c.die (dmaDestEp d) (dmaXfer d) (dmaEpoch d) e.packets
      (if dmaFlagEn d then some (dmaFlagAddr d, dmaFlagVal d) else none) (finishDma c ch e.e 1 (dmaTotal d) s)
  else if e.doneBytes = 0 ∧ dmaTotal d ≠ 0 then moveAndFinish c ch e s
  else finishDma c ch e.e 1 (dmaTotal d) s

def execDmaDescriptorComplete (c : CoreRef) (ch : Nat) (s : State) : Result :=
  whenUnit (c.wf && dmaChannelOk ch) <|
    match (getChannel s c ch).exec with
    | some e => if dmaSettled s c e then settleLost (completeDma c ch e s) else s
    | none => s

end Sys2Proof.Machine
end

