-- ==== Sys2Proof/Machine/Glide.lean ====
section
/-! DEFINITION. The glide network at this module (R246 to R249): inputs of an operation, their combination, the packet one hop up, the release. One node stands for the module's routers (log 36). -/
namespace Sys2Proof.Machine

/-- An exact sum in the form that travels: its bits, or zeros and a flag byte (R116, R249). -/
def exactForm (v : Int) (flags : BitVec 8) : BitVec 640 × BitVec 8 :=
  if flags = 0 ∧ laInRange v then (BitVec.ofInt 640 v, 0)
  else if bit flags 0 ∨ (bit flags 1 ∧ bit flags 2) then (0, 1)
  else if bit flags 1 then (0, 2)
  else if bit flags 2 then (0, 4)
  else (0, if v < 0 then 4 else 2)

/-- An exact sum as an FP64 pair (R113). -/
def exactPair (v : Int) (flags : BitVec 8) : BitVec 64 × BitVec 64 :=
  if bit flags 0 ∨ (bit flags 1 ∧ bit flags 2) then (f64Nan, 0)
  else if bit flags 1 then (f64Inf false, 0)
  else if bit flags 2 then (f64Inf true, 0)
  else pairOf v

/-- What one input brings: operation code, mismatch mark, payload, and for FL 5 its exact value and flags. -/
structure GlideIn where
  op : Nat
  mark : Bool := false
  value : BitVec 128 := 0
  la : Int := 0
  flags : BitVec 8 := 0
deriving DecidableEq, Repr

/-- Payloads of two inputs of one operation (R249). -/
def glideCombine (op : Nat) (a b : BitVec 128) : BitVec 128 :=
  let x : BitVec 64 := a.setWidth 64
  let y : BitVec 64 := b.setWidth 64
  if op = 0 then (x + y).setWidth 128
  else if op = 1 then (if x.slt y then y else x).setWidth 128
  else if op = 2 then (if y.slt x then y else x).setWidth 128
  else if op = 3 then (x &&& y).setWidth 128
  else a ||| b

/-- One more input of an operation (R246, R248, R249). -/
def glideAdd (o : GlideOp) (src : GlideSrc) (x : GlideIn) : GlideOp :=
  if o.inputs = [] then
    { o with inputs := [src], op := x.op, mismatch := x.mark, value := x.value, la := x.la, flags := x.flags }
  else
    { o with
      inputs := o.inputs ++ [src]
      op := Nat.min o.op x.op
      mismatch := o.mismatch || x.mark || decide (o.op ≠ x.op)
      value := if o.op = x.op then glideCombine x.op o.value x.value else o.value
      la := o.la + x.la
      flags := o.flags ||| x.flags }

/-- TAG of a packet up (R247). -/
def upTag (op h : Nat) : Nat := op % 8 * 4096 + h % 4096

/-- The combined packet goes one hop up: six packets for FL 5 (R246, R249). -/
def sendUp (h : Nat) (o : GlideOp) (s : State) : State :=
  let mk (part : Nat) (v : BitVec 128) (s : State) : State :=
    injectCtrl s 0 (mkCtrl s 0 (masterEp s).toNat (if o.op ≤ 5 then 3 else 2) true (if o.mismatch then 1 else 0) part
      (groupEpoch s h).toNat (upTag o.op h) v)
  if o.op = 5 then
    let (v, f) := exactForm o.la o.flags
    (List.range 6).foldl (fun s i => mk i (if i < 5 then v.extractLsb' (128 * i) 128 else f.setWidth 128) s) s
  else mk 0 o.value s

/-- The root's result: none for a mismatched operation (R246, R248, R249). -/
def glideResult (o : GlideOp) : BitVec 128 :=
  if o.mismatch then 0
  else if o.op = 5 then
    let (hi, lo) := exactPair o.la o.flags
    hi ++ lo
  else o.value

/-- An operation whose EXPECT inputs are in goes up, or is released at the root (R246); the slice master's ID votes (R185). -/
def settleGlide (h : Nat) (s : State) : State :=
  match mfind s.grp.glideOps h with
  | none => s
  | some o =>
    if o.sent ∨ o.inputs.length ≠ mget 0 s.grp.glideTable h ∨ o.inputs = [] then s
    else
     let s := voteMaster s
     if isMaster s then releaseGlide h (if o.mismatch then 1 else 0) (rootPayload s h (glideResult o)) s
    else sendUp h o { s with grp := { s.grp with glideOps := mset s.grp.glideOps h { o with sent := true } } }

/-- An input of a group's operation arrives at the module's router. -/
def glideArrive (h : Nat) (src : GlideSrc) (x : GlideIn) (s : State) : State :=
  let o := mget {} s.grp.glideOps h
  settleGlide h { s with grp := { s.grp with glideOps := mset s.grp.glideOps h (glideAdd o src x) } }

/-- Collective counters of a die (R269): BYPASS, SLOT_FLUSH, SIG_MISMATCH, GROUP_EPOCH_DROP, FXP_SAT, ABORT_RECV. -/
def collCount (s : State) (die i n : Nat) : State :=
  let r := getRouter s die
  putRouter s die { r with collStats := vset r.collStats i (satAdd (vget 0 r.collStats i) n) }

/-- TAG, EXP_EPOCH, SRC_EP, DEST_EP and TYPE of a control packet (R220). -/
def ctrlTag (p : CtrlPkt) : Nat := field p.hdr 47 32
def ctrlExp (p : CtrlPkt) : Nat := field p.hdr 63 48
def ctrlSrc (p : CtrlPkt) : Nat := field p.hdr 111 96
def ctrlDest (p : CtrlPkt) : Nat := field p.hdr 127 112
def ctrlType (p : CtrlPkt) : Nat := field p.hdr 87 84
def ctrlDie (p : CtrlPkt) : Nat := field p.hdr 75 75
def ctrlCore (p : CtrlPkt) : Nat := field p.hdr 74 67

/-- The oldest packet of a type that waits in a router's box is taken. -/
def takeCtrl (s : State) (die typ : Nat) : Option (RoutedCtrl × State) :=
  let r := getRouter s die
  (findAt (fun p => decide (ctrlType p.pkt = typ)) r.ctrlBox).map (fun (i, p) => (p, putRouter s die { r with ctrlBox := dropAt r.ctrlBox i }))

/-- A part of an FL 5 packet from a child: the whole value once all six are in (R249). -/
def glidePart (h ep part : Nat) (v : BitVec 128) (s : State) : State × Option (Int × BitVec 8) :=
  let o := mget {} s.grp.glideOps h
  let e := BitVec.ofNat 16 ep
  let parts := o.parts.filter (fun p => decide (p.1 ≠ e ∨ p.2.1 ≠ part)) ++ [(e, part, v)]
  let mine := parts.filter (fun p => decide (p.1 = e))
  let get (i : Nat) : Nat := ((mine.find? (fun p => decide (p.2.1 = i))).map (fun p => p.2.2.toNat)).getD 0
  if (List.range 6).all (fun i => mine.any (fun p => decide (p.2.1 = i))) then
    let v := BitVec.ofNat 640 (get 0 + get 1 * 2 ^ 128 + get 2 * 2 ^ 256 + get 3 * 2 ^ 384 + get 4 * 2 ^ 512)
    let o := { o with parts := parts.filter (fun p => decide (p.1 ≠ e)) }
    ({ s with grp := { s.grp with glideOps := mset s.grp.glideOps h o } }, some (v.toInt, BitVec.ofNat 8 (get 5)))
  else ({ s with grp := { s.grp with glideOps := mset s.grp.glideOps h { o with parts := parts } } }, none)

/-- A glide packet at this module: up from a child, or a release on its way down (R246 to R249). -/
def glidePacket (die : Nat) (p : CtrlPkt) (s : State) : State :=
  let tag := ctrlTag p
  let h := tag % 4096
  let code := tag / 4096 % 8
  if ctrlExp p ≠ (groupEpoch s h).toNat then collCount s die 3 1
  else if tag / 32768 = 1 then
    (if (mfind s.grp.glideOps h).isSome then releaseGlide h code p.payload s else s)
  else
    let ep := ctrlSrc p
    let mark := decide (ctrlDie p = 1)
    let src := GlideSrc.child (BitVec.ofNat 16 ep)
    if code = 5 then
      match glidePart h ep (ctrlCore p % 8) p.payload s with
      | (s, some (v, f)) => glideArrive h src { op := 5, mark := mark, la := v, flags := f } s
      | (s, none) => s
    else glideArrive h src { op := code, mark := mark, value := p.payload } s

def execGlideBarrier (die : Nat) (s : State) : Result :=
  whenUnit (dieOk die) <|
    match takeCtrl s die 2 with
    | some (p, s) => glidePacket die p.pkt s
    | none => s

def execGlideSred (die : Nat) (s : State) : Result :=
  whenUnit (dieOk die) <|
    match takeCtrl s die 3 with
    | some (p, s) => glidePacket die p.pkt s
    | none => s

end Sys2Proof.Machine
end

