-- ==== Sys2Proof/Machine/Collective.lean ====
section
/-! DEFINITION. Collectives on a member core (R244 to R270): the elements that travel and their combination (R257 to R260, R452), the results and their sending (R256, R453, R454), chained reductions (R111 to R119). -/
namespace Sys2Proof.Machine

/-! ### Groups (R244, R245) -/

/-- Member r of a group. -/
def memberAt (s : State) (h r : Nat) : Option (BitVec 32) := (mfind s.grp.recs h).bind (fun g => g.members[r]?)
def memberDie (e : BitVec 32) : Nat := field e 15 15
def memberCore (e : BitVec 32) : Nat := field e 7 0
/-- G and MCAST_OK of a group. -/
def groupSize (s : State) (h : Nat) : Nat := ((mfind s.grp.recs h).map (fun g => g.members.length)).getD 0
def groupMcast (s : State) (h : Nat) : Bool := ((mfind s.grp.recs h).map (fun g => bit g.hdr 106)).getD false
/-- The rank of a core of this module (R245). -/
def rankOf (s : State) (c : CoreRef) (h : Nat) : Option Nat :=
  (mfind s.grp.recs h).bind (fun g => (findAt (fun e => decide (memberEp e = s.fab.ownId.toNat)
    && decide (memberDie e = c.die) && decide (memberCore e = c.core)) g.members).map (fun x => x.1))

/-- An SPM-window address means the same offset in another core's SPM; other addresses stand (R453). -/
def redirect (a die core : Nat) : Nat :=
  match placeOf a 1 with
  | .spm _ _ off => spmAddr die core off
  | _ => a

/-- The vote of the window epoch that a packet to an address names (R185, R454). -/
def repairDest (c : CoreRef) (a : Nat) (s : State) : State :=
  match placeOf a 1 with
  | .spm _ _ off => repairWindow c (windowOf off) s
  | _ => s

/-- The window epoch that a WRITE or REDUCE packet names (R454). -/
def colEpoch (s : State) (c : CoreRef) (a : Nat) : Nat :=
  match placeOf a 1 with
  | .spm _ _ off => (windowEpoch s c (windowOf off)).toNat
  | _ => 0

/-! ### Elements (R257, R258, R452) -/

/-- How elements travel in a combined reduction: 0 fixed-point sum, 1 integers, 2 FP64, 3 bits (R257). -/
def elemKind (d : BitVec 512) : Nat :=
  if 3 ≤ colRed d then 3 else if colFmt d = 8 then 1 else if colRed d = 0 then 0 else 2

/-- An element encoded, and whether it left the fixed-point range (R257, R258). -/
def encodeElem (d : BitVec 512) (code : Nat) : Nat × Bool :=
  let v := elemValue (colFmt d) code
  match elemKind d with
  | 0 =>
    (match v with
     | .nan => (2 ^ 63, false)
     | .inf s => (if s then 2 ^ 61 else 2 ^ 62, false)
     | .fin s m e =>
       let n := roundTo m e (colFxpExp d)
       if 2 ^ 40 - 1 < n then (if s then 2 ^ 61 else 2 ^ 62, true)
       else ((BitVec.ofInt 61 (if s then -(n : Int) else n)).toNat, false))
  | 1 => (((BitVec.ofNat 8 code).signExtend 64).toNat, false)
  | 2 => ((toF64 v).toNat, false)
  | _ => (code, false)

/-- Two elements combined (R257). -/
def combineElem (d : BitVec 512) (a b : Nat) : Nat :=
  let x : BitVec 64 := BitVec.ofNat 64 a
  let y : BitVec 64 := BitVec.ofNat 64 b
  let r : BitVec 64 := match elemKind d, colRed d with
    | 0, _ => ((x ||| y).extractLsb' 61 3) ++ (x.setWidth 61 + y.setWidth 61 : BitVec 61)
    | 1, 0 => x + y
    | 1, 1 => if x.slt y then y else x
    | 1, _ => if y.slt x then y else x
    | 2, 1 => toF64 ((ofF64 x).max (ofF64 y))
    | 2, _ => toF64 ((ofF64 x).min (ofF64 y))
    | _, 3 => x &&& y
    | _, _ => x ||| y
  r.toNat

/-- A finished element in OUT_FMT (R258, R452). -/
def finishElem (d : BitVec 512) (x : Nat) : Nat :=
  let b : BitVec 64 := BitVec.ofNat 64 x
  let out (v : Val) : Nat := (convert (colOutFmt d) (colSat d) v).1
  match elemKind d with
  | 0 =>
    if bit b 63 ∨ (bit b 62 ∧ bit b 61) then out .nan
    else if bit b 62 then out (.inf false)
    else if bit b 61 then out (.inf true)
    else
      let v := (b.setWidth 61 : BitVec 61).toInt
      out (.fin (decide (v < 0)) v.natAbs (colFxpExp d))
  | 1 => out (Val.ofInt b.toInt)
  | 2 => out (ofF64 b)
  | _ =>
    let code := x % 2 ^ fmtWidth (colFmt d)
    if colOutFmt d = colFmt d then code else out (elemValue (colFmt d) code)

/-- 64-bit elements of a payload. -/
def wordsOf (bs : List Byte) : List Nat := (List.range (bs.length / 8)).map (fun i => ofLE (slice bs (8 * i) 8))

/-- The NORM_REDUCE element: exact value, flag byte, count (R257). -/
def normBytes (v : Int) (flags : BitVec 8) (count : Nat) : List Byte :=
  let (x, f) := exactForm v flags
  toLE 80 x.toNat ++ [f] ++ List.replicate 7 0 ++ toLE 8 (Nat.min count (2 ^ 64 - 1))
def normParts (bs : List Byte) : Int × BitVec 8 × Nat :=
  ((BitVec.ofNat 640 (ofLE (slice bs 0 80))).toInt, (bs.getD 80 0), ofLE (slice bs 88 8))
def normCombine (a b : List Byte) : List Byte :=
  let (v, f, n) := normParts a
  let (w, g, m) := normParts b
  normBytes (v + w) (f ||| g) (n + m)

/-- The sum of squares of the finite elements and the count of the others (R120, R259). -/
def normOf (fmt : Nat) (codes : List Nat) : LA × Nat :=
  codes.foldl (fun (la, n) code =>
    let v := elemValue fmt code
    if v.nonFinite then (la, n + 1) else (laAddSquare la v, n)) ({}, 0)

/-- The record of NORM_REDUCE (R259). -/
def normRecord (v : Int) (flags : BitVec 8) (count : Nat) : List Byte :=
  let (hi, lo) := exactPair v flags
  toLE 8 hi.toNat ++ toLE 8 lo.toNat ++ toLE 8 count

/-! ### Blocks and spans -/

/-- B of R253, and the elements of block r. -/
def blockLen (d : BitVec 512) (g : Nat) : Nat := ceilDiv (colCount d) g
def blockStart (d : BitVec 512) (g r : Nat) : Nat := Nat.min (r * blockLen d g) (colCount d)
def blockCount (d : BitVec 512) (g r : Nat) : Nat := Nat.min ((r + 1) * blockLen d g) (colCount d) - blockStart d g r

/-- Elements of the operation on an engine or member. -/
def colTotal (d : BitVec 512) : Nat := if colIsAcs d then colAcsRows d * colAcsN d else colCount d

/-- An operation whose members send REDUCE packets (R257). -/
def colReduces (d : BitVec 512) : Bool := decide (colOp d = 1 ∨ colOp d = 3 ∨ colOp d = 7)

/-- A chained operation (R260, R261). -/
def colChained (d : BitVec 512) : Bool := decide (colOp d = 2 ∨ colOp d = 4 ∨ colOp d = 8)

/-- Address spans that the operation uses on a member: source, destination and work, the last one marked (R253). A field that the operation does not use has an empty span: its address is in its field's range all the same; ACS_CHAIN ignores the three (R261). -/
def colSpans (d : BitVec 512) (g r : Nat) : List (Nat × Nat × Bool) :=
  let w := fmtWidth (colFmt d) / 8
  let o := fmtWidth (colOutFmt d) / 8
  let n := colCount d
  let all (src dst work : Nat) : List (Nat × Nat × Bool) := [(colSrc d, src, false), (colDst d, dst, false), (colWork d, work, true)]
  match colOp d with
  | 1 => all (n * w) (n * o) (8 * n)
  | 2 => all (n * w) (n * o) 0
  | 3 => all (n * w) (blockCount d g r * o) (8 * blockCount d g r)
  | 4 => all (n * w) (blockCount d g r * o) 0
  | 5 => all (n * w) (g * n * w) 0
  | 6 => all (if r = colRoot d then n * w else 0) (n * w) 0
  | 7 => all (n * w) 24 (if n = 0 then 0 else 96)
  | _ => []

/-- A span lies where the descriptor's fields allow, an empty one by its address (R253). -/
def colSpanOk (c : CoreRef) (x : Nat × Nat × Bool) : Bool :=
  (match placeOf x.1 (Nat.max x.2.1 1) with
    | .tier1 => true
    | .tier2 => !x.2.2
    | .spm die core _ => !x.2.2 || decide (die = c.die ∧ core = c.core)
    | _ => false)
    && (!x.2.2 || decide (x.1 % 64 = 0))

def colFmtOk (f : Nat) : Bool := decide (f ≤ 4 ∨ f = 8)

/-- The fields of a collective descriptor are in range (R244, R253, R112). -/
def colOk (s : State) (c : CoreRef) (h : Nat) (d : BitVec 512) : Bool :=
  let g := groupSize s h
  decide (1 ≤ colOp d ∧ colOp d ≤ 8) && decide (colRed d ≤ 4) && colFmtOk (colFmt d) && (colIsAcs d || colFmtOk (colOutFmt d))
    && decide (colRoot d < g) && (!colChained d || decide (colRed d = 0))
    && (colSpans d g ((rankOf s c h).getD 0)).all (colSpanOk c)
    && (!colIsAcs d || (decide (colAcsRows d ≤ Config.acsRows) && decide (colAcsN d ≤ Config.acsCols)
        && (decide (colAcsRows d = 0) || decide (colAcsRow d + colAcsRows d ≤ Config.acsRows))
        && (List.range (colAcsRows d)).all (fun i => rowUsable (getCore s c).mxa (colAcsRow d + i))))

/-- A handle that a thread may name (R244, R280). -/
def handleOk (s : State) (h : Nat) : Bool := decide (h < s.grp.count.toNat) && decide (h ≠ stepGroup s)

/-- The signature of an operation (R254). -/
def colSignature (s : State) (h : Nat) (d : BitVec 512) : Nat :=
  colTotal d * 2 ^ 32 + colFmt d * 2 ^ 28 + colOp d * 2 ^ 24 + colRed d * 2 ^ 21 + (groupEpoch s h).toNat

/-! ### Entries -/

def setEntry (c : CoreRef) (seq : Nat) (f : ColEntry → ColEntry) (s : State) : State :=
  let k := getCore s c
  putCore s c { k with colQueue := k.colQueue.map (fun e => if e.seq = seq then f e else e) }
def getEntry (s : State) (c : CoreRef) (seq : Nat) : Option ColEntry := (getCore s c).colQueue.find? (fun e => decide (e.seq = seq))
def dropEntry (c : CoreRef) (seq : Nat) (s : State) : State :=
  let k := getCore s c
  putCore s c { k with colQueue := k.colQueue.filter (fun e => decide (e.seq ≠ seq)) }

/-- Of two status codes, the first in the table of R265. -/
def worseStatus (a b : Nat) : Nat :=
  let rank (x : Nat) : Nat := if x = 2 then 0 else if x = 3 then 1 else if x = 4 then 2 else if x = 1 then 3 else 4
  if rank a ≤ rank b then a else b

/-- An operation ends with a status; of several, the first in the table of R265. -/
def endEntry (c : CoreRef) (seq status : Nat) (s : State) : State :=
  setEntry c seq (fun e => { e with phase := .ended (BitVec.ofNat 8 (match e.phase with
    | .ended x => worseStatus x.toNat status
    | _ => status)) }) s

/-- A COLL_CTRL packet to a member core (R254 to R256, R454). -/
def sendColl (c : CoreRef) (h tag kind count value : Nat) (m : BitVec 32) (s : State) : State :=
  let p := BitVec.ofNat 128 (kind * 2 ^ 120 + (groupEpoch s h).toNat * 2 ^ 104 + tag * 2 ^ 88 + count % 2 ^ 20 * 2 ^ 64 + value % 2 ^ 64)
  let s := repairEpoch c s
  injectCtrl s c.die (mkCtrl s c.die (memberEp m) 4 false (memberDie m) (memberCore m) (getCore s c).epoch.value.toNat h p)

/-! ### Results to the members (R256) -/

/-- Multicast mask of a group: X, Y and Z coordinates of its members, inside the slice box; the bits cleared (R223, R230). -/
def groupMask (s : State) (die h : Nat) : BitVec 128 × Nat :=
  let es := (groupEps s h).map (fun ep => pisteEntry s die ep)
  let bits (a base : Nat) (acc : BitVec 128) : BitVec 128 := es.foldl (fun acc e => acc ||| (1#128 <<< (base + entryCoord e a))) acc
  let all := bits 2 0 (bits 1 32 (bits 0 64 0))
  let out (i : Nat) : Bool :=
    let (a, x) := if 64 ≤ i then (0, i - 64) else if 32 ≤ i then (1, i - 32) else (2, i)
    !(decide (sliceOrigin s a ≤ x) && decide (x < sliceOrigin s a + sliceSize s a))
      && !(decide (sliceSize s a = extentOf s a) && decide (x < extentOf s a))
  let clipped := (List.range 128).filter (fun i => bit all i && out i)
  (clipped.foldl (fun m i => m &&& ~~~(1#128 <<< i)) all, clipped.length)

/-- A mask selects a position. -/
def maskSelects (m : BitVec 128) : Bool := decide (field m 127 64 ≠ 0) && decide (field m 63 32 ≠ 0) && decide (field m 31 0 ≠ 0)

/-- WRITE packets of a result from an address on, cut at multiples of 4096 (R256). -/
def resultPieces (dst : Nat) (bs : List Byte) : List (Nat × List Byte) :=
  (cutPieces (bs.length / 4096 + 2) 4096 0 dst bs.length).map (fun (off, a, n) => (a, slice bs off n))

/-- Router counters of a die (R242). -/
def routerCount (s : State) (die i n : Nat) : State :=
  let r := getRouter s die
  putRouter s die { r with stats := vset r.stats i (satAdd (vget 0 r.stats i) n) }

/-- Bytes go to every member at an address redirected to it, each followed by its DONE (R256, R453). -/
def sendResult (c : CoreRef) (e : ColEntry) (d : BitVec 512) (dst : Nat) (bs : List Byte) (s : State) : State :=
  let h := e.handle
  let ms := ((mfind s.grp.recs h).map (fun g => g.members)).getD []
  let xfer := (colXfer d + 1) % 2 ^ 16
  let done (n : Nat) (s : State) : State := ms.foldl (fun s m => sendColl c h (colTag d) 3 n 0 m s) s
  if groupMcast s h then
    let (mask, clipped) := groupMask s c.die h
    let s := routerCount s c.die 7 clipped
    let a := redirect dst c.die c.core
    let ps := resultPieces a bs
    let s := ps.foldl (fun s x => repairDest c x.1 s) s
    let s := if maskSelects mask then
        injectData s c.die (some e.id) (ps.map (fun (x, p) =>
          sealData (BitVec.ofNat 256 (mask.toNat * 2 ^ 128 + p.length * 2 ^ 113 + xfer * 2 ^ 97 + colEpoch s c x * 2 ^ 81
            + x % 2 ^ 44 * 2 ^ 37 + 2 ^ 36 + 1 * 2 ^ 32)) p))
      else s
    done ps.length s
  else
    ms.foldl (fun s m =>
      let ps := resultPieces (redirect dst (memberDie m) (memberCore m)) bs
      let s := ps.foldl (fun s x => repairDest c x.1 s) s
      let s := injectData s c.die (some e.id) (ps.map (fun (x, p) =>
        mkData s c.die (memberEp m) 1 xfer (colEpoch s c x) 0 x p))
      sendColl c h (colTag d) 3 ps.length 0 m s) s

/-- A member writes its own output, at the address redirected to its own die and core (R262, R453; REDUCE_SCATTER): it lands in its own SPM or in a tier. -/
def writeOwn (chk : Chk) (c : CoreRef) (e : ColEntry) (dst : Nat) (bs : List Byte) (s : State) : State :=
  settleLost ((resultPieces (redirect dst c.die c.core) bs).foldl (fun s (a, p) =>
    let s := repairDest c a s
    localWrite chk c 65 (colEpoch s c a) (some e.id) a p s) s)

/-! ### Sources -/

/-- Element codes of a source from element `i` on. -/
def colCodes (s : State) (d : BitVec 512) (i n : Nat) : List Nat :=
  let w := fmtWidth (colFmt d) / 8
  let bs := sourceBytes s (colSrc d + i * w) (n * w)
  (List.range n).map (fun j => ofLE (slice bs (j * w) w))

/-- Source ranges in the store. -/
def colRanges (s : State) (d : BitVec 512) : List (Nat × Nat) :=
  let n := colCount d * (fmtWidth (colFmt d) / 8)
  if n = 0 then [] else ((toStore s.map (colSrc d) n).map (fun a => (a, n))).toList

/-- The range of `n` source elements from place `a` on, in the store. -/
def colRangeAt (s : State) (d : BitVec 512) (a n : Nat) : List (Nat × Nat) :=
  let w := fmtWidth (colFmt d) / 8
  if n = 0 then [] else ((toStore s.map (colSrc d + a * w) (n * w)).map (fun x => (x, n * w))).toList

/-- A read of a source, or of the finishing area, that cannot be trusted stops the core (R192). -/
def colTrap (c : CoreRef) (e : ColEntry) (a : Nat) (s : State) : State :=
  trapHeld c e.thread trapUeArray a e.pc.toNat s

/-! ### Chained reductions (R111 to R117, R260) -/

/-- Elements of a CHAIN payload (R117). -/
def chainPer (d : BitVec 512) : Nat := if colExact d then 50 else 256

/-- An element on its way: an FP64 pair, or an exact value with its flag byte. -/
inductive ChainVal where
  | pair (hi lo : BitVec 64)
  | exact_ (v : BitVec 640) (flags : BitVec 8)
deriving DecidableEq, Repr

/-- A payload of elements, padded to a multiple of 256 bytes (R117). -/
def chainBytes (xs : List ChainVal) : List Byte :=
  let vals := xs.flatMap (fun x => match x with
    | .pair hi lo => toLE 8 hi.toNat ++ toLE 8 lo.toNat
    | .exact_ v _ => toLE 80 v.toNat)
  let flags := xs.flatMap (fun x => match x with
    | .pair _ _ => []
    | .exact_ _ f => [f])
  padUnits (vals ++ flags)

/-- The first `n` elements of a payload (R117). -/
def chainElems (exact_ : Bool) (n : Nat) (bs : List Byte) : List ChainVal :=
  (List.range n).map (fun i =>
    if exact_ then .exact_ (BitVec.ofNat 640 (ofLE (slice bs (80 * i) 80))) (bs.getD (80 * n + i) 0)
    else .pair (BitVec.ofNat 64 (ofLE (slice bs (16 * i) 8))) (BitVec.ofNat 64 (ofLE (slice bs (16 * i + 8) 8))))

/-- A source element in an LA (R260). -/
def elemLa (v : Val) : LA :=
  match v with
  | .nan => { nan := true }
  | .inf s => if s then { ninf := true } else { pinf := true }
  | .fin s m e => laAddExact {} (scaleTo s m (e + 352) 0)

/-- ACS entry of element i of a chained reduction. -/
def chainKey (d : BitVec 512) (i : Nat) : Nat := 64 * (colAcsRow d + i / colAcsN d) + i % colAcsN d

/-- This engine's own element (R111, R113, R116, R260): place `i` of the vector or of the rows. -/
def chainOwn (s : State) (c : CoreRef) (d : BitVec 512) (i : Nat) : ChainVal :=
  let la := if colIsAcs d then acsEntry s c (chainKey d i) else
    match (colCodes s d i 1) with
    | code :: _ => elemLa (elemValue (colFmt d) code)
    | [] => {}
  if colExact d then
    let (v, f) := laExact la
    .exact_ v f
  else if colIsAcs d then
    let (hi, lo) := laPair la
    .pair hi lo
  else
    match colCodes s d i 1 with
    | code :: _ => .pair (toF64 (elemValue (colFmt d) code)) 0
    | [] => .pair 0 0

/-- The incoming element combined with this engine's own (R114, R116). -/
def chainCombine (s : State) (c : CoreRef) (d : BitVec 512) (i : Nat) (x : ChainVal) : ChainVal :=
  match x, chainOwn s c d i with
  | .pair xh xl, .pair yh yl =>
    let (h, l) := combinePair xh xl yh yl
    .pair h l
  | .exact_ v f, .exact_ w g =>
    let own : Int := if colIsAcs d then laValue (acsEntry s c (chainKey d i)) else w.toInt
    let g := if colIsAcs d then laFlagByte (acsEntry s c (chainKey d i)) else g
    let (r, fl) := exactForm (v.toInt + own) (f ||| g)
    .exact_ r fl
  | x, _ => x

/-- A finished element in OUT_FMT (R260). -/
def chainOut (d : BitVec 512) (x : ChainVal) : Nat :=
  let v : Val := match x with
    | .pair hi lo => if (ofF64 hi).nonFinite then ofF64 hi else (ofF64 hi).add (ofF64 lo)
    | .exact_ v f => if f = 0 then .fin (decide (v.toInt < 0)) v.toInt.natAbs (-352)
        else if bit f 0 ∨ (bit f 1 ∧ bit f 2) then .nan else .inf (bit f 2)
  (convert (colOutFmt d) (colSat d) v).1

/-- The last engine combines the element that it receives with its own, into its own entry: in compensated mode the cleared entry takes the combined pair by R108; in exact mode the received value is added as a full-width update, whatever its range, and the flags are ORed (R111, R114, R116). -/
def chainStore (s : State) (c : CoreRef) (d : BitVec 512) (i : Nat) (x : ChainVal) : LA :=
  match x with
  | .pair _ _ =>
    (match chainCombine s c d i x with
     | .pair hi lo => (laAddF64 (laAddF64 {} hi).1 lo).1
     | _ => {})
  | .exact_ v f => laMergeExact (acsEntry s c (chainKey d i)) v.toInt f

/-- The pieces of the vector that come to rank q of G from the rank before, in order: first place, length, whether they end here (R111, R260). -/
def chainIn (d : BitVec 512) (g q : Nat) : List (Nat × Nat × Bool) :=
  if colOp d = 4 then
    (List.range (g - 1)).map (fun k =>
      let b := (q + 2 * g - 2 - k) % g
      (blockStart d g b, blockCount d g b, decide (b = q)))
  else if q = 0 then [] else [(0, colTotal d, decide (q + 1 = g))]

/-- The next payload that comes to a rank after `n` elements: first place, length, whether it ends here. -/
def chainNext : (per n : Nat) → List (Nat × Nat × Bool) → Option (Nat × Nat × Bool)
  | _, _, [] => none
  | per, n, (a, len, last) :: rest =>
    if len ≤ n then chainNext per (n - len) rest else some (a + n, Nat.min per (len - n), last)
def chainInTotal (d : BitVec 512) (g q : Nat) : Nat := ((chainIn d g q).map (fun x => x.2.1)).sum

/-- CHAIN packets go to the next rank: addressed to its core by the base of its window, they name its core epoch (log 38). -/
def sendChain (c : CoreRef) (e : ColEntry) (d : BitVec 512) (q : Nat) (xs : List ChainVal) (s : State) : State :=
  match memberAt s e.handle ((q + 1) % groupSize s e.handle) with
  | none => s
  | some m =>
    let s := repairEpoch c s
    injectData s c.die (some e.id) [mkData s c.die (memberEp m) 3 (colXfer d) (getCore s c).epoch.value.toNat (colTag d)
      (spmAddr (memberDie m) (memberCore m) 0) (chainBytes xs)]

/-- Elements from a place on are sent in payloads. -/
def sendOwn (c : CoreRef) (e : ColEntry) (d : BitVec 512) (q a n : Nat) (s : State) : State :=
  (List.range (ceilDiv n (chainPer d))).foldl (fun s i =>
    let first := a + i * chainPer d
    let k := Nat.min (chainPer d) (n - i * chainPer d)
    sendChain c e d q ((List.range k).map (fun j => chainOwn s c d (first + j))) s) s

/-- Array instructions issued before the reduction that name its rows have completed (R112). -/
def chainFree (k : Core) (e : ColEntry) (d : BitVec 512) : Bool :=
  let clear (op : ArrayOp) : Bool := !(List.range (colAcsRows d)).any (fun i => namesRow op (colAcsRow d + i))
  k.mxa.queue.all (fun x => decide (e.seq < x.seq) || clear x.op) && k.mxa.flight.all (fun x => decide (e.seq < x.e.seq) || clear x.e.op)

/-- ACS entries of `n` elements of a chained reduction from place `a` on. -/
def chainKeys (d : BitVec 512) (a n : Nat) : List Nat := (List.range n).map (fun j => chainKey d (a + j))

/-- A chained reduction reads entries of its core: they are resolved first (R105); one that cannot be trusted traps (R192). -/
def readEntries (chk : Chk) (c : CoreRef) (e : ColEntry) (keys : List Nat) (k : State → State) (s : State) : State :=
  match checkAcs chk keys c s with
  | (s, true) => trap c e.thread trapUeArray 0 e.pc.toNat s
  | (s, false) => k (resolveEntries c keys s)

/-- Engine 0 of an ACS_CHAIN sends its elements once it may read them (R111, R112). -/
def pumpChain (c : CoreRef) (s : State) : State :=
  (getCore s c).colQueue.foldl (fun s e =>
    match e.kind, e.phase with
    | .bulk d _, .data =>
      if colIsAcs d && decide (e.finished = 0) && decide (colTotal d ≠ 0) && decide (rankOf s c e.handle = some 0)
          && decide (1 < groupSize s e.handle) && chainFree (getCore s c) e d then
        readEntries e.chk c e (chainKeys d 0 (colTotal d)) (fun s =>
          setEntry c e.seq (fun e => { e with finished := colTotal d }) (sendOwn c e d 0 0 (colTotal d) s)) s
      else s
    | _, _ => s) s

/-! ### The data phase (R254 step 5, R256 to R262) -/

/-- Prefix of a REDUCE payload (R257). -/
def reducePrefix (contrib chunk : Nat) : List Byte := toLE 16 (contrib % 2 ^ 24 * 2 ^ 104 + chunk % 2 ^ 32 * 2 ^ 72)

/-- One REDUCE packet to a finishing member (R257, R453). -/
def sendReduce (c : CoreRef) (e : ColEntry) (d : BitVec 512) (m : BitVec 32) (chunk : Nat) (elems : List Byte) (s : State) : State :=
  let a := redirect (colWork d) (memberDie m) (memberCore m)
  let s := repairDest c a s
  injectData s c.die (some e.id) [mkData s c.die (memberEp m) 2 (colXfer d) (colEpoch s c a) (colTag d) a (reducePrefix 1 chunk ++ elems)]

/-- The chunks of `n` elements from a place on go to a finishing member (R257). -/
def sendChunks (c : CoreRef) (e : ColEntry) (d : BitVec 512) (m : BitVec 32) (a n : Nat) (s : State) : State :=
  (List.range (ceilDiv n 510)).foldl (fun s i =>
    let xs := (colCodes s d (a + 510 * i) (Nat.min 510 (n - 510 * i))).map (encodeElem d)
    let s := collCount s c.die 4 (xs.filter (fun x => x.2)).length
    sendReduce c e d m i (xs.flatMap (fun x => toLE 8 x.1)) s) s

/-- The member sends what its operation has it send first. -/
def startData (c : CoreRef) (e : ColEntry) (d : BitVec 512) (s : State) : State :=
  let h := e.handle
  let g := groupSize s h
  match rankOf s c h with
  | none => s
  | some r =>
    let block := (r + g - 1) % g
    let ranges := match colOp d with
      | 2 => if r = 0 then colRanges s d else []
      | 4 => colRangeAt s d (blockStart d g block) (blockCount d g block)
      | 6 => if r = colRoot d then colRanges s d else []
      | 8 => []
      | _ => colRanges s d
    match checkRead e.chk 3 c.die ranges s with
    | (s, some a) => colTrap c e a s
    | (s, none) =>
      if colTotal d = 0 then s
      else
        match colOp d with
        | 1 => ((memberAt s h (colRoot d)).map (fun m => sendChunks c e d m 0 (colCount d) s)).getD s
        | 2 => if r = 0 then sendOwn c e d 0 0 (colCount d) s else s
        | 3 => (List.range g).foldl (fun s b =>
            ((memberAt s h b).map (fun m => sendChunks c e d m (blockStart d g b) (blockCount d g b) s)).getD s) s
        | 4 => sendOwn c e d r (blockStart d g block) (blockCount d g block) s
        | 5 =>
          let w := fmtWidth (colFmt d) / 8
          sendResult c e d (colDst d + r * colCount d * w) (sourceBytes s (colSrc d) (colCount d * w)) s
        | 6 => if r = colRoot d then sendResult c e d (colDst d) (sourceBytes s (colSrc d) (colCount d * (fmtWidth (colFmt d) / 8))) s else s
        | 7 =>
          ((memberAt s h (colRoot d)).map (fun m =>
            let (la, n) := normOf (colFmt d) (colCodes s d 0 (colCount d))
            let (v, f) := laExact la
            sendReduce c e d m 0 (normBytes v.toInt f n) s)).getD s
        | _ => pumpChain c s

/-! ### Glide order of a core (R247) -/

/-- The first glide operation of a group that has not been released, if its arrival can go. -/
def nextGlide (s : State) (c : CoreRef) (h : Nat) : Option ColEntry :=
  ((getCore s c).colQueue.filter (fun e => decide (e.handle = h))).find? (fun e =>
    match e.kind, e.phase with
    | .bulk _ _, .signature => true
    | .bulk _ _, .arrived => true
    | .bulk _ _, _ => false
    | _, _ => true)

/-- What an entry's arrival carries (R247, R249); a rounding of R108 counts in LA_UFL, a guard overflow is the infinity of its sign (R106, R116). -/
def arrivalOf (e : ColEntry) : GlideIn × Nat :=
  match e.kind with
  | .bulk _ _ => ({ op := 7, value := if e.poison then 1 else 0 }, 0)
  | .bar => ({ op := 6 }, 0)
  | .sred =>
    if e.fl = 5 then
      let (a, u1) := laAddF64 {} e.hi
      let (b, u2) := laAddF64 a e.lo
      let f : BitVec 8 := (if b.nan then 1 else 0) ||| (if b.pinf || (b.govf && !b.gsign) then 2 else 0)
        ||| (if b.ninf || (b.govf && b.gsign) then 4 else 0)
      ({ op := 5, la := if b.govf then 0 else laValue b, flags := f }, (if u1 then 1 else 0) + (if u2 then 1 else 0))
    else ({ op := e.fl.toNat, value := e.hi.setWidth 128 }, 0)

/-- A core sends the arrival of its next glide operation of a group (R246, R247). -/
def pumpGlide (c : CoreRef) (h : Nat) (s : State) : State :=
  match nextGlide s c h with
  | none => s
  | some e =>
    let ready := match e.kind, e.phase with
      | .bulk _ _, .signature => e.sigSeen
      | .bulk _ _, _ => false
      | _, .queued => true
      | _, _ => false
    if ready then
      let (x, ufl) := arrivalOf e
      let s := coreCount (setEntry c e.seq (fun e => { e with phase := .arrived }) s) c 3 ufl
      glideArrive h (.core c.die c.core) x s
    else s

/-- The predecessor's signature is compared with the member's own (R254 step 3). -/
def takeSignature (c : CoreRef) (e : ColEntry) (value : Nat) (s : State) : State :=
  match e.kind with
  | .bulk d _ =>
    let poison := decide (value - value / 2 ^ 20 % 2 * 2 ^ 20 ≠ colSignature s e.handle d)
    let s := if poison then collCount s c.die 2 1 else s
    pumpGlide c e.handle (setEntry c e.seq (fun e => { e with sigSeen := true, poison := poison }) s)
  | _ => s

/-! ### Issue (R63) -/

/-- The group epoch of a handle has been ended by FAILED_MEMBER (R266). -/
def epochFailed (s : State) (h : Nat) : Bool := decide (mfind s.grp.failedEpoch h = some (groupEpoch s h))

/-- A collective-class instruction enters the core's queue. -/
def pushEntry (th : ThreadRef) (kind : ColKind) (h : Nat) (f : Fields) (phase : ColPhase) (s : State) : State × ColEntry :=
  let c := coreOf th
  let pc := issuedPc s th
  let hi := readReg s th f.a
  let lo := readReg s th f.b
  let (id, s) := takeId s
  let k := getCore s c
  let e : ColEntry := { seq := k.seq, thread := th.thread, pc := pc, kind := kind, handle := h, gepoch := groupEpoch s h, d := f.d,
                        fl := f.fl, hi := hi, lo := lo, phase := phase, id := id }
  (putCore s c { k with seq := k.seq + 1, colQueue := k.colQueue ++ [e] }, e)

/-- COL.START: the descriptor's checks, the queue, the signature to the next rank (R253, R254, R262, R266). -/
def startCol (th : ThreadRef) (f : Fields) (chk : Chk) (s : State) : State :=
  let c := coreOf th
  let off := (readReg s th f.a).toNat
  let h := f.imm.toNat % 2 ^ 16
  copyDescriptor th off 64 chk (fun v s =>
    let d : BitVec 512 := BitVec.ofNat 512 v
    if !handleOk s h || !colOk s c h d then trapIssued th trapDesc 0 s
    else
      let failed := epochFailed s h
      let one := decide (groupSize s h = 1)
      let (s, e) := pushEntry th (.bulk d off) h f (if failed then .ended 2 else if one then .data else .signature) s
      let k := getCore s c
      let s := putCore s c { k with colRecords := k.colRecords ++ [⟨off, e.seq, none⟩] }
      let s := if colReduces d then { s with grp := { s.grp with tagOps := mset s.grp.tagOps (colTag d) d } } else s
      if failed || one then s
      else
        match rankOf s c h with
        | none => s
        | some r =>
          let s := ((memberAt s h ((r + 1) % groupSize s h)).map (fun m =>
            sendColl c h (colTag d) 1 0 (colSignature s h d) m s)).getD s
          let k := getCore s c
          match findAt (fun (n : SigNote) => decide (n.handle = h) && decide (n.gepoch = groupEpoch s h) && decide (n.optag.toNat = colTag d)) k.sigNotes with
          | some (i, n) => takeSignature c e n.value.toNat (putCore s c { k with sigNotes := dropAt k.sigNotes i })
          | none => s) s

def execColStart (th : ThreadRef) (f : Fields) (chk : Chk) (s : State) : Result :=
  issueThen th (encodeWord 6 0x01 f) s (startCol th f chk)

/-- The thread sleeps on an entry, its destinations pending. -/
def sleepOn (th : ThreadRef) (e : ColEntry) (ds : List (BitVec 5)) (s : State) : State :=
  putThreadOf s th { ds.foldl markBusy (threadOf s th) with mode := .sleeping (.glide e.seq) }

/-- BAR (R63, R246). -/
def startBar (th : ThreadRef) (f : Fields) (s : State) : State :=
  let h := f.imm.toNat % 2 ^ 16
  if !handleOk s h then trapIssued th trapDesc 0 s
  else if epochFailed s h then writeResult th f.d 2 1 s
  else
    let (s, e) := pushEntry th .bar h f .queued s
    pumpGlide (coreOf th) h (sleepOn th e [f.d] s)

def execBar (th : ThreadRef) (f : Fields) (s : State) : Result := issueThen th (encodeWord 6 0x02 f) s (startBar th f)

/-- What SRED writes when its status is not OK (R250). -/
def sredFailed (fl : BitVec 5) : Word := if fl = 5 then f64Nan else 0x8000000000000000

/-- SRED (R63, R246, R250). -/
def startSred (th : ThreadRef) (f : Fields) (s : State) : State :=
  let h := f.imm.toNat % 2 ^ 16
  if 6 ≤ f.fl.toNat ∨ (f.fl = 5 ∧ f.d = 31) then trapIssued th trapIllegal 0 s
  else if !handleOk s h then trapIssued th trapDesc 0 s
  else if epochFailed s h then
    let s := writeResult th f.d (sredFailed f.fl) 1 s
    if f.fl = 5 then writeResult th (f.d + 1) 0 1 s else s
  else
    let (s, e) := pushEntry th .sred h f .queued s
    pumpGlide (coreOf th) h (sleepOn th e (if f.fl = 5 then [f.d, f.d + 1] else [f.d]) s)

def execSred (th : ThreadRef) (f : Fields) (s : State) : Result := issueThen th (encodeWord 6 0x03 f) s (startSred th f)

/-! ### COL.WAIT (R265) -/

/-- The status that COL.WAIT on an offset returns now: none while an operation from it is in progress. -/
def waitStatus (k : Core) (off : Nat) : Option Nat :=
  let rs := k.colRecords.filter (fun r => decide (r.off = off))
  if rs.all (fun r => r.status.isSome) then some (match rs.getLast? with
    | some r => (r.status.getD 0).toNat
    | none => 0xFF)
  else none

/-- Operations that have been waited for are forgotten. -/
def forgetWaited (c : CoreRef) (off : Nat) (s : State) : State :=
  let k := getCore s c
  putCore s c { k with colRecords := k.colRecords.filter (fun r => decide (r.off ≠ off)) }

def startWait (th : ThreadRef) (f : Fields) (s : State) : State :=
  let off := (readReg s th f.a).toNat
  match waitStatus (getCore s (coreOf th)) off with
  | some v => forgetWaited (coreOf th) off (writeResult th f.d (BitVec.ofNat 64 v) 1 s)
  | none => putThreadOf s th { markBusy (threadOf s th) f.d with mode := .sleeping (.colWait off f.d) }

def execColWait (th : ThreadRef) (f : Fields) (s : State) : Result := issueThen th (encodeWord 6 0x04 f) s (startWait th f)

/-- Threads that wait for the operations of an offset wake once all have completed (R265). -/
def wakeWaiters (c : CoreRef) (off : Nat) (s : State) : State :=
  let k := getCore s c
  match waitStatus k off with
  | none => s
  | some v =>
    let sleepers := k.threads.filterMap (fun (t, x) =>
      match x.mode with
      | .sleeping (.colWait o d) => if o = off then some (t, d) else none
      | _ => none)
    if sleepers = [] then s
    else
      forgetWaited c off (sleepers.foldl (fun s (t, d) =>
        let k := getCore s c
        putCore s c (putThread k t { returnReg (getThread k t) d (BitVec.ofNat 64 v) with mode := .active })) s)

/-! ### Release and completion -/

/-- A thread that waits on a glide operation wakes with its result (R250). -/
def wakeGlide (c : CoreRef) (e : ColEntry) (status : Nat) (payload : BitVec 128) (s : State) : State :=
  let k := getCore s c
  let x := getThread k e.thread
  let x := match e.kind with
    | .sred =>
      if e.fl = 5 then
        (if status = 0 then returnReg (returnReg x e.d (payload.extractLsb' 64 64)) (e.d + 1) (payload.extractLsb' 0 64)
         else returnReg (returnReg x e.d f64Nan) (e.d + 1) 0)
      else returnReg x e.d (if status = 0 then payload.extractLsb' 0 64 else sredFailed e.fl)
    | _ => returnReg x e.d (BitVec.ofNat 64 status)
  dropEntry c e.seq (putCore s c (putThread k e.thread { x with mode := .active }))

/-- The release of a group's operation reaches a member core (R246, R247, R250, R254). -/
def releaseReaches (chk : Chk) (c : CoreRef) (r : Release) (s : State) : State :=
  let h := r.handle
  match (getCore s c).colQueue.find? (fun e => decide (e.handle = h) && decide (e.phase = .arrived)) with
  | none => s
  | some e =>
    let status := r.status.toNat
    let s := match e.kind with
      | .bulk d _ =>
        if status ≠ 0 then endEntry c e.seq status s
        else if bit r.payload 0 then endEntry c e.seq 1 s
        else startData c { e with chk := chk } d (setEntry c e.seq (fun e => { e with phase := .data, chk := chk }) s)
      | _ => wakeGlide c e status r.payload s
    pumpGlide c h s

def execGlideReleaseWake (c : CoreRef) (i : Nat) (chk : Chk) (s : State) : Result :=
  whenUnit c.wf <| mayTrap c (fun s =>
    match s.grp.releases[i]? with
    | some r =>
      if r.dst = .core c.die c.core then
        releaseReaches chk c r { s with grp := { s.grp with releases := dropAt s.grp.releases i } }
      else s
    | none => s) s

/-- A rank before this one on the module that has not completed an empty chained reduction (R119). -/
def emptyChainWaits (s : State) (h : Nat) (r : Nat) (tag : Nat) : Bool :=
  if r = 0 then false
  else
    match memberAt s h (r - 1) with
    | none => false
    | some m =>
      decide (memberEp m = s.fab.ownId.toNat)
        && (getCore s ⟨memberDie m, memberCore m⟩).colQueue.any (fun e =>
          match e.kind, e.phase with
          | _, .ended _ => false
          | .bulk d _, _ => decide (e.handle = h) && decide (colTag d = tag)
          | _, _ => false)

/-- Every output of an operation in its data phase has landed on this member (R256, R262). -/
def colDone (s : State) (c : CoreRef) (e : ColEntry) (d : BitVec 512) : Bool :=
  let g := groupSize s e.handle
  let r := (rankOf s c e.handle).getD 0
  decide (nocOwned s e.id = []) &&
    (if g = 1 then (!colIsAcs d || chainFree (getCore s c) e d)
     else if colTotal d = 0 then (!colIsAcs d || !emptyChainWaits s e.handle r (colTag d))
     else
       match colOp d with
       | 3 => decide (e.finished = ceilDiv (blockCount d g r) 510)
       | 4 => decide (e.finished = chainInTotal d g r)
       | 5 => decide (g ≤ e.released)
       | 8 => decide (e.finished = colTotal d)
       | _ => decide (1 ≤ e.released))

/-- What a member writes when it completes: its own output with G = 1, or the empty record of NORM_REDUCE (R262). -/
def ownOutput (s : State) (d : BitVec 512) : List Byte × Nat :=
  let codes := colCodes s d 0 (colCount d)
  let w := fmtWidth (colFmt d) / 8
  match colOp d with
  | 5 => (sourceBytes s (colSrc d) (colCount d * w), 0)
  | 6 => (sourceBytes s (colSrc d) (colCount d * w), 0)
  | 7 =>
    let (la, n) := normOf (colFmt d) codes
    let (v, f) := laExact la
    (normRecord v.toInt f n, 0)
  | 8 => ([], 0)
  | op =>
    if op = 2 ∨ op = 4 then (packElems (colOutFmt d) (codes.map (fun x => (convert (colOutFmt d) (colSat d) (elemValue (colFmt d) x)).1)), 0)
    else
      let xs := codes.map (encodeElem d)
      (packElems (colOutFmt d) (xs.map (fun x => finishElem d x.1)), (xs.filter (fun x => x.2)).length)

/-- After FAILED_MEMBER the entries of the last engine in an ACS_CHAIN's rows hold undefined values (R119, R261, R266). -/
def undefChain (c : CoreRef) (e : ColEntry) (status : Nat) (s : State) : State :=
  match e.kind with
  | .bulk d _ =>
    if status = 2 ∧ colIsAcs d ∧ 1 < groupSize s e.handle ∧ rankOf s c e.handle = some (groupSize s e.handle - 1) then
      let k := getCore s c
      putCore s c { k with mxa := { k.mxa with acs := k.mxa.acs.filter (fun x =>
        !(decide (colAcsRow d ≤ x.1 / 64) && decide (x.1 / 64 < colAcsRow d + colAcsRows d))) } }
    else s
  | _ => s

/-- STATUS is written, the operation leaves the queue, waiting threads wake, the gate is decided (R253, R265, R284). -/
def finishCol (c : CoreRef) (e : ColEntry) (off status : Nat) (record : List Byte) (s : State) : State :=
  let gate := isGateOp s e
  let s := undefChain c e status (writeColStatus c off status s)
  let k := getCore s c
  let s := putCore s c { k with colRecords := k.colRecords.map (fun r => if r.seq = e.seq then { r with status := some (BitVec.ofNat 8 status) } else r) }
  let s := wakeWaiters c off (dropEntry c e.seq s)
  let s := if gate then
      (if status = 0 then
        gateDecided (BitVec.ofNat 64 (ofLE (slice record 0 8))) (BitVec.ofNat 64 (ofLE (slice record 8 8))) (ofLE (slice record 16 8)) s
       else gateFaulted s)
    else s
  settleLost (pumpGlide c e.handle s)

/-- An operation completes (R254, R256, R262, R266). -/
def completeCol (c : CoreRef) (e : ColEntry) (d : BitVec 512) (off : Nat) (chk : Chk) (s : State) : State :=
  let alone := decide (groupSize s e.handle = 1)
  let writes := alone && decide (colTotal d ≠ 0) && !colIsAcs d || decide (colOp d = 7 ∧ colTotal d = 0)
  let own := redirect (colDst d) c.die c.core
  let gateRange := if isGateOp s e && !writes then ((toStore s.map own 24).map (fun a => (a, 24))).toList else []
  match checkRead chk 3 c.die ((if writes then colRanges s d else []) ++ gateRange) s with
  | (s, some a) => colTrap c e a s
  | (s, none) =>
    if writes then
      let (bs, sat) := ownOutput s d
      finishCol c e off 0 bs (writeOwn chk c e (colDst d) bs (collCount s c.die 4 sat))
    else finishCol c e off 0 (sourceBytes s own 24) s

/-- The operation at place `i` of a core's collective queue completes, when its outputs have landed or an abort has ended it. -/
def execCollectiveComplete (c : CoreRef) (i : Nat) (chk : Chk) (s : State) : Result :=
  whenUnit c.wf <| mayTrap c (fun s =>
    match (getCore s c).colQueue[i]? with
    | none => s
    | some e =>
      match e.kind, e.phase with
      | .bulk _ off, .ended st => finishCol c e off st.toNat [] s
      | .bulk d off, .data => if colDone s c e d then completeCol c e d off chk s else s
      | _, _ => s) s

end Sys2Proof.Machine
end

