-- ==== Sys2Proof/Machine/Access.lean ====
section
/-! DEFINITION. Loads, stores and atomics of threads (R56, R61, R144, R166), the HRC (R151 to R153) and the control-space registers that cores reach (R352). -/
namespace Sys2Proof.Machine

/-! ### Control space (R352, R356, R358) -/

/-- HOST_STATUS (R356). -/
def hostStatus (s : State) : BitVec 64 :=
  BitVec.ofNat 64 (s.run.state.toNat * 2 ^ 56 + s.run.status.toNat * 2 ^ 48 + (if s.opt.loaded then 1 else 0))

/-- Bytes of a control-space read by a core: HOST_STATUS and COMMIT_MIRROR; every other register reads 0 (R352). -/
def controlBytes (s : State) (off n : Nat) : List Byte :=
  let regs := toLE 8 (hostStatus s).toNat ++ toLE 8 s.run.commit.value.toNat
  (List.range n).map (fun i => if 8 ≤ off + i ∧ off + i < 24 then regs.getD (off + i - 8) 0 else 0)

/-- A write to SIGNAL raises the vector it names; 0 to 15 are ignored (R358). -/
def signal (v : Nat) (s : State) : State := if 16 ≤ v % 64 then msix (v % 64) s else s

/-! ### The HBM read cache (R151, R152) -/

def hrcLineOf (a : Nat) : Nat := a / 256 * 256
def getHrc (s : State) (die : Nat) : List HrcLine := mget [] s.mem.hrc die
def putHrc (s : State) (die : Nat) (ls : List HrcLine) : State := { s with mem := { s.mem with hrc := mset s.mem.hrc die ls } }

/-- A drop in progress on a die covers an address (R153). -/
def dropCovers (s : State) (die a : Nat) : Bool :=
  s.cores.any (fun (k, c) => decide (k / 256 = die) && c.drops.any (fun d => decide (d.lo ≤ a) && decide (a < d.hi)))

/-- The line that the HRC of a core's die serves to the core (R152). -/
def hrcHit (s : State) (c : CoreRef) (a : Nat) : Option HrcLine :=
  (getHrc s c.die).find? (fun l => decide (l.addr = hrcLineOf a) && decide ((getCore s c).boundaryAt ≤ l.filled))

/-- A line is the most recently used one. -/
def hrcTouch (s : State) (die : Nat) (l : HrcLine) : State :=
  putHrc s die (l :: (getHrc s die).filter (fun x => decide (x.addr ≠ l.addr)))

/-- The list without its last entry that passes a test. -/
def dropLast {α : Type} (p : α → Bool) (xs : List α) : List α :=
  match findAt p xs.reverse with
  | some (i, _) => (dropAt xs.reverse i).reverse
  | none => xs

/-- A line is filled; a full set of 16 ways gives up its least recently used line (R151; log 10). -/
def hrcFill (s : State) (die line : Nat) (data : List Byte) : State :=
  let ls := (getHrc s die).filter (fun x => decide (x.addr ≠ line))
  let set (a : Nat) := Config.hrcSet (a / 256)
  let peers := ls.filter (fun x => decide (set x.addr = set line))
  let ls := if 16 ≤ peers.length then dropLast (fun x => decide (set x.addr = set line)) ls else ls
  putHrc s die (⟨line, data, aclkOf s die⟩ :: ls)

/-- Lines that overlap a range leave the HRC of a die (R153). -/
def hrcDrop (s : State) (die lo hi : Nat) : State :=
  putHrc s die ((getHrc s die).filter (fun l => decide (hi ≤ l.addr) || decide (l.addr + 256 ≤ lo)))

/-! ### Requests -/

/-- The 64-byte granule of an address. -/
def granule (a : Nat) : Nat := a / 64

/-- The bytes of a request. -/
def reqBytes (r : MemReq) : Nat :=
  match r.kind with
  | .load n _ _ => n
  | .atomic _ n _ _ => n

/-- The register value of a loaded number (R56), and of an atomic's old word (R61). -/
def loadValue (n : Nat) (signed : Bool) (v : Nat) : Word :=
  if signed then (BitVec.ofNat (8 * n) v).signExtend 64 else BitVec.ofNat 64 v
def atomicValue (op : AtomOp) (n v : Nat) : Word :=
  loadValue n (decide (n = 4) && (op == .max || op == .min)) v

/-- The number a load finds: its HRC line if it may use one and there is one, else the memory or the control registers. -/
def loadNow (s : State) (c : CoreRef) (r : MemReq) (n : Nat) (uncached : Bool) : Nat :=
  match placeOf r.addr n with
  | .tier1 =>
    (match if uncached then none else hrcHit s c r.addr with
     | some l => ofLE (slice l.data (r.addr - l.addr) n)
     | none => readNum s.mem r.addr n)
  | .control off => ofLE (controlBytes s off n)
  | _ => match r.store with
    | some a => readNum s.mem a n
    | none => 0

/-- A load that its HRC line serves (R151). -/
def servedByHrc (s : State) (c : CoreRef) (r : MemReq) : Option HrcLine :=
  match r.kind with
  | .load n _ false => if placeOf r.addr n = .tier1 ∧ r.value.isNone then hrcHit s c r.addr else none
  | _ => none

/-- A request takes effect now: its value is fixed, and an atomic acts on its word, the epoch of whose window votes (R166, R177, R180, R185). -/
def fixRequest (c : CoreRef) (r : MemReq) (s : State) : State × MemReq :=
  match r.value with
  | some _ => (s, r)
  | none =>
    let r := { r with bad := if (servedByHrc s c r).isSome then none else r.store.bind (fun a => badIn s.mem a (reqBytes r)) }
    match r.kind with
    | .load n signed uncached =>
      let s := match placeOf r.addr n with
        | .control _ => voteCommit s
        | _ => s
      (s, { r with value := some (loadValue n signed (loadNow s c r n uncached)) })
    | .atomic op n operand compare =>
      let s := match remoteWindow c r with
        | some (t, w) => voteWindow t w s
        | none => s
      match atomicAct c r op n operand compare s with
      | (s, some old) => (settleLost s, { r with value := some (atomicValue op n old) })
      | (s, none) => (s, { r with value := some (BitVec.allOnes 64) })

/-- Before a thread's store to a granule, its earlier requests to that granule take effect (R166). -/
def fixGranule (th : ThreadRef) (a : Nat) (s : State) : State :=
  let c := coreOf th
  (List.range (getCore s c).requests.length).foldl (fun s i =>
    match (getCore s c).requests[i]? with
    | some r =>
      if r.thread = th.thread ∧ granule r.addr = granule a then
        let (s, r') := fixRequest c r s
        putCore s c { getCore s c with requests := putAt (getCore s c).requests i r' }
      else s
    | none => s) s

/-- A new request of a thread: its destination is pending until the value is written (R49). -/
def addRequest (th : ThreadRef) (d : BitVec 5) (addr : Nat) (kind : ReqKind) (s : State) : State :=
  let c := coreOf th
  let pc := issuedPc s th
  let x := threadOf s th
  let (id, s) := takeId (putThreadOf s th (markBusy x d))
  let k := getCore s c
  let r : MemReq := { thread := th.thread, pc := pc, d := d, addr := addr, kind := kind, epoch := x.expEpoch, at_ := aclkOf s c.die
                      id := id, store := toStore s.map addr 1 }
  putCore s c { k with requests := k.requests ++ [r] }

/-- Width of an LD, LD.U or ST in bytes (R56). -/
def accessBytes (f : Fields) : Nat := 2 ^ (f.fl.toNat % 4)

/-- addr of R56. -/
def effectiveAddr (s : State) (th : ThreadRef) (f : Fields) : Nat := (readReg s th f.a + sext f).toNat

/-- Loads and stores reach tier 1, tier 2, SPM windows and control space (R56, R144). -/
def scalarReach (addr n : Nat) : Bool :=
  match placeOf addr n with
  | .host _ => false
  | .unmapped => false
  | _ => true

/-- An LD or LD.U issues (R56); an LD in a range that the die is dropping reads tier 1 itself (R153). -/
def startLoad (uncached : Bool) (th : ThreadRef) (f : Fields) (s : State) : State :=
  let a := effectiveAddr s th f
  let n := accessBytes f
  if a % n ≠ 0 then trapIssued th trapAlign a s
  else if scalarReach a n = false then trapIssued th trapAddr a s
  else addRequest th f.d a (.load n (bit f.fl 2) (uncached || dropCovers s th.die a)) s

/-- A store issues: it lands at once, or leaves as a die-network packet for the physical core that holds another core's SPM now (R56, R50, R45, R76, R77; log 8). -/
def startStore (th : ThreadRef) (f : Fields) (chk : Chk) (s : State) : State :=
  let a := effectiveAddr s th f
  let n := accessBytes f
  let bs := toLE n (readReg s th f.b).toNat
  if a % n ≠ 0 then trapIssued th trapAlign a s
  else if scalarReach a n = false then trapIssued th trapAddr a s
  else
    match placeOf a n with
    | .control off => if off = 0x100 then signal (readReg s th f.b).toNat s else s
    | .spm die core off =>
      if die = th.die ∧ core = th.core then landFrom chk (ownSpm s (coreOf th) off) bs (fixGranule th a s)
      else
        let (id, s) := takeId s
        { s with noc := s.noc ++ [⟨id, th.die, th.core, th.thread, a, physOf s.map die core, bs, (threadOf s th).expEpoch, none⟩] }
    | _ => landFrom chk a bs (fixGranule th a s)

/-- Atomics reach SPM windows and tier 1 (R61, R144). -/
def atomicReach (addr n : Nat) : Bool :=
  match placeOf addr n with
  | .tier1 => true
  | .spm _ _ _ => true
  | _ => false

/-- An atomic issues (R61). -/
def startAtomic (op : AtomOp) (th : ThreadRef) (f : Fields) (s : State) : State :=
  let a := (readReg s th f.a).toNat
  let n := if bit f.fl 0 then 8 else 4
  if a % n ≠ 0 then trapIssued th trapAlign a s
  else if atomicReach a n = false then trapIssued th trapAddr a s
  else addRequest th f.d a (.atomic op n (readReg s th f.b) (readReg s th f.d)) s

/-! ### Return of values -/

/-- The store range that a request reads, if it reads the store. -/
def reqRange (r : MemReq) : List (Nat × Nat) :=
  match r.store with
  | some a => [(a, reqBytes r)]
  | none => []

/-- No earlier request of the thread, and no earlier packet of the core, stands before request `i` at its granule (R44, R166). -/
def inOrder (s : State) (c : CoreRef) (i : Nat) (r : MemReq) : Bool :=
  let k := getCore s c
  (k.requests.take i).all (fun q => decide (q.thread ≠ r.thread) || decide (granule q.addr ≠ granule r.addr) || q.value.isSome)
    && s.noc.all (fun p => decide (p.die ≠ c.die) || decide (p.core ≠ c.core) || decide (r.id < p.id)
      || decide (granule (p.addr + (p.data.length - 1)) < granule r.addr) || decide (granule r.addr < granule p.addr))

/-- Earliest cycle in which a request may return: 6 ACLK cycles after an LD of the core's own SPM (R49). -/
def returnCycle (c : CoreRef) (r : MemReq) : Nat :=
  match placeOf r.addr 1 with
  | .spm die core _ => if die = c.die ∧ core = c.core then r.at_ + 6 else r.at_ + 1
  | _ => r.at_ + 1

/-- A load of tier 1 through the HRC with no line to serve it: it returns with a miss fill (R151), with the value that an earlier store of its thread may have fixed (R166). -/
def needsFill (s : State) (c : CoreRef) (r : MemReq) : Bool :=
  match r.kind with
  | .load n _ false => decide (placeOf r.addr n = .tier1) && (hrcHit s c r.addr).isNone
  | _ => false

/-- Request `i` leaves the list, and its value reaches the register unless its thread has exited (R71). -/
def deliver (c : CoreRef) (i : Nat) (r : MemReq) (v : Word) (s : State) : State :=
  let k := getCore s c
  let k := { k with requests := dropAt k.requests i }
  let x := getThread k r.thread
  putCore s c (if x.mode = .inactive then k else putThread k r.thread (returnReg x r.d v))

/-- A line of an HRC is discarded, and counts as correctable (R184, R192). -/
def discardLine (die line : Nat) (s : State) : State :=
  putHrc (correctable (regionHrc die) s) die ((getHrc s die).filter (fun x => decide (x.addr ≠ line)))

/-- What an access finds on the bytes [lo, lo + n) of the HRC line that serves it: nothing, a corrected word, or bytes that cannot be trusted; a parity miss is counted (R182, R184, R190). -/
def lineCode (die lo n : Nat) (chk : Chk) (s : State) : State × LineCode :=
  let misses := (readParities chk).filter (fun p => decide (lo ≤ p) && decide (p < lo + n))
  let s := misses.foldl (fun s _ => dieCount s die 2) s
  (s, if chk.finds.contains .hrcUe || !misses.isEmpty then .bad else if chk.finds.contains .hrcCe then .corrected else .good)

/-- A line serves an access: a good one becomes the most recently used, a corrected one serves and is discarded, one that cannot be trusted is discarded, to be refetched once, and serves nothing (R151, R184, R192). -/
def serveLine (die : Nat) (l : HrcLine) (lo n : Nat) (chk : Chk) (serve : State → State) (s : State) : State :=
  match lineCode die lo n chk s with
  | (s, .good) => serve (hrcTouch s die l)
  | (s, .corrected) => discardLine die l.addr (serve s)
  | (s, .bad) => discardLine die l.addr s

/-- Request `i` completes: the read is checked, a word that cannot be trusted traps (R192), an atomic acts, the value returns. -/
def completeRequest (c : CoreRef) (i : Nat) (r : MemReq) (chk : Chk) (s : State) : State :=
  let finish (s : State) : State :=
    let (s, r) := fixRequest c r s
    deliver c i r (r.value.getD 0) s
  match servedByHrc s c r with
  | some l => serveLine c.die l r.addr (reqBytes r) chk finish s
  | none =>
    match checkRead chk 2 c.die (reqRange r) s, r.bad with
    | (s, some a), _ => trapHeld c r.thread trapUeLoad a r.pc.toNat s
    | (s, none), some a => trapHeld c r.thread trapUeLoad a r.pc.toNat (uncorrectableAt a s)
    | (s, none), none => finish s

/-! ### Instruction fetch -/

/-- A line enters the instruction cache. -/
def putIcache (c : CoreRef) (base : Nat) (bs : List Byte) (s : State) : State :=
  let k := getCore s c
  putCore s c { k with icache := mset k.icache base bs }

/-- A thread waits for an instruction word that its core does not hold (R48 check 1). -/
def needsFetch (s : State) (c : CoreRef) (t : Nat) : Bool :=
  let k := getCore s c
  decide (k.phase = .running) && decide (threadMode k t = .active) && (cachedWord k (getThread k t).pc).isNone

end Sys2Proof.Machine
end

