-- ==== Sys2Proof/Machine/Sync.lean ====
section
/-! DEFINITION. The sync class (R61): FENCE.LOCAL (R167), WAITFLAG (R62), KSEL, SETEP and the atomics. -/
namespace Sys2Proof.Machine

/-- What FENCE.LOCAL waits for is done: stores, atomics, loads, vector instructions and cache drops of the thread (R167). -/
def fenceHolds (s : State) (th : ThreadRef) : Bool :=
  let k := getCore s (coreOf th)
  let other (t : Nat) : Bool := decide (t ≠ th.thread)
  k.requests.all (fun r => other r.thread)
    && s.noc.all (fun p => decide (p.die ≠ th.die) || decide (p.core ≠ th.core) || other p.thread)
    && k.vecQueue.all (fun e => other e.thread) && k.vecFlight.all (fun f => other f.e.thread)
    && k.drops.all (fun d => other d.thread)

def execFenceLocal (th : ThreadRef) (f : Fields) (s : State) : Result :=
  issueThen th (encodeWord 5 0x01 f) s (fun s =>
    if fenceHolds s th then s else putThreadOf s th { threadOf s th with mode := .sleeping .fence })

def execFenceLocalWake (th : ThreadRef) (s : State) : Result :=
  whenUnit th.wf <|
    if threadMode (getCore s (coreOf th)) th.thread = .sleeping .fence ∧ fenceHolds s th then
      putThreadOf s th { threadOf s th with mode := .active }
    else s

/-- One test of WAITFLAG's word: none when the word cannot be trusted (R62, R192). -/
def testFlag (c : CoreRef) (off : Nat) (val : Word) (chk : Chk) (s : State) : State × Option Bool × Nat :=
  let a := ownSpm s c off
  match checkRead chk 2 c.die [(a, 8)] s with
  | (s, some b) => (s, none, toDevice s.map b)
  | (s, none) => (s, some (decide (val.toNat ≤ readNum s.mem a 8)), 0)

/-- Writes to the granule of a thread's word before this moment are of no more account. -/
def clearFlag (th : ThreadRef) (s : State) : State :=
  let k := getCore s (coreOf th)
  putCore s (coreOf th) { k with flags := mdel k.flags th.thread }

/-- WAITFLAG issues: it tests once, and sleeps when the word is too small and IMM is not 0 (R62). -/
def startWaitflag (th : ThreadRef) (f : Fields) (chk : Chk) (s : State) : State :=
  let off := (readReg s th f.a).toNat
  let val := readReg s th f.b
  if off % 8 ≠ 0 then trapIssued th trapAlign (spmOperand th off) s
  else if Config.spmBytes ≤ off then trapIssued th trapAddr (spmOperand th off) s
  else
    match testFlag (coreOf th) off val chk s with
    | (s, none, a) => trapIssued th trapUeLoad a s
    | (s, some true, _) => writeResult th f.d 0 1 s
    | (s, some false, _) =>
      if f.imm = 0 then writeResult th f.d 1 1 s
      else
        let pc := issuedPc s th
        let x := markBusy (threadOf s th) f.d
        clearFlag th (putThreadOf s th { x with mode := .sleeping (.waitflag off val f.d pc (s.clk.tick + usTicks f.imm.toNat)) })

def execWaitflag (th : ThreadRef) (f : Fields) (chk : Chk) (s : State) : Result :=
  issueThen th (encodeWord 5 0x02 f) s (startWaitflag th f chk)

/-- A sleeping thread wakes with a value in its destination. -/
def wakeWith (th : ThreadRef) (d : BitVec 5) (v : Word) (s : State) : State :=
  clearFlag th (putThreadOf s th { returnReg (threadOf s th) d v with mode := .active })

/-- The test that follows a write to the word's granule: the value that the write left decides, whatever the word holds by now (R62, R181); a word that cannot be trusted traps (R192). -/
def retestFlag (th : ThreadRef) (chk : Chk) (s : State) : State :=
  let k := getCore s (coreOf th)
  match threadMode k th.thread, mfind k.flags th.thread with
  | .sleeping (.waitflag off val d pc _), some found =>
    (match testFlag (coreOf th) off val chk s with
     | (s, none, a) => trap (coreOf th) th.thread trapUeLoad a pc.toNat (putThreadOf s th { threadOf s th with pc := pc })
     | (s, some _, _) => if found then wakeWith th d 0 s else clearFlag th s)
  | _, _ => s

/-- A test after a write to the word's granule (R62). -/
def execWaitflagRetest (th : ThreadRef) (chk : Chk) (s : State) : Result :=
  whenUnit th.wf (mayTrap (coreOf th) (retestFlag th chk) s)

/-- The sleep ends by time: with 0 when a write had brought the value, else with 1 (R62, R181). -/
def endWaitflag (th : ThreadRef) (d : BitVec 5) (s : State) : State :=
  wakeWith th d (if mget false (getCore s (coreOf th)).flags th.thread then 0 else 1) s

/-- IMM µs have passed since the issue (R62). -/
def execWaitflagTimeout (th : ThreadRef) (s : State) : Result :=
  whenUnit th.wf <|
    match threadMode (getCore s (coreOf th)) th.thread with
    | .sleeping (.waitflag _ _ d _ deadline) => if deadline ≤ s.clk.tick then endWaitflag th d s else s
    | _ => s

/-- One thread's sleep ends no later than IMM + 1 µs after its issue (R62). -/
def lateWaitflag (th : ThreadRef) (s : State) : State :=
  match threadMode (getCore s (coreOf th)) th.thread with
  | .sleeping (.waitflag _ _ d _ deadline) => if deadline + usTicks 1 ≤ s.clk.tick then endWaitflag th d s else s
  | _ => s

/-- Every thread of the module. -/
def allThreads (s : State) : List ThreadRef :=
  s.cores.flatMap (fun (key, k) => k.threads.map (fun (t, _) => ⟨key / 256, key % 256, t, .good⟩))

def execKsel (th : ThreadRef) (f : Fields) (s : State) : Result :=
  issueThen th (encodeWord 5 0x03 f) s (fun s =>
    putCore s (coreOf th) { getCore s (coreOf th) with ksel := some (f.imm.setWidth 16) })

def execSetep (th : ThreadRef) (f : Fields) (s : State) : Result :=
  issueThen th (encodeWord 5 0x04 f) s (fun s =>
    putThreadOf s th { threadOf s th with expEpoch := (readReg s th f.a).setWidth 16 })

def execAadd (th : ThreadRef) (f : Fields) (s : State) : Result := issueThen th (encodeWord 5 0x10 f) s (startAtomic .add th f)
def execAmax (th : ThreadRef) (f : Fields) (s : State) : Result := issueThen th (encodeWord 5 0x11 f) s (startAtomic .max th f)
def execAmin (th : ThreadRef) (f : Fields) (s : State) : Result := issueThen th (encodeWord 5 0x12 f) s (startAtomic .min th f)
def execAxchg (th : ThreadRef) (f : Fields) (s : State) : Result := issueThen th (encodeWord 5 0x13 f) s (startAtomic .xchg th f)
def execAcas (th : ThreadRef) (f : Fields) (s : State) : Result := issueThen th (encodeWord 5 0x14 f) s (startAtomic .cas th f)

end Sys2Proof.Machine
end

