-- ==== Sys2Proof/Machine/VectorUnit.lean ====
section
/-! DEFINITION. The vector class (R59) and the vector unit (R133 to R137). -/
namespace Sys2Proof.Machine

/-- Element count, source format, destination format and SAT of a vector instruction (R59). -/
def vecN (imm : BitVec 32) : Nat := field imm 19 0
def vecSrc (imm : BitVec 32) : Nat := field imm 23 20
def vecDst (imm : BitVec 32) : Nat := field imm 27 24

/-- The formats that an operation accepts (R133). -/
def vecFormatsOk (op : VecOp) (imm : BitVec 32) : Bool :=
  let ok (f : Nat) : Bool := if op = .cvt then decide (f ≤ 8) else decide (f = 0 ∨ f = 2)
  ok (vecSrc imm) && ok (vecDst imm)

/-- Operations that read sB (R59). -/
def vecBinary (op : VecOp) : Bool :=
  match op with
  | .add => true
  | .sub => true
  | .mul => true
  | .fma => true
  | .max => true
  | .min => true
  | _ => false

/-- A vector instruction issues: its checks, then the queue (R48, R59). One that fails several takes TRAP_ILLEGAL before TRAP_ALIGN before TRAP_ADDR: R59 gives them no order (DESIGN CHOICE, log 128). -/
def startVector (op : VecOp) (th : ThreadRef) (f : Fields) (s : State) : State :=
  let c := coreOf th
  let n := vecN f.imm
  let a := (readReg s th f.a).toNat
  let b := (readReg s th f.b).toNat
  let d := (readReg s th f.d).toNat
  let offs := [a, d] ++ (if vecBinary op then [b] else [])
  let spans := [(a, packedBytes (vecSrc f.imm) n), (d, packedBytes (vecDst f.imm) n)]
    ++ (if vecBinary op then [(b, packedBytes (vecSrc f.imm) n)] else [])
  if !vecFormatsOk op f.imm then trapIssued th trapIllegal 0 s
  else
    match offs.find? (fun o => decide (o % 8 ≠ 0)) with
    | some o => trapIssued th trapAlign (spmOperand th o) s
    | none =>
      match spanBeyond spans with
      | some o => trapIssued th trapAddr (spmOperand th o) s
      | none =>
        let pc := issuedPc s th
        let k := getCore s c
        putCore s c { k with
          seq := k.seq + 1, vecQueue := k.vecQueue ++ [⟨k.seq, th.thread, pc, op, d, a, b, f.imm, bit f.fl 0⟩] }

def execVadd (th : ThreadRef) (f : Fields) (s : State) : Result := issueThen th (encodeWord 3 0x01 f) s (startVector .add th f)
def execVsub (th : ThreadRef) (f : Fields) (s : State) : Result := issueThen th (encodeWord 3 0x02 f) s (startVector .sub th f)
def execVmul (th : ThreadRef) (f : Fields) (s : State) : Result := issueThen th (encodeWord 3 0x03 f) s (startVector .mul th f)
def execVfma (th : ThreadRef) (f : Fields) (s : State) : Result := issueThen th (encodeWord 3 0x04 f) s (startVector .fma th f)
def execVmax (th : ThreadRef) (f : Fields) (s : State) : Result := issueThen th (encodeWord 3 0x05 f) s (startVector .max th f)
def execVmin (th : ThreadRef) (f : Fields) (s : State) : Result := issueThen th (encodeWord 3 0x06 f) s (startVector .min th f)
def execVabs (th : ThreadRef) (f : Fields) (s : State) : Result := issueThen th (encodeWord 3 0x07 f) s (startVector .abs th f)
def execVneg (th : ThreadRef) (f : Fields) (s : State) : Result := issueThen th (encodeWord 3 0x08 f) s (startVector .neg th f)
def execVcvt (th : ThreadRef) (f : Fields) (s : State) : Result := issueThen th (encodeWord 3 0x09 f) s (startVector .cvt th f)
def execVexp (th : ThreadRef) (f : Fields) (s : State) : Result := issueThen th (encodeWord 3 0x10 f) s (startVector .exp th f)
def execVlog (th : ThreadRef) (f : Fields) (s : State) : Result := issueThen th (encodeWord 3 0x11 f) s (startVector .log th f)
def execVrcp (th : ThreadRef) (f : Fields) (s : State) : Result := issueThen th (encodeWord 3 0x12 f) s (startVector .rcp th f)
def execVrsqrt (th : ThreadRef) (f : Fields) (s : State) : Result := issueThen th (encodeWord 3 0x13 f) s (startVector .rsqrt th f)
def execVtanh (th : ThreadRef) (f : Fields) (s : State) : Result := issueThen th (encodeWord 3 0x14 f) s (startVector .tanh th f)
def execVsigmoid (th : ThreadRef) (f : Fields) (s : State) : Result := issueThen th (encodeWord 3 0x15 f) s (startVector .sigmoid th f)

/-- Elements of one group: 128 when both formats are BF16, else 64 (R59, R136). -/
def vecGroup (imm : BitVec 32) : Nat := if vecSrc imm = 2 ∧ vecDst imm = 2 then 128 else 64

/-- Groups of an instruction. -/
def vecGroups (imm : BitVec 32) : Nat := ceilDiv (vecN imm) (vecGroup imm)

/-- The SPM ranges that group j reads (R59, R136). -/
def vecReads (e : VecEntry) (j : Nat) : List (Nat × Nat) :=
  let g := vecGroup e.imm
  let n := Nat.min g (vecN e.imm - j * g)
  let src (base : Nat) : Nat × Nat := (base + packedBytes (vecSrc e.imm) (j * g), packedBytes (vecSrc e.imm) n)
  [src e.srcA] ++ (if vecBinary e.op then [src e.srcB] else [])
    ++ (if e.op = .fma then [(e.dst + packedBytes (vecDst e.imm) (j * g), packedBytes (vecDst e.imm) n)] else [])

/-- Group j: its elements from the memory as the group reads it, and its counts. -/
def vecGroupOut (e : VecEntry) (rd : Nat → Nat → List Byte) (j : Nat) : List Byte × CvtCounts :=
  let src := vecSrc e.imm
  let dst := vecDst e.imm
  let g := vecGroup e.imm
  let n := Nat.min g (vecN e.imm - j * g)
  let a := rd (e.srcA + packedBytes src (j * g)) (packedBytes src n)
  let b := if vecBinary e.op then rd (e.srcB + packedBytes src (j * g)) (packedBytes src n) else []
  let d := if e.op = .fma then rd (e.dst + packedBytes dst (j * g)) (packedBytes dst n) else []
  let out := (List.range n).map (fun i =>
    vecResult e.op src dst e.sat (unpackElem src a i) (unpackElem src b i) (unpackElem dst d i))
  (packElems dst (out.map (fun o => o.1)), ⟨(out.map (fun o => o.2.nf)).sum, (out.map (fun o => o.2.ovf)).sum⟩)

/-- The core's vector instruction in flight under a sequence number, and that instruction replaced. -/
def getVecFlight (k : Core) (seq : Nat) : Option VecFlight := k.vecFlight.find? (fun f => decide (f.e.seq = seq))
def putVecFlight (c : CoreRef) (f : VecFlight) (s : State) : State :=
  let k := getCore s c
  putCore s c { k with vecFlight := k.vecFlight.map (fun x => if x.e.seq = f.e.seq then f else x) }

/-- A vector instruction reads its next group in cycle `began + j`; the group is written 8 cycles later, and its elements count (R59, R136, R137). -/
def readVecGroup (c : CoreRef) (f : VecFlight) (s : State) : State :=
  let e := f.e
  let j := f.groups
  let ranges := spmRanges s c (vecReads e j)
  match checkRead f.chk 1 c.die ranges s with
  | (s, some a) => trapHeld c e.thread trapUeArray a e.pc.toNat s
  | (s, none) =>
    let (bs, n) := vecGroupOut e (spmBytesAt s c) j
    let dst := e.dst + packedBytes (vecDst e.imm) (j * vecGroup e.imm)
    let f := { f with groups := j + 1, chk := laterFinds f.chk ranges, writes := f.writes ++ [(f.began + j + 8, dst, bs)] }
    coreCount (coreCount (putVecFlight c f s) c 5 n.nf) c 6 n.ovf

/-- The groups whose cycle has come are read, one a cycle. -/
def vectorCycle (c : CoreRef) (s : State) : State :=
  ((getCore s c).vecFlight.map (fun f => f.e.seq)).foldl (fun s seq =>
    match getVecFlight (getCore s c) seq with
    | none => s
    | some f => if f.groups < vecGroups f.e.imm ∧ f.began + f.groups ≤ aclkOf s c.die then readVecGroup c f s else s) s

/-- The vector instruction at the queue head begins once the previous one has read its last group, and reads its first (R136). -/
def beginVector (c : CoreRef) (chk : Chk) (s : State) : State :=
  let k := getCore s c
  let now := aclkOf s c.die
  if k.phase = .stopped ∨ !k.vecFlight.all (fun f => decide (f.began + vecGroups f.e.imm ≤ now)) then s
  else
    match k.vecQueue with
    | [] => s
    | e :: rest =>
      if vecN e.imm = 0 then putCore s c { k with vecQueue := rest }
      else
        vectorCycle c (putCore s c { k with
          vecQueue := rest, vecFlight := k.vecFlight ++ [{ e := e, began := now, due := now + vecGroups e.imm + 8, chk := chk }] })

def execVectorBegin (c : CoreRef) (chk : Chk) (s : State) : Result := whenUnit c.wf (mayTrap c (beginVector c chk) s)

/-- The oldest vector instruction completes in the cycle after its last write (R136). -/
def execVectorComplete (c : CoreRef) (s : State) : Result :=
  whenUnit c.wf <|
    let k := getCore s c
    match k.vecFlight with
    | f :: rest => if f.due ≤ aclkOf s c.die then landAll f.chk c f.writes (putCore s c { k with vecFlight := rest }) else s
    | [] => s

/-! ### One ACLK cycle of the units -/

/-- The SPM writes of the drains and vector instructions in flight land in their cycles (R94, R131, R136). -/
def landFlights (c : CoreRef) (s : State) : State :=
  let k := getCore s c
  let now := aclkOf s c.die
  let due (chk : Chk) (ws : List (Nat × Nat × List Byte)) : List (Chk × Nat × Nat × List Byte) :=
    (ws.filter (fun w => decide (w.1 ≤ now))).map (fun w => (chk, w))
  let later (ws : List (Nat × Nat × List Byte)) := ws.filter (fun w => decide (now < w.1))
  let work := k.mxa.flight.flatMap (fun f => due f.chk f.writes) ++ k.vecFlight.flatMap (fun f => due f.chk f.writes)
  if work = [] then s
  else
    work.foldl (fun s w => landAll w.1 c [w.2] s) (putCore s c { k with
      mxa := { k.mxa with flight := k.mxa.flight.map (fun f => { f with writes := later f.writes }) }
      vecFlight := k.vecFlight.map (fun f => { f with writes := later f.writes }) })

/-- What the drain engine and the vector unit of a core do in an ACLK cycle: groups are read, then the groups of 12 and 8 cycles before are written. -/
def unitCycle (c : CoreRef) (s : State) : State := landFlights c (mayTrap c (vectorCycle c) (mayTrap c (drainCycle c) s))

end Sys2Proof.Machine
end

