-- ==== Sys2Proof/Machine/Clock.lean ====
section
/-! DEFINITION. The clocks as ticks of the root (R390 to R394): ACLK every 4 ticks unless the slot is withheld (R408), TCLK every 52 ticks, on which the time counters add their addend (R365, R367). -/
namespace Sys2Proof.Machine

/-- A slot of a die's ACLK is withheld: W of each 64 slots are, at places the die chooses (R408; log 20). -/
def withheld (s : State) (die slot : Nat) : Bool :=
  let order := Config.withholdOrder die (slot / 64)
  (order.take (vget 0 s.pwr.w die).toNat).contains (slot % 64)

/-- The next ACLK slot of a die: a cycle, in which the ACS.ALLOC or ACS.FREE at the head of an array queue begins a chained reduction sends what it may read (R112), and drains and vector instructions read and write what is due (R94, R131, R136), or a withheld slot that is counted (R394, R408). -/
def aclkSlot (die : Nat) (s : State) : State :=
  let n := vget 0 s.clk.slots die
  let clk := { s.clk with slots := vset s.clk.slots die (n + 1) }
  if withheld s die n then
    { s with clk := { clk with withheld := vset clk.withheld die (satInc (vget 0 clk.withheld die)) } }
  else
    let s := { s with clk := { clk with aclk := vset clk.aclk die (aclkOf s die + 1) } }
    (s.cores.map (fun e => e.1)).foldl (fun s key =>
      if key / 256 = die then unitCycle ⟨die, key % 256⟩ (mayTrap ⟨die, key % 256⟩ (pumpChain ⟨die, key % 256⟩) (settleArray ⟨die, key % 256⟩ s)) else s) s

/-- The effective addend of a die (R367): NOMINAL plus the correction in effect. -/
def effectiveAddend (s : State) (die : Nat) : Int := (s.time.nominal.toNat : Int) + vget 0 s.time.correction die

/-- The TCLK edge: each die's counter adds its effective addend (R365). -/
def tclkEdge (s : State) : State :=
  let up (die : Nat) (c : BitVec 96) : BitVec 96 := c + BitVec.ofInt 96 (effectiveAddend s die)
  { s with time := { s.time with counter := s.time.counter.mapIdx (fun d c => up d c) } }

/-- One cycle of the root clock; the divided clocks stand until the PLLs lock (R393); a WAITFLAG whose time is over ends (R62). -/
def tick (s : State) : State :=
  if vget 0 s.clk.pll 0 = 0 then { s with clk := { s.clk with tick := s.clk.tick + 1 } }
  else
    let t := s.clk.tick + 1
    let s := { s with clk := { s.clk with tick := t } }
    let s := if t % 4 = 0 then aclkSlot 1 (aclkSlot 0 s) else s
    let s := if t % 52 = 0 then tclkEdge s else s
    (allThreads s).foldl (fun s th => lateWaitflag th s) s

end Sys2Proof.Machine
end

