-- ==== Sys2Proof/Machine/Branch.lean ====
section
/-! DEFINITION. The branch class (R57), BRK and illegal instructions (R52, R64). -/
namespace Sys2Proof.Machine

/-- PC + sext(IMM) × 8, PC being the branch's own address (R57). -/
def branchTarget (s : State) (th : ThreadRef) (f : Fields) : Word := issuedPc s th + sext f * 8

/-- A branch taken when sA compares to sB as named (R57). -/
def branchIf (th : ThreadRef) (f : Fields) (g : Word → Word → Bool) (s : State) : State :=
  if g (readReg s th f.a) (readReg s th f.b) then jump th (branchTarget s th f) s else s

def execBr (th : ThreadRef) (f : Fields) (s : State) : Result :=
  issueThen th (encodeWord 1 0x00 f) s (branchIf th f (fun _ _ => true))
def execBeq (th : ThreadRef) (f : Fields) (s : State) : Result :=
  issueThen th (encodeWord 1 0x01 f) s (branchIf th f (fun a b => a == b))
def execBne (th : ThreadRef) (f : Fields) (s : State) : Result :=
  issueThen th (encodeWord 1 0x02 f) s (branchIf th f (fun a b => a != b))
def execBlt (th : ThreadRef) (f : Fields) (s : State) : Result :=
  issueThen th (encodeWord 1 0x03 f) s (branchIf th f (fun a b => a.slt b))
def execBge (th : ThreadRef) (f : Fields) (s : State) : Result :=
  issueThen th (encodeWord 1 0x04 f) s (branchIf th f (fun a b => !a.slt b))
def execBltu (th : ThreadRef) (f : Fields) (s : State) : Result :=
  issueThen th (encodeWord 1 0x05 f) s (branchIf th f (fun a b => a.ult b))
def execBgeu (th : ThreadRef) (f : Fields) (s : State) : Result :=
  issueThen th (encodeWord 1 0x06 f) s (branchIf th f (fun a b => !a.ult b))

/-- CALL: sD = PC + 8, then the jump (R54, R57). -/
def execCall (th : ThreadRef) (f : Fields) (s : State) : Result :=
  issueThen th (encodeWord 1 0x08 f) s (fun s =>
    let target := branchTarget s th f
    jump th target (writeResult th f.d (issuedPc s th + 8) 1 s))

/-- JR: a target that is not a multiple of 8 traps, with the target as ADDR (R57; log 35). -/
def jumpReg (th : ThreadRef) (f : Fields) (s : State) : State :=
  let target := readReg s th f.a
  if target.toNat % 8 ≠ 0 then trapIssued th trapAlign target.toNat s else jump th target s

def execJr (th : ThreadRef) (f : Fields) (s : State) : Result :=
  issueThen th (encodeWord 1 0x09 f) s (jumpReg th f)

/-- TEXIT: the thread becomes INACTIVE for the rest of the kernel (R57). -/
def execTexit (th : ThreadRef) (f : Fields) (s : State) : Result :=
  issueThen th (encodeWord 1 0x10 f) s (fun s => putThreadOf s th { threadOf s th with mode := .inactive })

def execBrk (th : ThreadRef) (f : Fields) (s : State) : Result :=
  issueThen th (encodeWord 1 0x11 f) s (trapIssued th trapBreak 0)

/-- A reserved class or an operation that its class table does not list traps when it issues (R52). -/
def execIllegalInstruction (th : ThreadRef) (w : BitVec 64) (s : State) : Result :=
  if opListed (wordClass w) (wordOp w) then whenUnit th.wf s
  else issueThen th w s (trapIssued th trapIllegal 0)

end Sys2Proof.Machine
end

