-- ==== Sys2Proof/Machine/TimeBase.lean ====
section
/-! DEFINITION. The discipline of the time base (R366 to R374): its source, the PTP slave (R368 to R370), time over the fabric (R371 to R373), holdover (R374). -/
namespace Sys2Proof.Machine

/-- The source that MODE and membership select (R367): 0 none, 1 PTP, 2 fabric. -/
def wantedSource (s : State) : BitVec 8 :=
  if s.time.mode = 1 then 1
  else if s.time.mode = 2 then 2
  else if s.time.mode = 3 then 0
  else if s.fab.hasId && !isMaster s then 2 else 1

/-- A number clamped between bounds. -/
def clampInt (lo hi x : Int) : Int := max lo (min hi x)

/-- The largest correction under a source: none free-running, 50 ppm of NOMINAL under PTP, 1 % under the fabric (R367, R370). -/
def mostCorrection (s : State) : Int :=
  let nom : Int := s.time.nominal.toNat
  if s.time.source = 0 then 0 else if s.time.source = 1 then nom * 50 / 1000000 else nom / 100

/-- The correction in effect stays within its source's limit. -/
def limitCorrection (s : State) : State :=
  let most := mostCorrection s
  { s with time := { s.time with correction := s.time.correction.map (clampInt (-most) most) } }

/-- SOURCE follows the selection, which reads the slice master's ID (R185); a new source begins in acquisition (R367, R374). -/
def refreshSource (s : State) : State :=
  let s := repairMaster s
  let w := wantedSource s
  if s.time.source = w then s
  else limitCorrection { s with time := { s.time with
    source := w, state := if w = 0 then 0 else 1, holdoverStart := none, stepped := false, servoReady := false } }

/-- The program is stopped (R366). -/
def isStopped (s : State) : Bool := decide (s.run.state = 0)

/-- Both dies' counters step back by an offset, in the same edge (R366, R370); timestamps that are held move with them, and averages of marks from before the step are given up (log 129). -/
def stepCounters (offset : Int) (s : State) : State :=
  let p := s.time.ptp
  { s with
    time := { s.time with
      counter := s.time.counter.map (fun c => BitVec.ofInt 96 (c.toInt - offset)), stepped := true, state := 1, holdoverStart := none, servoReady := false
      ptp := { p with syncAt := p.syncAt - offset, msDiff := p.msDiff - offset, delaySentAt := p.delaySentAt.map (fun t => t - offset) } }
    fab := { s.fab with links := s.fab.links.map (fun x => { x with markSum := 0, markCount := 0, dOwn := none, dPeer := none }) } }

/-- A correction for an offset (log 21): within its source's limit, and under PTP within 0.1 ppm of NOMINAL for each second since the last one, at most the 2 s of the longest Sync interval; the first one of an acquisition only takes the time (R367, R370; log 130). -/
def correct (offset : Int) (s : State) : State :=
  let most := mostCorrection s
  let old := vget 0 s.time.correction 0
  let x := clampInt (-most) most (Config.servoCorrection offset old)
  let since := Nat.min (s.clk.tick - s.time.servoAt) (secTicks 2)
  let room : Int := s.time.nominal.toNat * since / (10000000 * secTicks 1)
  let x := if s.time.source ≠ 1 then x else if s.time.servoReady then clampInt (old - room) (old + room) x else old
  { s with time := { s.time with correction := Vector.replicate 2 x, servoAt := s.clk.tick, servoReady := true } }

/-- STATE after an offset in units of 2^-32 ns: locked within a bound on a path whose delay is known, else acquiring (R367, R369, R373; log 39). -/
def judgeLock (offset boundNs : Int) (known : Bool) (s : State) : State :=
  let near := known && decide (-(boundNs * 2 ^ 32) ≤ offset ∧ offset ≤ boundNs * 2 ^ 32)
  { s with time := { s.time with state := if near then 2 else 1, holdoverStart := none } }

/-- A disciplined die, one in STATE 2, enters holdover when its source is lost (R367, R374). -/
def enterHoldover (s : State) : State :=
  if s.time.state = 2 then
    { s with time := { s.time with state := 3, holdoverStart := some s.clk.tick, stepped := false, servoReady := false } }
  else s

/-! ### PTP (R368 to R370) -/

def ptpCount (i : Nat) (s : State) : State :=
  { s with time := { s.time with ptp := { s.time.ptp with counters := vset s.time.ptp.counters i (satInc (vget 0 s.time.ptp.counters i)) } } }

def setPtp (p : Ptp) (s : State) : State := { s with time := { s.time with ptp := p } }

/-- Die 0's counter at the start-of-frame delimiter of a message received, and of one sent, in units of 2^-32 ns (R368). -/
def rxTime (s : State) : Int := (vget 0 s.time.counter 0).toNat - Config.phyRxLatency
def txTime (s : State) : Int := (vget 0 s.time.counter 0).toNat + Config.phyTxLatency

/-- A received message reaches the port: the module is loaded and speaks on the segment, and the source is link-local (R318). -/
def ptpHears (s : State) (h : PtpHead) : Bool := s.opt.loaded && segmentOpen s && isLinkLocal h.addr

/-- 2^n seconds in ticks. -/
def logSeconds (n : Int) : Nat := if 0 ≤ n then secTicks (2 ^ n.toNat) else secTicks 1 / 2 ^ (-n).toNat

/-- The message is of the port's domain and from the selected master. -/
def fromMaster (s : State) (h : PtpHead) : Bool :=
  decide (h.domain = s.time.ptp.domain) && s.time.ptp.master.isSome && decide (h.source = s.time.ptp.parent)

/-- Sync: one-step messages, those of others and those at another interval are discarded (R368). -/
def execPtpSync (h : PtpHead) (twoStep : Bool) (logInterval correction : Int) (s : State) : Result :=
  .next <|
    if !ptpHears s h then s
    else
      let s := refreshSource s
      if !fromMaster s h || !twoStep || decide (logInterval < -4 ∨ 1 < logInterval) then ptpCount 2 s
      else
        let s := ptpCount 0 (if s.time.ptp.syncSeq.isSome then ptpCount 1 s else s)
        setPtp { s.time.ptp with syncSeq := some h.seq, syncAt := rxTime s - correction * 2 ^ 16 } s

/-- The PTP servo: one step above 1 ms in STOPPED, else a slew (R370). -/
def ptpServo (offset : Int) (s : State) : State :=
  if isStopped s && decide (1000000 * 2 ^ 32 < offset.natAbs) then stepCounters offset s
  else judgeLock offset 100 s.time.ptp.pathKnown (correct offset s)

/-- Follow_Up of the last Sync: the offset from the master, and the servo's correction (R368 to R370). -/
def execPtpFollowUp (h : PtpHead) (originNs : Nat) (correction : Int) (s : State) : Result :=
  .next <|
    if !ptpHears s h then s
    else
      let s := refreshSource s
      if !fromMaster s h || decide (s.time.ptp.syncSeq ≠ some h.seq) then ptpCount 2 s
      else
        let p := s.time.ptp
        let ms := p.syncAt - (originNs * 2 ^ 32 + correction * 2 ^ 16)
        let offset := ms - p.meanPath
        let s := setPtp { p with syncSeq := none, msDiff := ms, offset := offset } s
        if s.time.source = 1 then ptpServo offset s else s

/-- Where PTP messages go: ff02::181, event messages to port 319 (R368). -/
def ptpGroup : BitVec 128 := 0xFF020000000000000000000000000181
def ptpEventPort : Nat := 319

/-- Delay_Req is sent at the interval that Delay_Resp names (R368). -/
def execPtpDelayReqSend (s : State) : Result :=
  .next <|
    let p := s.time.ptp
    if p.master.isSome && s.opt.loaded && segmentOpen s && decide (p.nextDelayReq ≤ s.clk.tick) then
      emit (setPtp { p with delaySeq := p.delaySeq + 1, delaySentAt := some (txTime s), nextDelayReq := s.clk.tick + logSeconds p.delayInterval } s)
        (.delayReq ptpGroup ptpEventPort p.domain p.delaySeq)
    else s

/-- Delay_Resp to this port's Delay_Req: the mean path delay (R368). -/
def execPtpDelayResp (h : PtpHead) (mine : Bool) (receiveNs : Nat) (correction logInterval : Int) (s : State) : Result :=
  .next <|
    if !ptpHears s h then s
    else
      let p := s.time.ptp
      match p.delaySentAt with
      | some t =>
        if fromMaster s h && mine && decide (h.seq + 1 = p.delaySeq) then
          setPtp { p with delaySentAt := none, delayInterval := logInterval, pathKnown := true
                          meanPath := divEven (p.msDiff + (receiveNs * 2 ^ 32 - correction * 2 ^ 16 - t)) 2 } s
        else ptpCount 2 s
      | none => ptpCount 2 s

/-- BMCA among Announce messages: priority1, class, accuracy, variance, priority2, identity, steps, the lower first (R368). -/
def betterMaster (a b : PtpMaster) : Bool :=
  let key (m : PtpMaster) : List Nat :=
    [m.priority1.toNat, m.clockClass.toNat, m.accuracy.toNat, m.variance.toNat, m.priority2.toNat, m.identity.toNat, m.steps.toNat]
  match ((key a).zip (key b)).find? (fun x => decide (x.1 ≠ x.2)) with
  | some (x, y) => decide (x < y)
  | none => false

/-- Announce: the best master is selected; a new one's path has to be measured (R368). -/
def execPtpAnnounce (h : PtpHead) (m : PtpMaster) (logInterval : Int) (s : State) : Result :=
  .next <|
    if !ptpHears s h then s
    else
      let s := refreshSource s
      let p := s.time.ptp
      if h.domain ≠ p.domain ∨ logInterval < 0 ∨ 4 < logInterval then ptpCount 2 s
      else
        let same := p.master.isSome && decide (h.source = p.parent)
        let take := match p.master with
          | none => true
          | some old => same || betterMaster m old
        let q := { p with master := some m, parent := h.source, gm := m.identity, announceAt := some s.clk.tick, announceTicks := logSeconds logInterval }
        if !take then s
        else if same then setPtp q s
        else setPtp { q with syncSeq := none, delaySentAt := none, pathKnown := false } { s with time := { s.time with servoReady := false } }

/-- Four Announce intervals have passed without one (R374). -/
def execPtpAnnounceTimeout (s : State) : Result :=
  .next <|
    let p := s.time.ptp
    match p.announceAt with
    | some t =>
      if t + 4 * p.announceTicks ≤ s.clk.tick then
        let s := ptpCount 3 (setPtp { p with master := none, announceAt := none, syncSeq := none, delaySentAt := none } s)
        if s.time.source = 1 then enterHoldover s else s
      else s
    | none => s

/-! ### Fabric (R371 to R373) -/

/-- The link that a follower takes its time from: the lowest measured active link of the port toward the slice master (R373). -/
def parentLink (s : State) : Option Nat :=
  match nextDir s (pisteEntry s 0 (masterEp s).toNat) with
  | none => none
  | some dir => (portOfDir s dir).bind (fun p => (activeLinks s p).find? (fun l => decide ((getLink s l).delayPs ≠ BitVec.allOnes 32)))

/-- A mark arrives on a link: its D is taken, and at its parent's marks a follower corrects itself by the peer's offset, half of its own average less the peer's (R371 to R373). -/
def markArrived (l : Nat) (timeTx : Nat) (s : State) : State :=
  let x := getLink s l
  let d : Int := (vget 0 s.time.counter (linkDie l)).toNat - timeTx * 2 ^ 32
  let s := refreshSource (putLink s l { x with markSum := x.markSum + d, markCount := x.markCount + 1, markAt := some s.clk.tick })
  if s.time.source = 2 ∧ parentLink s = some l then
    match x.dOwn, x.dPeer with
    | some own, some peer =>
      let offset := divEven (own - peer) 2
      if isStopped s && s.time.state != 2 && !s.time.stepped then stepCounters offset s
      else judgeLock offset 4 true (correct offset s)
    | _, _ => s
  else s

/-- A TIME_SYNC report: the link delay, from both averages and the calibrated latencies (R371, R372). -/
def execTimeSync (die : Nat) (s : State) : Result :=
  whenUnit (dieOk die) <|
    match takeCtrl s die 8 with
    | none => s
    | some (p, s) =>
      match p.src with
      | none => s
      | some l =>
        if field p.pkt.payload 127 120 ≠ 1 then routerCount s die 4 1
        else
          let peer := (p.pkt.payload.setWidth 96 : BitVec 96).toInt
          let x := getLink s l
          let delay := match x.dOwn with
            | some own => BitVec.ofInt 32 (divEven ((own + peer - 2 * Config.linkLatency l) * 1000) (2 ^ 33))
            | none => x.delayPs
          putLink s l { x with dPeer := some peer, delayPs := delay }

/-- 10 ms have passed without a mark from the parent (R374). -/
def execFabricMarkTimeout (s : State) : Result :=
  .next <|
    let s := refreshSource s
    let last := match parentLink s with
      | some l => (getLink s l).markAt.getD 0
      | none => 0
    if s.time.source = 2 ∧ last + msTicks 10 ≤ s.clk.tick then enterHoldover s else s

end Sys2Proof.Machine
end

