-- ==== Sys2Proof/Machine/Links.lean ====
section
/-! DEFINITION. Fabric links: lanes, codewords and frames (R200 to R207), link states (R208 to R210), active sets (R213), pacing and control limits (R232 to R236), buffers (R238), counters (R242). -/
namespace Sys2Proof.Machine

/-! ### Ports and queues -/

/-- A port counter gains `n` (R242): 0 to 5 TX packets and bytes by glide, control, data; 6 to 11 the same for RX; 15 STALL_CYCLES, 16 LATE_CELLS, 17 CTRL_DEFER. -/
def portCount (s : State) (p : Option Nat) (i n : Nat) : State :=
  match p with
  | none => s
  | some p =>
    let v := vget (Vector.replicate 18 0) s.fab.portStats p
    { s with fab := { s.fab with portStats := vset s.fab.portStats p (vset v i (satAdd (vget 0 v i) n)) } }

/-- A high-water mark of a port (R242): 12 QHW_GLIDE, 13 QHW_CTRL, 14 QHW_DATA. -/
def portHigh (s : State) (p : Option Nat) (i n : Nat) : State :=
  match p with
  | none => s
  | some p =>
    let v := vget (Vector.replicate 18 0) s.fab.portStats p
    if (vget 0 v i).toNat < n then
      { s with fab := { s.fab with portStats := vset s.fab.portStats p (vset v i (BitVec.ofNat 64 n)) } }
    else s

/-- A link counter gains `n` (R242): 0 FEC_CORR, 1 FEC_UE, 2 CRC_ERR, 3 BAD_SEEN, 4 RETRAINS, 5 XOFF_CYCLES, 6 IN_HW, 7 IN_OVF. -/
def linkCount (l i n : Nat) (x : Link) : Link :=
  let _ := l
  { x with stats := vset x.stats i (satAdd (vget 0 x.stats i) n) }

/-- Whole bytes of a data packet (R242). -/
def dataWhole (p : DataPkt) : Nat := 32 + 256 * ceilDiv (dataBytes p) 256

/-- Cells in a link's output data queue. -/
def queueCells (x : Link) : Nat := (x.outData.map (fun o => dataCells o.pkt)).sum + x.txCells.length

/-- The forwarded-packet rule: an active link of the port on the die that holds the packet, else of the other die; the emptiest, then the lowest (R214). -/
def chooseLink (s : State) (p die : Nat) : Option Nat :=
  let best (ls : List Nat) : Option Nat := ls.foldl (fun acc l =>
    match acc with
    | none => some l
    | some b => if queueCells (getLink s l) < queueCells (getLink s b) then some l else some b) none
  let own := (activeLinks s p).filter (fun l => decide (linkDie l = die))
  match best own with
  | some l => some l
  | none => best (activeLinks s p)

/-- A control packet enters an output queue (R236, R238). -/
def pushCtrl (l : Nat) (p : CtrlPkt) (s : State) : State :=
  let x := getLink s l
  let port := portOfLink s l
  if bit p.hdr 83 then portHigh (putLink s l { x with outGlide := x.outGlide ++ [p] }) port 12 (x.outGlide.length + 1)
  else portHigh (putLink s l { x with outCtrl := x.outCtrl ++ [p] }) port 13 (x.outCtrl.length + 1)

/-- A data packet enters an output queue. -/
def pushData (l : Nat) (o : OutData) (s : State) : State :=
  let x := getLink s l
  let x := { x with outData := x.outData ++ [o] }
  portHigh (putLink s l x) (portOfLink s l) 14 (queueCells x)

/-- Once a millisecond an UP link sends its average D, straight to its peer (R371). -/
def execTimeSyncSend (l : Nat) (s : State) : Result :=
  whenUnit (linkOk l) <|
    let x := getLink s l
    if x.state = .up ∧ x.reportAt + msTicks 1 ≤ s.clk.tick ∧ 0 < x.markCount then
      let d := divEven x.markSum x.markCount
      let payload : BitVec 128 := BitVec.ofNat 128 (2 ^ 120 + l * 2 ^ 112 + x.reports.toNat * 2 ^ 96 + (BitVec.ofInt 96 d).toNat)
      let p : CtrlPkt := ⟨BitVec.ofNat 128 (s.fab.ownId.toNat * 2 ^ 96 + 8 * 2 ^ 84), payload⟩
      let p := { p with hdr := setField p.hdr 31 0 (ctrlCrc p).toNat }
      pushCtrl l p (putLink s l { x with dOwn := some d, markSum := 0, markCount := 0, reports := x.reports + 1, reportAt := s.clk.tick })
    else s

/-- An UNREACHABLE to a packet's source, at most one per XFER in 1 ms (R231). -/
def sendUnreachable (die src dest xfer : Nat) (s : State) : State :=
  let key := 65536 * die + xfer
  let recent := match mfind s.fab.unreachAt key with
    | some t => decide (s.clk.tick < t + msTicks 1)
    | none => false
  if recent then s
  else
    let s := { s with fab := { s.fab with unreachAt := mset s.fab.unreachAt key s.clk.tick } }
    routerCount (injectCtrl s die (mkCtrl s die src 9 false 0 0 0 0 (BitVec.ofNat 128 (dest * 2 ^ 112 + xfer * 2 ^ 96)))) die 8 1

/-- A control packet whose port is down is discarded (R231). -/
def dropCtrl (die : Nat) (p : CtrlPkt) (s : State) : State :=
  let s := routerCount s die 5 1
  if ctrlType p = 1 then sendUnreachable die (ctrlSrc p) (ctrlDest p) (ctrlTag p) s else s

/-- A data packet whose port is down is discarded (R231). -/
def dropData (die : Nat) (p : DataPkt) (s : State) : State :=
  let s := routerCount s die 5 1
  if pktMcast p then s else sendUnreachable die (pktSrc p) (pktDest p) (pktXfer p) s

/-- Packets that waited for a link of a port go to the port's remaining links, or are discarded (R214, R231, R243; log 40). -/
def requeue (port : Option Nat) (l : Nat) (x : Link) (s : State) : State :=
  let die := linkDie l
  let target (s : State) : Option Nat := port.bind (fun p => chooseLink s p die)
  let s := (x.outGlide ++ x.outCtrl).foldl (fun s p =>
    match target s with
    | some m => pushCtrl m p s
    | none => dropCtrl die p s) s
  x.outData.foldl (fun s o =>
    match target s with
    | some m => pushData m o s
    | none => discardOwned o.owner (dataBytes o.pkt) (dropData die o.pkt s)) s

/-! ### Link states (R208 to R210, R213) -/

/-- Since when each port has had no active link (R307). -/
def notePorts (s : State) : State :=
  { s with fab := { s.fab with portDownAt := s.fab.portDownAt.mapIdx (fun p old =>
    if portLinks s p = [] ∨ activeLinks s p ≠ [] then none else some (old.getD s.clk.tick)) } }

/-- A packet that is being received is given up: its cells leave the input data buffer. -/
def dropAsm (x : Link) : Link :=
  match x.asm with
  | none => x
  | some a => { x with asm := none, inCells := x.inCells - (1 + a.payload.length / 32) }

/-- A link enters TRAINING with the preset written last (R201, R208). -/
def enterTraining (tick : Nat) (x : Link) : Link :=
  { dropAsm x with
    state := .training, trained := x.preset, locked := false, lstateRx := 0, trainStart := tick, active := false
    ueRun := Vector.replicate 8 0, ueTimes := [], dropping := false, txCells := []
    outGlide := [], outCtrl := [], outData := [], xoffRx := false }

/-- Where a link stands when its port, its peer or its state has changed; no link leaves DOWN before LINK is loaded (R208, R210 to R212, R380). -/
def settleLink (l : Nat) (s : State) : State :=
  let x := getLink s l
  let inPort := (portOfLink s l).isSome
  if !inPort then notePorts (putLink s l { dropAsm x with state := .disabled, active := false, txCells := [], outGlide := [], outCtrl := [], outData := [] })
  else if x.permanent then notePorts (putLink s l { x with state := .failed, active := false })
  else
    match x.state with
    | .disabled => putLink s l (if x.peer && s.boot.linkLoaded then enterTraining s.clk.tick x else { x with state := .down })
    | .down => if x.peer && s.boot.linkLoaded then putLink s l (enterTraining s.clk.tick x) else s
    | .training => if x.peer then s else putLink s l { x with state := .down }
    | _ => s

def execLinkPeerSignal (l : Nat) (s : State) : Result :=
  whenUnit (linkOk l) (settleLink l (putLink s l { getLink s l with peer := true }))

/-- A lost peer signal returns a link in TRAINING to DOWN; that is no failed training (R208). -/
def execLinkPeerSignalLost (l : Nat) (s : State) : Result :=
  whenUnit (linkOk l) (settleLink l (putLink s l { getLink s l with peer := false }))

/-- The receiver locks, its descramblers in step with the peer, if the LANE_MARK of each position names that position's lane: crossed lanes never lock (R202, R204, R208, R432). -/
def execLinkRxLock (l : Nat) (scr : List (BitVec 31)) (lanes : List Nat) (s : State) : Result :=
  whenUnit (linkOk l) <|
    let x := getLink s l
    if x.state = .training ∧ lanes = List.range 8 then putLink s l { x with locked := true, rxScr := x.rxScr.mapIdx (fun i v => scr.getD i v) } else s

/-- A link becomes FAILED: it sends nothing; its history and the lifetime record count it, its record goes out, and vector 5 is raised (R210, R289, R313, R314, R357, R449; ACTION: log 47). -/
def failLink (l : Nat) (s : State) : State :=
  let x := getLink s l
  let s := lifeAdd (17916 + 40 * l) 1 (putLink s l { x with state := .failed, active := false, locked := false })
  let s := addHistory (.link l) s
  notePorts (msix 5 (cper { cls := 8, action := if (getLink s l).permanent then 6 else 4, unitType := 3, unitIndex := l, die := linkDie l,
                            history := historyCount s (.link l) } s))

/-- A link in TRAINING reaches UP (R208, R213). -/
def linkUp (l : Nat) (s : State) : State :=
  let x := getLink s l
  let running := decide (s.run.state = 2 ∨ s.run.state = 3)
  notePorts (putLink s l { x with state := .up, trainFails := 0, active := !running, berUp := true, txAt := s.clk.tick, xoffAt := s.clk.tick })

/-- Something of R209 sends an UP link back to TRAINING. -/
def mustRetrain (s : State) (x : Link) : Bool :=
  x.ueRun.any (fun n => decide (8 ≤ n))
    || decide (64 < (x.ueTimes.filter (fun t => decide (s.clk.tick < t + msTicks 1))).length)
    || decide (x.lstateRx.toNat < 2)

/-- The step fault of a link (R193, R209, R238). -/
def linkFault (l : Nat) (s : State) : State :=
  stepFault { cls := 6, action := 2, unitType := 3, unitIndex := l, die := linkDie l, history := historyCount s (.link l) } s

/-- The ticks at which a link left UP in the last 60 s, this one included (R210). -/
def downsNow (s : State) (x : Link) : List Nat := (x.downs.filter (fun t => decide (s.clk.tick < t + secTicks 60))) ++ [s.clk.tick]

/-- A bundle commit has taken a link out of its port: what waits for it goes to the port's other links (R214, R231, R243); an UP link that lies in no port any more leaves UP with a step fault (R212, R243; log 40). -/
def leavePort (old : Option Nat) (l : Nat) (s : State) : State :=
  if old = none ∨ portOfLink s l = old then s
  else
    let x := getLink s l
    let gone := x.state == .up && (portOfLink s l).isNone
    let y := { x with outGlide := [], outCtrl := [], outData := [] }
    let s := requeue old l x (putLink s l (if gone then { y with state := .down, active := false, txCells := [], downs := downsNow s x } else y))
    if gone then linkFault l s else s

/-- An UP link leaves UP: cells in flight are lost, the module raises a step fault, RETRAINS counts, the bundle narrows (R209, R210, R213). -/
def leaveUp (l : Nat) (s : State) : State :=
  let x := getLink s l
  let downs := downsNow s x
  let y := { linkCount l 4 1 (enterTraining s.clk.tick x) with downs := downs }
  let s := lifeAdd (17912 + 40 * l) 1 (notePorts (putLink s l y))
  let s := linkFault l (requeue (portOfLink s l) l x s)
  if 8 ≤ downs.length then failLink l s else settleLink l s

def execLinkRetrain (l : Nat) (s : State) : Result :=
  whenUnit (linkOk l) <|
    let x := getLink s l
    if x.state = .up ∧ mustRetrain s x then leaveUp l s else s

/-- The controller of a link pauses while it loads the new LINK (R385). -/
def linkPaused (s : State) (l : Nat) : Bool := decide (s.boot.upStatus = 10 ∧ s.boot.upComponent = 3 ∧ s.boot.linksLoaded = l)

/-- A training has not reached UP within 20 ms; the third in a row fails the link (R210). -/
def execLinkTrainingTimeout (l : Nat) (s : State) : Result :=
  whenUnit (linkOk l) <|
    let x := getLink s l
    if x.state = .training ∧ linkPaused s l = false ∧ x.trainStart + msTicks 20 ≤ s.clk.tick then
      let n := x.trainFails + 1
      if 3 ≤ n then failLink l (putLink s l { x with trainFails := n })
      else putLink s l { enterTraining s.clk.tick x with trainFails := n }
    else s

/-! ### Frames -/

/-- Place in a lane block of lane cell byte `i` (R202). -/
def cellPlace (i : Nat) : Nat := if i < 48 then 4 + i else 8 + i

/-- Byte b of cell c in the lane blocks (R205). -/
def cellBytes (lanes : List (List Byte)) (c : Nat) : List Byte :=
  (List.range 32).map (fun b => (lanes.getD (b % 8) []).getD (cellPlace (4 * c + b / 8)) 0)

/-- The 24-byte frame header (R202, R205). -/
def headerOf (lanes : List (List Byte)) : BitVec 192 :=
  BitVec.ofNat 192 (ofLE ((List.range 8).flatMap (fun l => slice (lanes.getD l []) 1 3)))

/-- A decoded lane: its block with both codewords corrected, whether A and B are uncorrectable, codewords and symbols corrected. -/
structure LaneIn where
  block : List Byte
  aBad : Bool
  bBad : Bool
  words : Nat
  symbols : Nat
deriving DecidableEq, Repr

/-- One lane block decoded (R202, R203). -/
def decodeLane (block : List Byte) : LaneIn :=
  let a := slice block 0 56
  let b := slice block 56 56
  let (a', aBad, an) := match rsDecode a with
    | some (w, n) => (w, false, n)
    | none => (a, true, 0)
  let (b', bBad, bn) := match rsDecode b with
    | some (w, n) => (w, false, n)
    | none => (b, true, 0)
  ⟨a' ++ b', aBad, bBad, (if 0 < an then 1 else 0) + (if 0 < bn then 1 else 0), an + bn⟩

/-- Consecutive uncorrectable codewords of a lane; eight are kept (R209). -/
def runAfter (n : Nat) (bad : Bool) : Nat := if 8 ≤ n then n else if bad then n + 1 else 0

/-- An input buffer that would overflow discards up to the next DATA_HEAD (R238). -/
def inputOverflow (l : Nat) (s : State) : State :=
  linkFault l (putLink s l { linkCount l 7 1 (dropAsm (getLink s l)) with dropping := true })

/-- A received data packet goes to the router. -/
def packetIn (l : Nat) (a : Assembly) (s : State) : State :=
  let p : DataPkt := ⟨a.hdr, a.payload, a.bad⟩
  let r := getRouter s (linkDie l)
  let s := putRouter s (linkDie l) { r with dataIn := r.dataIn ++ [{ src := some l, pkt := p, owner := none }] }
  let x := getLink s l
  let s := putLink s l { (if a.bad then linkCount l 3 1 x else x) with asm := none }
  portCount (portCount s (portOfLink s l) 8 1) (portOfLink s l) 11 (dataWhole p)

/-- One cell of a frame (R206, R207, R238). -/
def cellIn (l tag : Nat) (bytes : List Byte) (bad badMark : Bool) (s : State) : State :=
  let x := getLink s l
  let port := portOfLink s l
  let grow (x : Link) : Link :=
    let n := x.inCells + 1
    { x with inCells := n, stats := if (vget 0 x.stats 6).toNat < n then vset x.stats 6 (BitVec.ofNat 64 n) else x.stats }
  match tag with
  | 1 =>
    if bad then s
    else
      let p : CtrlPkt := ⟨BitVec.ofNat 128 (ofLE (bytes.take 16)), BitVec.ofNat 128 (ofLE (bytes.drop 16))⟩
      let r := getRouter s (linkDie l)
      let s := putRouter s (linkDie l) { r with ctrlIn := r.ctrlIn ++ [⟨some l, p⟩] }
      let g := if bit p.hdr 83 then 0 else 1
      portCount (portCount s port (6 + g) 1) port (9 + g) 32
  | 2 =>
    if bad then putLink s l { dropAsm x with dropping := true }
    else if 4096 ≤ x.inCells then inputOverflow l s
    else
      let h : BitVec 256 := BitVec.ofNat 256 (ofLE bytes)
      let a : Assembly := ⟨h, [], 8 * ceilDiv (field h 125 113) 256, badMark⟩
      let s := putLink s l { grow (dropAsm x) with asm := some a, dropping := false }
      if a.left = 0 then packetIn l a s else s
  | 3 =>
    (match x.asm with
     | none => s
     | some a =>
       if x.dropping then s
       else if 4096 ≤ x.inCells then inputOverflow l s
       else
         let a : Assembly := { a with payload := a.payload ++ bytes, left := a.left - 1, bad := a.bad || bad || badMark }
         let s := putLink s l { grow x with asm := some a }
         if a.left = 0 then packetIn l a s else s)
  | _ => s

/-- FCLK cycles between two ticks (R390: a third of the root). -/
def fclkBetween (a b : Nat) : Nat := b / 3 - a / 3

/-- A frame at a locked link (R205 to R209, R238, R371). -/
def frameIn (l : Nat) (lanes : List (List Byte)) (s : State) : State :=
  let x := getLink s l
  let plain := (List.range 8).map (fun i => scramble (slice (lanes.getD i []) 0 112) (vget 0 x.rxScr i))
  let ins := plain.map (fun p => decodeLane p.1)
  let blocks := ins.map (fun i => i.block)
  let aBad := ins.any (fun i => i.aBad)
  let bBad := ins.any (fun i => i.bBad)
  let ues := (ins.map (fun i => (if i.aBad then 1 else 0) + (if i.bBad then 1 else 0))).sum
  let h := headerOf blocks
  let up := decide (x.state = .up)
  let x := { x with
    rxScr := x.rxScr.mapIdx (fun i v => (plain.getD i ([], v)).2)
    ueRun := x.ueRun.mapIdx (fun i n =>
      match ins[i]? with
      | some y => runAfter (runAfter n y.aBad) y.bBad
      | none => n)
    ueTimes := (x.ueTimes.filter (fun t => decide (s.clk.tick < t + msTicks 1))) ++ List.replicate ues s.clk.tick
    berBytes := if up then x.berBytes + 896 else x.berBytes
    berCorr := if up then x.berCorr + (ins.map (fun i => i.symbols)).sum else x.berCorr
    berUe := x.berUe || (up && decide (0 < ues)) }
  let x := linkCount l 1 ues (linkCount l 0 (ins.map (fun i => i.words)).sum x)
  let x := if x.xoffRx then linkCount l 5 (fclkBetween x.xoffAt s.clk.tick) x else x
  let x := { x with xoffAt := s.clk.tick }
  let x := if aBad then x
    else { x with rxSeq := BitVec.ofNat 16 (field h 191 176), lstateRx := BitVec.ofNat 3 (field h 98 96), xoffRx := up && bit h 100 }
  let s := putLink s l x
  if up then
    let s := if !aBad && bit h 99 then markArrived l (field h 63 0) s else s
    if mustRetrain s x then s
    else
      (List.range 25).foldl (fun s c =>
        cellIn l (field h (127 + 2 * c) (126 + 2 * c)) (cellBytes blocks c) (aBad || (decide (12 ≤ c) && bBad)) (bit h (101 + c)) s) s
  else if x.lstateRx = 2 ∧ linkPaused s l = false then linkUp l s else s

def execFrameReceive (l : Nat) (lanes : List (List Byte)) (s : State) : Result :=
  whenUnit (linkOk l) <|
    let x := getLink s l
    if (x.state = .training ∧ x.locked) ∨ (x.state = .up ∧ mustRetrain s x = false) then frameIn l lanes s else s

/-! ### Transmission -/

/-- Fields of a schedule entry (R233). -/
def schedStart (e : BitVec 64) : Nat := field e 47 26
def schedWins (e : BitVec 64) : Nat := field e 25 15
def schedPer (e : BitVec 64) : Nat := field e 14 0

/-- A non-empty entry is active in a window, of which a step's schedule has at most 2²² (R232, R233); it lies ahead of a window. -/
def schedActive (e : BitVec 64) (w : Nat) : Bool :=
  decide (w < 2 ^ 22) && decide (schedStart e ≤ w) && decide (w < schedStart e + schedWins e) && decide (schedPer e ≠ 0)
def schedAhead (e : BitVec 64) (w : Nat) : Bool := decide (w < schedStart e) && decide (schedWins e ≠ 0) && decide (schedPer e ≠ 0)

/-- An injected packet can no longer be paced on its link: its XFER's entries are spent or have ended (R235). -/
def paceSpent (x : Link) (w : Nat) (o : OutData) : Bool :=
  o.injected && !o.late && x.sched.all (fun e =>
    decide (schedXfer e.e ≠ pktXfer o.pkt) || !(schedAhead e.e w || (schedActive e.e w && decide (dataCells o.pkt ≤ e.left))))

/-- Packets that have become late move to the link that the forwarded-packet rule chooses (R235). -/
def expireInjected (l : Nat) (s : State) : State :=
  match s.fab.window with
  | none => s
  | some w =>
    let x := getLink s l
    let gone := x.outData.filter (paceSpent x w)
    let s := putLink s l { x with outData := x.outData.filter (fun o => !paceSpent x w o) }
    gone.foldl (fun s o =>
      match (portOfLink s l).bind (fun p => chooseLink s p (linkDie l)) with
      | some m => pushData m { o with late := true } s
      | none => pushData l { o with late := true } s) s

/-- The entry under which an injected packet may start, and the packet's place: ascending START_WIN, then XFER (R234). -/
def pacedNext (x : Link) (w : Nat) : Option (Nat × Nat) :=
  let cands := (List.range x.sched.length).filterMap (fun i =>
    match x.sched[i]? with
    | none => none
    | some e =>
      if schedActive e.e w then
        match findAt (fun o => o.injected && !o.late && decide (pktXfer o.pkt = schedXfer e.e)) x.outData with
        | some (j, o) =>
          let c := dataCells o.pkt
          if 1024 * c ≤ e.units ∧ c ≤ e.left then some (i, j, schedStart e.e, schedXfer e.e) else none
        | none => none
      else none)
  (cands.foldl (fun (acc : Option (Nat × Nat × Nat × Nat)) c =>
    match acc with
    | none => some c
    | some b => if c.2.2.1 < b.2.2.1 ∨ (c.2.2.1 = b.2.2.1 ∧ c.2.2.2 < b.2.2.2) then some c else some b) none).map
    (fun c => (c.1, c.2.1))

/-- The next data packet to start: forwarded, then paced, then late (R234, R235). -/
def nextData (x : Link) (w : Option Nat) : Option (OutData × Link) :=
  match findAt (fun o => !o.injected && !o.late) x.outData with
  | some (i, o) => some (o, { x with outData := dropAt x.outData i })
  | none =>
    match w.bind (pacedNext x) with
    | some (i, j) =>
      (match x.outData[j]?, x.sched[i]? with
       | some o, some e =>
         let c := dataCells o.pkt
         some (o, { x with outData := dropAt x.outData j, sched := putAt x.sched i { e with units := e.units - 1024 * c, left := e.left - c } })
       | _, _ => none)
    | none =>
      (findAt (fun o => o.late) x.outData).map (fun (i, o) => (o, { x with outData := dropAt x.outData i }))

/-- The cells of a data packet; its last cell carries the BAD mark (R206, R227). -/
def packetCells (p : DataPkt) : List TxCell :=
  let n := p.payload.length / 32
  ⟨2, toLE 32 p.hdr.toNat, decide (n = 0) && p.bad⟩ ::
    (List.range n).map (fun i => ⟨3, slice p.payload (32 * i) 32, decide (i + 1 = n) && p.bad⟩)

/-- What a frame has taken: the link, the cells, the packets started (glide, control, data). -/
structure FrameOut where
  x : Link
  cells : List TxCell := []
  glide : Nat := 0
  ctrl : Nat := 0
  data : List OutData := []
deriving DecidableEq, Repr

/-- One cell slot of a frame of an UP link (R206, R234 to R236, R238). -/
def fillSlot (w : Option Nat) (idle : List Byte) (f : FrameOut) : FrameOut :=
  let x := f.x
  let room := w.isNone || decide (x.ctrlSent < 256)
  match (if room then x.outGlide else []), (if room then x.outCtrl else []) with
  | p :: rest, _ =>
    { f with x := { x with outGlide := rest, ctrlSent := x.ctrlSent + 1 }, cells := f.cells ++ [⟨1, ctrlBytes p, false⟩], glide := f.glide + 1 }
  | [], p :: rest =>
    { f with x := { x with outCtrl := rest, ctrlSent := x.ctrlSent + 1 }, cells := f.cells ++ [⟨1, ctrlBytes p, false⟩], ctrl := f.ctrl + 1 }
  | [], [] =>
    if x.xoffRx then { f with cells := f.cells ++ [⟨0, idle, false⟩] }
    else
      match x.txCells with
      | c :: rest => { f with x := { x with txCells := rest }, cells := f.cells ++ [c] }
      | [] =>
        match nextData x w with
        | some (o, x) =>
          (match packetCells o.pkt with
           | c :: rest => { f with x := { x with txCells := rest }, cells := f.cells ++ [c], data := f.data ++ [o] }
           | [] => { f with x := x, cells := f.cells ++ [⟨0, idle, false⟩] })
        | none => { f with cells := f.cells ++ [⟨0, idle, false⟩] }

/-- LSTATE that a link sends (R205, R208). -/
def lstateTx (x : Link) : Nat :=
  match x.state with
  | .up => 2
  | .training => if x.locked then (if 1 ≤ x.lstateRx.toNat then 2 else 1) else 0
  | _ => 0

/-- The frame header (R205). -/
def frameHeader (s : State) (l : Nat) (x : Link) (cells : List TxCell) : BitVec 192 :=
  let mark := decide (x.txSeq.toNat % 256 = 0)
  let tags := (cells.zipIdx.map (fun (c, i) => c.tag.toNat * 4 ^ i)).sum
  let bads := (cells.zipIdx.map (fun (c, i) => if c.bad then 2 ^ i else 0)).sum
  BitVec.ofNat 192 (x.txSeq.toNat * 2 ^ 176 + tags * 2 ^ 126 + bads * 2 ^ 101 + (if x.xoffTx then 2 ^ 100 else 0)
    + (if mark then 2 ^ 99 else 0) + lstateTx x * 2 ^ 96 + (if mark then (timeNs s (linkDie l)).toNat else 0))

/-- The eight lane blocks of a frame, with their check symbols (R202, R203, R205). -/
def laneBlocks (seq : BitVec 16) (h : BitVec 192) (cells : List TxCell) : List (List Byte) :=
  (List.range 8).map (fun l =>
    let cellByte (i : Nat) : Byte := ((cells.getD (i / 4) ⟨0, [], false⟩).data).getD (8 * (i % 4) + l) 0
    let a := BitVec.ofNat 8 (l * 32 + seq.toNat % 32) :: slice (toLE 24 h.toNat) (3 * l) 3 ++ (List.range 48).map cellByte
    let b := (List.range 52).map (fun i => cellByte (48 + i))
    a ++ rsCheck a ++ b ++ rsCheck b)

/-- The PAM4 levels of a byte, in units of a third of the largest: Gray code, bits [7:6] first (R200). -/
def pam4 (b : Byte) : List Int :=
  [6, 4, 2, 0].map (fun i => match field b (i + 1) i with
    | 0 => -3
    | 1 => -1
    | 3 => 1
    | _ => 3)

/-- The hysteresis of XOFF on the input buffer (R238). -/
def xoffNow (x : Link) : Bool := if 2048 ≤ x.inCells then true else if x.inCells < 1024 then false else x.xoffTx

/-- One frame leaves (R200, R202 to R206, R234 to R238); `held`: an input holds a data packet for this link under R238, which is one of the two reasons for which STALL_CYCLES counts (R242). -/
def frameOut (l : Nat) (held : Bool) (s : State) : State :=
  let s := if (getLink s l).state = .up then expireInjected l s else s
  let (f, s) := takeFree s
  let idle := (List.replicate 4 (toLE 8 f.toNat)).flatten
  let x := getLink s l
  let x := { x with xoffTx := xoffNow x }
  let waiting := x.xoffRx && (x.outData != [] || x.txCells != [])
  let w := s.fab.window
  let fr := if x.state = .up then (List.range 25).foldl (fun f _ => fillSlot w idle f) { x := x }
    else { x := x, cells := List.replicate 25 ⟨0, idle, false⟩ }
  let h := frameHeader s l fr.x fr.cells
  let sent := (laneBlocks fr.x.txSeq h fr.cells).zipIdx.map (fun (b, i) => scramble b (vget 0 fr.x.txScr i))
  let y := { fr.x with
    txSeq := fr.x.txSeq + 1, txAt := s.clk.tick
    txScr := fr.x.txScr.mapIdx (fun i v => (sent.getD i ([], v)).2)
    sched := match w with
      | some w => fr.x.sched.map (fun e => if schedActive e.e w then { e with units := Nat.min (e.units + schedPer e.e) (129 * 1024) } else e)
      | none => fr.x.sched }
  let port := portOfLink s l
  let stalled := waiting || (held && fr.cells.all (fun c => decide (c.tag = 0 ∨ c.tag = 1)))
  let s := emit (putLink s l y) (.frame l (sent.map (fun p => p.1.flatMap pam4)))
  let s := portCount (portCount s port 0 fr.glide) port 3 (32 * fr.glide)
  let s := portCount (portCount s port 1 fr.ctrl) port 4 (32 * fr.ctrl)
  let s := portCount (portCount s port 2 fr.data.length) port 5 (fr.data.map (fun o => dataWhole o.pkt)).sum
  let s := portCount s port 16 ((fr.data.filter (fun o => o.late)).map (fun o => dataCells o.pkt)).sum
  portCount s port 15 (if stalled then fclkBetween x.txAt s.clk.tick else 0)

/-- A window begins: budgets of its first entries, control limits, deferred control cells (R232, R234, R236). -/
def startWindow (w : Nat) (s : State) : State :=
  let s := { s with fab := { s.fab with window := some w } }
  (List.range 24).foldl (fun s l =>
    let x := getLink s l
    let late := if 256 ≤ x.ctrlSent then x.outGlide.length + x.outCtrl.length else 0
    let x := { x with
      ctrlSent := 0
      sched := x.sched.map (fun e =>
        if schedStart e.e = w then { e with units := Nat.min 129 (schedPer e.e) * 1024, left := schedWins e.e * schedPer e.e } else e) }
    portCount (putLink s l x) (portOfLink s l) 17 late) s

/-- The next window of the step begins (R232); the windows go on after the step's end, so that the control limit of R236 holds in every phase. -/
def execScheduleWindowStart (s : State) : Result :=
  .next <|
    let w := match s.fab.window with
      | none => 0
      | some w => w + 1
    let begun := s.fab.window.isSome || s.run.phase == .inStep || s.run.phase == .arrived
    if begun && decide (s.run.origin.toNat + 4096 * w ≤ (timeNs s 0).toNat) then startWindow w s else s

end Sys2Proof.Machine
end

