-- ==== Sys2Proof/Machine/Scalar.lean ====
section
/-! DEFINITION. The scalar class (R56), RDSPEC (R55), and the return of loads and atomics (R49, R192). -/
namespace Sys2Proof.Machine

/-- sD = a function of sA and sB, with a latency (R49, R56). -/
def alu (th : ThreadRef) (f : Fields) (latency : Nat) (g : Word → Word → Word) (s : State) : State :=
  writeResult th f.d (g (readReg s th f.a) (readReg s th f.b)) latency s

/-- sD = a function of sA alone (R56). -/
def aluImm (th : ThreadRef) (f : Fields) (g : Word → Word) (s : State) : State :=
  writeResult th f.d (g (readReg s th f.a)) 1 s

def execNop (th : ThreadRef) (f : Fields) (s : State) : Result := issueThen th (encodeWord 0 0x00 f) s id
def execAdd (th : ThreadRef) (f : Fields) (s : State) : Result :=
  issueThen th (encodeWord 0 0x01 f) s (alu th f 1 (fun a b => a + b))
def execSub (th : ThreadRef) (f : Fields) (s : State) : Result :=
  issueThen th (encodeWord 0 0x02 f) s (alu th f 1 (fun a b => a - b))
def execAnd (th : ThreadRef) (f : Fields) (s : State) : Result :=
  issueThen th (encodeWord 0 0x03 f) s (alu th f 1 (fun a b => a &&& b))
def execOr (th : ThreadRef) (f : Fields) (s : State) : Result :=
  issueThen th (encodeWord 0 0x04 f) s (alu th f 1 (fun a b => a ||| b))
def execXor (th : ThreadRef) (f : Fields) (s : State) : Result :=
  issueThen th (encodeWord 0 0x05 f) s (alu th f 1 (fun a b => a ^^^ b))
def execShl (th : ThreadRef) (f : Fields) (s : State) : Result :=
  issueThen th (encodeWord 0 0x06 f) s (alu th f 1 (fun a b => a <<< (b.toNat % 64)))
def execShr (th : ThreadRef) (f : Fields) (s : State) : Result :=
  issueThen th (encodeWord 0 0x07 f) s (alu th f 1 (fun a b => a >>> (b.toNat % 64)))
def execSra (th : ThreadRef) (f : Fields) (s : State) : Result :=
  issueThen th (encodeWord 0 0x08 f) s (alu th f 1 (fun a b => a.sshiftRight (b.toNat % 64)))
def execMul (th : ThreadRef) (f : Fields) (s : State) : Result :=
  issueThen th (encodeWord 0 0x09 f) s (alu th f 3 (fun a b => a * b))
def execMulhu (th : ThreadRef) (f : Fields) (s : State) : Result :=
  issueThen th (encodeWord 0 0x0A f) s (alu th f 3 (fun a b => BitVec.ofNat 64 (a.toNat * b.toNat / 2 ^ 64)))
def execMulh (th : ThreadRef) (f : Fields) (s : State) : Result :=
  issueThen th (encodeWord 0 0x0B f) s (alu th f 3 (fun a b => BitVec.ofInt 64 (a.toInt * b.toInt / 2 ^ 64)))
def execMin (th : ThreadRef) (f : Fields) (s : State) : Result :=
  issueThen th (encodeWord 0 0x0C f) s (alu th f 1 (fun a b => if b.slt a then b else a))
def execMax (th : ThreadRef) (f : Fields) (s : State) : Result :=
  issueThen th (encodeWord 0 0x0D f) s (alu th f 1 (fun a b => if a.slt b then b else a))
def execSlt (th : ThreadRef) (f : Fields) (s : State) : Result :=
  issueThen th (encodeWord 0 0x0E f) s (alu th f 1 (fun a b => if a.slt b then 1 else 0))
def execSltu (th : ThreadRef) (f : Fields) (s : State) : Result :=
  issueThen th (encodeWord 0 0x0F f) s (alu th f 1 (fun a b => if a.ult b then 1 else 0))
def execAddi (th : ThreadRef) (f : Fields) (s : State) : Result :=
  issueThen th (encodeWord 0 0x10 f) s (aluImm th f (fun a => a + sext f))
def execAndi (th : ThreadRef) (f : Fields) (s : State) : Result :=
  issueThen th (encodeWord 0 0x11 f) s (aluImm th f (fun a => a &&& zext f))
def execOri (th : ThreadRef) (f : Fields) (s : State) : Result :=
  issueThen th (encodeWord 0 0x12 f) s (aluImm th f (fun a => a ||| zext f))
def execXori (th : ThreadRef) (f : Fields) (s : State) : Result :=
  issueThen th (encodeWord 0 0x13 f) s (aluImm th f (fun a => a ^^^ zext f))
def execShli (th : ThreadRef) (f : Fields) (s : State) : Result :=
  issueThen th (encodeWord 0 0x14 f) s (aluImm th f (fun a => a <<< (f.imm.toNat % 64)))
def execShri (th : ThreadRef) (f : Fields) (s : State) : Result :=
  issueThen th (encodeWord 0 0x15 f) s (aluImm th f (fun a => a >>> (f.imm.toNat % 64)))
def execSrai (th : ThreadRef) (f : Fields) (s : State) : Result :=
  issueThen th (encodeWord 0 0x16 f) s (aluImm th f (fun a => a.sshiftRight (f.imm.toNat % 64)))
def execLi (th : ThreadRef) (f : Fields) (s : State) : Result :=
  issueThen th (encodeWord 0 0x17 f) s (writeResult th f.d (sext f) 1)
/-- LUI: sD[63:32] = IMM; sD[31:0] unchanged. -/
def execLui (th : ThreadRef) (f : Fields) (s : State) : Result :=
  issueThen th (encodeWord 0 0x18 f) s (fun s => writeResult th f.d (f.imm ++ (readReg s th f.d).setWidth 32) 1 s)
def execSeq (th : ThreadRef) (f : Fields) (s : State) : Result :=
  issueThen th (encodeWord 0 0x19 f) s (alu th f 1 (fun a b => if a = b then 1 else 0))

def execLd (th : ThreadRef) (f : Fields) (s : State) : Result :=
  issueThen th (encodeWord 0 0x20 f) s (startLoad false th f)
def execLdU (th : ThreadRef) (f : Fields) (s : State) : Result :=
  issueThen th (encodeWord 0 0x21 f) s (startLoad true th f)
def execSt (th : ThreadRef) (f : Fields) (chk : Chk) (s : State) : Result :=
  issueThen th (encodeWord 0 0x22 f) s (startStore th f chk)

/-- Lines that a drop examines (R153). -/
def dropLines (bytes : Nat) : Nat := Nat.min (ceilDiv bytes 256) 196608

/-- CACHE.DROP removes the die's lines that overlap [sA, sA + sB), and examines 64 lines per FCLK cycle (R153). -/
def startDrop (th : ThreadRef) (f : Fields) (s : State) : State :=
  let lo := (readReg s th f.a).toNat
  let n := (readReg s th f.b).toNat
  let hi := Nat.min (lo + n) (2 ^ 64 - 1)
  let s := if n = 0 then s else hrcDrop s th.die lo hi
  let k := getCore s (coreOf th)
  putCore s (coreOf th) { k with drops := k.drops ++ [⟨th.thread, lo, hi, s.clk.tick + 3 * ceilDiv (dropLines n) 64⟩] }

def execCacheDrop (th : ThreadRef) (f : Fields) (s : State) : Result :=
  issueThen th (encodeWord 0 0x23 f) s (startDrop th f)

/-- The drop at place `i` of the core has examined its lines: a line filled meanwhile in its range is gone too (R153, R162). -/
def execCacheDropComplete (c : CoreRef) (i : Nat) (s : State) : Result :=
  whenUnit c.wf <|
    match (getCore s c).drops[i]? with
    | some d =>
      if d.due ≤ s.clk.tick then
        let s := if d.lo < d.hi then hrcDrop s c.die d.lo d.hi else s
        putCore s c { getCore s c with drops := dropAt (getCore s c).drops i }
      else s
    | none => s

/-- A special value (R55); none for an index that the table does not list. -/
def specialValue (s : State) (th : ThreadRef) (i : Nat) : Option Word :=
  let k := getCore s (coreOf th)
  if i = 0x00 then some (BitVec.ofNat 64 th.thread)
  else if i = 0x01 then some (BitVec.ofNat 64 th.core)
  else if i = 0x02 then some (BitVec.ofNat 64 th.die)
  else if i = 0x03 then some (s.fab.ownId.setWidth 64)
  else if i = 0x04 then some (k.role.setWidth 64)
  else if i = 0x05 then some (k.epoch.value.setWidth 64)
  else if 0x08 ≤ i ∧ i ≤ 0x0F then some ((vget ⟨0, 0, 0⟩ k.windows (i - 8)).value.setWidth 64)
  else if i = 0x10 then some (k.kernel.setWidth 64)
  else if i = 0x11 then some s.run.commit.value
  else if i = 0x12 then some (s.run.variant.setWidth 64)
  else if i = 0x13 then some (timeNs s th.die)
  else if i = 0x14 then some (BitVec.ofNat 64 (aclkOf s th.die - k.kernelStart))
  else none

/-- The critical word that a special value reads votes (R185). -/
def voteSpecial (th : ThreadRef) (i : Nat) (s : State) : State :=
  if i = 0x05 then voteEpoch (coreOf th) s
  else if 0x08 ≤ i ∧ i ≤ 0x0F then voteWindow (coreOf th) (i - 8) s
  else if i = 0x11 then voteCommit s
  else s

def readSpecial (th : ThreadRef) (f : Fields) (s : State) : State :=
  match specialValue s th f.imm.toNat with
  | some v => voteSpecial th f.imm.toNat (writeResult th f.d v 1 s)
  | none => trapIssued th trapIllegal 0 s

def execRdspec (th : ThreadRef) (f : Fields) (s : State) : Result :=
  issueThen th (encodeWord 0 0x30 f) s (readSpecial th f)

/-- The value of request `i` of a core returns (R49, R166, R192). -/
def execLoadReturn (c : CoreRef) (i : Nat) (chk : Chk) (s : State) : Result :=
  whenUnit c.wf <|
    mayTrap c (fun s =>
      match (getCore s c).requests[i]? with
      | some r =>
        if inOrder s c i r && decide (returnCycle c r ≤ aclkOf s c.die) && !needsFill s c r then completeRequest c i r chk s
        else s
      | none => s) s

/-! ### Miss fills and fetch -/

/-- The first request of a core that waits for a line of tier 1 and that no earlier access to its granule holds back (R166). -/
def fillRequest (s : State) (c : CoreRef) (line : Nat) : Option (Nat × MemReq) :=
  ((getCore s c).requests.zipIdx.find? (fun (r, i) =>
    needsFill s c r && decide (hrcLineOf r.addr = line) && inOrder s c i r)).map (fun (r, i) => (i, r))

/-- The first thread of a core that waits for an instruction in a line of tier 1. -/
def fillFetch (s : State) (c : CoreRef) (line : Nat) : Option Nat :=
  (List.range Config.threads).find? (fun t =>
    let pc := (getThread (getCore s c) t).pc
    needsFetch s c t && decide (hrcLineOf pc.toNat = line) && decide (placeOf pc.toNat 8 = .tier1) && (hrcHit s c pc.toNat).isNone)

/-- A record for an uncorrectable word found only in bytes that an access does not read (R192; log 34). -/
def strayRecord (a : Nat) (s : State) : State :=
  cper (heldAt s a { cls := 5 }) s

/-- A miss fill reads the whole line of tier 1 and then serves the access that waits for it; bad data that the access does not read leaves it its own bytes, and the line is not kept (R151, R152, R192). -/
def missFill (c : CoreRef) (line lo n : Nat) (chk : Chk) (onBad : Nat → State → State) (onGood : State → State) (s : State) : State :=
  let (s, hit) := checkRead chk 2 c.die [(line, 256)] s
  match hit with
  | none => onGood (hrcFill s c.die line (readBytes s.mem line 256))
  | some a =>
    match firstBad s.mem (readParities chk) [(lo, n)] with
    | some b => onBad b s
    | none => onGood (strayRecord a s)

def execHrcMissFill (c : CoreRef) (line : Nat) (chk : Chk) (s : State) : Result :=
  whenUnit c.wf <|
    mayTrap c (fun s =>
      let line := hrcLineOf line
      match fillRequest s c line with
      | some (i, r) =>
        missFill c line r.addr (reqBytes r) chk (fun a s => trapHeld c r.thread trapUeLoad a r.pc.toNat s)
          (fun s => match r.bad with
            | some a => trapHeld c r.thread trapUeLoad a r.pc.toNat (uncorrectableAt a s)
            | none =>
              let (s, r) := fixRequest c r s
              deliver c i r (r.value.getD 0) s) s
      | none =>
        match fillFetch s c line with
        | some t =>
          let base := icacheBase (getThread (getCore s c) t).pc
          missFill c line base Config.icacheLine chk (fun a s => trapHeld c t trapUe a (getThread (getCore s c) t).pc.toNat s)
            (fun s => putIcache c base (readBytes s.mem base Config.icacheLine) s) s
        | none => s) s

/-- A thread's instruction fetch returns from a line of the HRC; a fetch from outside tier 1 traps (R57, R144, R192). -/
def execInstructionFetchReturn (th : ThreadRef) (chk : Chk) (s : State) : Result :=
  whenUnit th.wf <|
    let c := coreOf th
    mayTrap c (fun s =>
      if needsFetch s c th.thread then
        let pc := (threadOf s th).pc
        if placeOf pc.toNat 8 ≠ .tier1 then trap c th.thread trapAddr pc.toNat pc.toNat s
        else
          match hrcHit s c pc.toNat with
          | some l =>
            serveLine c.die l (icacheBase pc) Config.icacheLine chk
              (putIcache c (icacheBase pc) (slice l.data (icacheBase pc - l.addr) Config.icacheLine)) s
          | none => s
      else s) s

end Sys2Proof.Machine
end

