-- ==== Sys2Proof/Machine/Memories.lean ====
section
/-! DEFINITION. Events of the memories: writes that arrive over the die network (R76, R147, R191), merge buffers that retire (R187, R188, R192), the resurfacer (R197, R198), the leak of the buckets (R195). -/
namespace Sys2Proof.Machine

/-- A packet from the same core to the same core stands before packet `i` (the path between two stops is fixed, R44), or an earlier request of its thread to its granule has not taken effect (R166). -/
def nocBehind (s : State) (i : Nat) (p : NocPacket) : Bool :=
  let stop (a : Nat) : Nat := (a - spmBase) / 2 ^ 24
  (s.noc.take i).any (fun q => decide (q.die = p.die) && decide (q.core = p.core) && decide (stop q.addr = stop p.addr))
    || (getCore s ⟨p.die, p.core⟩).requests.any (fun r => decide (r.thread = p.thread) && decide (r.id < p.id) && r.value.isNone
        && decide (granule r.addr ≤ granule (p.addr + (p.data.length - 1))) && decide (granule p.addr ≤ granule r.addr))

/-- A write of another agent at an SPM window of the physical core that holds it: the epoch it expects is checked once, then all of it lands or none (R76, R147); one with a parity miss is discarded before that (R191). -/
def windowWriteAt (chk : Chk) (c : CoreRef) (phys off : Nat) (expected : BitVec 16) (bs : List Byte) (s : State) : State :=
  let a := spmAddr c.die phys off
  if parityMiss chk a bs.length then landFrom chk a bs s
  else
    let s := voteWindow c (windowOf off) s
    let d := epochDelta expected (windowEpoch s c (windowOf off))
    if d = 0 then landFrom chk a bs s else countDrop s c d
def windowWrite (chk : Chk) (c : CoreRef) (off : Nat) (expected : BitVec 16) (bs : List Byte) (s : State) : State :=
  windowWriteAt chk c (physCore s c) off expected bs s

/-- Packet `i` of the die network reaches its bank (R45, R76, R147, R191). -/
def execSpmRemoteWriteArrive (i : Nat) (chk : Chk) (s : State) : Result :=
  .next <|
    match s.noc[i]? with
    | none => s
    | some p =>
      if nocBehind s i p then s
      else
        let s := { s with noc := dropAt s.noc i }
        match placeOf p.addr p.data.length with
        | .spm die core off =>
          let s := if parityMiss chk (spmAddr die p.phys off) p.data.length then discardOwned p.owner p.data.length s else s
          windowWriteAt chk ⟨die, core⟩ p.phys off p.epoch p.data s
        | _ => s

/-- An entry's word is read, merged and written; a word that cannot be trusted keeps its contents, the bytes are lost, and a step fault is raised (R187, R192). -/
def retireOldest (chk : Chk) (point die : Nat) (es : List MergeEntry) (due : MergeEntry → Bool) (s : State) : State :=
  match es with
  | [] => s
  | e :: _ =>
    if due e then
      match checkRead chk point die [(e.base, wordBytes e.base)] s with
      | (s, none) => { s with mem := (retireEntry s.mem e).1 }
      | (s, some _) =>
        storeFault e.base { s with mem := setMergeList s.mem e.base ((mergeList s.mem e.base).filter (fun x => decide (x.base ≠ e.base))) }
    else s

/-- The oldest entry of a bank retires, 16 ACLK cycles of its die after its allocation (R187, R394). -/
def execSpmMergeRetire (die phys bank : Nat) (chk : Chk) (s : State) : Result :=
  whenUnit (dieOk die && physOk phys && bankOk bank) <|
    retireOldest chk 4 die (mget [] s.mem.spmMerge (32 * (256 * die + phys) + bank)) (fun e => decide (e.at_ + 16 ≤ aclkOf s die)) s

/-- The oldest entry of a memory controller retires, 100 ns after its allocation (R188). -/
def execTierMergeRetire (ctrl : Nat) (chk : Chk) (s : State) : Result :=
  whenUnit (controllerOk ctrl) <|
    let die := if ctrl < 16 then ctrl / Config.stacksPerDie else (ctrl - 16) / 4
    retireOldest chk 5 die (mget [] s.mem.tierMerge ctrl) (fun e => decide (e.at_ + nsTicks 100 ≤ s.clk.tick)) s

/-! ### Resurfacer (R197, R198) -/

/-- Code words of tier 1, of both tiers, and of every SPM. -/
def tier1Words : Nat := Config.tier1Bytes / 32
def tierWords : Nat := tier1Words + Config.tier2Bytes / 8
def spmWords : Nat := Config.dies * Config.physCores * (Config.spmBytes / 8)

/-- The code word at a place of a pass: address in the store. -/
def tierWordAt (i : Nat) : Nat := if i < tier1Words then 32 * i else tier2Base + 8 * (i - tier1Words)
def spmWordAt (i : Nat) : Nat :=
  let per := Config.spmBytes / 8
  spmAddr (i / (per * Config.physCores)) (i / per % Config.physCores) (8 * (i % per))

/-- The pace of a pass has reached a word (R197: uniform). -/
def paceReached (s : State) (start pos total : Nat) (rate : BitVec 32) : Bool :=
  decide (start + secTicks rate.toNat * pos / total ≤ s.clk.tick)

/-- The resurfacer reads a word: a correctable error is counted, an uncorrectable one gets a record (R184, R192, R197). -/
def patrol (a : Nat) (point : Nat) (chk : Chk) (s : State) : State :=
  match checkRead chk point (dieOfStore s.mem a) [(a, wordBytes a)] s with
  | (s, some b) => strayRecord b s
  | (s, none) => s

/-- The state of a quad, ON unless its power is listed otherwise (R411): quad q of die d at 40 d + q. -/
def quadState (s : State) (die phys : Nat) : QuadState := mget .on s.pwr.quads (40 * die + phys / 4)

/-- When the next pass begins, and whether the one that ends is late (R197). -/
def nextPass (s : State) (start : Nat) (rate : BitVec 32) : Nat × Bool :=
  let due := start + secTicks rate.toNat
  (Nat.max due s.clk.tick, decide (due < s.clk.tick))

/-- The channel or stack of an address trains after a block reset (R420). -/
def channelDown (s : State) (a : Nat) : Bool :=
  decide (a < spmBase) && s.boot.retraining.contains (if a < tier2Base then stackOf s.mem a else 16 + channelOf s.mem a)

def execResurfacerTierRead (chk : Chk) (s : State) : Result :=
  .next <|
    if s.opt.loaded && s.intg.rsEnable && paceReached s s.intg.tierStart s.intg.tierPos tierWords s.intg.tierRate then
      let a := tierWordAt s.intg.tierPos
      let s := if channelDown s a then s else patrol a 5 chk s
      let g := s.intg
      if g.tierPos + 1 < tierWords then { s with intg := { g with tierPos := g.tierPos + 1 } }
      else
        let (start, late) := nextPass s g.tierStart g.tierRate
        { s with intg := { g with
          tierPos := 0, tierStart := start, tierRate := g.tierPass, tierPasses := satInc g.tierPasses
          rsLate := if late then satInc g.rsLate else g.rsLate } }
    else s

/-- A pass votes every critical word of both dies (R185, R197). -/
def voteAll (s : State) : State :=
  let s := voteCommit (voteTable (voteMaster s))
  let s := (s.cores.map (fun e => e.1)).foldl (fun s key =>
    let c : CoreRef := ⟨key / 256, key % 256⟩
    (List.range 8).foldl (fun s w => voteWindow c w s) (voteEpoch c s)) s
  let s := (s.map.toPhys.map (fun e => e.1)).foldl (fun s key =>
    vote (.mapEntry (key / 256) (key % 256)) (mget ⟨0, 0, 0⟩ s.map.toPhys key) (fun t s => { s with map := { s.map with toPhys := mset s.map.toPhys key t } }) s) s
  let s := (List.range s.opt.words.length).foldl (fun s i => voteWordAt i s) s
  let s := (List.range 4).foldl (fun s i => voteKeyHash i s) (voteMaintHash s)
  (List.range 3).foldl (fun s i => voteFloor i s) (voteRevoked s)

def execResurfacerSpmRead (chk : Chk) (s : State) : Result :=
  .next <|
    if s.opt.loaded && s.intg.rsEnable && paceReached s s.intg.spmStart s.intg.spmPos spmWords s.intg.spmRate then
      let a := spmWordAt s.intg.spmPos
      let s := if quadState s (storeDie a) (storePhys a) = .off then s else patrol a 4 chk s
      let g := s.intg
      if g.spmPos + 1 < spmWords then { s with intg := { g with spmPos := g.spmPos + 1 } }
      else
        let (start, late) := nextPass s g.spmStart g.spmRate
        voteAll { s with intg := { g with
          spmPos := 0, spmStart := start, spmRate := g.spmPass, spmPasses := satInc g.spmPasses
          rsLate := if late then satInc g.rsLate else g.rsLate } }
    else s

/-- The leak ticks at whole multiples of PERIOD seconds after load-complete: the first multiple after the last second that has been looked at (R195). -/
def execBucketLeakTick (s : State) : Result :=
  .next <|
    let p := s.intg.period.toNat
    let next := (s.intg.leaks / p + 1) * p
    if s.opt.loaded ∧ p ≠ 0 ∧ s.opt.loadedAt + secTicks next ≤ s.clk.tick then
      { s with intg := { s.intg with leaks := next, levels := s.intg.levels.map (fun e => (e.1, if e.2 = 0 then 0 else e.2 - 1)) } }
    else s

end Sys2Proof.Machine
end

