-- ==== Sys2Proof/Machine/Consistency.lean ====
section
/-! DEFINITION. Staged values and consistency groups (R339 to R342): the objects of each group, its commit check (R212, R215, R216), its quiescent point, and how its values take effect together. Quad power (R411). -/
namespace Sys2Proof.Machine

/-! ### Quad power (R411) -/

/-- No core of a quad works: every one is SPARE or RETIRED. -/
def quadIdle (s : State) (die q : Nat) : Bool :=
  (List.range 4).all (fun i =>
    let x := physState s die (4 * q + i)
    decide (x = .spare ∨ x = .retired))

/-- The SPM of a physical core takes undefined contents. -/
def spmUndefined (die phys : Nat) (s : State) : State :=
  { s with mem := makeUndef s.mem (spmAddr die phys 0) (spmAddr die phys Config.spmBytes) }

/-- One quad is switched OFF or back ON. -/
def settleQuad (die q : Nat) (s : State) : State :=
  let off := s.pwr.quadOffEn && quadIdle s die q
  let was := decide (quadState s die (4 * q) = .off)
  if off && !was then
    (List.range 4).foldl (fun s i => spmUndefined die (4 * q + i) s)
      { s with pwr := { s.pwr with quads := mset s.pwr.quads (40 * die + q) .off } }
  else if was && !off then { s with pwr := { s.pwr with quads := mset s.pwr.quads (40 * die + q) .on } }
  else s

/-- Every quad, once the option words are loaded. -/
def settleQuads (s : State) : State :=
  if s.opt.loaded then (List.range 80).foldl (fun s i => settleQuad (i / 40) (i % 40) s) s else s

/-! ### The objects of a group -/

/-- Object key of an index and a subindex. -/
def objKey (index sub : Nat) : Nat := 256 * index + sub

/-- Subindices a to b of an index. -/
def subKeys (index a b : Nat) : List Nat := (List.range (b + 1 - a)).map (fun i => objKey index (a + i))

/-- The RWS objects of a consistency group (R339); member lists of handles beyond 254 have no subindex (log 23). -/
def groupKeys (g : Nat) : List Nat :=
  match g with
  | 1 => [objKey 0x1201 0, objKey 0x1202 0, objKey 0x1203 0, objKey 0x1204 0, objKey 0x1210 0]
  | 2 => subKeys 0x4001 1 2
  | 3 => subKeys 0x4010 1 2
  | 4 => subKeys 0x4020 1 3
  | 5 => subKeys 0x5001 1 6
  | 6 => subKeys 0x5010 1 8
  | 7 => subKeys 0x5020 1 7
  | 8 => objKey 0x6001 0 :: subKeys 0x6002 1 255
  | 9 => subKeys 0x7020 1 4
  | 10 => [objKey 0x3101 0, objKey 0x3102 0, objKey 0x3111 0]
  | 11 => subKeys 0x9001 4 6
  | 12 => [objKey 0xA001 1, objKey 0xA002 1, objKey 0xA003 1]
  | _ => []

/-- The group of an RWS object, 0 for none. -/
def groupOf (key : Nat) : Nat := ((List.range 13).find? (fun g => (groupKeys g).contains key)).getD 0

/-- The staged values of a group. -/
def stagedOf (s : State) (g : Nat) : List (Nat × List Byte) := s.dop.staged.filter (fun e => (groupKeys g).contains e.1)

/-- GROUP_STATE (R341): 0 CLEAN, 1 STAGED, 2 PENDING. -/
def groupState (s : State) (g : Nat) : Nat :=
  if s.dop.pending.contains g then 2 else if stagedOf s g = [] then 0 else 1

/-- Addresses of 16 bytes, in network order. -/
def addrsOf : (fuel : Nat) → List Byte → List (BitVec 128)
  | 0, _ => []
  | n + 1, bs => if bs = [] then [] else BitVec.ofNat 128 (ofBE (bs.take 16)) :: addrsOf n (bs.drop 16)

/-- A group record: its header and its member list (R244). -/
def recOf (bs : List Byte) : GroupRec :=
  let hdr := BitVec.ofNat 128 (ofLE (bs.take 16))
  ⟨hdr, (List.range (field hdr 127 107)).map (fun i => BitVec.ofNat 32 (ofLE (slice bs (16 + 4 * i) 4)))⟩

def setTorus (t : Torus) (s : State) : State := { s with fab := { s.fab with torus := t } }

/-- One staged value becomes effective. -/
def putValue (key : Nat) (bs : List Byte) (s : State) : State :=
  let n := ofLE bs
  let b : BitVec 8 := BitVec.ofNat 8 n
  let w : BitVec 16 := BitVec.ofNat 16 n
  let t := s.fab.torus
  let sub := key % 256
  match key / 256 with
  | 0x1201 => { s with dop := { s.dop with nodeId := b } }
  | 0x1202 => { s with dop := { s.dop with toTimer := b } }
  | 0x1203 => { s with dop := { s.dop with burstCount := b } }
  | 0x1204 => { s with dop := { s.dop with burstTimer := b } }
  | 0x1210 => { s with dop := { s.dop with operators := addrsOf 8 bs } }
  | 0x4001 =>
    if sub = 1 then
      if s.mem.tier1Mode = b then s else { s with mem := { makeUndef s.mem 0 Config.tier1Bytes with tier1Mode := b } }
    else if s.mem.tier2Mode = b then s
    else { s with mem := { makeUndef s.mem tier2Base (tier2Base + Config.tier2Bytes) with tier2Mode := b } }
  | 0x4010 =>
    if sub = 1 then { s with intg := { s.intg with period := BitVec.ofNat 32 n } }
    else { s with intg := { s.intg with capacity := b, levels := s.intg.levels.map (fun e => (e.1, if b.toNat < e.2.toNat then b else e.2)) } }
  | 0x4020 =>
    if sub = 1 then { s with intg := { s.intg with rsEnable := decide (n ≠ 0) } }
    else if sub = 2 then { s with intg := { s.intg with tierPass := BitVec.ofNat 32 n } }
    else { s with intg := { s.intg with spmPass := BitVec.ofNat 32 n } }
  | 0x5001 =>
    setTorus (match sub with
      | 1 => { t with extX := b }
      | 2 => { t with extY := b }
      | 3 => { t with extZ := b }
      | 4 => { t with x := b }
      | 5 => { t with y := b }
      | _ => { t with z := b }) s
  | 0x5010 => { s with fab := { s.fab with ports := vset s.fab.ports (sub - 1) (BitVec.ofNat 32 n) } }
  | 0x5020 =>
    setTorus (match sub with
      | 1 => { t with ox := b }
      | 2 => { t with oy := b }
      | 3 => { t with oz := b }
      | 4 => { t with sx := b }
      | 5 => { t with sy := b }
      | 6 => { t with sz := b }
      | _ => { t with master := triple w }) s
  | 0x6001 =>
    (List.range (bs.length / 2)).foldl (fun s h =>
      let e : BitVec 16 := BitVec.ofNat 16 (ofLE (slice bs (2 * h) 2))
      if groupEpoch s h = e then s
      else { s with grp := { s.grp with epochs := mset s.grp.epochs h e, glideOps := mdel s.grp.glideOps h } }) s
  | 0x6002 => { s with grp := { s.grp with recs := mset s.grp.recs (sub - 1) (recOf bs) } }
  | 0x7020 =>
    if sub = 1 then { s with fail := { s.fail with buddyEp := w } }
    else if sub = 2 then { s with fail := { s.fail with wardEp := w } }
    else if sub = 3 then { s with fail := { s.fail with buddyEn := decide (n ≠ 0) } }
    else { s with fail := { s.fail with deputy := w } }
  | 0x3101 => { s with pwr := { s.pwr with limit := w } }
  | 0x3102 => { s with pwr := { s.pwr with thermal := b } }
  | 0x3111 => { s with pwr := { s.pwr with quadOffEn := decide (n ≠ 0) } }
  | 0x9001 => { s with flash := { s.flash with pref := vset s.flash.pref (sub - 4) b } }
  | 0xA001 => { s with time := { s.time with nominal := BitVec.ofNat 64 n } }
  | 0xA002 => { s with time := { s.time with mode := b } }
  | 0xA003 => { s with time := { s.time with ptp := { s.time.ptp with domain := b } } }
  | _ => s

/-- What follows from a group's new values: no leak is owed for the time before a new PERIOD (R195), links follow their bundles (R212, R243), the time source its mode (R367). -/
def afterGroup (g : Nat) (before s : State) : State :=
  match g with
  | 3 => { s with intg := { s.intg with leaks := (s.clk.tick - s.opt.loadedAt) / secTicks 1 } }
  | 6 => (List.range 24).foldl (fun s l => settleLink l (leavePort (portOfLink before l) l s)) (notePorts s)
  | 7 => refreshSource s
  | 10 => settleQuads s
  | 12 => refreshSource (limitCorrection s)
  | _ => s

/-- The staged values of a group take effect together, and the group is CLEAN (R341). -/
def applyGroup (g : Nat) (s : State) : State :=
  let before := s
  let s := (stagedOf s g).foldl (fun s e => putValue e.1 e.2 s) s
  afterGroup g before { s with dop := { s.dop with
    staged := s.dop.staged.filter (fun e => !(groupKeys g).contains e.1), pending := s.dop.pending.filter (fun x => decide (x ≠ g)) } }

/-! ### Quiescent points (R267, R339) -/

/-- A handle whose staged entries differ from its effective ones. -/
def handleStaged (s : State) (h : Nat) : Bool :=
  (match mfind s.dop.staged (objKey 0x6001 0) with
   | some bs => decide (2 * h + 2 ≤ bs.length) && decide (BitVec.ofNat 16 (ofLE (slice bs (2 * h) 2)) ≠ groupEpoch s h)
   | none => false)
    || (match mfind s.dop.staged (objKey 0x6002 (h + 1)) with
        | some bs => decide (h < 255) && decide (some (recOf bs) ≠ mfind s.grp.recs h)
        | none => false)

/-- A collective or glide operation of a handle is in progress on the module. -/
def handleBusy (s : State) (h : Nat) : Bool :=
  s.cores.any (fun (_, k) => k.colQueue.any (fun e => decide (e.handle = h)))
    || (mfind s.grp.glideOps h).isSome || s.grp.releases.any (fun r => decide (r.handle = h))

/-- The group is at its quiescent point. -/
def groupQuiet (s : State) (g : Nat) : Bool :=
  match g with
  | 1 => true
  | 3 => true
  | 4 => true
  | 10 => true
  | 11 => true
  | 8 => (List.range 4096).all (fun h => !(handleStaged s h && handleBusy s h))
  | _ => decide (s.run.state = 0)

/-- The value of an object as it would stand after the group's commit. -/
def wouldBe (s : State) (key now : Nat) : Nat :=
  match mfind s.dop.staged key with
  | some bs => ofLE bs
  | none => now

/-- The cross-object checks of a group (R212, R215, R216). -/
def commitOk (s : State) (g : Nat) : Bool :=
  let t := s.fab.torus
  match g with
  | 5 =>
    let v (i : Nat) (x : BitVec 8) : Nat := wouldBe s (objKey 0x5001 i) x.toNat
    let ok (e m c : Nat) : Bool := decide (1 ≤ e ∧ e ≤ m ∧ c < e)
    ok (v 1 t.extX) Config.torusMaxX (v 4 t.x) && ok (v 2 t.extY) Config.torusMaxY (v 5 t.y) && ok (v 3 t.extZ) Config.torusMaxZ (v 6 t.z)
  | 6 =>
    let ps := (List.range Config.maxPorts).map (fun p => BitVec.ofNat 32 (wouldBe s (objKey 0x5010 (p + 1)) (vget 0 s.fab.ports p).toNat))
    let links (x : BitVec 32) : List Nat := (List.range 24).filter (fun i => bit x i)
    let full := ps.filter (fun x => decide (links x ≠ []))
    decide (((ps.flatMap links).eraseDups).length = (ps.flatMap links).length)
      && decide (((full.map (fun x => field x 26 24)).eraseDups).length = full.length)
      && full.all (fun x => decide (field x 26 24 ≤ 5))
      && ps.all (fun x => (links x).all (fun l => decide (l < 2 * Config.linksPerDie)))
  | 7 =>
    let v (i : Nat) (x : BitVec 8) : Nat := wouldBe s (objKey 0x5020 i) x.toNat
    let ok (o n e : Nat) : Bool := decide (n ≠ 0 ∧ n ≤ e ∧ o < e) && (decide (n = e) || decide (o + n ≤ e))
    ok (v 1 t.ox) (v 4 t.sx) t.extX.toNat && ok (v 2 t.oy) (v 5 t.sy) t.extY.toNat && ok (v 3 t.oz) (v 6 t.sz) t.extZ.toNat
  | _ => true

/-- PENDING groups that wait for STOPPED take effect as the state is entered (R342). -/
def applyStopped (s : State) : State :=
  (s.dop.pending.filter (fun g => decide (g = 2 ∨ g = 5 ∨ g = 6 ∨ g = 7 ∨ g = 9 ∨ g = 12))).foldl (fun s g => applyGroup g s) s

/-- RUN_STATE becomes STOPPED. -/
def enterStopped (s : State) : State := applyStopped (setRunState 0 { s with run := { s.run with phase := .idle } })

/-- A PENDING group takes effect at its quiescent point. -/
def execConsistencyGroupApply (g : Nat) (s : State) : Result :=
  .next (if s.dop.pending.contains g && groupQuiet s g then applyGroup g s else s)

end Sys2Proof.Machine
end

