-- ==== Sys2Proof/Machine/Kernel.lean ====
section
/-! DEFINITION. Kernels (R68 to R71), kick-turns (R74), role entries (R274), the commit-gate wait (R285), core-map changes at a boundary (R72, R292). -/
namespace Sys2Proof.Machine

/-- Fields of a kernel descriptor (R68). -/
def kdWindows (d : BitVec 256) : Nat := field d 255 248
def kdNewRole (d : BitVec 256) : BitVec 16 := BitVec.ofNat 16 (field d 239 224)
def kdKick (d : BitVec 256) : Bool := bit d 223
def kdNext (d : BitVec 256) : Nat := field d 207 192
def kdArg (d : BitVec 256) : Word := BitVec.ofNat 64 (field d 191 128)
def kdEntry (d : BitVec 256) : Nat := field d 111 64
def kdMask (d : BitVec 256) : BitVec 64 := BitVec.ofNat 64 (field d 63 0)

/-! ### Image fields (R271, R273, R274) -/

/-- ROLES, SECTIONS of the header in effect. -/
def imageRoles (s : State) : Nat := field s.run.hdr 255 240
/-- Fields of a section map entry (R273). -/
def secType (e : BitVec 128) : Nat := field e 127 112
def secVariant (e : BitVec 128) : Nat := field e 111 104
def secOffset (e : BitVec 128) : Nat := field e 95 48
def secLength (e : BitVec 128) : Nat := field e 47 0

/-- The section of a type and variant, in the section map in effect. -/
def sectionOf (s : State) (typ variant : Nat) : Option (BitVec 128) :=
  s.run.sections.find? (fun e => decide (secType e = typ) && decide (secVariant e = variant))

/-- Role entry r (R274). -/
def roleEntry (s : State) (r : Nat) : BitVec 128 :=
  match sectionOf s 2 0 with
  | some e => BitVec.ofNat 128 (readNum s.mem (s.run.imageBase + secOffset e + 16 * r) 16)
  | none => 0
def roleKlist (e : BitVec 128) : Nat := field e 127 80
def roleKcount (e : BitVec 128) : Nat := field e 79 64
def roleStepEntry (e : BitVec 128) : Nat := field e 63 48
def roleGate (e : BitVec 128) : Nat := field e 47 32
def roleSkip (e : BitVec 128) : Nat := field e 31 16

/-- A core goes on to kernel `i` of its role: the read of its descriptor is out, or its part of the step has ended (R70, R71, R280). -/
def fetchKernel (c : CoreRef) (i : Nat) (since : Nat) (s : State) : State :=
  let k := getCore s c
  let e := roleEntry s k.role.toNat
  if roleKcount e ≤ i then putCore s c { k with phase := .ended }
  else putCore s c { k with kernel := BitVec.ofNat 16 i, phase := .fetching (s.run.imageBase + roleKlist e + 32 * i) since }

/-- The next kernel index, with the wait at the commit gate (R285). -/
def nextKernel (c : CoreRef) (i : Nat) (since : Nat) (s : State) : State :=
  let k := getCore s c
  let e := roleEntry s k.role.toNat
  if roleGate e ≠ 0xFFFF ∧ i = roleGate e then
    match s.run.gate with
    | .undecided => putCore s c { k with phase := .gate }
    | .opened => fetchKernel c i since s
    | .closed => fetchKernel c (roleSkip e) since s
    | .faulted => fetchKernel c (roleSkip e) since s
  else fetchKernel c i since s

/-- A kick-turn: the new role, the core epoch and the masked window epochs plus 1 (R74). -/
def kickTurn (c : CoreRef) (role : BitVec 16) (mask : Nat) (s : State) : State :=
  let s := (List.range 8).foldl (fun s w => if mask.testBit w then voteWindow c w s else s) (voteEpoch c s)
  let k := getCore s c
  putCore s c { k with
    role := role
    epoch := triple (k.epoch.value + 1)
    windows := k.windows.mapIdx (fun w t => if mask.testBit w then triple (t.value + 1) else t) }

/-- A pending change of the core map takes effect: the logical core moves, its new core starts in the state of R97, SPM contents stay (R72, R73, R292). -/
def switchCore (c : CoreRef) (s : State) : State :=
  match s.map.pending.find? (fun p => decide (p.1 = coreKey c)) with
  | none => s
  | some (key, phys) =>
    let k := getCore s c
    putCore { s with map := { s.map with
        toPhys := mset s.map.toPhys key (triple phys), pending := s.map.pending.filter (fun p => decide (p.1 ≠ key)) } } c
      { k with mxa := {}, icache := [] }

/-- Cycles 1 and 2 of a boundary at the current cycle 0: instruction cache emptied, HRC lines passed over, map change (R71, R152). -/
def boundaryStart (c : CoreRef) (s : State) : State :=
  let k := getCore s c
  switchCore c (putCore s c { k with icache := [], boundaryAt := aclkOf s c.die + 1, ksel := none })

/-- Every started thread has executed TEXIT, and every operation of the kernel has completed, its posted stores landed or dropped (R71, R175). -/
def boundaryReached (s : State) (c : CoreRef) : Bool :=
  let k := getCore s c
  decide (k.phase = .running) && k.threads.all (fun (_, x) => decide (x.mode = .inactive))
    && decide (k.mxa.queue = []) && decide (k.mxa.flight = []) && decide (k.mxa.releasing = [])
    && decide (k.vecQueue = []) && decide (k.vecFlight = [])
    && k.dma.all (fun x => decide (x.queue = []) && x.exec.isNone)
    && decide (k.colQueue = []) && decide (k.requests = []) && decide (k.drops = [])
    && s.noc.all (fun p => decide (p.die ≠ c.die) || decide (p.core ≠ c.core))

/-- The kernel boundary (R69 to R71, R74, R285). -/
def execKernelBoundary (c : CoreRef) (s : State) : Result :=
  whenUnit c.wf <|
    if boundaryReached s c then
      let k := getCore s c
      let next := match k.ksel with
        | some i => i.toNat
        | none => kdNext k.desc
      let s := if kdKick k.desc then kickTurn c (kdNewRole k.desc) (kdWindows k.desc) s else s
      nextKernel c next (aclkOf s c.die + 3) (boundaryStart c s)
    else s

/-- A thread as a kernel starts it (R54, R77). -/
def freshThread (t : Nat) (d : BitVec 256) (now : Nat) : Thread :=
  { pc := BitVec.ofNat 64 (kdEntry d), mode := .active, nextIssue := now + 1
    regs := vset (vset (Vector.replicate 32 0) 1 (BitVec.ofNat 64 t)) 2 (kdArg d) }

/-- The kernel starts: its threads are READY at ENTRY in the next cycle (R54, R71). -/
def startKernel (c : CoreRef) (d : BitVec 256) (s : State) : State :=
  let k := getCore s c
  let now := aclkOf s c.die
  putCore s c { k with
    desc := d, phase := .running, kernelStart := now + 1, search := 0
    threads := (bitsSet (kdMask d) 64).map (fun t => (t, freshThread t d now)) }

/-- The next kernel's descriptor arrives (R68, R71, R192). -/
def execKernelDescriptorArrive (c : CoreRef) (chk : Chk) (s : State) : Result :=
  whenUnit c.wf <|
    match (getCore s c).phase with
    | .fetching addr since =>
      if aclkOf s c.die < since + 1 then s
      else
        match checkRead chk 2 c.die [(addr, 32)] s with
        | (s, some a) => trapHeldAs c 0 trapUe a addr addr s
        | (s, none) =>
          let d : BitVec 256 := BitVec.ofNat 256 (readNum s.mem addr 32)
          if kdEntry d % 8 ≠ 0 ∨ Config.tier1Bytes ≤ kdEntry d ∨ (kdKick d ∧ imageRoles s ≤ (kdNewRole d).toNat) then
            trap c 0 trapDesc 0 (kdEntry d) s
          else startKernel c d s
    | _ => s

/-- The commit gate is decided: a waiting core goes on (R285). -/
def execGateRelease (c : CoreRef) (s : State) : Result :=
  whenUnit c.wf <|
    let k := getCore s c
    if k.phase = .gate ∧ s.run.gate ≠ .undecided then
      nextKernel c (roleGate (roleEntry s k.role.toNat)) (aclkOf s c.die) s
    else s

end Sys2Proof.Machine
end

