-- ==== Sys2Proof/Machine/Router.lean ====
section
/-! DEFINITION. The routers: checks of control and data packets (R221, R224, R227), dimension-order routing (R229), multicast (R230), the link of an injected packet (R234), acceptance at the destination (R228), what becomes of packets to a down port (R231). -/
namespace Sys2Proof.Machine

/-! ### The entry of a destination (R218, R229) -/

/-- What the routing sequence answers for a packet (R229). -/
inductive Hop where
  | noroute
  | epoch
  | hops
  | deliver
  | send (dir : Nat)
deriving DecidableEq, Repr

def route (s : State) (die dest epoch hops : Nat) : Hop :=
  let e := pisteEntry s die dest
  if !entryValid e then .noroute
  else if field e 23 16 ≠ epoch then .epoch
  else
    match nextDir s e with
    | none => .deliver
    | some dir => if hops = 127 then .hops else .send dir

/-- The unicast packet is for this module (R228). -/
def acceptsId (s : State) (dest : Nat) : Bool := s.fab.hasId && decide (dest = s.fab.ownId.toNat)

/-! ### Control packets -/

/-- TYPE is not reserved and GLIDE has the value listed (R221). -/
def ctrlHeaderOk (p : CtrlPkt) : Bool :=
  let t := ctrlType p
  decide (1 ≤ t ∧ t ≤ 10) && (bit p.hdr 83 == decide (t = 2 ∨ t = 3))

def ctrlHops (p : CtrlPkt) : Nat := field p.hdr 82 76
def ctrlEpoch (p : CtrlPkt) : Nat := field p.hdr 95 88

/-- OP of a PISTE_UPDATE. -/
def pisteOp (p : CtrlPkt) : Nat := field p.payload 71 64

/-- A packet is kept for the command of its type. -/
def toCtrlBox (die : Nat) (p : RoutedCtrl) (s : State) : State :=
  let r := getRouter s die
  putRouter s die { r with ctrlBox := r.ctrlBox ++ [p] }

/-- A packet that this module acts on; a PISTE_UPDATE with a reserved operation is discarded here (R219). -/
def arriveCtrl (die : Nat) (p : RoutedCtrl) (s : State) : State :=
  if ctrlType p.pkt = 7 ∧ 3 ≤ pisteOp p.pkt then
    let s := voteMaster s
    routerCount s die (if ctrlSrc p.pkt = (masterEp s).toNat then 4 else 6) 1
  else toCtrlBox die p s

/-- Where a packet that is neither bad nor link-local goes. -/
def routeCtrl (die : Nat) (chk : Chk) (p : RoutedCtrl) (s : State) : State :=
  let d := ctrlDest p.pkt
  let s := readPiste die d chk s
  match route s die d (ctrlEpoch p.pkt) (ctrlHops p.pkt) with
  | .noroute => routerCount s die 0 1
  | .epoch => routerCount s die 1 1
  | .hops => routerCount s die 2 1
  | .deliver =>
    if acceptsId s d || (!s.fab.hasId && decide (ctrlType p.pkt = 7)) then arriveCtrl die p s else routerCount s die 3 1
  | .send dir =>
    match (portOfDir s dir).bind (fun port => chooseLink s port die) with
    | some l => pushCtrl l { p.pkt with hdr := setField p.pkt.hdr 82 76 (ctrlHops p.pkt + 1) } s
    | none => dropCtrl die p.pkt s

/-- A PISTE_UPDATE from a port at a module without an ID, whose entry does not match: the module acts on it itself (R219). -/
def ownUpdate (s : State) (die : Nat) (p : RoutedCtrl) : Bool :=
  !s.fab.hasId && decide (ctrlType p.pkt = 7) && p.src.isSome
    && (match route s die (ctrlDest p.pkt) (ctrlEpoch p.pkt) (ctrlHops p.pkt) with
        | .noroute => true
        | .epoch => true
        | _ => false)

/-- A glide packet from a port is at the end of its one hop, and a TIME_SYNC is link-local (R246, R371). -/
def oneHop (p : RoutedCtrl) : Bool := p.src.isSome && (bit p.pkt.hdr 83 || decide (ctrlType p.pkt = 8))

/-- A CRC failure counts at the link it came on (R227, R242). -/
def countCrc (src : Option Nat) (s : State) : State :=
  match src with
  | some l => putLink s l (linkCount l 2 1 (getLink s l))
  | none => s

/-- A control packet at a router (R219, R221, R227 to R229). -/
def ctrlAtRouter (die : Nat) (chk : Chk) (p : RoutedCtrl) (s : State) : State :=
  if (ctrlCrc p.pkt).toNat ≠ field p.pkt.hdr 31 0 then countCrc p.src s
  else if !ctrlHeaderOk p.pkt then routerCount s die 4 1
  else if oneHop p then
    if ctrlType p.pkt = 8 ∨ s.fab.hasId then toCtrlBox die p s else routerCount s die 3 1
  else if ownUpdate s die p then arriveCtrl die p (readPiste die (ctrlDest p.pkt) chk s)
  else routeCtrl die chk p s

/-- The output queue that a control packet needs is full: the input holds it (R238). -/
def ctrlHeld (s : State) (die : Nat) (p : RoutedCtrl) : Bool :=
  !oneHop p && (match route s die (ctrlDest p.pkt) (ctrlEpoch p.pkt) (ctrlHops p.pkt) with
    | .send dir =>
      (match (portOfDir s dir).bind (fun port => chooseLink s port die) with
       | some l => decide (64 ≤ (if bit p.pkt.hdr 83 then (getLink s l).outGlide.length else (getLink s l).outCtrl.length))
       | none => false)
    | _ => false)

/-- The first packet that may go: not held, and behind no packet of its input and virtual channel. -/
def nextCtrl (s : State) (die : Nat) (ps : List RoutedCtrl) : Option (Nat × RoutedCtrl) :=
  (List.range ps.length).findSome? (fun i =>
    match ps[i]? with
    | none => none
    | some p =>
      let behind := (ps.take i).any (fun q => decide (q.src = p.src) && (bit q.pkt.hdr 83 == bit p.pkt.hdr 83))
      if behind || ctrlHeld s die p then none else some (i, p))

def execControlPacketRoute (die : Nat) (chk : Chk) (s : State) : Result :=
  whenUnit (dieOk die) <|
    let r := getRouter s die
    match nextCtrl s die r.ctrlIn with
    | some (i, p) => ctrlAtRouter die chk p (putRouter s die { r with ctrlIn := dropAt r.ctrlIn i })
    | none => s

/-! ### Data packets -/

/-- TYPE, region, BYTES and MCAST are as R224 asks. -/
def dataHeaderOk (p : DataPkt) : Bool :=
  let t := pktType p
  decide (1 ≤ t ∧ t ≤ 3) && decide (field p.hdr 80 79 ≠ 3) && decide (1 ≤ dataBytes p ∧ dataBytes p ≤ 4096)
    && (!pktMcast p || decide (t = 1))

def pktHops (p : DataPkt) : Nat := field p.hdr 215 209
def pktTable (p : DataPkt) : Nat := field p.hdr 223 216

/-- The combining table entry of a tag: FIRST_SLOT, SLOTS, EXPECT (R263). -/
def combineEntry (r : Router) (tag : Nat) : Option (BitVec 64) :=
  r.combine.find? (fun e => decide (field e 63 48 = tag) && decide (field e 39 32 ≠ 0))

/-- A REDUCE packet that this router's combining slots must see first (R264). -/
def wantsSlot (r : Router) (p : RoutedData) : Bool :=
  !p.passed && !p.pkt.bad && decide (pktType p.pkt = 2) && !pktMcast p.pkt && dataHeaderOk p.pkt
    && decide ((dataCrc p.pkt).toNat = field p.pkt.hdr 31 0) && (combineEntry r (pktTag p.pkt)).isSome

/-- The links of a port that hold a non-empty entry for a transfer covering the current window; whether an entry lies ahead (R234). -/
def pacedLinks (s : State) (port xfer : Nat) : List Nat :=
  match s.fab.window with
  | none => []
  | some w => (portLinks s port).filter (fun l =>
      (getLink s l).sched.any (fun e => decide (schedXfer e.e = xfer) && decide (schedWins e.e ≠ 0) && schedActive e.e w))
def pacedAhead (s : State) (port xfer : Nat) : Bool :=
  (portLinks s port).any (fun l => (getLink s l).sched.any (fun e =>
    decide (schedXfer e.e = xfer) && (match s.fab.window with
      | none => decide (schedWins e.e ≠ 0) && decide (schedPer e.e ≠ 0) && s.run.phase == .inStep
      | some w => schedAhead e.e w)))

/-- The link of a packet out of a port, and whether it goes as injected: none when it must wait (R214, R234, R235). -/
inductive Lane where
  | wait
  | down
  | at_ (l : Nat) (injected late : Bool)
deriving DecidableEq, Repr

def laneOf (s : State) (die port : Nat) (p : RoutedData) : Lane :=
  if activeLinks s port = [] then .down
  else
    let forward (late : Bool) : Lane := match chooseLink s port die with
      | some l => .at_ l false late
      | none => .down
    if p.src.isSome ∨ p.passed ∨ pktXfer p.pkt = 0xFFFF then forward p.late
    else
      let x := pktXfer p.pkt
      match pacedLinks s port x with
      | [] => if pacedAhead s port x then .wait else forward true
      | ls =>
        let l := ls.getD (mget 0 s.fab.injected (65536 * port + x) % ls.length) 0
        if (getLink s l).active then .at_ l true false
        else
          match chooseLink s port die with
          | some m => .at_ m true false
          | none => .down

/-- An output data queue from which an input holds its next packet (R238). -/
def laneFull (s : State) : Lane → Bool
  | .wait => true
  | .down => false
  | .at_ l _ _ => decide (3072 ≤ queueCells (getLink s l))

/-- A packet that this module injected is discarded here: its descriptor's bytes are never delivered (R156). -/
def dropOwn (p : RoutedData) (s : State) : State := discardOwned p.owner (dataBytes p.pkt) s

/-- A copy of a packet goes out of a port. -/
def sendOut (die dir : Nat) (p : RoutedData) (s : State) : State :=
  match portOfDir s dir with
  | none => dropOwn p (dropData die p.pkt s)
  | some port =>
    match laneOf s die port p with
    | .at_ l injected late =>
      let s := if injected then
          let key := 65536 * port + pktXfer p.pkt
          { s with fab := { s.fab with injected := mset s.fab.injected key (mget 0 s.fab.injected key + 1) } }
        else s
      pushData l ⟨p.pkt, injected, late, p.owner⟩ s
    | _ => dropOwn p (dropData die p.pkt s)

/-- A packet leaves the input buffer it came in (R238). -/
def leaveInput (p : RoutedData) (s : State) : State :=
  match p.src with
  | some l => putLink s l { getLink s l with inCells := (getLink s l).inCells - dataCells p.pkt }
  | none => s

/-- The die that holds an address of the data header. -/
def dieOfAddr (s : State) (a : Nat) : Nat :=
  match placeOf a 1 with
  | .spm die _ _ => die
  | _ => dieOfStore s.mem a

/-- The step fault of a packet that cannot be trusted at its destination (R228). -/
def badPacket (src : Option Nat) (die : Nat) (s : State) : State :=
  stepFault { cls := 6, action := 2, unitType := if src.isSome then 3 else 4, unitIndex := src.getD die, die := die
              history := historyCount s (match src with
                | some l => .link l
                | none => .die die) } s

/-- A packet whose route ends here (R217, R228). -/
def deliverData (die : Nat) (p : RoutedData) (accepted : Bool) (s : State) : State :=
  if !accepted then dropOwn p (routerCount s die 3 1)
  else if p.pkt.bad then dropOwn p (badPacket p.src die s)
  else
    let target := dieOfAddr s (pktAddr p.pkt)
    let r := getRouter s target
    putRouter s target { r with dataBox := r.dataBox ++ [p.pkt] }

/-- The CRC of a packet at a router: a failure is counted once and marks the packet (R227). -/
def checkData (p : RoutedData) (s : State) : RoutedData × State :=
  if p.pkt.bad || decide ((dataCrc p.pkt).toNat = field p.pkt.hdr 31 0) then (p, s)
  else ({ p with pkt := { p.pkt with bad := true } }, countCrc p.src s)

/-- A unicast data packet at a router (R224, R227 to R229). -/
def dataAtRouter (die : Nat) (chk : Chk) (p : RoutedData) (s : State) : State :=
  if !dataHeaderOk p.pkt then dropOwn p (routerCount s die 4 1)
  else
    let (p, s) := checkData p s
    let d := pktDest p.pkt
    let s := readPiste die d chk s
    match route s die d (pktTable p.pkt) (pktHops p.pkt) with
    | .noroute => dropOwn p (routerCount s die 0 1)
    | .epoch => dropOwn p (routerCount s die 1 1)
    | .hops => dropOwn p (routerCount s die 2 1)
    | .deliver => deliverData die p (acceptsId s d) s
    | .send dir => sendOut die dir { p with pkt := { p.pkt with hdr := setField p.pkt.hdr 215 209 (pktHops p.pkt + 1) } } s

/-! ### Multicast (R230) -/

/-- Bits of a mask on an axis, and whether one selects a coordinate. -/
def maskBit (p : DataPkt) (a x : Nat) : Bool := if a = 0 then bit p.hdr (192 + x) else if a = 1 then decide (x < 32) && bit p.hdr (160 + x) else decide (x < 32) && bit p.hdr (128 + x)
/-- A selected coordinate lies beyond this router in a direction. -/
def further (s : State) (p : DataPkt) (a : Nat) (neg : Bool) : Bool :=
  (List.range 64).any (fun x => maskBit p a x && (if neg then decide (x < ownCoord s a) else decide (ownCoord s a < x)))

/-- Directions in which copies leave, and whether one is delivered, from axis `a` on. -/
def mcastBegin (s : State) (p : DataPkt) : (axes : List Nat) → List Nat × Bool
  | [] => ([], true)
  | a :: rest =>
    let outs := (if further s p a false then [2 * a] else []) ++ (if further s p a true then [2 * a + 1] else [])
    if maskBit p a (ownCoord s a) then
      let (more, here) := mcastBegin s p rest
      (outs ++ more, here)
    else (outs, false)

/-- A copy that arrives travelling along an axis in a direction. -/
def mcastArrive (s : State) (p : DataPkt) (a : Nat) (neg : Bool) : List Nat × Bool :=
  let outs := if further s p a neg then [2 * a + (if neg then 1 else 0)] else []
  if maskBit p a (ownCoord s a) then
    let (more, here) := mcastBegin s p ([0, 1, 2].filter (fun b => decide (a < b)))
    (outs ++ more, here)
  else (outs, false)

/-- The copies of a packet: a link of a port with DIR d brings packets that travel the other way. -/
def mcastCopies (s : State) (p : RoutedData) : List Nat × Bool :=
  match p.src with
  | none => mcastBegin s p.pkt [0, 1, 2]
  | some l =>
    match portOfLink s l with
    | none => ([], false)
    | some port => mcastArrive s p.pkt (portDir s port / 2) (decide (portDir s port % 2 = 0))

/-- A multicast packet at a router (R217, R224, R227, R228, R230). -/
def mcastAtRouter (die : Nat) (p : RoutedData) (s : State) : State :=
  if !dataHeaderOk p.pkt then routerCount s die 4 1
  else
    let (p, s) := checkData p s
    let (dirs, here) := mcastCopies s p
    let s := dirs.foldl (fun s dir => sendOut die dir p s) s
    if here then deliverData die p s.fab.hasId s else s

/-! ### The next data packet -/

/-- The lanes that a packet needs. -/
def lanesOf (s : State) (die : Nat) (p : RoutedData) : List Lane :=
  let dirs := if !dataHeaderOk p.pkt then []
    else if pktMcast p.pkt then (mcastCopies s p).1
    else match route s die (pktDest p.pkt) (pktTable p.pkt) (pktHops p.pkt) with
      | .send dir => [dir]
      | _ => []
  dirs.filterMap (fun dir => (portOfDir s dir).map (fun port => laneOf s die port p))

/-- A link that the packet needs holds it, or its schedule entry lies ahead. -/
def dataHeld (s : State) (die : Nat) (p : RoutedData) : Bool := (lanesOf s die p).any (laneFull s)

/-- A packet is the next one of its input: no other of its input and owner is before it. -/
def isNext (r : Router) (i : Nat) (p : RoutedData) : Bool :=
  !(r.dataIn.take i).any (fun q => decide (q.src = p.src) && decide (q.owner = p.owner) && !wantsSlot r q)

/-- An input of a router holds its next packet because of the fill of this link's queue (R238). -/
def heldFor (s : State) (l : Nat) : Bool :=
  (List.range Config.dies).any (fun die =>
    let r := getRouter s die
    (r.dataIn.zipIdx).any (fun (p, i) => isNext r i p && (lanesOf s die p).any (fun x =>
      match x with
      | .at_ m _ _ => decide (m = l) && laneFull s x
      | _ => false)))

/-- A link in a port that has not failed sends a frame (R205, R208, R210; log 41). -/
def execFrameTransmit (l : Nat) (s : State) : Result :=
  whenUnit (linkOk l) <|
    match (getLink s l).state with
    | .disabled => s
    | .failed => s
    | _ => frameOut l (heldFor s l) s

/-- The first packet of a form that may go: not held, and behind no packet of its input. -/
def nextRouted (s : State) (die : Nat) (mcast : Bool) : Option (Nat × RoutedData) :=
  let ps := (getRouter s die).dataIn
  (List.range ps.length).findSome? (fun i =>
    match ps[i]? with
    | none => none
    | some p =>
      if pktMcast p.pkt ≠ mcast ∨ isNext (getRouter s die) i p = false ∨ wantsSlot (getRouter s die) p ∨ dataHeld s die p then none else some (i, p))

/-- A router takes a packet out of its input. -/
def takeRouted (die i : Nat) (p : RoutedData) (s : State) : State :=
  let r := getRouter s die
  leaveInput p (putRouter s die { r with dataIn := dropAt r.dataIn i })

def execDataPacketRoute (die : Nat) (chk : Chk) (s : State) : Result :=
  whenUnit (dieOk die) <|
    match nextRouted s die false with
    | some (i, p) => dataAtRouter die chk p (takeRouted die i p s)
    | none => s

def execMulticastForward (die : Nat) (s : State) : Result :=
  whenUnit (dieOk die) <|
    match nextRouted s die true with
    | some (i, p) => mcastAtRouter die p (takeRouted die i p s)
    | none => s

end Sys2Proof.Machine
end

