-- ==== Sys2Proof/Machine/Packets.lean ====
section
/-! DEFINITION. What packets do at this module: WRITE (R223, R76), REDUCE and the combining slots (R257 to R264), CHAIN (R111 to R117, R260), FINAL_WRITE (R222), COLL_CTRL (R254 to R256, R266), PISTE_UPDATE and PISTE_FAULT (R219), UNREACHABLE (R231). -/
namespace Sys2Proof.Machine

/-- The oldest data packet of a type in a router's box that passes a test is taken. -/
def takeData (s : State) (die typ : Nat) (p : DataPkt → Bool) : Option (DataPkt × State) :=
  let r := getRouter s die
  (findAt (fun x => decide (pktType x = typ) && p x) r.dataBox).map (fun (i, x) => (x, putRouter s die { r with dataBox := dropAt r.dataBox i }))

/-! ### Counting for final writes and DONEs (R222, R256) -/

def xferCount (s : State) (x : Nat) : Nat := (mget 0 s.fab.xfer x).toNat
def setXfer (s : State) (x n : Nat) : State := { s with fab := { s.fab with xfer := mset s.fab.xfer x (BitVec.ofNat 20 n) } }

/-- DONEs of an operation are released while the count of its XFER + 1 suffices. -/
def releaseDones (c : CoreRef) (seq x : Nat) : List Nat → State → State
  | [], s => s
  | n :: rest, s =>
    if n ≤ xferCount s x then
      releaseDones c seq x rest (setEntry c seq (fun e => { e with dones := rest, released := e.released + 1 }) (setXfer s x (xferCount s x - n)))
    else s

/-- The DONEs of every core of the module whose operation counts a transfer. -/
def settleDones (x : Nat) (s : State) : State :=
  s.cores.foldl (fun s (key, k) =>
    k.colQueue.foldl (fun s (e : ColEntry) =>
      match e.kind with
      | .bulk d _ => if (colXfer d + 1) % 2 ^ 16 = x ∧ e.dones ≠ [] then releaseDones ⟨key / 256, key % 256⟩ e.seq x e.dones s else s
      | _ => s) s) s

/-- One packet of a transfer has landed or has been dropped under R76. -/
def countXfer (x : Nat) (s : State) : State := settleDones x (setXfer s x (xferCount s x + 1))

/-! ### WRITE -/

/-- A WRITE packet is written or dropped, and counted; one with a parity miss is discarded and not counted (R76, R191, R222, R223; log 42). -/
def writeData (chk : Chk) (p : DataPkt) (s : State) : State :=
  let a := pktAddr p
  let bs := pktBytes p
  let x := pktXfer p
  let arrive (at_ : Nat) (k : State → State) : State :=
    if parityMiss chk at_ bs.length then landFrom chk at_ bs s else countXfer x (k s)
  match placeOf a bs.length with
  | .spm d core off => arrive (ownSpm s ⟨d, core⟩ off) (windowWrite chk ⟨d, core⟩ off (BitVec.ofNat 16 (pktEpoch p)) bs)
  | .tier1 => arrive a (landFrom chk a bs)
  | .tier2 => arrive a (landFrom chk a bs)
  | _ => countXfer x s

def execWritePacket (die : Nat) (chk : Chk) (s : State) : Result :=
  whenUnit (dieOk die) <|
    match takeData s die 1 (fun _ => true) with
    | some (p, s) => writeData chk p s
    | none => s

/-! ### FINAL_WRITE (R222) -/

def fwCount (p : CtrlPkt) : Nat := field p.payload 127 108
def fwAddr (p : CtrlPkt) : Nat := field p.payload 107 64
def fwVal (p : CtrlPkt) : Nat := field p.payload 63 0

/-- A final write is released: the count, the epoch, the flag. -/
def releaseFinal (chk : Chk) (p : CtrlPkt) (s : State) : State :=
  let x := ctrlTag p
  let s := setXfer s x (xferCount s x - fwCount p)
  let a := fwAddr p
  let s := if a / 2 ^ 42 = 3 then s
    else match placeOf a 8 with
      | .spm d core off => windowWrite chk ⟨d, core⟩ off (BitVec.ofNat 16 (ctrlExp p)) (toLE 8 (fwVal p)) s
      | .tier1 => landFrom chk a (toLE 8 (fwVal p)) s
      | .tier2 => landFrom chk a (toLE 8 (fwVal p)) s
      | _ => s
  settleDones x s

def execFinalWrite (die : Nat) (chk : Chk) (s : State) : Result :=
  whenUnit (dieOk die) <|
    match takeCtrl s die 1 with
    | some (p, s) =>
      if fwCount p.pkt = 0 then releaseFinal chk p.pkt s
      else { s with fab := { s.fab with held := s.fab.held ++ [p.pkt] } }
    | none => s

/-- The `i`-th final write held is released once its count is reached. -/
def execFinalWriteRelease (i : Nat) (chk : Chk) (s : State) : Result :=
  .next <|
    match s.fab.held[i]? with
    | some p =>
      if fwCount p ≤ xferCount s (ctrlTag p) then releaseFinal chk p { s with fab := { s.fab with held := dropAt s.fab.held i } } else s
    | none => s

/-! ### REDUCE: combining slots (R257, R264) -/

def redContrib (bs : List Byte) : Nat := field (BitVec.ofNat 128 (ofLE (bs.take 16))) 127 104
def redChunk (bs : List Byte) : Nat := field (BitVec.ofNat 128 (ofLE (bs.take 16))) 103 72

/-- The collective with a TAG, as far as its REDUCE elements need it: the one that this module has started, else the image's own, which the image's members name in descriptors that this module never sees (log 43). -/
def reduceOp (s : State) (tag : Nat) : BitVec 512 := (mfind s.grp.tagOps tag).getD (Config.tagOp s.run.imageHash tag)

/-- Elements of two REDUCE payloads combined (R257). -/
def combineBytes (d : BitVec 512) (a b : List Byte) : List Byte :=
  if colOp d = 7 then normCombine a b
  else ((wordsOf a).zip (wordsOf b)).flatMap (fun (x, y) => toLE 8 (combineElem d x y))

/-- A slot sends its combined packet toward the destination and becomes free. -/
def releaseSlot (die n : Nat) (x : Slot) (late : Bool) (s : State) : State :=
  let r := getRouter s die
  let p := sealData x.hdr (reducePrefix x.contrib x.chunk ++ x.payload)
  putRouter s die { r with slots := mdel r.slots n, dataIn := r.dataIn ++ [{ src := none, pkt := p, owner := none, passed := true, late := late }] }

/-- A slot takes a value, and releases when its CONTRIB has reached EXPECT. -/
def putSlot (die n : Nat) (x : Slot) (expect : Nat) (s : State) : State :=
  if expect ≤ x.contrib then releaseSlot die n x false s
  else
    let r := getRouter s die
    putRouter s die { r with slots := mset r.slots n x }

/-- A REDUCE packet at the combining slots of a router (R264). -/
def slotPacket (die : Nat) (p : RoutedData) (e : BitVec 64) (s : State) : State :=
  let bs := pktBytes p.pkt
  let tag := pktTag p.pkt
  let chunk := redChunk bs
  let n := field e 47 40 + chunk % field e 39 32
  let expect := field e 31 8
  match mfind (getRouter s die).slots n with
  | none => putSlot die n ⟨BitVec.ofNat 16 tag, chunk, redContrib bs, p.pkt.hdr, bs.drop 16, s.clk.tick⟩ expect s
  | some x =>
    if x.tag.toNat = tag ∧ x.chunk = chunk then
      putSlot die n { x with contrib := x.contrib + redContrib bs, payload := combineBytes (reduceOp s tag) x.payload (bs.drop 16), at_ := s.clk.tick } expect s
    else
      let s := collCount s die 0 1
      let r := getRouter s die
      putRouter s die { r with dataIn := r.dataIn ++ [{ p with src := none, owner := none, passed := true, late := true }] }

/-! ### REDUCE at the finishing member (R256 to R259, R264) -/

/-- The core that finishes chunks at an address under a tag: its operation and the count of its chunks. -/
def finisher (s : State) (tag a : Nat) : Option (CoreRef × ColEntry × BitVec 512) :=
  s.cores.findSome? (fun (key, k) =>
    let c : CoreRef := ⟨key / 256, key % 256⟩
    k.colQueue.findSome? (fun e =>
      match e.kind, e.phase with
      | _, .queued => none
      | .bulk d _, _ =>
        let mine := match colOp d with
          | 3 => true
          | 1 => decide (rankOf s c e.handle = some (colRoot d))
          | 7 => decide (rankOf s c e.handle = some (colRoot d))
          | _ => false
        if mine && decide (colTag d = tag) && decide (redirect (colWork d) c.die c.core = a) then some (c, e, d) else none
      | _, _ => none))

/-- The block that a finishing member completes: first place and elements. -/
def finishSpan (s : State) (c : CoreRef) (e : ColEntry) (d : BitVec 512) : Nat × Nat :=
  if colOp d = 3 then
    let g := groupSize s e.handle
    let r := (rankOf s c e.handle).getD 0
    (blockStart d g r, blockCount d g r)
  else (0, colCount d)

/-- Every chunk is complete: the elements are read from the finishing area, converted and written or sent (R192, R256, R258, R259, R452). -/
def finishReduce (chk : Chk) (c : CoreRef) (e : ColEntry) (d : BitVec 512) (s : State) : State :=
  let work := redirect (colWork d) c.die c.core
  let bytes := if colOp d = 7 then 96 else 8 * (finishSpan s c e d).2
  match checkRead chk 3 c.die ((toStore s.map work bytes).map (fun a => (a, bytes))).toList s with
  | (s, some bad) => colTrap c e bad s
  | (s, none) =>
    if colOp d = 7 then
      let (v, f, n) := normParts (sourceBytes s work 96)
      sendResult c e d (colDst d) (normRecord v f n) s
    else
      let bs := packElems (colOutFmt d) ((wordsOf (sourceBytes s work bytes)).map (finishElem d))
      if colOp d = 3 then writeOwn chk c e (colDst d) bs s else sendResult c e d (colDst d) bs s

/-- A REDUCE packet is added into WORK_ADDR; its chunk is complete when the contributions total G; a parity miss of the write discards the packet (R191, R264). -/
def addChunk (chk : Chk) (c : CoreRef) (e : ColEntry) (d : BitVec 512) (bs : List Byte) (s : State) : State :=
  let chunk := redChunk bs
  let had := mget 0 e.contrib chunk
  let new := bs.drop 16
  let a := redirect (colWork d) c.die c.core + 8 * 510 * chunk
  match toStore s.map a new.length with
  | none => s
  | some at_ =>
    match checkRead chk 3 c.die (if had = 0 then [] else [(at_, new.length)]) s with
    | (s, some bad) => colTrap c e bad s
    | (s, none) =>
      let sum := if had = 0 then new else combineBytes d (sourceBytes s a new.length) new
      let s' := landFrom chk at_ sum s
      if parityMiss chk at_ new.length then s'
      else
        let s := s'
        let total := had + redContrib bs
        let full := decide (total = groupSize s e.handle)
        let s := setEntry c e.seq (fun e => { e with contrib := mset e.contrib chunk total, finished := if full then e.finished + 1 else e.finished }) s
        let chunks := if colOp d = 7 then 1 else ceilDiv (finishSpan s c e d).2 510
        if full ∧ e.finished + 1 = chunks then finishReduce chk c e d s else s

/-- A packet whose operation no core of this module holds (R270). -/
def strayPacket (die : Nat) (s : State) : State :=
  stepFault { cls := 6, action := 2, unitType := 4, unitIndex := die, die := die, history := historyCount s (.die die) } (routerCount s die 3 1)

/-- A REDUCE packet whose route ends here: the epoch of the window that it addresses is checked first, then the operation is looked for (R76, R228, R264, R270). -/
def finishPacket (die : Nat) (chk : Chk) (p : DataPkt) (s : State) : State :=
  let a := pktAddr p
  let go (s : State) : State :=
    match finisher s (pktTag p) a with
    | none => strayPacket die s
    | some (c, e, d) =>
      match e.phase with
      | .ended _ => s
      | _ => addChunk chk c e d (pktBytes p) s
  match placeOf a 1 with
  | .spm d core off =>
    let c : CoreRef := ⟨d, core⟩
    let s := voteWindow c (windowOf off) s
    let delta := epochDelta (BitVec.ofNat 16 (pktEpoch p)) (windowEpoch s c (windowOf off))
    if delta ≠ 0 then countDrop s c delta else go s
  | _ => go s

/-- The oldest REDUCE packet that waits on a die: one whose route ends here, else one that a combining slot must see. -/
def execReducePacket (die : Nat) (chk : Chk) (s : State) : Result :=
  whenUnit (dieOk die) <|
    match takeData s die 2 (fun _ => true) with
    | some (p, s) => finishPacket die chk p s
    | none =>
      let r := getRouter s die
      match findAt (wantsSlot r) r.dataIn with
      | none => s
      | some (i, p) =>
        match combineEntry r (pktTag p.pkt) with
        | some e => slotPacket die p e (takeRouted die i p s)
        | none => s

/-- A slot is flushed 1 µs after its last arrival (R264). -/
def execCombiningSlotFlush (die slot : Nat) (s : State) : Result :=
  whenUnit (dieOk die && slotOk slot) <|
    match mfind (getRouter s die).slots slot with
    | some x => if x.at_ + usTicks 1 ≤ s.clk.tick then releaseSlot die slot x true (collCount s die 1 1) else s
    | none => s

/-! ### CHAIN (R111 to R117, R260) -/

/-- The chained operation of a core with a tag. -/
def chainOp (s : State) (c : CoreRef) (tag : Nat) : Option (ColEntry × BitVec 512) :=
  (getCore s c).colQueue.findSome? (fun e =>
    match e.kind with
    | .bulk d _ => if colChained d ∧ colTag d = tag then some (e, d) else none
    | _ => none)

/-- The core that a CHAIN packet is addressed to (log 38). -/
def chainCore (p : DataPkt) : Option CoreRef :=
  match placeOf (pktAddr p) 1 with
  | .spm die core _ => some ⟨die, core⟩
  | _ => none

/-- A CHAIN packet may be acted on: its operation is in its data phase and may read its rows (R112), or it is to be discarded. -/
def chainReady (s : State) (p : DataPkt) : Bool :=
  match chainCore p with
  | none => true
  | some c =>
    match chainOp s c (pktTag p) with
    | none => true
    | some (e, d) =>
      match e.phase with
      | .data => !colIsAcs d || chainFree (getCore s c) e d
      | .ended _ => true
      | _ => false

/-- Elements that end on this engine: into its ACS entries, as received, or as output codes by place, combined (R111, R114, R116, R260). -/
def chainEnd (c : CoreRef) (e : ColEntry) (d : BitVec 512) (a : Nat) (ys : List ChainVal) (s : State) : State :=
  let places := ys.zipIdx.map (fun (y, j) => (a + j, y))
  if colIsAcs d then
    let k := getCore s c
    let acs := places.foldl (fun acs (i, y) => mset acs (chainKey d i) (chainStore s c d i y)) k.mxa.acs
    putCore s c { k with mxa := { k.mxa with acs := acs } }
  else setEntry c e.seq (fun e => { e with contrib := places.foldl (fun m (i, y) => mset m i (chainOut d y)) e.contrib }) s

/-- The last rank has every element: the result goes out, or the block is written (R256, R260). -/
def chainFinish (chk : Chk) (c : CoreRef) (e : ColEntry) (d : BitVec 512) (s : State) : State :=
  match getEntry s c e.seq with
  | none => s
  | some e =>
    let bs := packElems (colOutFmt d) (e.contrib.map (fun x => x.2))
    if colOp d = 2 then sendResult c e d (colDst d) bs s
    else if colOp d = 4 then writeOwn chk c e (colDst d) bs s
    else s

/-- One payload of a chain: combined with this engine's elements, then sent on or ended here (R111, R192, R260). -/
def chainStep (chk : Chk) (c : CoreRef) (e : ColEntry) (d : BitVec 512) (bs : List Byte) (s : State) : State :=
  let g := groupSize s e.handle
  match rankOf s c e.handle with
  | none => s
  | some q =>
    match chainNext (chainPer d) e.finished (chainIn d g q) with
    | none => s
    | some (a, n, last) =>
      let go (s : State) : State :=
        let xs := chainElems (colExact d) n bs
        let ys := if last && colIsAcs d then xs else xs.zipIdx.map (fun (x, j) => chainCombine s c d (a + j) x)
        let s := setEntry c e.seq (fun e => { e with finished := e.finished + n }) s
        let s := if last then chainEnd c e d a ys s else sendChain c e d q ys s
        if last ∧ e.finished + n = chainInTotal d g q then chainFinish chk c e d s else s
      if colIsAcs d then readEntries chk c e (chainKeys d a n) go s
      else
        match checkRead chk 3 c.die (colRangeAt s d a n) s with
        | (s, some bad) => colTrap c e bad s
        | (s, none) => go s

/-- A CHAIN packet at its core (R76, R111). -/
def chainPacket (die : Nat) (chk : Chk) (p : DataPkt) (s : State) : State :=
  match chainCore p with
  | none => strayPacket die s
  | some c =>
    let s := voteEpoch c s
    let delta := epochDelta (BitVec.ofNat 16 (pktEpoch p)) (getCore s c).epoch.value
    if delta ≠ 0 then countDrop s c delta
    else
      match chainOp s c (pktTag p) with
      | none => strayPacket die s
      | some (e, d) =>
        match e.phase with
        | .data => chainStep chk c e d (pktBytes p) s
        | _ => s

def execChainPacket (die : Nat) (chk : Chk) (s : State) : Result :=
  whenUnit (dieOk die) <|
    match takeData s die 3 (chainReady s) with
    | some (p, s) => chainPacket die chk p s
    | none => s

/-! ### COLL_CTRL (R254 to R256, R266) -/

def collKind (p : CtrlPkt) : Nat := field p.payload 127 120
def collEpoch (p : CtrlPkt) : Nat := field p.payload 119 104
def collTag (p : CtrlPkt) : Nat := field p.payload 103 88
def collReason (p : CtrlPkt) : Nat := field p.payload 87 84
def collCountOf (p : CtrlPkt) : Nat := field p.payload 83 64
def collValue (p : CtrlPkt) : Nat := field p.payload 63 0

/-- The oldest COLL_CTRL packet of a kind is taken. -/
def takeColl (s : State) (die kind : Nat) : Option (RoutedCtrl × State) :=
  let r := getRouter s die
  (findAt (fun p => decide (ctrlType p.pkt = 4) && decide (collKind p.pkt = kind)) r.ctrlBox).map
    (fun (i, p) => (p, putRouter s die { r with ctrlBox := dropAt r.ctrlBox i }))

/-- The core that a packet is addressed to, once its core epoch and its group epoch have been checked (R76, R267). -/
def collTarget (die : Nat) (p : CtrlPkt) (s : State) : Option CoreRef × State :=
  let c : CoreRef := ⟨ctrlDie p, ctrlCore p⟩
  if !c.wf then (none, s)
  else
    let s := voteEpoch c s
    let delta := epochDelta (BitVec.ofNat 16 (ctrlExp p)) (getCore s c).epoch.value
    if delta ≠ 0 then (none, countDrop s c delta)
    else if collEpoch p ≠ (groupEpoch s (ctrlTag p)).toNat then (none, collCount s die 3 1)
    else (some c, s)

/-- The operation of a core with a handle and a tag that has not ended, in a phase that passes a test. -/
def colFor (s : State) (c : CoreRef) (h tag : Nat) (f : ColEntry → Bool) : Option ColEntry :=
  (getCore s c).colQueue.find? (fun e =>
    match e.kind with
    | .bulk d _ => decide (e.handle = h) && decide (colTag d = tag) && f e
    | _ => false)

/-- A predecessor's signature (R254); one that comes before its operation has begun is kept. -/
def execCollCtrlSig (die : Nat) (s : State) : Result :=
  whenUnit (dieOk die) <|
    match takeColl s die 1 with
    | none => s
    | some (p, s) =>
      match collTarget die p.pkt s with
      | (none, s) => s
      | (some c, s) =>
        let h := ctrlTag p.pkt
        match colFor s c h (collTag p.pkt) (fun e => decide (e.phase = .signature) && !e.sigSeen) with
        | some e => takeSignature c e (collValue p.pkt) s
        | none =>
          let k := getCore s c
          putCore s c { k with sigNotes := k.sigNotes ++
            [⟨h, BitVec.ofNat 16 (collEpoch p.pkt), BitVec.ofNat 16 (collTag p.pkt), BitVec.ofNat 64 (collValue p.pkt)⟩] }

/-- A DONE is held until the count of XFER + 1 suffices (R256). -/
def execCollCtrlDone (die : Nat) (s : State) : Result :=
  whenUnit (dieOk die) <|
    match takeColl s die 3 with
    | none => s
    | some (p, s) =>
      match collTarget die p.pkt s with
      | (none, s) => s
      | (some c, s) =>
        match colFor s c (ctrlTag p.pkt) (collTag p.pkt) (fun e => decide (e.phase = .arrived ∨ e.phase = .data)) with
        | none => s
        | some e =>
          let s := setEntry c e.seq (fun e => { e with dones := e.dones ++ [collCountOf p.pkt] }) s
          match e.kind with
          | .bulk d _ => settleDones ((colXfer d + 1) % 2 ^ 16) s
          | _ => s

/-- A start or a run ends in STOPPED with a status (R278). -/
def stopRun (status : BitVec 8) (s : State) : State := enterStopped { s with run := { s.run with status := status } }

/-- The loss of a member of the lift's group: a running member enters FAILED, an opening lift ends (R280, R308; log 44). -/
def groupLost (s : State) : State :=
  if s.run.state = 2 ∨ s.run.state = 3 then failRun 0x12 s
  else if s.run.state = 1 ∧ (s.run.phase = .openMax ∨ s.run.phase = .openMin) then stopRun 0x0C s
  else s

/-- FAILED_MEMBER at this module: every operation of the group's epoch ends, and every later one will (R266). -/
def failGroup (h : Nat) (s : State) : State :=
  let s := voteMaster s
  let s := { s with grp := { s.grp with failedEpoch := mset s.grp.failedEpoch h (groupEpoch s h) } }
  let s := s.cores.foldl (fun s (key, k) =>
    let c : CoreRef := ⟨key / 256, key % 256⟩
    k.colQueue.foldl (fun s (e : ColEntry) =>
      if e.handle ≠ h then s
      else match e.kind with
        | .bulk _ _ => endEntry c e.seq 2 (undefChain c e 2 s)
        | _ => wakeGlide c e 2 0 s) s) s
  -- what this module has collected of the epoch's operation waits for nothing more: its root has the abort too (R266, R267)
  let s := if isMaster s then s else { s with grp := { s.grp with
    glideOps := mdel s.grp.glideOps h, releases := s.grp.releases.filter (fun r => decide (r.handle ≠ h)) } }
  if h = stepGroup s then groupLost s else s

/-- MEMBER_STOPPED for the current step: the module stops as for its own step fault, without an ABORT of its own (R290). -/
def stopForMember (s : State) : State :=
  if s.run.phase = .inStep ∧ (s.run.faulted = false ∨ s.run.carried) then
    settleLost (haltAll { s with run := { s.run with faulted := true, carried := false } })
  else s

/-- An ABORT (R266, R267, R290). -/
def abortPacket (die : Nat) (p : CtrlPkt) (s : State) : State :=
  let h := ctrlTag p
  if collEpoch p ≠ (groupEpoch s h).toNat then collCount s die 3 1
  else if collReason p = 2 then failGroup h (collCount s die 5 1)
  else if collReason p = 3 then
    let s := voteMaster (voteCommit (collCount s die 5 1))
    if collValue p = s.run.commit.value.toNat then
      let s := if isMaster s then relayAbort 3 (ctrlSrc p) h s else s
      stopForMember s
    else s
  else collCount s die 5 1

def execCollCtrlAbort (die : Nat) (s : State) : Result :=
  whenUnit (dieOk die) <|
    match takeColl s die 2 with
    | some (p, s) => abortPacket die p.pkt s
    | none => s

/-! ### PISTE_UPDATE and PISTE_FAULT (R219) -/

/-- The oldest PISTE_UPDATE with an operation is taken. -/
def takePiste (s : State) (die op : Nat) : Option (RoutedCtrl × State) :=
  let r := getRouter s die
  (findAt (fun p => decide (ctrlType p.pkt = 7) && decide (pisteOp p.pkt = op)) r.ctrlBox).map
    (fun (i, p) => (p, putRouter s die { r with ctrlBox := dropAt r.ctrlBox i }))

/-- A PISTE_UPDATE takes effect only from the slice master. -/
def masterOnly (die : Nat) (p : CtrlPkt) (f : State → State) (s : State) : State :=
  let s := voteMaster s
  if ctrlSrc p = (masterEp s).toNat then f s else routerCount s die 6 1

def pisteId (p : CtrlPkt) : Nat := field p.payload 127 112
def pisteWord (p : CtrlPkt) : BitVec 32 := BitVec.ofNat 32 (field p.payload 111 80)
def pisteNew (p : CtrlPkt) : BitVec 8 := BitVec.ofNat 8 (field p.payload 79 72)

/-- Both dies' tables take an entry; its reserved bits read as 0 (R218). -/
def writePiste (id : Nat) (e : BitVec 32) (s : State) : State :=
  let e := setField e 30 24 0
  { s with fab := { s.fab with routers := s.fab.routers.map (fun r =>
      { r with piste := mset r.piste id e, pisteBad := r.pisteBad.filter (fun x => decide (x ≠ id)) }) } }

def execPisteUpdateWriteEntry (die : Nat) (s : State) : Result :=
  whenUnit (dieOk die) <|
    match takePiste s die 0 with
    | none => s
    | some (p, s) => masterOnly die p.pkt (fun s =>
        let s := voteTable s
        let e := pisteWord p.pkt
        let t := s.fab.tableEpoch.value
        if field e 23 16 = t.toNat ∨ field e 23 16 = (t + 1).toNat then writePiste (pisteId p.pkt) e s else s) s

def execPisteUpdateSetEpoch (die : Nat) (s : State) : Result :=
  whenUnit (dieOk die) <|
    match takePiste s die 1 with
    | none => s
    | some (p, s) => masterOnly die p.pkt (fun s => { s with fab := { s.fab with tableEpoch := triple (pisteNew p.pkt) } }) s

def execPisteUpdateSetId (die : Nat) (s : State) : Result :=
  whenUnit (dieOk die) <|
    match takePiste s die 2 with
    | none => s
    | some (p, s) => masterOnly die p.pkt (fun s =>
        refreshSource { s with fab := { s.fab with ownId := BitVec.ofNat 16 (pisteId p.pkt), hasId := true } }) s

/-- A PISTE_UPDATE of this module. -/
def sendPiste (dest id op new : Nat) (e : BitVec 32) (s : State) : State :=
  injectCtrl s 0 (mkCtrl s 0 dest 7 false 0 0 0 0 (BitVec.ofNat 128 (id % 2 ^ 16 * 2 ^ 112 + e.toNat * 2 ^ 80 + new % 256 * 2 ^ 72 + op * 2 ^ 64)))

/-- A PISTE_FAULT at the slice master: it rewrites the entry at the current epoch. -/
def execPisteFault (die : Nat) (s : State) : Result :=
  whenUnit (dieOk die) <|
    match takeCtrl s die 0xA with
    | none => s
    | some (p, s) =>
      let id := pisteId p.pkt
      let s := voteTable (voteMaster s)
      if isMaster s then
        sendPiste (ctrlSrc p.pkt) id 0 0 (setField (pisteEntry s die id) 23 16 s.fab.tableEpoch.value.toNat) s
      else s

/-! ### UNREACHABLE (R157, R231, R265) -/

/-- The transfers that a member sends in its operation: XFER and destination (R256, R257, R260). -/
def colSends (s : State) (c : CoreRef) (e : ColEntry) (d : BitVec 512) : List (Nat × Nat) :=
  let h := e.handle
  let g := groupSize s h
  let r := (rankOf s c h).getD 0
  let x := colXfer d
  let ep (q : Nat) : List (Nat × Nat) := ((memberAt s h q).map (fun m => (x, memberEp m))).toList
  let all (x : Nat) : List (Nat × Nat) := (groupEps s h).map (fun m => (x, m))
  let result := all ((x + 1) % 2 ^ 16)
  match colOp d with
  | 1 => ep (colRoot d) ++ (if r = colRoot d then result else [])
  | 2 => if r + 1 = g then result else ep (r + 1)
  | 3 => all x
  | 4 => ep ((r + 1) % g)
  | 5 => result
  | 6 => if r = colRoot d then result else []
  | 7 => ep (colRoot d) ++ (if r = colRoot d then result else [])
  | _ => if r + 1 = g then [] else ep (r + 1)

/-- A REMOTE descriptor that executes ends with LINKFAIL: what waits here is withdrawn, the bytes accepted before the report count. -/
def dmaUnreachable (c : CoreRef) (ch dest x : Nat) (s : State) : State :=
  let k := getChannel s c ch
  match k.exec with
  | none => s
  | some e =>
    let d := e.e.desc
    if dmaRemote d ∧ e.code = 1 ∧ dmaDestEp d = dest ∧ dmaXfer d = x then
      let waiting := ((waitingData s e.id).map dataBytes).sum
      let s := withdrawData e.id s
      putChannel s c ch { getChannel s c ch with exec := some { e with code := 8, doneBytes := e.doneBytes - waiting - e.discarded } }
    else s

/-- BUDDY_XFER of the snapshot map in effect (R296). -/
def mapXfer (s : State) : Nat := field s.fail.mapHdr 223 208

/-- A buddy copy that the fabric cannot deliver restarts at the next lift (R302). -/
def copyUnreachable (dest x : Nat) (s : State) : State :=
  if s.fail.background = 2 ∧ dest = s.fail.buddyEp.toNat ∧ x = mapXfer s then
    withdrawData s.fail.copyId { s with fail := { s.fail with copyRestart := true } }
  else s

/-- What an UNREACHABLE ends at its source. -/
def unreachableAt (dest x : Nat) (s : State) : State :=
  let s := copyUnreachable dest x s
  s.cores.foldl (fun s (key, k) =>
    let c : CoreRef := ⟨key / 256, key % 256⟩
    let s := (List.range Config.dmaChannels).foldl (fun s ch => dmaUnreachable c ch dest x s) s
    k.colQueue.foldl (fun s (e : ColEntry) =>
      match e.kind, e.phase with
      | .bulk d _, .data => if (colSends s c e d).contains (x, dest) then endEntry c e.seq 4 s else s
      | _, _ => s) s) s

def execUnreachable (die : Nat) (s : State) : Result :=
  whenUnit (dieOk die) <|
    match takeCtrl s die 9 with
    | some (p, s) => unreachableAt (field p.pkt.payload 127 112) (field p.pkt.payload 111 96) s
    | none => s

end Sys2Proof.Machine
end

