-- ==== Sys2Proof/Machine/Image.lean ====
section
/-! DEFINITION. The program image (R271 to R274): the checks of a start in their order (R277), the tables of the schedule variants (R233, R246, R263), the group records (R244), the snapshot map (R296, R297). -/
namespace Sys2Proof.Machine

/-! ### Header fields (R271) -/

def imgBytes (h : BitVec 512) : Nat := field h 511 448
def imgStepRecord (h : BitVec 512) : Nat := field h 447 384
def imgGateRecord (h : BitVec 512) : Nat := field h 383 320
def imgTimeout (h : BitVec 512) : Nat := field h 319 288
def imgClip (h : BitVec 512) : Nat := field h 287 256
def imgRoles (h : BitVec 512) : Nat := field h 255 240
def imgStepGroup (h : BitVec 512) : Nat := field h 239 224
def imgGateGroup (h : BitVec 512) : Nat := field h 223 208
def imgVariants (h : BitVec 512) : Nat := field h 191 184
def imgSections (h : BitVec 512) : Nat := field h 183 176
def imgGroups (h : BitVec 512) : Nat := field h 174 162

/-- One part of a check: the ranges of tier 1 it reads, whether what they hold passes, the code of a failure. -/
structure Stage where
  reads : List (Nat × Nat) := []
  ok : Bool := true
  code : Nat

/-- A read of the image reaches tier 1 itself (R277); nothing is read where no byte is. -/
def imageRead (chk : Chk) (ranges : List (Nat × Nat)) (s : State) : State × Option Nat :=
  let die := match readParities chk with
    | a :: _ => dieOfStore s.mem a
    | [] => 0
  checkRead chk 5 die (ranges.filter (fun r => decide (r.2 ≠ 0))) s

/-- The stages in order, up to the first that fails; an uncorrectable word is recorded and ends with 0x0B (R277). -/
def runStages (chk : Chk) : List Stage → State → Option Nat × State
  | [], s => (none, s)
  | g :: gs, s =>
    match imageRead chk g.reads s with
    | (s, some a) => (some 0x0B, strayRecord a s)
    | (s, none) => if g.ok then runStages chk gs s else (some g.code, s)

/-- The header, the section map and a role entry of an image in tier 1. -/
def headerAt (m : Memory) (base : Nat) : BitVec 512 := BitVec.ofNat 512 (readNum m base 64)
def sectionsAt (m : Memory) (base : Nat) (h : BitVec 512) : List (BitVec 128) :=
  (List.range (imgSections h)).map (fun i => BitVec.ofNat 128 (readNum m (base + 512 + 16 * i) 16))

/-- The fields of the header lie in their ranges (R271; check 2). -/
def headerOk (h : BitVec 512) : Bool :=
  let clip := imgClip h
  decide (field h 31 0 = 0x534B4D31) && decide (field h 63 48 = 1)
    && decide (4096 ≤ imgBytes h) && decide (imgBytes h ≤ Config.tier1Bytes)
    && decide (imgStepRecord h % 32 = 0) && decide (imgStepRecord h + 32 ≤ Config.tier1Bytes)
    && decide (imgGateRecord h % 32 = 0) && decide (imgGateRecord h + 32 ≤ Config.tier1Bytes)
    && decide (1 ≤ imgTimeout h) && decide (imgTimeout h ≤ 600000)
    && (decide (clip ≤ 0x7F800000) || decide (clip = 0x80000000))
    && decide (1 ≤ imgRoles h) && decide (1 ≤ imgVariants h) && decide (imgVariants h ≤ 4)
    && decide (1 ≤ imgSections h) && decide (imgSections h ≤ 64)
    && decide (1 ≤ imgGroups h) && decide (imgGroups h ≤ 4096)

/-- Sections of a type and variant. -/
def secCount (es : List (BitVec 128)) (typ variant : Nat) : Nat :=
  (es.filter (fun e => decide (secType e = typ) && decide (secVariant e = variant))).length

/-- Two sections share no byte; an empty one holds none (R6, R273). -/
def secApart (a b : BitVec 128) : Bool :=
  decide (secLength a = 0) || decide (secLength b = 0)
    || decide (secOffset a + secLength a ≤ secOffset b) || decide (secOffset b + secLength b ≤ secOffset a)

def allApart : List (BitVec 128) → Bool
  | [] => true
  | e :: es => es.all (secApart e) && allApart es

/-- The section map (R273; check 2). -/
def sectionsOk (h : BitVec 512) (es : List (BitVec 128)) : Bool :=
  es.all (fun e =>
    let t := secType e
    decide (1 ≤ t) && decide (t ≤ 9)
      && (if 5 ≤ t ∧ t ≤ 7 then decide (secVariant e < imgVariants h) else decide (secVariant e = 0))
      && decide (secOffset e % 64 = 0) && decide (secOffset e + secLength e ≤ imgBytes h))
    && allApart es
    && decide (secCount es 2 0 = 1) && decide (secCount es 3 0 = 1) && decide (secCount es 4 0 = 1) && decide (secCount es 8 0 ≤ 1)
    && (List.range (imgVariants h)).all (fun v =>
        decide (secCount es 5 v = 1) && decide (secCount es 6 v = 1) && decide (secCount es 7 v = 1))

/-- The section of a type and variant in a section map: offset and length. -/
def secFind (es : List (BitVec 128)) (typ variant : Nat) : Nat × Nat :=
  match es.find? (fun e => decide (secType e = typ) && decide (secVariant e = variant)) with
  | some e => (secOffset e, secLength e)
  | none => (0, 0)

/-- A role entry's kernel list lies within one CODE section; an empty list lies anywhere (R6, R274; check 2). -/
def roleOk (es : List (BitVec 128)) (e : BitVec 128) : Bool :=
  decide (roleKlist e % 32 = 0) && (decide (roleKcount e = 0) || es.any (fun c =>
    decide (secType c = 1) && decide (secOffset c ≤ roleKlist e) && decide (roleKlist e + 32 * roleKcount e ≤ secOffset c + secLength c)))

/-- The size record of an image (R272; check 3). -/
def sizesOk (m : Memory) (base : Nat) : Bool :=
  Config.sizeTable.all (fun (i, _, v) => decide (i = 0) || decide (readNum m (base + 64 + 8 * (i - 1)) 8 = v))

/-- Per-module sections as type and variant (R273). -/
def perModule (h : BitVec 512) : List (Nat × Nat) :=
  (3, 0) :: (List.range (imgVariants h)).flatMap (fun v => [(5, v), (6, v), (7, v)])

/-- Address of the module's entry in the index of a per-module section, and of its block. -/
def indexAt (base : Nat) (es : List (BitVec 128)) (id : Nat) (p : Nat × Nat) : Nat := base + (secFind es p.1 p.2).1 + 8 * id
def blockAt (m : Memory) (base : Nat) (es : List (BitVec 128)) (id : Nat) (p : Nat × Nat) : Nat :=
  base + (secFind es p.1 p.2).1 + readNum m (indexAt base es id p) 8

/-! ### Schedules (R233) and combining tables (R263) -/

def entriesAt (m : Memory) (a n : Nat) : List (BitVec 64) := (List.range n).map (fun i => BitVec.ofNat 64 (readNum m (a + 8 * i) 8))

def startsRise : List (BitVec 64) → Bool
  | [] => true
  | [_] => true
  | a :: b :: es => decide (schedStart a ≤ schedStart b) && startsRise (b :: es)

/-- A link's table: sorted, and in every window at most 24,832 cells of at most 16 entries; both are highest where an entry begins. -/
def schedOk (es : List (BitVec 64)) : Bool :=
  startsRise es && es.all (fun e =>
    let act := es.filter (fun x => schedActive x (schedStart e))
    decide ((act.map schedPer).sum ≤ 24832) && decide (act.length ≤ 16))

/-- The tables of the links that follow in a block: their count, then their entries (R273). -/
def schedStages (m : Memory) : (links a : Nat) → List Stage
  | 0, _ => []
  | n + 1, a =>
    let c := readNum m a 4
    { reads := [(a, 4)], ok := decide (c ≤ 8192), code := 5 }
      :: (if c ≤ 8192 then
            { reads := [(a + 4, 8 * c)], ok := schedOk (entriesAt m (a + 4) c), code := 5 } :: schedStages m n (a + 8 * c + 8)
          else [])

def schedTables (m : Memory) : (links a : Nat) → List (List (BitVec 64))
  | 0, _ => []
  | n + 1, a => entriesAt m (a + 4) (readNum m a 4) :: schedTables m n (a + 8 * readNum m a 4 + 8)

def combineOk (es : List (BitVec 64)) : Bool :=
  let used := es.filter (fun e => decide (field e 39 32 ≠ 0))
  used.all (fun e => decide (field e 47 40 + field e 39 32 ≤ 256))
    && decide (((used.map (fun e => field e 63 48)).eraseDups).length = used.length)

/-! ### Group records (R244) -/

def groupHeader (m : Memory) (base : Nat) (es : List (BitVec 128)) (h : Nat) : BitVec 128 :=
  BitVec.ofNat 128 (readNum m (base + (secFind es 4 0).1 + 16 * h) 16)
def groupCount (g : BitVec 128) : Nat := field g 127 107
def groupList (g : BitVec 128) : Nat := field g 63 16
def groupMembers (m : Memory) (base : Nat) (g : BitVec 128) : List (BitVec 32) :=
  (List.range (groupCount g)).map (fun i => BitVec.ofNat 32 (readNum m (base + groupList g + 4 * i) 4))

def groupStages (m : Memory) (base : Nat) (es : List (BitVec 128)) (n : Nat) : List Stage :=
  let (off, len) := secFind es 4 0
  (List.range n).flatMap (fun h =>
    let g := groupHeader m base es h
    let shape := decide (1 ≤ groupCount g) && decide (groupCount g ≤ 1048576) && decide (groupList g % 4 = 0)
      && decide (off ≤ groupList g) && decide (groupList g + 4 * groupCount g ≤ off + len)
    [{ ok := shape, code := 6 },
     { reads := if shape then [(base + groupList g, 4 * groupCount g)] else []
       ok := (groupMembers m base g).all (fun e => decide (field e 15 15 < Config.dies) && decide (field e 7 0 < Config.logicalCores)), code := 6 }])

/-- How often an endpoint stands in a group's list. -/
def timesIn (m : Memory) (base : Nat) (es : List (BitVec 128)) (id h : Nat) : Nat :=
  ((groupMembers m base (groupHeader m base es h)).filter (fun e => decide (memberEp e = id))).length

/-- The initial roles of the module's cores, die 0 first (R273). -/
def mapRoles (m : Memory) (a : Nat) : List Nat :=
  (List.range (Config.dies * Config.logicalCores)).map (fun i => readNum m (a + 2 * i) 2)

/-! ### The checks of a start (R277) -/

/-- Checks 1 to 7 on the image at a base. The initial roles of the module's own block are read by check 6 alone; one that is no role of the image asks for no gate (log 46). -/
def startStages (s : State) : List Stage :=
  let m := s.mem
  let base := s.run.base.toNat
  let h := headerAt m base
  let es := sectionsAt m base h
  let id := s.fab.ownId.toNat
  let roleAt (r : Nat) : BitVec 128 := BitVec.ofNat 128 (readNum m (base + (secFind es 2 0).1 + 16 * r) 16)
  let n := imgRoles h
  let (goff, glen) := secFind es 4 0
  let sg := imgStepGroup h
  let gg := imgGateGroup h
  let roles := mapRoles m (blockAt m base es id (3, 0))
  let gated := roles.any (fun r => decide (r < n) && decide (roleGate (roleAt r) ≠ 0xFFFF))
  [{ ok := decide (base % 4096 = 0) && decide (base + 64 ≤ Config.tier1Bytes), code := 1 },
   { reads := [(base, 64)], ok := decide (base + imgBytes h ≤ Config.tier1Bytes), code := 1 },
   { ok := headerOk h, code := 2 },
   { reads := [(base + 512, 16 * imgSections h)], ok := sectionsOk h es, code := 2 },
   { ok := decide (16 * n ≤ (secFind es 2 0).2) && decide (16 * imgGroups h ≤ glen), code := 2 },
   { reads := [(base + (secFind es 2 0).1, 16 * n)], ok := (List.range n).all (fun r => roleOk es (roleAt r)), code := 2 },
   { reads := [(base + 64, 200)], ok := sizesOk m base, code := 3 },
   { ok := s.fab.hasId, code := 4 },
   { reads := (perModule h).map (fun p => (indexAt base es id p, 8))
     ok := (perModule h).all (fun p => decide (readNum m (indexAt base es id p) 8 ≠ 0)), code := 4 }]
  ++ (List.range (imgVariants h)).flatMap (fun v =>
      schedStages m 24 (blockAt m base es id (5, v)) ++
        [{ reads := [(blockAt m base es id (7, v), 32768)], ok := combineOk (entriesAt m (blockAt m base es id (7, v)) 4096), code := 5 }])
  ++ [{ reads := [(base + goff, 16 * imgGroups h)]
        ok := decide (sg < imgGroups h) && (decide (gg = 0xFFFF) || decide (gg < imgGroups h)), code := 6 }]
  ++ groupStages m base es (imgGroups h)
  ++ [{ ok := decide (timesIn m base es id sg = 1), code := 6 },
      { reads := [(blockAt m base es id (3, 0), 2 * (Config.dies * Config.logicalCores))]
        ok := !gated || (decide (gg < imgGroups h) && decide (1 ≤ timesIn m base es id gg)), code := 6 },
      { ok := decide (s.run.variantReq.toNat < imgVariants h), code := 7 }]

/-- Tables of every variant, as the routers take them (R277). -/
def variantTables (m : Memory) (base : Nat) (es : List (BitVec 128)) (id v : Nat) : VariantTables :=
  let g := blockAt m base es id (6, v)
  { sched := schedTables m 24 (blockAt m base es id (5, v))
    glide := (List.range 4096).filterMap (fun h => let n := readNum m (g + 4 * h) 4; if n = 0 then none else some (h, n))
    combine := entriesAt m (blockAt m base es id (7, v)) 4096 }

/-- The routers load the tables of the variant in effect (R233, R246, R263). -/
def loadTables (s : State) : State :=
  let t := mget {} s.run.tables s.run.variant.toNat
  { s with
    grp := { s.grp with glideTable := t.glide }
    fab := { s.fab with
      links := s.fab.links.mapIdx (fun l x => { x with sched := (t.sched.getD l []).map (fun e => ⟨e, 0, 0⟩) })
      routers := s.fab.routers.map (fun r => { r with combine := t.combine }) } }

/-! ### The snapshot map (R296, R297) -/

def mapLocal (h : BitVec 512) : Nat := field h 511 464
def mapWard (h : BitVec 512) : Nat := field h 463 416
def mapHost (h : BitVec 512) : Nat := field h 415 368
def mapStride (h : BitVec 512) : Nat := field h 367 320
def mapBytes (h : BitVec 512) : Nat := field h 319 272
def mapCadence (h : BitVec 512) : Nat := field h 271 240
def mapRegions (h : BitVec 512) : Nat := field h 239 224
def regionAddr (r : BitVec 128) : Nat := field r 127 80
def regionLen (r : BitVec 128) : Nat := field r 79 32

def regionsRise : List (BitVec 128) → Bool
  | [] => true
  | [_] => true
  | a :: b :: rs => decide (regionAddr a + regionLen a ≤ regionAddr b) && regionsRise (b :: rs)

/-- The map is valid (R296, R297). -/
def mapOk (h : BitVec 512) (rs : List (BitVec 128)) : Bool :=
  let size := 4096 + mapBytes h
  let inT2 (a : Nat) : Bool := decide (a % 4096 = 0) && decide (tier2Base ≤ a) && decide (a + size ≤ tier2Base + Config.tier2Bytes)
  let inHost (a : Nat) : Bool := decide (hostBase ≤ a) && decide (a + size ≤ 2 ^ 48)
  decide (mapRegions h ≤ 4096)
    && rs.all (fun r => decide (regionAddr r % 4096 = 0) && decide (regionLen r % 4096 = 0) && decide (regionAddr r + regionLen r ≤ Config.tier1Bytes))
    && regionsRise rs && decide ((rs.map regionLen).sum = mapBytes h)
    && inT2 (mapLocal h) && inT2 (mapWard h)
    && (decide (mapLocal h + size ≤ mapWard h) || decide (mapWard h + size ≤ mapLocal h))
    && decide (size ≤ mapStride h) && decide (mapHost h % 4096 = 0) && inHost (mapHost h) && inHost (mapHost h + mapStride h)

/-- Header and regions of the map of an image, if it has one. -/
def mapAt (m : Memory) (base : Nat) (es : List (BitVec 128)) : Option (BitVec 512 × List (BitVec 128)) :=
  if secCount es 8 0 = 0 then none
  else
    let a := base + (secFind es 8 0).1
    let h : BitVec 512 := BitVec.ofNat 512 (readNum m a 64)
    some (h, (List.range (Nat.min (mapRegions h) 4096)).map (fun i => BitVec.ofNat 128 (readNum m (a + 64 + 16 * i) 16)))

/-- The map of the image takes effect with the start (R297). -/
def takeMap (base : Nat) (es : List (BitVec 128)) (s : State) : State :=
  match mapAt s.mem base es with
  | none => { s with fail := { s.fail with mapHdr := 0, regions := [], mapState := 0, snapBytes := 0, cadence := 0 } }
  | some (h, rs) =>
    { s with fail := { s.fail with
      mapHdr := h, regions := rs, mapState := if mapOk h rs then 1 else 2
      snapBytes := BitVec.ofNat 64 (mapBytes h), cadence := BitVec.ofNat 32 (mapCadence h) } }

end Sys2Proof.Machine
end

