-- ==== Sys2Proof/Machine/StepProgram.lean ====
section
/-! DEFINITION. The step program: run states (R275 to R278), the opening lift and the step (R279, R280), lifts, replays and timeouts (R281 to R283), core sparing at a lift (R292), snapshot stops and their copies (R298 to R302). -/
namespace Sys2Proof.Machine

/-- Object error codes (R329) that these objects answer with. -/
def errNone : Nat := 0
def errAccess : Nat := 3
def errRange : Nat := 5
def errBusy : Nat := 7

/-! ### Run control (R275, R276) -/

/-- Writing 2 to RUN_STATE: the checks of R277 in LOADING; the first that fails ends in STOPPED with its code. An image fetch in progress refuses it (R361). -/
def startProgram (chk : Chk) (s : State) : Nat × State :=
  if s.run.state ≠ 0 ∨ s.pcie.fetchResult = 1 then (errBusy, s)
  else
    let s := setRunState 1 s
    match runStages chk (startStages s) s with
    | (some code, s) => (errNone, stopRun (BitVec.ofNat 8 code) s)
    | (none, s) => (errNone, { s with run := { s.run with phase := .measuring, phaseAt := s.clk.tick } })

/-- Writing 0 to RUN_STATE. -/
def stopWritten (s : State) : Nat × State :=
  if s.pcie.fetchResult = 1 then (errBusy, s)
  else (errNone,
    if s.run.state = 1 then stopRun 0x0A s
    else if s.run.state = 2 then setRunState 3 s
    else if s.run.state = 4 then enterStopped s
    else s)

/-! ### The step record and the beginning of a step (R279, R280) -/

/-- The step record; LAST is 0 for step 0, a replay of it included (R279, R282). -/
def stepRecord (s : State) : List Byte :=
  toLE 32 (s.run.lifts.toNat * 2 ^ 192 + s.run.commit.value.toNat * 2 ^ 128 + s.run.skipped.toNat * 2 ^ 64
    + s.run.attempt.toNat * 2 ^ 48 + s.run.epochShift.toNat * 2 ^ 32 + s.run.variant.toNat * 2 ^ 24 + (if s.run.firstStep then 0 else s.run.last.toNat) * 2 ^ 16)

/-- A core begins its part of a step with a kernel boundary (R280). -/
def beginCore (c : CoreRef) (s : State) : State :=
  let k := getCore s c
  let s := putCore { s with trapped := mdel s.trapped (coreKey c) } c { k with
    threads := [], sigNotes := [], flags := [], trappedBy := none, stepRole := k.role, stepEpoch := k.epoch.value, stepWindows := k.windows.map (fun w => w.value) }
  let first := if s.run.firstStep then 0 else roleStepEntry (roleEntry s k.role.toNat)
  nextKernel c first (aclkOf s c.die + 3) (boundaryStart c s)

/-- A step or a replay begins with an ORIGIN (R232, R233, R279 to R281), unless the vote of the commit counter takes the fatal path (R186, R288). -/
def beginStep (origin : Nat) (s : State) : State :=
  let s := voteCommit s
  let r := s.run
  if r.state = 4 then s
  else
    let s := { s with run := { r with
      phase := .inStep, phaseAt := s.clk.tick, origin := BitVec.ofNat 64 origin, gate := .undecided
      faulted := r.faultKept, carried := r.faultKept, faultKept := false } }
    let s := loadTables { s with fab := { s.fab with window := none, injected := [] } }
    let s := land (imgStepRecord s.run.hdr) (stepRecord s) s
    allCores.foldl (fun s c => beginCore c s) s

/-! ### The start (R277, R280) -/

/-- The start signature (R280). -/
def startSignature (s : State) : BitVec 128 :=
  BitVec.ofNat 128 (s.run.imageHash.toNat % 2 ^ 32 * 2 ^ 32 + s.run.variant.toNat * 2 ^ 24 + s.run.commit.value.toNat % 2 ^ 24)

/-- A core at a start: its role, no epoch, empty units (R67, R75, R97, R161, R273). -/
def startCore (roles : List Nat) (c : CoreRef) (s : State) : State :=
  let k := getCore s c
  putCore s c { k with
    role := BitVec.ofNat 16 (roles.getD (Config.logicalCores * c.die + c.core) 0), kernel := 0, ksel := none
    phase := .idle, threads := [], epoch := triple 0, windows := Vector.replicate 8 (triple 0), mxa := {}, dma := Vector.replicate 4 {}
    colRecords := [], sigNotes := [], trap := 0 }

/-- Glide operations of an earlier run of this module are forgotten; those that only neighbours have begun stay. -/
def freshGlide (ops : SMap GlideOp) : SMap GlideOp :=
  ops.filter (fun (_, o) => o.inputs.all (fun i => match i with
    | .child _ => true
    | _ => false))

/-- The sequencer arrives at a glide operation on STEP_GROUP (R280). -/
def sequencerArrive (op : Nat) (v : BitVec 128) (s : State) : State := glideArrive (stepGroup s) .sequencer { op := op, value := v } s

/-- The start takes effect: the measured image, its tables, the start resets, the opening lift (R277 steps 1 to 5, R222, R245, R297). -/
def startEffect (s : State) : State :=
  let m := s.mem
  let base := s.run.base.toNat
  let h := headerAt m base
  let es := sectionsAt m base h
  let id := s.fab.ownId.toNat
  let hash := sha256 (readBytes m base (imgBytes h))
  let n := imgGroups h
  let groups := (List.range n).map (fun g => let x := groupHeader m base es g; (g, (⟨x, groupMembers m base x⟩ : GroupRec)))
  let s := { s with
    run := { s.run with
      hdr := h, sections := es, imageBase := base, imageHash := hash
      tables := (List.range (imgVariants h)).map (fun v => (v, variantTables m base es id v))
      variant := s.run.variantReq, variantAsked := false, lifts := 0, attempt := 0, epochShift := 0, last := 0, firstStep := true
      faultKept := false, openBad := none }
    boot := { s.boot with progHash := hash, progBase := BitVec.ofNat 64 base, progBytes := BitVec.ofNat 64 (imgBytes h), progValid := true }
    grp := { s.grp with
      count := BitVec.ofNat 16 n, recs := groups, epochs := (List.range n).map (fun g => (g, 1)), failedEpoch := [], tagOps := []
      glideOps := freshGlide s.grp.glideOps, releases := [] }
    fab := { s.fab with xfer := [], held := [] }
    fail := { s.fail with moduleState := 0 } }
  let s := takeMap base es (loadTables s)
  let roles := mapRoles m (blockAt m base es id (3, 0))
  let s := allCores.foldl (fun s c => startCore roles c s) s
  let s := land (imgStepRecord h) (List.replicate 32 0) s
  let s := voteCommit { s with run := { s.run with phase := .openMax, phaseAt := s.clk.tick } }
  sequencerArrive 1 (startSignature s) s

/-- The measurement ends (R277). -/
def execImageMeasureComplete (chk : Chk) (s : State) : Result :=
  .next <|
    if s.run.state = 1 ∧ s.run.phase = .measuring then
      match imageRead chk [(s.run.base.toNat, imgBytes (headerAt s.mem s.run.base.toNat))] s with
      | (s, some a) => stopRun 0x0B (strayRecord a s)
      | (s, none) => startEffect s
    else s

/-- The oldest release on STEP_GROUP for the sequencer is taken. -/
def takeRelease (s : State) : Option (Release × State) :=
  (findAt (fun (r : Release) => decide (r.dst = .sequencer) && decide (r.handle = stepGroup s)) s.grp.releases).map
    (fun (i, r) => (r, { s with grp := { s.grp with releases := dropAt s.grp.releases i } }))

/-- Result and ORIGIN of a release on STEP_GROUP (R280). -/
def relResult (r : Release) : BitVec 64 := r.payload.setWidth 64
def relOrigin (r : Release) : Nat := field r.payload 127 64

/-- What a release of the opening lift says against the start: MISMATCH before any other status (R280). -/
def openVerdict (status : BitVec 8) (old : Option (BitVec 8)) : Option (BitVec 8) :=
  if status = 1 then some 0x08
  else if status = 0 then old
  else if old = some 0x08 then old
  else some 0x0C

/-- Links that reached UP join their active sets (R213). -/
def joinLinks (s : State) : State :=
  notePorts { s with fab := { s.fab with links := s.fab.links.map (fun x => { x with active := x.active || decide (x.state = .up) }) } }

/-- One of the two operations of the opening lift is released; the second decides, and it is the next lift for links that reached UP in an earlier run (R213, R280). -/
def execOpeningLiftRelease (s : State) : Result :=
  .next <|
    match s.run.phase with
    | .openMax =>
      (match takeRelease s with
       | none => s
       | some (r, s) =>
         sequencerArrive 2 (startSignature s)
           { s with run := { s.run with phase := .openMin, openMaxResult := relResult r, openBad := openVerdict r.status none } })
    | .openMin =>
      (match takeRelease s with
       | none => s
       | some (r, s) =>
         match openVerdict r.status s.run.openBad with
         | some code => stopRun code s
         | none =>
           if relResult r = s.run.openMaxResult then beginStep (relOrigin r) (joinLinks (setRunState 2 s)) else stopRun 0x08 s)
    | _ => s

/-- LIFT_TIMEOUT has passed since the phase began (R271, R283). -/
def liftLate (s : State) : Bool := decide (s.run.phaseAt + msTicks (imgTimeout s.run.hdr) ≤ s.clk.tick)

/-- The opening lift is not released in time (R280). -/
def execOpeningLiftTimeout (s : State) : Result :=
  .next (if (s.run.phase = .openMax ∨ s.run.phase = .openMin) ∧ liftLate s then stopRun 0x09 s else s)

/-! ### Arrival at the lift (R280, R281) -/

/-- Every logical core of both dies has ended its part. -/
def allEnded (s : State) : Bool := allCores.all (fun c => decide ((getCore s c).phase = .ended))

/-- The arrival payload (R281). -/
def liftPayload (s : State) : BitVec 128 :=
  let b (x : Bool) (i : Nat) : Nat := if x then 2 ^ i else 0
  BitVec.ofNat 128 (b (decide (s.run.state = 3)) 0 + b (s.run.faulted || decide (s.run.gate = .faulted)) 1
    + b (decide (s.run.gate = .closed ∨ s.run.gate = .faulted)) 2 + b (decide (s.run.gate = .opened)) 3
    + b (s.run.variantAsked && decide (s.run.variantReq ≠ s.run.variant)) (4 + s.run.variantReq.toNat))

def arriveLift (s : State) : State :=
  sequencerArrive 4 (liftPayload s) { s with run := { s.run with phase := .arrived, phaseAt := s.clk.tick } }

/-- Every core has ended its part, or the step is faulted and has stopped (R280, R290). -/
def execLiftArrival (s : State) : Result :=
  .next (if s.run.phase = .inStep ∧ ((s.run.faulted && !s.run.carried) ∨ allEnded s) then arriveLift s else s)

/-- No arrival within LIFT_TIMEOUT of the step's start (R283, R289). -/
def execLiftTimeoutBeforeArrival (s : State) : Result :=
  .next (if s.run.phase = .inStep ∧ liftLate s then arriveLift (stepFault { cls := 6, action := 2 } s) else s)

/-- No release within LIFT_TIMEOUT of the arrival (R283). -/
def execLiftTimeoutAfterArrival (s : State) : Result :=
  .next (if (s.run.phase = .arrived ∨ s.run.phase = .resume) ∧ liftLate s then settleLost (failRun 0x11 s) else s)

/-! ### Core sparing at a lift release (R292, R294, R311, R312) -/

/-- The lowest-numbered SPARE core of a die. -/
def spareOf (s : State) (die : Nat) : Option Nat := (List.range Config.physCores).find? (fun p => decide (physState s die p = .spare))

/-- A logical core's change to a physical core becomes pending. -/
def pendMove (die l spare : Nat) (s : State) : State :=
  setPhysState { s with map := { s.map with pending := s.map.pending ++ [(256 * die + l, BitVec.ofNat 8 spare)] } } die spare .active

/-- A failed core is spared, or retired when it holds no logical core any more; its record goes out (R292, R294). -/
def spareFailed (key : Nat) (s : State) : State :=
  let (d, p) := (key / 256, key % 256)
  let g : Signature := { cls := 7, action := 3, unitType := 0, unitIndex := p, die := d, history := historyCount s (.core d p) }
  match logicalOf s.map d p with
  | none => cper g (setPhysState s d p .retired)
  | some l =>
    match spareOf s d with
    | none => reportLost s
    | some q => cper { g with lcore := l } (pendMove d l q (setPhysState s d p .retired))

/-- A test that cannot run ends with STATE 5 (R312, R357). -/
def testRefused (s : State) : State := msix 6 { s with fail := { s.fail with testState := 5 } }

/-- A core to be tested is swapped with a spare. -/
def swapTested (key : Nat) (s : State) : State :=
  let (d, p) := (key / 256, key % 256)
  match logicalOf s.map d p, spareOf s d with
  | some l, some q =>
    let s := pendMove d l q (setPhysState s d p .testing)
    { s with fail := { s.fail with tests := mset s.fail.tests d (p, s.clk.tick), testState := 2 } }
  | _, _ => testRefused s

/-- Failed cores first, then cores to be tested (R316). -/
def applySparing (s : State) : State :=
  let (bad, swap) := (s.map.failing, s.map.swapping)
  let s := { s with map := { s.map with failing := [], swapping := [] } }
  let s := swap.foldl (fun s k => if bad.contains k then testRefused s else swapTested k s)
    (bad.foldl (fun s k => spareFailed k s) s)
  settleQuads s

/-! ### Slot headers and background copies (R298, R302) -/

/-- The first 64 bytes of a slot header, the rest of its 4096 reserved (R298). -/
def slotHeader (s : State) (state : Nat) : List Byte :=
  padTo 4096 (toLE 64 (0x534B5331 * 2 ^ 480 + s.run.imageHash.toNat % 2 ^ 32 * 2 ^ 448 + s.run.commit.value.toNat * 2 ^ 384
    + s.run.skipped.toNat * 2 ^ 320 + s.fab.ownId.toNat * 2 ^ 304 + s.fail.snapBytes.toNat % 2 ^ 48 * 2 ^ 256 + state * 2 ^ 248))

/-- Fields of a slot header at an address. -/
def slotAt (m : Memory) (a : Nat) : BitVec 512 := BitVec.ofNat 512 (readNum m a 64)
def slotMagic (h : BitVec 512) : Nat := field h 511 480
def slotImage (h : BitVec 512) : Nat := field h 479 448
def slotCommit (h : BitVec 512) : BitVec 64 := BitVec.ofNat 64 (field h 447 384)
def slotSkipped (h : BitVec 512) : BitVec 64 := BitVec.ofNat 64 (field h 383 320)
def slotOwner (h : BitVec 512) : Nat := field h 319 304
def slotState (h : BitVec 512) : Nat := field h 255 248

/-- COMMIT of a slot whose STATE is 2, else all ones (R303). -/
def slotReport (s : State) (a : Nat) : BitVec 64 :=
  let h := slotAt s.mem a
  if s.fail.mapState = 1 ∧ slotMagic h = 0x534B5331 ∧ slotState h = 2 then slotCommit h else BitVec.allOnes 64

/-- Pieces of at most 4096 bytes of `n` bytes from an address. -/
def pieces4k : (fuel a n : Nat) → List (Nat × Nat)
  | 0, _, _ => []
  | f + 1, a, n => if n = 0 then [] else (a, Nat.min n 4096) :: pieces4k f (a + 4096) (n - 4096)

/-- Bytes of an area (R297), and its pieces. -/
def areaBytes (s : State) : Nat := 4096 + s.fail.snapBytes.toNat
def areaPieces (s : State) (a : Nat) : List (Nat × Nat) := pieces4k (areaBytes s / 4096 + 1) a (areaBytes s)

/-- WRITE packets of a module's area to a tier 2 area of another module (R302, R305): header first, with STATE 1. -/
def areaPackets (s : State) (dest xfer src dst : Nat) : List DataPkt :=
  (areaPieces s src).map (fun (a, n) =>
    let bs := readBytes s.mem a n
    mkData s 0 dest 1 xfer 0 0 (dst + (a - src)) (if a = src then splice bs 31 [1] else bs))

/-- The drain buffer that does not hold the newest complete drain, and its device address (R302). -/
def drainSlot (s : State) : Nat :=
  if s.fail.drainBufs.1 = s.fail.drainCommit ∧ s.fail.drainCommit ≠ BitVec.allOnes 64 then 1 else 0
def drainAddr (s : State) (i : Nat) : Nat := mapHost s.fail.mapHdr + i * mapStride s.fail.mapHdr

/-- The host drain begins: the header with STATE 1 goes first (R298). -/
def startHostDrain (s : State) : State :=
  let none_ : BitVec 64 := BitVec.allOnes 64
  let bufs := if drainSlot s = 0 then (none_, s.fail.drainBufs.2) else (s.fail.drainBufs.1, none_)
  let s := if hostUsable s then writeHost (drainAddr s (drainSlot s) - hostBase) (splice (readBytes s.mem (mapLocal s.fail.mapHdr) 4096) 31 [1]) s
    else { s with fail := { s.fail with copyRestart := true } }
  setPhase 3 { s with fail := { s.fail with background := 3, drainBufs := bufs } }

/-- A read of the local area by a background copy: a word that cannot be trusted gets its record of class 0x03, and the copy restarts at the next lift (R302, R314). -/
def copyRead (chk : Chk) (s : State) : State × Bool :=
  match imageRead chk (areaPieces s (mapLocal s.fail.mapHdr)) s with
  | (s, some b) => ({ cper (heldAt s b { cls := 3 }) s with fail := { (cper (heldAt s b { cls := 3 }) s).fail with copyRestart := true } }, false)
  | (s, none) => (s, true)

/-- The buddy copy begins. -/
def startBuddy (s : State) : State :=
  let a := mapLocal s.fail.mapHdr
  let (id, s) := takeId s
  let s := setPhase 2 { s with fail := { s.fail with background := 2, copyId := id } }
  match copyRead .ok s with
  | (s, false) => s
  | (s, true) => injectData s 0 (some id) (areaPackets s s.fail.buddyEp.toNat (mapXfer s) a (mapWard s.fail.mapHdr))

/-- The background copies of a completed snapshot begin (R302, R304). -/
def startBackground (s : State) : State := if s.fail.buddyEn then startBuddy s else startHostDrain s

/-- A background copy that failed restarts from its beginning at the next lift (R302). -/
def restartCopy (s : State) : State :=
  if s.fail.copyRestart then
    let s := { s with fail := { s.fail with copyRestart := false } }
    if s.fail.background = 2 then startBuddy (withdrawData s.fail.copyId s)
    else if s.fail.background = 3 then startHostDrain s
    else s
  else s

/-! ### The lift release (R281, R282, R291) -/

/-- VARIANT_REQ bits of a result: one request is honoured, several are a conflict. -/
def switchVariant (v : BitVec 64) (s : State) : State :=
  match (List.range 4).filter (fun i => bit v (4 + i)) with
  | [] => s
  | [i] => { s with run := { s.run with variant := BitVec.ofNat 8 i, variantReq := BitVec.ofNat 8 i, variantAsked := false } }
  | _ => { s with run := { s.run with conflicts := satInc s.run.conflicts } }

/-- A pending role epoch resync takes effect (R268). -/
def applyResync (s : State) : State :=
  match s.grp.resync with
  | none => s
  | some v =>
    let s := { s with grp := { s.grp with resync := none } }
    { s with cores := s.cores.map (fun (i, k) => (i, { k with epoch := triple v, windows := Vector.replicate 8 (triple v) })) }

/-- Roles and epochs return to those of the step's start, plus 32,768 (R282). -/
def rewind (k : Core) : Core :=
  { k with role := k.stepRole, epoch := triple (k.stepEpoch + 32768), windows := k.stepWindows.map (fun w => triple (w + 32768)), colRecords := [] }

/-- The state of the replay of a faulted step: nothing of the faulted attempt is on its way to a core (R282). -/
def rewindStep (s : State) : State :=
  { s with
    run := { s.run with attempt := satInc s.run.attempt, epochShift := s.run.epochShift + 32768 }
    cores := s.cores.map (fun (i, k) => (i, rewind k))
    grp := { s.grp with glideOps := s.grp.glideOps.filter (fun e => decide (e.1 = stepGroup s))
                        releases := s.grp.releases.filter (fun r => decide (r.handle = stepGroup s)) } }

/-- The lift can be replayed (R282, R291). -/
def canReplay (s : State) (v : BitVec 64) : Bool :=
  (!bit v 3 || bit s.run.hdr 175) && decide (s.run.attempt.toNat < s.fail.replayLimit.toNat)

/-- A commit lift that takes a snapshot (R299, R303). -/
def snapSelected (s : State) : Bool :=
  let c := s.run.commit.value
  decide (s.fail.mapState ≠ 0)
    && ((decide (s.fail.cadence ≠ 0) && decide (c.toNat % s.fail.cadence.toNat = 0)) || decide (c = s.fail.triggerAt) || s.fail.pendingSnap)

/-- The member defers the snapshot (R300). -/
def snapDefers (s : State) : Bool :=
  s.fab.links.any (fun x => decide (x.state = .training)) || decide (s.fail.background ≠ 0) || decide (s.fail.mapState ≠ 1)

/-- The snapshot stop begins with its check (R300). -/
def snapCheck (v : BitVec 64) (s : State) : State :=
  let s := setPhase 1 { s with run := { s.run with phase := .snapCheck, phaseAt := s.clk.tick, liftResult := v } }
  sequencerArrive 4 (if snapDefers s then 1 else 0) s

/-- The lift ends the program or begins the next step (R281 step 8). -/
def stopOrNext (v : BitVec 64) (origin : Nat) (s : State) : State :=
  if bit v 0 then stopRun 0x10 s else beginStep origin s

/-- Effects 4 to 6, the sparing of R292, and the restart of a background copy. -/
def liftMiddle (v : BitVec 64) (s : State) : State := restartCopy (applySparing (applyResync (joinLinks (switchVariant v s))))

/-- The release of an ordinary lift, in the binding order of R281; effects 4 to 6 and the sparing come with every release, that of a rollback included. The counts follow R10; a fatal vote ends the run instead (R186, R288). -/
def liftReleased (r : Release) (s : State) : State :=
  let v := relResult r
  let s := voteCommit { s with run := { s.run with lifts := satInc s.run.lifts, last := v.setWidth 8 } }
  let fault := bit v 1 || (bit v 3 && bit v 2) || decide (r.status ≠ 0)
  if s.run.state = 4 then s
  else if fault then
    let s := { s with fab := { s.fab with xfer := [], held := [] } }
    if r.status ≠ 2 ∧ canReplay s v then beginStep (relOrigin r) (liftMiddle v (rewindStep s))
    else liftMiddle v (failRun 0x12 s)
  else
    let s := { s with run := { s.run with attempt := 0, firstStep := false } }
    if bit v 2 then stopOrNext v (relOrigin r) (liftMiddle v { s with run := { s.run with skipped := satInc s.run.skipped } })
    else
      let s := liftMiddle v { s with run := { s.run with commit := triple (satInc s.run.commit.value) } }
      if snapSelected s then snapCheck v s else stopOrNext v (relOrigin r) s

def execLiftRelease (s : State) : Result :=
  .next <|
    match s.run.phase with
    | .arrived =>
      (match takeRelease s with
       | some (r, s) => settleLost (liftReleased r s)
       | none => s)
    | _ => s

/-! ### The snapshot stop (R300 to R302) -/

/-- The member arrives at the resume lift; bit 0 is FAIL. -/
def arriveResume (fail : Bool) (s : State) : State :=
  sequencerArrive 4 (if fail then 1 else 0) { s with run := { s.run with phase := .resume, phaseAt := s.clk.tick } }

/-- The snapshot check is released: the copy begins with its header, STATE 1 (R298), or is deferred (R300). -/
def execSnapshotCheckRelease (s : State) : Result :=
  .next <|
    match s.run.phase with
    | .snapCheck =>
      (match takeRelease s with
       | none => s
       | some (r, s) =>
         if r.status = 2 then settleLost (failRun 0x12 s)
         else if bit (relResult r) 0 then
           arriveResume false { s with fail := { s.fail with deferred := satInc s.fail.deferred, pendingSnap := true, copied := false } }
         else land (mapLocal s.fail.mapHdr) (slotHeader s 1)
           { s with run := { s.run with phase := .snapCopy, phaseAt := s.clk.tick }, fail := { s.fail with pendingSnap := false } })
    | _ => s

/-- Regions with their place in an area (R297). -/
def placedRegions : List (BitVec 128) → (off : Nat) → List (Nat × Nat × Nat)
  | [], _ => []
  | r :: rs, off => (regionAddr r, regionLen r, off) :: placedRegions rs (off + regionLen r)

/-- Ranges of the regions, empty ones left out. -/
def regionRanges (s : State) : List (Nat × Nat) :=
  (s.fail.regions.map (fun r => (regionAddr r, regionLen r))).filter (fun r => decide (r.2 ≠ 0))

/-- The copy into the local area ends with its data; a copy that met an uncorrectable word has undefined data (R298, R300). -/
def execSnapshotCopyDone (chk : Chk) (s : State) : Result :=
  .next <|
    if s.run.phase = .snapCopy then
      let a := mapLocal s.fail.mapHdr
      match imageRead chk (regionRanges s) s with
      | (s, some b) =>
        let s := cper (heldAt s b { cls := 3 }) s
        arriveResume true { s with mem := makeUndef s.mem (a + 4096) (a + areaBytes s), fail := { s.fail with copied := true } }
      | (s, none) =>
        let s := (placedRegions s.fail.regions 4096).foldl (fun s (src, n, off) => land (a + off) (readBytes s.mem src n) s) s
        arriveResume false { s with fail := { s.fail with copied := true } }
    else s

/-- The resume lift is released (R300, R302, R313). -/
def execResumeLiftRelease (s : State) : Result :=
  .next <|
    match s.run.phase with
    | .resume =>
      (match takeRelease s with
       | none => s
       | some (r, s) =>
         let v := s.run.liftResult
         if r.status = 2 then settleLost (failRun 0x12 s)
         else if s.fail.copied ∧ r.status = 0 ∧ bit (relResult r) 0 = false then
           let s := land (mapLocal s.fail.mapHdr) (slotHeader s 2) s
           let s := startBackground { s with fail := { s.fail with groupCommit := s.run.commit.value } }
           stopOrNext v (relOrigin r) (if s.fail.awaiting = [] then s else reportLost s)
         else
           stopOrNext v (relOrigin r)
             (setPhase (if s.fail.background = 2 then 2 else if s.fail.background = 3 then 3 else 0) s))
    | _ => s

/-- The last packet of the buddy copy has gone: the header with STATE 2 follows as the flagged final write, and the host drain begins (R170, R302). -/
def execBuddyCopyComplete (chk : Chk) (s : State) : Result :=
  .next <|
    if s.fail.background = 2 ∧ !s.fail.copyRestart ∧ waitingData s s.fail.copyId = [] then
      match copyRead chk s with
      | (s, false) => s
      | (s, true) => startHostDrain (sendFinal 0 s.fail.buddyEp.toNat (mapXfer s) 0 (areaPieces s 0).length
          (some (mapWard s.fail.mapHdr + 24, 2 * 2 ^ 56)) s)
    else s

/-- The host drain ends, its header with STATE 2 written last (R302, R303). -/
def execHostDrainComplete (chk : Chk) (s : State) : Result :=
  .next <|
    if s.fail.background = 3 ∧ !s.fail.copyRestart ∧ hostUsable s then
      match copyRead chk s with
      | (s, false) => s
      | (s, true) =>
        let a := mapLocal s.fail.mapHdr
        let i := drainSlot s
        let bus := drainAddr s i - hostBase
        let c := slotCommit (slotAt s.mem a)
        let s := ((areaPieces s a).drop 1).foldl (fun s (p, n) => writeHost (bus + (p - a)) (readBytes s.mem p n) s) s
        let s := writeHost bus (readBytes s.mem a 4096) s
        let bufs := if i = 0 then (c, s.fail.drainBufs.2) else (s.fail.drainBufs.1, c)
        setPhase 0 { s with fail := { s.fail with background := 0, drainCommit := c, drainBufs := bufs } }
    else s

end Sys2Proof.Machine
end

