-- ==== Sys2Proof/Machine/Objects.lean ====
section
/-! DEFINITION. The object dictionary: what objects there are with type, access, privileges, size and default (R321 to R325, catalogue of chapter 14 and the objects of every chapter), and the value a READ returns. -/
namespace Sys2Proof.Machine

/-! ### The objects -/

/-- One subindex of an object: type code (R322), access 0 RO, 1 RW, 2 WO, 3 RWS, size in bytes (largest length of a STR or DOMAIN), default, privileges 0 observer, 1 operator, 2 maintainer, and whether a DOMAIN has exactly its size. -/
structure ObjRow where
  sub : Nat
  typ : Nat
  access : Nat
  size : Nat
  dflt : Nat := 0
  wpriv : Nat := 1
  rpriv : Nat := 0
  exact_ : Bool := true
deriving DecidableEq, Repr

/-- Bytes of a fixed-size type, none for STR and DOMAIN (R322). -/
def typeBytes (t : Nat) : Option Nat :=
  match t with
  | 0 => some 1
  | 1 => some 1
  | 2 => some 2
  | 3 => some 4
  | 4 => some 8
  | 5 => some 4
  | 6 => some 8
  | 7 => some 4
  | 8 => some 8
  | _ => none

def RO : Nat := 0
def RW : Nat := 1
def WO : Nat := 2
def RWS : Nat := 3

/-- A row of a fixed-size type. -/
def val (sub typ access dflt : Nat) : ObjRow := { sub := sub, typ := typ, access := access, size := (typeBytes typ).getD 0, dflt := dflt }
/-- A row of a DOMAIN of a fixed size, and one of at most a size. -/
def dom (sub access size : Nat) : ObjRow := { sub := sub, typ := 0xA, access := access, size := size }
def domMax (sub access size : Nat) : ObjRow := { sub := sub, typ := 0xA, access := access, size := size, exact_ := false }
def str (size : Nat) : ObjRow := { sub := 0, typ := 9, access := RO, size := size, exact_ := false }

/-- The subindices of an object that has several, after its HIGHEST_SUB (R321). -/
def subs (rs : List ObjRow) : List ObjRow := val 0 1 RO ((rs.getLast?.map (fun r => r.sub)).getD 0) :: rs

/-- Rows of one kind for subindices a to b. -/
def span (a b : Nat) (f : Nat → ObjRow) : List ObjRow := (List.range (b + 1 - a)).map (fun i => f (a + i))

/-- The type code of a size of SIZE_TABLE. -/
def typeOfBytes (n : Nat) : Nat := if n = 1 then 1 else if n = 2 then 2 else if n = 4 then 3 else 4

/-- The bundle of port p in the standard build (R211). -/
def standardPort (p : Nat) : Nat := if p < 6 then p * 2 ^ 24 + 3 * 2 ^ (2 * p) + 3 * 2 ^ (12 + 2 * p) else 0

/-- Count of blown bits of a thermometer (R379). -/
def popCount (x : BitVec 64) : Nat := ((List.range 64).filter (fun i => bit x i)).length

/-- Handles whose member list has a subindex (R267, R321; log 23). -/
def listedHandles (s : State) : Nat := Nat.min s.grp.count.toNat 255

/-- Bytes of object 0x6001: one U16 per handle (R245). -/
def epochBytes (s : State) : Nat := 2 * s.grp.count.toNat

/-- All ones of 64 bits. -/
def ones64 : Nat := 2 ^ 64 - 1

/-- The rows of an object of the low half of the dictionary. -/
def rowsLow (s : State) (index : Nat) : List ObjRow :=
  match index with
  | 0x1000 => [val 0 2 RO 1]
  | 0x1001 => [domMax 0 RO 65536]
  | 0x1002 => [domMax 0 RO 65536]
  | 0x1010 => Config.sizeTable.map (fun (i, n, v) => val i (typeOfBytes n) RO v)
  | 0x1100 => [str 19]
  | 0x1101 => [str 13]
  | 0x1102 => [val 0 1 RO 0xB1]
  | 0x1103 => [str 32]
  | 0x1104 => [val 0 4 RO Config.deviceUid.toNat]
  | 0x1105 => [val 0 4 RO Config.mac.toNat]
  | 0x1106 => [val 0 1 RO s.dop.slot.toNat]
  | 0x1107 => [val 0 3 RO 0x48001F47]
  | 0x1201 => [val 0 1 RWS (s.dop.slot.toNat + 1)]
  | 0x1202 => [val 0 1 RWS 0x20]
  | 0x1203 => [val 0 1 RWS 0]
  | 0x1204 => [val 0 1 RWS 0x80]
  | 0x1205 => [val 0 0 RO 0]
  | 0x1206 => [dom 0 RO 16]
  | 0x1207 => [val 0 1 RO 0]
  | 0x1210 => [{ domMax 0 RWS 128 with wpriv := 2 }]
  | 0x1211 => [domMax 0 RO 1024]
  | 0x1212 => [dom 0 RO 72]
  | 0x1220 => [val 0 4 RO 0]
  | 0x1221 => [{ dom 0 WO 448 with wpriv := 0 }]
  | 0x1222 => [dom 0 RW 388]
  | 0x2000 => [val 0 1 RW 0]
  | 0x2001 => [val 0 4 RW 0]
  | 0x2002 => [val 0 4 RW 0]
  | 0x2003 => [val 0 4 RW 0]
  | 0x2004 => subs [val 1 1 RW 0, val 2 1 RO 0, val 3 3 RO 0]
  | 0x2005 => [val 0 1 RO 0]
  | 0x2006 => [val 0 4 RO 0]
  | 0x2007 => subs [val 1 4 RW 0, val 2 4 RW 0, val 3 0 WO 0, val 4 1 RO 0]
  | 0x2008 => [dom 0 RO 32]
  | 0x2010 => [val 0 1 WO 0]
  | 0x2100 => subs (span 1 12 (fun g => val g 1 WO 0))
  | 0x2101 => subs (span 1 12 (fun g => val g 1 RO 0))
  | 0x2102 => subs (span 1 12 (fun g => val g 1 RO 0))
  | 0x3000 => subs [val 1 1 RO 0, val 2 1 RO 0, val 3 0 RO 0, val 4 3 RO 0, val 5 5 RO 0, val 6 2 RO 0]
  | 0x3001 => [dom 0 RO 240]
  | 0x3002 => subs [val 1 4 RO 0, val 2 4 RO 0]
  | 0x3010 => [val 0 1 RO 0]
  | 0x3011 => subs [val 1 2 RO 0, val 2 3 RO 0, val 3 1 RO 0]
  | 0x3100 => subs [val 1 3 RO 0, val 2 2 RO 0, val 3 2 RO 0]
  | 0x3101 => [val 0 2 RWS 3200]
  | 0x3102 => [val 0 1 RWS 105]
  | 0x3103 => subs [val 1 1 RO 0, val 2 1 RO 0]
  | 0x3104 => [dom 0 RO 184]
  | 0x3110 => [dom 0 RO 80]
  | 0x3111 => [val 0 0 RWS 1]
  | 0x3120 => subs [val 1 2 WO 0, val 2 1 WO 0, val 3 1 WO 0]
  | _ => []

/-- KEY_STATE of a fuse slot: 0 empty, 1 valid, 2 revoked (R382). -/
def keyState (s : State) (k : Nat) : Nat :=
  if (vget ⟨0, 0, 0⟩ s.boot.keyHash k).value = 0 then 0 else if bit s.boot.revoked.value k then 2 else 1

/-- The rows of an object of the high half of the dictionary. -/
def rowsHigh (s : State) (index : Nat) : List ObjRow :=
  match index with
  | 0x4001 => subs [val 1 1 RWS 0, val 2 1 RWS 0]
  | 0x4010 => subs [val 1 3 RWS 3600, val 2 1 RWS 16]
  | 0x4011 => [dom 0 RO 994]
  | 0x4012 => [dom 0 RO 1988]
  | 0x4014 => [dom 0 RO 16]
  | 0x4020 => subs [val 1 0 RWS 1, val 2 3 RWS 86400, val 3 3 RWS 600]
  | 0x4021 => subs [val 1 3 RO 0, val 2 3 RO 0, val 3 3 RO 0]
  | 0x5001 => subs (span 1 6 (fun i => { val i 1 RWS 0 with wpriv := 2 }))
  | 0x5002 => subs [val 1 2 RO 0, val 2 0 RO 0]
  | 0x5010 => subs (span 1 8 (fun i => val i 3 RWS (standardPort (i - 1))))
  | 0x5011 => subs (span 1 8 (fun i => val i 3 RO 0))
  | 0x5012 => subs (span 1 24 (fun i => val i 1 RO 0))
  | 0x5013 => subs (span 1 24 (fun i => val i 1 RW 3))
  | 0x5014 => subs (span 1 12 (fun i => val i 1 RO 0))
  | 0x5020 => subs (span 1 6 (fun i => val i 1 RWS 0) ++ [val 7 2 RWS 0])
  | 0x5030 => [dom 0 RO 262144]
  | 0x5031 => [val 0 1 RO 0]
  | 0x5040 => subs (span 1 8 (fun i => dom i RO 144))
  | 0x5041 => subs (span 1 24 (fun i => dom i RO 64))
  | 0x5042 => subs (span 1 2 (fun i => dom i RO 72))
  | 0x5043 => [val 0 0 WO 0]
  | 0x6000 => [val 0 2 RO 0]
  | 0x6001 => [domMax 0 RWS 8192]
  | 0x6002 => subs (span 1 (listedHandles s) (fun i => domMax i RWS (16 + 4 * 1048576)))
  | 0x6008 => [val 0 2 WO 0]
  | 0x6010 => subs (span 1 2 (fun i => dom i RO 48))
  | 0x7001 => [val 0 2 RW 8]
  | 0x7003 => [val 0 4 WO 0]
  | 0x7010 => subs [val 1 1 RO 0, val 2 4 RO 0, val 3 3 RO 0, val 4 4 RO ones64, val 5 4 RO ones64, val 6 4 RO ones64, val 7 4 RO ones64,
      val 8 1 RO 0, val 9 3 RO 0]
  | 0x7011 => subs [val 1 4 RW ones64]
  | 0x7012 => subs [val 1 4 RW 0, val 2 1 RW 0, val 3 0 WO 0, val 4 1 RO 0]
  | 0x7013 => [val 0 2 RW 100]
  | 0x7020 => subs [val 1 2 RWS 0, val 2 2 RWS 0, val 3 0 RWS 0, val 4 2 RWS 0]
  | 0x7030 => subs [dom 1 RO 160, dom 2 RO 160, val 3 1 RO 1, val 4 2 RO 16, val 5 2 RO 16]
  | 0x7031 => subs (span 1 2 (fun i => dom i RO 144))
  | 0x7032 => [domMax 0 RO 131072]
  | 0x7040 => subs [val 1 2 RW 0, val 2 0 WO 0, val 3 1 RO 0]
  | 0x8001 => subs (span 1 2 (fun i => dom i RO 12800))
  | 0x8002 => [val 0 1 WO 0]
  | 0x8003 => subs (span 1 2 (fun i => dom i RO 120))
  | 0x8020 => subs (span 1 144 (fun i => dom i RO 16))
  | 0x8021 => subs (span 1 144 (fun i => dom i RO 16))
  | 0x8030 => [domMax 0 RO 20152]
  | 0x8031 => [dom 0 RO 20152]
  | 0x8032 => [val 0 0 WO 0]
  | 0x8033 => [val 0 3 RO 0]
  | 0x8040 => [domMax 0 RO 264]
  | 0x8041 => [dom 0 RO 16]
  | 0x8060 => subs [val 1 1 RO 0, val 2 1 RO 0, val 3 0 RO 0, val 4 3 RO 0, val 5 4 RO 0, val 6 4 RO 0, val 7 4 RO 0, val 8 4 RO 0]
  | 0x9000 => [val 0 1 RO 0]
  | 0x9001 => subs (span 1 3 (fun i => val i 1 RO 0) ++ span 4 6 (fun i => val i 1 RWS 0))
  | 0x9002 => subs (span 1 3 (fun i => val i 1 RO 0))
  | 0x9003 => subs (span 1 3 (fun i => val i 1 RO (popCount (vget ⟨0, 0, 0⟩ s.boot.floors (i - 1)).value))
      ++ span 4 6 (fun i => { val i 1 WO 0 with wpriv := 2 }))
  | 0x9004 => subs (span 1 3 (fun i => val i 1 RO 0))
  | 0x9005 => subs (span 1 4 (fun i => val i 1 RO (keyState s (i - 1))) ++ [{ val 5 1 WO 0 with wpriv := 2 }])
  | 0x9012 => subs [val 1 1 RW 0, val 2 3 RW 0, domMax 3 WO 1024, val 4 0 WO 0, { val 5 0 WO 0 with wpriv := 2 }, val 6 1 RO 0]
  | 0x9020 => [dom 0 RO 388]
  | 0x9021 => [domMax 0 RO 4096]
  | 0x9030 => [{ dom 0 WO 32 with wpriv := 0 }]
  | 0x9031 => [dom 0 RO 640]
  | 0x9032 => [val 0 1 RO 0]
  | 0xA000 => [dom 0 RO 12]
  | 0xA001 => subs [val 1 4 RWS 0x0A066A819B, val 2 4 RO 0x0A066A819B]
  | 0xA002 => subs [val 1 1 RWS 0, val 2 1 RO 0, val 3 1 RO 0, val 4 3 RO 0]
  | 0xA003 => subs [val 1 1 RWS 0, val 2 6 RO 0, val 3 6 RO 0, dom 4 RO 8, dom 5 RO 32]
  | 0xA005 => [dom 0 RO 96]
  | _ => []

/-- The subindices of an object that are present, in ascending order; none for an object that is not. -/
def objRows (s : State) (index : Nat) : List ObjRow := if index < 0x4000 then rowsLow s index else rowsHigh s index

/-- One subindex of an object. -/
def objRow (s : State) (key : Nat) : Option ObjRow := (objRows s (key / 256)).find? (fun r => decide (r.sub = key % 256))

/-- Every index in use, ascending. -/
def objIndices : List Nat :=
  [0x1000, 0x1001, 0x1002, 0x1010, 0x1100, 0x1101, 0x1102, 0x1103, 0x1104, 0x1105, 0x1106, 0x1107, 0x1201, 0x1202, 0x1203, 0x1204,
   0x1205, 0x1206, 0x1207, 0x1210, 0x1211, 0x1212, 0x1220, 0x1221, 0x1222, 0x2000, 0x2001, 0x2002, 0x2003, 0x2004, 0x2005, 0x2006,
   0x2007, 0x2008, 0x2010, 0x2100, 0x2101, 0x2102, 0x3000, 0x3001, 0x3002, 0x3010, 0x3011, 0x3100, 0x3101, 0x3102, 0x3103, 0x3104,
   0x3110, 0x3111, 0x3120]
  ++ [0x4001, 0x4010, 0x4011, 0x4012, 0x4014, 0x4020, 0x4021, 0x5001, 0x5002, 0x5010, 0x5011, 0x5012, 0x5013, 0x5014, 0x5020, 0x5030,
   0x5031, 0x5040, 0x5041, 0x5042, 0x5043, 0x6000, 0x6001, 0x6002, 0x6008, 0x6010, 0x7001, 0x7003, 0x7010, 0x7011, 0x7012, 0x7013,
   0x7020, 0x7030, 0x7031, 0x7032, 0x7040]
  ++ [0x8001, 0x8002, 0x8003, 0x8020, 0x8021, 0x8030, 0x8031, 0x8032, 0x8033, 0x8040, 0x8041, 0x8060, 0x9000, 0x9001, 0x9002, 0x9003,
   0x9004, 0x9005, 0x9012, 0x9020, 0x9021, 0x9030, 0x9031, 0x9032, 0xA000, 0xA001, 0xA002, 0xA003, 0xA005]

/-- The group named in a directory entry: an RWS object's, both subindices of 0xA001 (R367), and group g of 0x2100.g (R325, R341). -/
def dirGroup (index : Nat) (r : ObjRow) : Nat :=
  if index = 0x2100 then r.sub else if index = 0xA001 then 0x0C else if r.access = 3 then groupOf (objKey index r.sub) else 0

/-- A directory entry (R325). -/
def dirEntry (index : Nat) (r : ObjRow) : BitVec 64 :=
  BitVec.ofNat 64 (index * 2 ^ 48 + r.sub * 2 ^ 40 + r.typ * 2 ^ 36 + r.access * 2 ^ 34 + r.wpriv * 2 ^ 32 + r.rpriv * 2 ^ 30
    + dirGroup index r * 2 ^ 24 + r.size)

/-- Every object subindex present, in order (R325). -/
def directory (s : State) : List (Nat × ObjRow) := objIndices.flatMap (fun i => (objRows s i).map (fun r => (i, r)))

/-! ### Values -/

/-- The network's address of the module: modified EUI-64 from the EUI-48 (R318). -/
def linkLocal : List Byte :=
  match toBE 6 Config.mac.toNat with
  | [a, b, c, d, e, f] => [0xFE, 0x80, 0, 0, 0, 0, 0, 0, a ^^^ 2, b, c, 0xFF, 0xFE, d, e, f]
  | _ => []

/-- The value a counter read returns. -/
def u64s (xs : List (BitVec 64)) : List Byte := xs.flatMap (fun x => toLE 8 x.toNat)

/-- A subscription's record (R333). -/
def subRecord (tick : Nat) (u : Subscription) : List Byte :=
  toBE 16 u.addr.toNat ++ toLE 2 u.port ++ toLE 2 (u.key / 256) ++ toLE 1 (u.key % 256) ++ [0]
    ++ toLE 2 ((u.expires - tick) / secTicks 1) ++ toLE 2 u.minMs ++ toLE 1 u.queue.length ++ List.replicate 5 0

/-- Work waits in a unit of a physical core's logical core, or its threads run (R411). -/
def coreBusy (k : Core) : Bool :=
  decide (k.mxa.queue ≠ []) || decide (k.mxa.flight ≠ []) || decide (k.vecQueue ≠ []) || decide (k.vecFlight ≠ []) || decide (k.colQueue ≠ [])
    || k.dma.any (fun x => decide (x.queue ≠ []) || x.exec.isSome) || decide (k.phase = .running)

/-- The cores of a quad that hold logical cores. -/
def quadCores (s : State) (die q : Nat) : List Core :=
  (List.range 4).filterMap (fun i => (logicalOf s.map die (4 * q + i)).map (fun l => getCore s ⟨die, l⟩))

/-- The state of a quad as object 0x3110 reports it: 0 OFF, 1 GATED, 2 ON (R410, R411). -/
def quadReport (s : State) (die q : Nat) : Nat :=
  if quadState s die (4 * q) = .off then 0
  else
    let ks := quadCores s die q
    if (decide (s.run.state ≠ 2) || ks.all (fun k => decide (k.phase = .ended))) && ks.all (fun k => !coreBusy k) then 1 else 2

/-- The state code of a physical core (R293), and SPARE cores of a die. -/
def physCode (s : State) (die p : Nat) : Nat :=
  match physState s die p with
  | .active => 0
  | .spare => 1
  | .testing => 2
  | .retired => 3
def freeCores (s : State) (die : Nat) : Nat := ((List.range Config.physCores).filter (fun p => decide (physState s die p = .spare))).length

/-- MODULE of object 0x7030: RETIRED once a module that has reported itself lost runs no program any more (R293, R294, R309; log 30). -/
def moduleCode (s : State) : Nat :=
  if s.fail.reportedLost && decide (s.run.state = 0 ∨ s.run.state = 4) then 3
  else if !s.fab.hasId then 1 else if s.fail.moduleState = 2 then 2 else 0

/-- Input power in watts: mean of the last 1000 samples, largest of the last second (R410). -/
def meanPower (s : State) : Nat := if s.pwr.samples = [] then 0 else (divEven (s.pwr.samples.sum : Int) s.pwr.samples.length).toNat
def peakPower (s : State) : Nat := (s.pwr.peaks.map (fun p => p.2)).foldl Nat.max 0

/-- A clock domain runs (R390, R393, R395). -/
def domainRuns (s : State) (i : Nat) : Bool :=
  let locked (d : Nat) : Bool := decide (vget 0 s.clk.pll d ≠ 0)
  if i < 52 then
    let (d, k) := (i / 26, i % 26)
    if 13 ≤ k ∧ k ≤ 24 then (getLink s (12 * d + (k - 13))).peer && locked d else locked d
  else if i = 52 ∨ i = 53 then locked 0 && s.pcie.inL0
  else if i = 54 then true
  else if i = 55 then true
  else if i = 56 then locked 0
  else if i = 57 then locked 1
  else if i = 58 then locked 1
  else false

/-- MAGIC of a record, and its validity (R446, R447). -/
def recordHeader (bs : List Byte) : BitVec 512 := BitVec.ofNat 512 (ofLE (bs.take 64))
def recordCrc (bs : List Byte) : BitVec 32 := crc32 (splice (splice bs 60 [0, 0, 0, 0]) 32 [0, 0, 0, 0])
def recordValid (bs : List Byte) : Bool :=
  decide (field (recordHeader bs) 511 480 = 0x534B4C31) && decide (field (recordHeader bs) 287 256 = (recordCrc bs).toNat)
def recordSeq (bs : List Byte) : Nat := field (recordHeader bs) 415 384

/-- The slot of the newest valid record (R446). -/
def newestSlot (s : State) : Option (Nat × List Byte) :=
  let a := mget [] s.flash.records 0
  let b := mget [] s.flash.records 1
  if recordValid a then (if recordValid b ∧ recordSeq a < recordSeq b then some (1, b) else some (0, a))
  else if recordValid b then some (1, b) else none

/-- Accumulators in the order of the record (R448). -/
def lifeSections (s : State) : List Byte := (List.range 5022).flatMap (fun i => toLE 4 (mget 0 s.life.acc (64 + 4 * i)).toNat)

/-- The live record: its header describes the last save, with CRC 0 (R447). -/
def lifeLive (s : State) : List Byte := toLE 64 (setField s.life.lastHdr 287 256 0).toNat ++ lifeSections s

/-- The state of a link as object 0x5012 codes it (R208). -/
def linkCode (x : LinkState) : Nat :=
  match x with
  | .disabled => 0
  | .down => 1
  | .training => 2
  | .up => 3
  | .failed => 4

/-- Bytes of a group record (R244, R267). -/
def groupBytes (s : State) (h : Nat) : List Byte :=
  match mfind s.grp.recs h with
  | none => List.replicate 16 0
  | some r => toLE 16 r.hdr.toNat ++ r.members.flatMap (fun e => toLE 4 e.toNat)

/-- A member of a list by subindex from 1. -/
def torusValue (t : Torus) (sub : Nat) : Nat :=
  match sub with
  | 1 => t.extX.toNat
  | 2 => t.extY.toNat
  | 3 => t.extZ.toNat
  | 4 => t.x.toNat
  | 5 => t.y.toNat
  | _ => t.z.toNat
def sliceValue (t : Torus) (sub : Nat) : Nat :=
  match sub with
  | 1 => t.ox.toNat
  | 2 => t.oy.toNat
  | 3 => t.oz.toNat
  | 4 => t.sx.toNat
  | 5 => t.sy.toNat
  | 6 => t.sz.toNat
  | _ => t.master.value.toNat

/-- The number of an object subindex of a fixed-size type, in the low half. -/
def numLow (s : State) (index sub : Nat) : Nat :=
  match index with
  | 0x1205 => if s.dop.plcaStatus then 1 else 0
  | 0x1207 => s.dop.dad.toNat
  | 0x1201 => s.dop.nodeId.toNat
  | 0x1202 => s.dop.toTimer.toNat
  | 0x1203 => s.dop.burstCount.toNat
  | 0x1204 => s.dop.burstTimer.toNat
  | 0x1220 => s.dop.challenge.toNat
  | 0x2000 => s.run.state.toNat
  | 0x2001 => s.run.base.toNat
  | 0x2002 => s.run.commit.value.toNat
  | 0x2003 => s.run.skipped.toNat
  | 0x2004 => if sub = 1 then s.run.variantReq.toNat else if sub = 2 then s.run.variant.toNat else s.run.conflicts.toNat
  | 0x2005 => s.run.status.toNat
  | 0x2006 => s.run.lifts.toNat
  | 0x2007 => if sub = 1 then s.pcie.fetchAddr.toNat else if sub = 2 then s.pcie.fetchLen.toNat else s.pcie.fetchResult.toNat
  | 0x2101 => groupState s sub
  | 0x2102 => (mget 0 s.dop.lastCheck sub).toNat
  | 0x3000 =>
    if sub = 1 then (vget 0 s.clk.pll 0).toNat else if sub = 2 then (vget 0 s.clk.pll 1).toNat
    else if sub = 3 then (if s.clk.refPresent then 1 else 0) else if sub = 4 then s.clk.refLosses.toNat
    else if sub = 5 then (if s.time.state = 2 then (Config.refOffset s.clk.tick).toNat else 0) else (Config.spreadPpm s.clk.tick).toNat
  | 0x3002 => (vget 0 s.clk.withheld (sub - 1)).toNat
  | 0x3010 => s.pwr.resetCause.toNat
  | 0x3011 => if sub = 1 then s.opt.optWords.toNat else if sub = 2 then s.opt.repairs.toNat else s.opt.attempts.toNat
  | 0x3100 => if sub = 1 then s.pwr.vinMv.toNat else if sub = 2 then meanPower s else peakPower s
  | 0x3101 => s.pwr.limit.toNat
  | 0x3102 => s.pwr.thermal.toNat
  | 0x3103 => (vget 0 s.pwr.w (sub - 1)).toNat
  | 0x3111 => if s.pwr.quadOffEn then 1 else 0
  | _ => ((objRow s (objKey index sub)).map (fun r => r.dflt)).getD 0

/-- The number of an object subindex of a fixed-size type, in the high half. -/
def numHigh (s : State) (index sub : Nat) : Nat :=
  let b (x : Bool) : Nat := if x then 1 else 0
  match index with
  | 0x4001 => if sub = 1 then s.mem.tier1Mode.toNat else s.mem.tier2Mode.toNat
  | 0x4010 => if sub = 1 then s.intg.period.toNat else s.intg.capacity.toNat
  | 0x4020 => if sub = 1 then b s.intg.rsEnable else if sub = 2 then s.intg.tierPass.toNat else s.intg.spmPass.toNat
  | 0x4021 => if sub = 1 then s.intg.tierPasses.toNat else if sub = 2 then s.intg.spmPasses.toNat else s.intg.rsLate.toNat
  | 0x5001 => torusValue s.fab.torus sub
  | 0x5002 => if sub = 1 then s.fab.ownId.toNat else b s.fab.hasId
  | 0x5010 => (vget 0 s.fab.ports (sub - 1)).toNat
  | 0x5011 => ((activeLinks s (sub - 1)).map (fun l => 2 ^ l)).sum
  | 0x5012 => linkCode (getLink s (sub - 1)).state
  | 0x5013 => (getLink s (sub - 1)).preset.toNat
  | 0x5014 => (vget 0 s.cages (sub - 1)).toNat
  | 0x5020 => sliceValue s.fab.torus sub
  | 0x5031 => s.fab.tableEpoch.value.toNat
  | 0x6000 => s.grp.count.toNat
  | 0x7001 => s.fail.replayLimit.toNat
  | 0x7010 =>
    (match sub with
     | 1 => s.fail.mapState.toNat
     | 2 => s.fail.snapBytes.toNat
     | 3 => s.fail.cadence.toNat
     | 4 => (slotReport s (mapLocal s.fail.mapHdr)).toNat
     | 5 => (slotReport s (mapWard s.fail.mapHdr)).toNat
     | 6 => s.fail.drainCommit.toNat
     | 7 => s.fail.groupCommit.toNat
     | 8 => s.fail.phase.toNat
     | _ => s.fail.deferred.toNat)
  | 0x7011 => s.fail.triggerAt.toNat
  | 0x7012 => if sub = 1 then s.fail.restoreCommit.toNat else if sub = 2 then s.fail.restoreSource.toNat else s.fail.restoreResult.toNat
  | 0x7013 => s.pcie.drainRate.toNat
  | 0x7020 => if sub = 1 then s.fail.buddyEp.toNat else if sub = 2 then s.fail.wardEp.toNat else if sub = 3 then b s.fail.buddyEn else s.fail.deputy.toNat
  | 0x7030 => if sub = 3 then moduleCode s else freeCores s (sub - 4)
  | 0x7040 => if sub = 1 then s.fail.testTarget.toNat else s.fail.testState.toNat
  | 0x8033 => s.life.poweredS.toNat / 3600
  | 0x8060 =>
    (match sub with
     | 1 => if s.pcie.inL0 then s.pcie.speed.toNat else 0
     | 2 => if s.pcie.inL0 then s.pcie.width.toNat else 0
     | 3 => b (s.pcie.flit && s.pcie.inL0)
     | 4 => s.pcie.linkDowns.toNat
     | 5 => s.pcie.corErr.toNat
     | 6 => s.pcie.uncorErr.toNat
     | 7 => s.pcie.poisonRx.toNat
     | _ => s.pcie.unmapped.toNat)
  | 0x9000 => s.boot.state.toNat
  | 0x9001 => if sub ≤ 3 then (vget 0 s.boot.active (sub - 1)).toNat else (vget 0 s.flash.pref (sub - 4)).toNat
  | 0x9002 => (vget 0 s.boot.log (sub - 1)).toNat
  | 0x9003 => popCount (vget ⟨0, 0, 0⟩ s.boot.floors (sub - 1)).value
  | 0x9004 => (vget 0 s.boot.svn (sub - 1)).toNat
  | 0x9005 => keyState s (sub - 1)
  | 0x9012 => if sub = 1 then s.boot.upComponent.toNat else if sub = 2 then s.boot.upOffset.toNat else s.boot.upStatus.toNat
  | 0x9032 => s.boot.reportState.toNat
  | 0xA001 => if sub = 1 then s.time.nominal.toNat else (effectiveAddend s 0).toNat
  | 0xA002 =>
    if sub = 1 then s.time.mode.toNat else if sub = 2 then s.time.state.toNat else if sub = 3 then s.time.source.toNat
    else (match s.time.holdoverStart with
          | some t => (s.clk.tick - t) / secTicks 1
          | none => 0)
  | 0xA003 =>
    if sub = 1 then s.time.ptp.domain.toNat else if sub = 2 then (BitVec.ofInt 64 (divEven s.time.ptp.offset (2 ^ 32))).toNat
    else (BitVec.ofInt 64 (divEven s.time.ptp.meanPath (2 ^ 32))).toNat
  | _ => ((objRow s (objKey index sub)).map (fun r => r.dflt)).getD 0

/-- The bytes of a STR or DOMAIN. -/
def domValue (s : State) (index sub : Nat) : List Byte :=
  match index with
  | 0x1001 => (directory s).flatMap (fun (i, r) => toLE 8 (dirEntry i r).toNat)
  | 0x1002 => (directory s).flatMap (fun (_, r) => toLE 8 (if r.typ < 9 then r.dflt else 0))
  | 0x1100 => "Crecen Microsystems".toList.map (fun c => BitVec.ofNat 8 c.toNat)
  | 0x1101 => "CMS-SK4800-B1".toList.map (fun c => BitVec.ofNat 8 c.toNat)
  | 0x1103 => Config.serial.take 32
  | 0x1206 => linkLocal
  | 0x1210 => s.dop.operators.flatMap (fun a => toBE 16 a.toNat)
  | 0x1211 => s.dop.subs.flatMap (subRecord s.clk.tick)
  | 0x1212 => u64s s.dop.counters.toList
  | 0x1222 => s.flash.maintKey
  | 0x2008 => toLE 32 s.run.lastGate.toNat
  | 0x3001 => (List.range 60).flatMap (fun i => toLE 4 (if domainRuns s i then (Config.domainKhz i s.clk.tick).toNat else 0))
  | 0x3104 => s.pwr.temps.toList.flatMap (fun t => toLE 2 t.toNat)
  | 0x3110 => (List.range 80).map (fun i => BitVec.ofNat 8 (quadReport s (i / 40) (i % 40)))
  | 0x4011 => (List.range 994).map (fun r => mget 0 s.intg.levels r)
  | 0x4012 => (List.range 994).flatMap (fun r => toLE 2 (mget 0 s.intg.overflows r).toNat)
  | 0x4014 => toLE 16 s.intg.event.toNat
  | 0x5030 => (List.range 65536).flatMap (fun i => toLE 4 (pisteEntry s 0 i).toNat)
  | 0x5040 => u64s (vget (Vector.replicate 18 0) s.fab.portStats (sub - 1)).toList
  | 0x5041 => u64s (getLink s (sub - 1)).stats.toList
  | 0x5042 => u64s (getRouter s (sub - 1)).stats.toList
  | 0x6001 => (List.range s.grp.count.toNat).flatMap (fun h => toLE 2 (groupEpoch s h).toNat)
  | 0x6002 => groupBytes s (sub - 1)
  | 0x6010 => u64s (getRouter s (sub - 1)).collStats.toList
  | 0x7030 => (List.range Config.physCores).map (fun p => BitVec.ofNat 8 (physCode s (sub - 1) p))
  | 0x7031 => (List.range Config.logicalCores).map (fun l => BitVec.ofNat 8 (physOf s.map (sub - 1) l))
  | 0x7032 => s.fail.queue.flatMap (fun e => toLE 2 e.toNat)
  | 0x8001 => u64s ((List.range (10 * Config.physCores)).map (fun i => mget 0 s.coreStats (2560 * (sub - 1) + i)))
  | 0x8003 => u64s ((List.range 15).map (fun i => mget 0 s.dieStats (15 * (sub - 1) + i)))
  | 0x8020 => toLE 16 (getCore s ⟨0, sub - 1⟩).trap.toNat
  | 0x8021 => toLE 16 (getCore s ⟨1, sub - 1⟩).trap.toNat
  | 0x8030 => ((newestSlot s).map (fun p => p.2)).getD []
  | 0x8031 => lifeLive s
  | 0x8040 => s.intg.cper
  | 0x8041 => toLE 16 (Config.cperGuid 2).toNat
  | 0x9020 => padTo 388 (Config.idPubKey.take 388)
  | 0x9021 => Config.idCert.take 4096
  | 0x9031 => toLE 640 s.boot.report.toNat
  | 0xA000 => toLE 12 (vget 0 s.time.counter 0).toNat
  | 0xA003 => if sub = 4 then toLE 8 s.time.ptp.gm.toNat else u64s s.time.ptp.counters.toList
  | 0xA005 => s.fab.links.toList.flatMap (fun x => toLE 4 x.delayPs.toNat)
  | _ => []

/-- The effective value of an object subindex (R322, R328). -/
def readValue (s : State) (key : Nat) : List Byte :=
  match objRow s key with
  | none => []
  | some r =>
    match typeBytes r.typ with
    | some n =>
      let (i, sub) := (key / 256, key % 256)
      toLE n (if sub = 0 ∧ 1 < (objRows s i).length then r.dflt else if i < 0x4000 then numLow s i sub else numHigh s i sub)
    | none => domValue s (key / 256) (key % 256)

/-- Critical words that a read of an object votes (R185). -/
def voteRead (key : Nat) (s : State) : State :=
  match key / 256 with
  | 0x1002 => (List.range 4).foldl (fun s i => voteKeyHash i s) (voteRevoked ([0, 1, 2].foldl (fun s i => voteFloor i s) s))
  | 0x2002 => voteCommit s
  | 0x5020 => if key % 256 = 7 then voteMaster s else s
  | 0x5031 => voteTable s
  | 0x9003 => voteFloor (key % 256 - 1) s
  | 0x9005 => voteRevoked (voteKeyHash (key % 256 - 1) s)
  | _ => s

end Sys2Proof.Machine
end

