-- ==== Sys2Proof/Machine/Failures.lean ====
section
/-! DEFINITION. Failure paths: requests to other modules' objects (R345, R346), restores (R305), lost members and takeover (R308, R309), port reports and probes (R306, R307), field tests (R311, R312). -/
namespace Sys2Proof.Machine

/-! ### Remote object access, requester's side (R345, R346) -/

/-- Payload of an OBJ_REQ or OBJ_RSP (R345). -/
def objPayload (op typ code index sub : Nat) (more : Bool) (len seg value : Nat) : BitVec 128 :=
  BitVec.ofNat 128 (op % 16 * 2 ^ 124 + typ % 16 * 2 ^ 120 + code % 256 * 2 ^ 112 + index % 2 ^ 16 * 2 ^ 96 + sub % 256 * 2 ^ 88
    + (if more then 2 ^ 87 else 0) + len % 16 * 2 ^ 83 + seg % 2 ^ 16 * 2 ^ 64 + value % 2 ^ 64)

/-- An OBJ_REQ leaves with a tag. -/
def sendObjReq (dest tag : Nat) (p : BitVec 128) (s : State) : State := injectCtrl s 0 (mkCtrl s 0 dest 5 false 0 0 0 tag p)

/-- A request of the management firmware to another module; it is resent until it is answered. -/
def sendRemote (dest op typ index sub len value : Nat) (s : State) : State :=
  let tag := s.dop.nextTag
  let p := objPayload op typ 0 index sub false len 0 value
  let s := { s with dop := { s.dop with
    nextTag := tag + 1, remote := s.dop.remote ++ [⟨tag, BitVec.ofNat 16 dest, p, s.clk.tick⟩] } }
  sendObjReq dest tag.toNat p s

/-- A request that has had no response for 2 s is resent with the same TAG. -/
def execRemoteObjectRetry (tag : BitVec 16) (s : State) : Result :=
  .next <|
    match s.dop.remote.find? (fun r => decide (r.tag = tag)) with
    | none => s
    | some r =>
      if r.sentAt + secTicks 2 ≤ s.clk.tick ∧ s.boot.serving then
        sendObjReq r.dest.toNat tag.toNat r.payload
          { s with dop := { s.dop with remote := s.dop.remote.map (fun x => if x.tag = tag then { x with sentAt := s.clk.tick } else x) } }
      else s

/-! ### Members and positions (R216, R218) -/

/-- Endpoint IDs in use in the slice. -/
def validIds (s : State) : List Nat :=
  ((getRouter s 0).piste.filter (fun e => entryValid e.2 && !(getRouter s 0).pisteBad.contains e.1)).map (fun e => e.1)

/-- The other members of the slice. -/
def otherMembers (s : State) : List Nat := (validIds s).filter (fun e => decide (e ≠ s.fab.ownId.toNat))

/-- The coordinate one hop along an axis, none outside the slice box; it wraps only on an axis the slice spans (R216, R307). -/
def hopCoord (s : State) (a x : Nat) (neg : Bool) : Option Nat :=
  let e := extentOf s a
  if sliceSize s a = e then (if e = 0 then none else some (if neg then (x + e - 1) % e else (x + 1) % e))
  else
    let (lo, hi) := (sliceOrigin s a, sliceOrigin s a + sliceSize s a)
    if neg then (if lo < x then some (x - 1) else none) else (if x + 1 < hi then some (x + 1) else none)

/-- The member one hop from a module in a direction (R307). -/
def neighbourOf (s : State) (ep dir : Nat) : Option Nat :=
  let e := pisteEntry s 0 ep
  let a := dir / 2
  (hopCoord s a (entryCoord e a) (decide (dir % 2 = 1))).bind (fun x =>
    (validIds s).find? (fun i =>
      let f := pisteEntry s 0 i
      [0, 1, 2].all (fun b => decide (entryCoord f b = if b = a then x else entryCoord e b))))

/-! ### Restores (R305) -/

def setRestore (r : Nat) (s : State) : State := { s with fail := { s.fail with restoreResult := BitVec.ofNat 8 r } }

/-- PHASE as the background copies leave it. -/
def settlePhase (s : State) : State := setPhase (if s.fail.background = 2 then 2 else if s.fail.background = 3 then 3 else 0) s

/-- The state of a module that is being filled: a spare is FILLING from the start of its restore, and a MEMBER or a spare again after it (R293, R308). -/
def setFilling (old new : BitVec 8) (s : State) : State :=
  if s.fail.moduleState = old then { s with fail := { s.fail with moduleState := new } } else s

/-- A restore ends without success. -/
def failRestore (r : Nat) (s : State) : State :=
  let s := dropReads .restore s
  setFilling 2 1 (settlePhase (setRestore r { s with fail := { s.fail with restoreStage := 0 } }))

/-- A slot header can serve the restore; a module that has started no image has no IMAGE_ID to hold against it (R298, R305). -/
def slotServes (s : State) (h : BitVec 512) : Bool :=
  decide (slotMagic h = 0x534B5331) && decide (slotState h = 2) && decide (slotCommit h = s.fail.restoreCommit)
    && decide (slotOwner h = s.fab.ownId.toNat) && (!s.boot.progValid || decide (slotImage h = s.run.imageHash.toNat % 2 ^ 32))

/-- GO of object 0x7012. SOURCE 1 asks the buddy for the COMMIT of its ward area, which sets off the buddy's push (R305; log 131). -/
def restoreStart (s : State) : State :=
  let base := s.run.base.toNat
  let h := headerAt s.mem base
  match mapAt s.mem base (sectionsAt s.mem base h) with
  | none => setRestore 3 s
  | some (map, rs) =>
    if !mapOk map rs then setRestore 3 s
    else
      let s := { s with fail := { s.fail with
        restoreHdr := map, restoreRegions := rs, restoreStage := 0 } }
      let go (s : State) : State := setFilling 1 2 (setPhase 4 (setRestore 1 s))
      if s.fail.restoreSource = 0 then
        let x := slotAt s.mem (mapLocal map)
        if slotServes s x then go { s with fail := { s.fail with restoreSlot := x } } else setRestore 3 s
      else if s.fail.restoreSource = 1 then sendRemote s.fail.buddyEp.toNat 1 4 0x7010 5 0 0 (go s)
      else if hostUsable s then
        let bus := mapHost map - hostBase
        readHost .restore (bus + mapStride map) 4096 64 (readHost .restore bus 0 64 (go { s with fail := { s.fail with restoreStage := 1 } }))
      else setRestore 4 s

/-- Bytes returned to the restore for destinations [lo, lo + n). -/
def restoredBytes (s : State) (lo n : Nat) : List Byte :=
  slice ((s.pcie.reads.filter (fun x => decide (x.reader = .restore) && decide (lo ≤ x.dst) && decide (x.dst < lo + n))).flatMap
    (fun x => x.data.getD [])) 0 n

/-- Every read of the restore has returned: headers are checked and the data is asked for (R305). -/
def settleRestore (s : State) : State :=
  let mine := s.pcie.reads.filter (fun x => decide (x.reader = .restore))
  if s.fail.restoreStage = 1 ∧ mine.all (fun x => x.data.isSome) then
    let hdr (i : Nat) : BitVec 512 := BitVec.ofNat 512 (ofLE (restoredBytes s (4096 * i) 64))
    let map := s.fail.restoreHdr
    let s := { s with pcie := { s.pcie with reads := s.pcie.reads.filter (fun x => decide (x.reader ≠ .restore)) } }
    match [0, 1].find? (fun i => slotServes s (hdr i)) with
    | none => failRestore 3 s
    | some i =>
      let bus := mapHost map + i * mapStride map - hostBase
      let s := { s with fail := { s.fail with restoreStage := 2, restoreSlot := hdr i } }
      (placedRegions s.fail.restoreRegions 4096).foldl (fun s (dst, n, off) => readHost .restore (bus + off) dst n s) s
  else s

/-- The buddy answers with the COMMIT of its ward area: another one than the restore's is no source (R305). -/
def buddyAnswered (commit : Nat) (s : State) : State :=
  if s.fail.restoreResult = 1 ∧ s.fail.restoreSource = 1 ∧ commit ≠ s.fail.restoreCommit.toNat then failRestore 3 s else s

/-- The ward asks for the COMMIT of its area: a module in STOPPED whose ward area is complete and the ward's own pushes it to the ward's local area, header first and STATE 2 last (R170, R298, R305; log 131). -/
def pushWard (s : State) : State :=
  let a := mapWard s.fail.mapHdr
  let h := slotAt s.mem a
  if s.run.state = 0 ∧ s.fail.mapState = 1 ∧ slotMagic h = 0x534B5331 ∧ slotState h = 2 ∧ slotOwner h = s.fail.wardEp.toNat then
    let w := s.fail.wardEp.toNat
    let dst := mapLocal s.fail.mapHdr
    let (id, s) := takeId s
    sendFinal 0 w 0xFFFF 0 (areaPieces s 0).length (some (dst + 24, 2 * 2 ^ 56)) (injectData s 0 (some id) (areaPackets s w 0xFFFF a dst))
  else s

/-- Objects 0x2002 and 0x2003 from the header (R305). -/
def restoreDone (s : State) : State :=
  let h := s.fail.restoreSlot
  let s := { s with
    run := { s.run with commit := triple (slotCommit h), skipped := slotSkipped h }
    fail := { s.fail with restoreStage := 0 } }
  setFilling 2 0 (settlePhase (setRestore 2 s))

/-- Every byte of the restore has landed (R305). -/
def execRestoreComplete (chk : Chk) (s : State) : Result :=
  .next <|
    let rs := placedRegions s.fail.restoreRegions 4096
    if s.fail.restoreResult ≠ 1 then s
    else if s.fail.restoreSource = 2 then
      let mine := s.pcie.reads.filter (fun x => decide (x.reader = .restore))
      if s.fail.restoreStage = 2 ∧ mine.all (fun x => x.data.isSome) then
        let s := { s with pcie := { s.pcie with reads := s.pcie.reads.filter (fun x => decide (x.reader ≠ .restore)) } }
        restoreDone (mine.foldl (fun s x => land x.dst (x.data.getD []) s) s)
      else s
    else
      let a := mapLocal s.fail.restoreHdr
      let x := slotAt s.mem a
      if slotServes s x then
        match imageRead chk ((a, 64) :: rs.map (fun r => (a + r.2.2, r.2.1))) s with
        | (s, some b) => failRestore 4 (strayRecord b s)
        | (s, none) =>
          let s := { s with fail := { s.fail with restoreSlot := x } }
          restoreDone (rs.foldl (fun s (dst, n, off) => land dst (readBytes s.mem (a + off) n) s) s)
      else s

/-! ### Takeover (R308, R309; log 29) -/

/-- Every other member, and this module, is told to stop. -/
def stopSlice (s : State) : State :=
  let s := (otherMembers s).foldl (fun s m => sendRemote m 2 1 0x2000 0 1 0 s) s
  (stopWritten s).2

/-- The buddy of a member, as the slice master has paired it (R304). -/
def buddyAt (s : State) (m : Nat) : Nat := ((mfind s.fail.buddies m).getD (Config.buddyOf m)).toNat

/-- Object 0x7020 of a member: one value staged and committed (R304, R308). -/
def sendBuddy (m sub value : Nat) (s : State) : State := sendRemote m 4 0 0x2100 9 0 0 (sendRemote m 3 2 0x7020 sub 2 value s)

/-- A member whose buddy was lost gets a new one, which gets the member as its ward (R304, R316). -/
def newPair (lost : Nat) (s : State) (m : Nat) : State :=
  let b := Config.newBuddy m lost
  sendBuddy b.toNat 2 m (sendBuddy m 1 b.toNat { s with fail := { s.fail with buddies := mset s.fail.buddies m b } })

/-- The lost ID moves to a spare: entries at epoch + 1, the ID, the table epoch (R219), the spare's buddy, and new buddies for the members that the lost one held (R308, R316). -/
def moveId (lost : Nat) (s : State) : State :=
  let s := voteTable s
  let t := s.fab.tableEpoch.value + 1
  let e : BitVec 32 := BitVec.ofNat 32 (2 ^ 31 + t.toNat * 2 ^ 16 + (Config.spareEndpoint s.fail.sparesUsed).toNat)
  let members := (otherMembers s).filter (fun m => decide (m ≠ lost))
  let s := members.foldl (fun s m => sendPiste m lost 0 0 e s) s
  let s := writePiste lost e s
  let s := sendPiste lost lost 2 0 0 (sendPiste lost lost 0 0 e s)
  let s := (members ++ [lost]).foldl (fun s m => sendPiste m 0 1 t.toNat 0 s) s
  let s := { s with fab := { s.fab with tableEpoch := triple t }, fail := { s.fail with sparesUsed := s.fail.sparesUsed + 1, moveWaits := false } }
  (members.filter (fun m => decide (buddyAt s m = lost))).foldl (newPair lost) (sendBuddy lost 1 (buddyAt s lost) s)

/-- The deputy takes the lost slice master's place: every member gets the new SLICE_MASTER, and the move waits for their answers, since a PISTE_UPDATE is taken from the slice master only (R219, R306). -/
def takeMastership (lost : Nat) (s : State) : State :=
  let s := ((otherMembers s).filter (fun m => decide (m ≠ lost))).foldl (fun s m =>
    sendRemote m 4 0 0x2100 7 0 0 (sendRemote m 3 2 0x5020 7 2 s.fab.ownId.toNat s)) s
  { s with fab := { s.fab with torus := { s.fab.torus with master := triple s.fab.ownId } }, fail := { s.fail with moveWaits := true } }

/-- A takeover waits for members that have not taken the new SLICE_MASTER yet. -/
def masterPending (s : State) : Bool :=
  s.dop.remote.any (fun r => decide (field r.payload 127 124 = 4 ∧ field r.payload 111 96 = 0x2100 ∧ field r.payload 95 88 = 7))

/-- A spare takes a lost ID. With no spare left every member is left with RUN_STATUS 0x12, which the ABORT has given it, and the host hears of it by a record of its own (R309). -/
def takeSpare (lost : Nat) (s : State) : State :=
  if s.fail.sparesUsed < Config.spareCount then moveId lost s
  else cper { cls := 9, action := 0 } { s with run := { s.run with status := 0x12 }, fail := { s.fail with moveWaits := false } }

/-- Re-forming the slice without a lost member: aborts, stops, the spare (R308 step 2). -/
def reform (lost : Nat) (s : State) : State :=
  let s := (groupsOf s lost).foldl (fun s h => failGroup h (relayAbort 2 lost h s)) s
  let s := voteMaster (stopSlice s)
  let s := if isMaster s then s else takeMastership lost s
  if s.fail.moveWaits && masterPending s then s else takeSpare lost s

/-- The members of the slice that were not lost. -/
def survivors (s : State) : List Nat := (otherMembers s).filter (fun m => !s.fail.queue.contains (BitVec.ofNat 16 m))

/-- Object 0x7012 of a member is written: COMMIT, SOURCE and GO (R305, R308 step 4). -/
def sendRestore (m source : Nat) (s : State) : State :=
  let s := sendRemote m 2 4 0x7012 1 8 s.fail.groupCommit.toNat s
  sendRemote m 2 0 0x7012 3 1 1 (sendRemote m 2 1 0x7012 2 1 source s)

/-- The source for a survivor whose local area holds a COMMIT (R308, R309). -/
def localSource (s : State) (commit : Nat) : Nat := if commit = s.fail.groupCommit.toNat then 0 else 2

/-- Every survivor is asked which COMMIT its local area holds, and this module restores itself (R308 step 4). -/
def fillSurvivors (s : State) : State :=
  let s := (survivors s).foldl (fun s m => sendRemote m 1 4 0x7010 4 0 0 s) s
  let source := localSource s (slotReport s (mapLocal s.fail.mapHdr)).toNat
  restoreStart (dropReads .restore { s with fail := { s.fail with restoreCommit := s.fail.groupCommit, restoreSource := BitVec.ofNat 8 source } })

/-- The result of the spare's restore is asked for. -/
def askResult (ep : Nat) (s : State) : State := sendRemote ep 1 1 0x7012 4 0 0 s

/-- The newest COMMIT that a complete drain of every lost member holds (R309). -/
def commonDrain (s : State) : Option (BitVec 64) :=
  match s.fail.queue with
  | [] => none
  | e :: rest =>
    ((Config.lostDrains e.toNat).filter (fun c => rest.all (fun x => (Config.lostDrains x.toNat).contains c))).foldl
      (fun m c => match m with
        | some b => some (if b.toNat < c.toNat then c else b)
        | none => some c) none

/-- The head of the queue restores from its drain, at GROUP_COMMIT or after a roll back of the whole group (R309; log 29). -/
def fillFromDrain (ep : Nat) (s : State) : State :=
  let go (s : State) : State := askResult ep (sendRestore ep 2 { s with fail := { s.fail with fromDrain := true } })
  if (Config.lostDrains ep).contains s.fail.groupCommit then go s
  else
    match commonDrain s with
    | some c => go (fillSurvivors { s with fail := { s.fail with groupCommit := c } })
    | none => go s

/-- The head of the queue is filled from its buddy's ward area, once that is known to hold GROUP_COMMIT (R308 step 4). -/
def fillHead (ep : Nat) (s : State) : State :=
  let b := buddyAt s ep
  let s := { s with fail := { s.fail with filling := true, fromDrain := false } }
  if b = s.fab.ownId.toNat then
    (if slotReport s (mapWard s.fail.mapHdr) = s.fail.groupCommit then askResult ep (sendRestore ep 1 s) else fillFromDrain ep s)
  else sendRemote b 1 4 0x7010 5 0 0 s

/-- Step 4 of a takeover: the slice master's PROGRAM_IMAGE_BASE has been set, the end of step 3 (R308; log 29). -/
def fillSlice (s : State) : State :=
  match s.fail.queue with
  | [] => s
  | e :: _ => if isMaster s && !s.fail.filling then fillHead e.toNat (fillSurvivors s) else s

/-- The head of the restore queue has been filled; the next takes its turn and adds its own step 4 (R309). -/
def nextInQueue (s : State) : State :=
  match s.fail.queue with
  | [] => s
  | _ :: rest =>
    let s := { s with fail := { s.fail with queue := rest, filling := false } }
    match rest with
    | [] => s
    | e :: _ => fillHead e.toNat (reform e.toNat s)

/-- The restore of the queue's head has a result: done, or none yet, or no source; a restore from the buddy that failed goes on from the drain (R309). -/
def headResult (ep result : Nat) (s : State) : State :=
  if result = 2 then nextInQueue s
  else if result < 2 then askResult ep s
  else if s.fail.fromDrain then { s with fail := { s.fail with filling := false } }
  else fillFromDrain ep s

/-- An answer to a READ that a takeover or a restore sent (R305, R308, R309). -/
def takeoverAnswer (src index sub value : Nat) (s : State) : State :=
  let own := decide (s.fail.restoreResult = 1 ∧ s.fail.restoreSource = 1 ∧ src = s.fail.buddyEp.toNat)
  match index, sub with
  | 0x7010, 4 => if s.fail.filling && (survivors s).contains src then sendRestore src (localSource s value) s else s
  | 0x7010, 5 =>
    if own then buddyAnswered value s
    else
      match s.fail.queue with
      | [] => s
      | e :: _ =>
        if s.fail.filling && decide (src = buddyAt s e.toNat) then
          (if value = s.fail.groupCommit.toNat then askResult e.toNat (sendRestore e.toNat 1 s) else fillFromDrain e.toNat s)
        else s
  | 0x7012, 4 =>
    (match s.fail.queue with
     | e :: _ => if s.fail.filling && decide (src = e.toNat) then headResult src value s else s
     | [] => s)
  | _, _ => s

/-- Members have taken the new SLICE_MASTER: the move that waited for them (R306). -/
def afterAnswer (s : State) : State :=
  match s.fail.queue with
  | e :: _ => if s.fail.moveWaits && !masterPending s then takeSpare e.toNat s else s
  | [] => s

/-- A member that is lost already is found lost again: the spare that is being filled has failed, and the next spare takes the ID (R309). -/
def spareLost (ep : Nat) (s : State) : State :=
  if s.fail.filling && decide (s.fail.queue.head? = some (BitVec.ofNat 16 ep)) then
    let s := cper { cls := 9, action := 5 } { s with fail := { s.fail with filling := false } }
    if s.fail.sparesUsed < Config.spareCount then fillHead ep (moveId ep s) else takeSpare ep s
  else s

/-- The failure of the buddy that the queue's head is filled from (R309). -/
def buddyLost (ep : Nat) (s : State) : State :=
  match s.fail.queue with
  | e :: _ => if s.fail.filling && decide (buddyAt s e.toNat = ep) then fillFromDrain e.toNat s else s
  | [] => s

/-- A member is declared lost: its record, the restore queue, and the takeover of the queue's head (R306, R308, R309). -/
def declareLost (ep : Nat) (s : State) : State :=
  let e := BitVec.ofNat 16 ep
  if s.fail.queue.contains e then spareLost ep s
  else
    let first := decide (s.fail.queue = [])
    let s := cper { cls := 9, action := 5 } { s with fail := { s.fail with queue := s.fail.queue ++ [e] } }
    if first then reform ep s else buddyLost ep s

/-! ### Port reports and probes (R306, R307) -/

/-- This module watches for the loss of a member: the slice master for every one, the deputy for the slice master. -/
def watches (s : State) (ep : Nat) : Bool :=
  isMaster s || (s.fab.hasId && decide (s.fail.deputy = s.fab.ownId) && decide (ep = (masterEp s).toNat))

/-- Both ends of a port that is down are alive: the module with the higher endpoint ID counts as lost; the deputy declares the slice master only (R295, R306). -/
def bothAlive (a b : Nat) (s : State) : State := if watches s (Nat.max a b) then declareLost (Nat.max a b) s else s

/-- The liveness probe: a READ of object 0x2000, sent once (R346). -/
def sendProbe (ep : Nat) (s : State) : State :=
  if s.fail.probes.any (fun p => decide (p.1.toNat = ep)) then s
  else
    let tag := s.dop.nextTag
    let s := { s with
      dop := { s.dop with nextTag := tag + 1 }
      fail := { s.fail with probes := s.fail.probes ++ [(BitVec.ofNat 16 ep, tag, s.clk.tick)] } }
    sendObjReq ep tag.toNat (objPayload 1 1 0 0x2000 0 false 0 0 0) s

/-- Fields of a report (R307). -/
def repEp (v : BitVec 64) : Nat := field v 63 48
def repDir (v : BitVec 64) : Nat := field v 42 40
def repDown (v : BitVec 64) : Bool := bit v 39
def repMs (v : BitVec 64) : Nat := field v 31 0

/-- A report at the slice master or the deputy. -/
def takeReport (v : BitVec 64) (s : State) : State :=
  let s := voteMaster s
  match neighbourOf s (repEp v) (repDir v) with
  | none => s
  | some m =>
    let pair := (BitVec.ofNat 16 (repEp v), BitVec.ofNat 16 m)
    if repDown v then
      if 100 ≤ repMs v ∧ watches s m then
        let s := { s with fail := { s.fail with reports := if s.fail.reports.contains pair then s.fail.reports else s.fail.reports ++ [pair] } }
        if m = s.fab.ownId.toNat then bothAlive (repEp v) m s else sendProbe m s
      else s
    else { s with fail := { s.fail with reports := s.fail.reports.filter (fun p => decide (p ≠ pair)) } }

/-- A probed member has answered: every pair still reported down is a port between live members. -/
def probeAnswered (ep : Nat) (s : State) : State :=
  let mine := s.fail.reports.filter (fun p => decide (p.2.toNat = ep))
  let s := { s with fail := { s.fail with
    probes := s.fail.probes.filter (fun p => decide (p.1.toNat ≠ ep)), reports := s.fail.reports.filter (fun p => decide (p.2.toNat ≠ ep)) } }
  mine.foldl (fun s p => bothAlive p.1.toNat p.2.toNat s) (voteMaster s)

/-- A probe has not been answered for 500 ms: its member is lost. -/
def execLivenessProbeTimeout (ep : BitVec 16) (s : State) : Result :=
  .next <|
    match s.fail.probes.find? (fun p => decide (p.1 = ep)) with
    | some p =>
      if p.2.2 + msTicks 500 ≤ s.clk.tick then
        declareLost ep.toNat { s with fail := { s.fail with
          probes := s.fail.probes.filter (fun q => decide (q.1 ≠ ep)), reports := s.fail.reports.filter (fun q => decide (q.2 ≠ ep)) } }
      else s
    | none => s

/-- One report to a module; this module's own is taken at once. -/
def sendReport (dest : Nat) (v : BitVec 64) (s : State) : State :=
  if dest = s.fab.ownId.toNat then takeReport v s else sendRemote dest 2 4 0x7003 0 8 v.toNat s

/-- A report goes to the slice master and to the deputy. -/
def reportPort (port : Nat) (down : Bool) (ms : Nat) (s : State) : State :=
  let v : BitVec 64 := BitVec.ofNat 64 (s.fab.ownId.toNat * 2 ^ 48 + portDir s port * 2 ^ 40 + (if down then 2 ^ 39 else 0) + ms % 2 ^ 32)
  let s := voteMaster s
  let m := (masterEp s).toNat
  let d := s.fail.deputy.toNat
  let s := sendReport m v s
  if d ≠ m ∧ entryValid (pisteEntry s 0 d) then sendReport d v s else s

/-- A port has been down for 100 ms, or a reported port is UP again: one report each (R307). -/
def execPortDownReportTimer (port : Nat) (s : State) : Result :=
  whenUnit (portOk port) <|
    let reported := vget false s.fab.portReported port
    let mark (b : Bool) (s : State) : State := { s with fab := { s.fab with portReported := vset s.fab.portReported port b } }
    if !s.fab.hasId then s
    else
      match vget none s.fab.portDownAt port with
      | some t =>
        if !reported && decide (t + msTicks 100 ≤ s.clk.tick) then reportPort port true ((s.clk.tick - t) / msTicks 1) (mark true s) else s
      | none => if reported && decide (portLinks s port ≠ []) then reportPort port false 0 (mark false s) else s

/-! ### Field tests (R311, R312) -/

/-- Die and physical core of TARGET. -/
def testDie (t : BitVec 16) : Nat := field t 15 15
def testPhys (t : BitVec 16) : Nat := field t 7 0

/-- A test runs, or waits for its swap, on a die. -/
def testOn (s : State) (d : Nat) : Bool := (mfind s.fail.tests d).isSome || s.map.swapping.any (fun k => decide (k / 256 = d))

/-- START of object 0x7040, accepted: the suspected silent error gets its record of class 0x0B (R289, R314, R315). -/
def testStart (s : State) : State :=
  let (d, p) := (testDie s.fail.testTarget, testPhys s.fail.testTarget)
  let s := cper { cls := 0xB, action := 7, unitType := 0, unitIndex := p, die := d, history := historyCount s (.core d p)
                  lcore := (logicalOf s.map d p).getD 0xFF } s
  match physState s d p with
  | .spare =>
    settleQuads { setPhysState s d p .testing with
      fail := { s.fail with tests := mset s.fail.tests d (p, s.clk.tick), testState := 2 } }
  | .active =>
    { s with map := { s.map with swapping := s.map.swapping ++ [256 * d + p] }, fail := { s.fail with testState := 1 } }
  | _ => s

/-- A test ends: the core is SPARE again unless its history has made it permanent meanwhile, or RETIRED with its history, record and notification (R312, R313, R357, R449). -/
def execFieldTestEnd (die : Nat) (pass : Bool) (s : State) : Result :=
  whenUnit (dieOk die) <|
    match mfind s.fail.tests die with
    | none => s
    | some (p, _) =>
      let s := lifeTest (18872 + 4 * (160 * die + p)) (!pass) s
      let s := { s with fail := { s.fail with tests := mdel s.fail.tests die, testState := if pass then 3 else 4 } }
      let s := if pass then setPhysState s die p (if s.flash.permanent.contains (.core die p) then .retired else .spare)
        else
          let s := { s with flash := { s.flash with history := s.flash.history ++ [(.core die p, s.life.poweredS.toNat)] } }
          notify 0x704003 1 [4] (setPhysState (declarePermanent (.core die p) s) die p .retired)
      settleQuads (msix 6 s)

end Sys2Proof.Machine
end

