-- ==== Sys2Proof/Machine/Pcie.lean ====
section
/-! DEFINITION. The PCI Express port (R348 to R364): configuration space, the BAR2 window, MSI-X, reads of host memory and their completions, link loss and port resets, the image fetch. The commands on BAR0 stand in Window.lean. -/
namespace Sys2Proof.Machine

/-- The port answers requests: in L0, its settings loaded (R349, R413). -/
def pcieReady (s : State) : Bool := s.opt.loaded && s.pcie.inL0

/-- Memory requests of the host are served. -/
def hostAccess (s : State) : Bool := pcieReady s && s.pcie.memEnable && !s.pcie.d3

/-- A request of the host to BAR0 while the port is not ready gets Request Retry Status (R362). -/
def bar0Request (f : State → State) (s : State) : State :=
  if !s.pcie.inL0 then s
  else if !pcieReady s then emit s (.configReply none)
  else if hostAccess s then f s
  else s

/-- An AER message leaves if reporting of its kind is enabled: in Device Control, or by SERR# Enable for the uncorrectable kinds (R362; log 18). -/
def sendError (kind : Nat) (s : State) : State :=
  if bit s.pcie.devCtl kind || (decide (1 ≤ kind) && bit s.pcie.command 8) then emit s (.errMessage kind) else s

/-- An uncorrectable error of the port, by its AER bit: its status bit, and unless it is masked a message of its severity (R362). -/
def aerUncorrectable (i : Nat) (s : State) : State :=
  let s := { s with pcie := { s.pcie with aerUncor := s.pcie.aerUncor ||| (1#32 <<< i) } }
  if bit s.pcie.aerUncorMask i then s else sendError (if bit s.pcie.aerUncorSev i then 2 else 1) s

/-- The AER bit of a correctable error (log 18). -/
def portBit : PortError → Nat
  | .receiver => 0
  | .badDllp => 7
  | .replay => 12

/-- A correctable error of the port, counted in COR_ERR (R362, R363). -/
def corError (e : PortError) (s : State) : State :=
  let s := { s with pcie := { s.pcie with corErr := satInc s.pcie.corErr, aerCor := s.pcie.aerCor ||| (1#32 <<< portBit e) } }
  if bit s.pcie.aerCorMask (portBit e) then s else sendError 0 s

/-- The correctable errors of the link on the flits of a request. -/
def portFinds (chk : Chk) (s : State) : State :=
  chk.finds.foldl (fun s x => match x with
    | .port e => corError e s
    | _ => s) s

/-- The same, counted in UNCOR_ERR. -/
def uncorError (i : Nat) (s : State) : State :=
  aerUncorrectable i { s with pcie := { s.pcie with uncorErr := satInc s.pcie.uncorErr } }

/-- Pending vectors whose message can now be sent are sent, once each (R357). -/
def pumpMsix (s : State) : State :=
  (List.range 64).foldl (fun s v => if bit s.pcie.pba v then msix v { s with pcie := { s.pcie with pba := s.pcie.pba &&& ~~~(1#64 <<< v) } } else s) s

/-! ### Image fetch (R361) -/

/-- RESULT of object 0x2007 takes a value; a change raises vector 7 (R357). -/
def setFetch (r : BitVec 8) (s : State) : State :=
  if s.pcie.fetchResult = r then s else msix 7 { s with pcie := { s.pcie with fetchResult := r } }

/-- The fetch in progress fails. -/
def failFetch (s : State) : State := if s.pcie.fetchResult = 1 then setFetch 4 (dropReads .image s) else s

/-- GO of object 0x2007, accepted. -/
def startFetch (s : State) : State :=
  let a := s.pcie.fetchAddr.toNat
  let n := s.pcie.fetchLen.toNat
  let dst := s.run.base.toNat
  let s := dropReads .image s
  if n = 0 then setFetch 2 s
  else if ¬(hostBase ≤ a ∧ a + n ≤ 2 ^ 48 ∧ dst + n ≤ Config.tier1Bytes) then setFetch 3 s
  else if hostUsable s then readHost .image (a - hostBase) dst n (setFetch 1 s)
  else setFetch 4 s

/-- Every byte has landed. -/
def execImageFetchComplete (s : State) : Result :=
  .next (if s.pcie.fetchResult = 1 ∧ s.pcie.reads.all (fun r => decide (r.reader ≠ .image)) then setFetch 2 s else s)

/-! ### Reads of host memory (R359) -/

/-- A read returns its bytes. -/
def readReturned (r : HostRead) (data : List Byte) (s : State) : State :=
  let drop (s : State) : State := { s with pcie := { s.pcie with reads := s.pcie.reads.filter (fun x => decide (x.tag ≠ r.tag)) } }
  let keep (s : State) : State :=
    { s with pcie := { s.pcie with reads := s.pcie.reads.map (fun x => if x.tag = r.tag then { x with data := some data } else x) } }
  match r.reader with
  | .gone => drop s
  | .image => land r.dst data (drop s)
  | .dma id => settleHostReads id false (keep s)
  | .restore => settleRestore (keep s)

/-- A read fails: its descriptor ends with POISON, its image fetch or restore with its failure (R158, R305, R361). -/
def readFailed (r : HostRead) (s : State) : State :=
  let s := { s with pcie := { s.pcie with reads := s.pcie.reads.map (fun x => if x.tag = r.tag then { x with sentAt := none } else x) } }
  match r.reader with
  | .gone => { s with pcie := { s.pcie with reads := s.pcie.reads.filter (fun x => decide (x.tag ≠ r.tag)) } }
  | .image => failFetch s
  | .dma id => settleHostReads id true s
  | .restore => failRestore 4 s

/-- The outstanding read of a tag. -/
def outstandingRead (s : State) (tag : Nat) : Option HostRead :=
  s.pcie.reads.find? (fun r => decide (r.tag = tag) && r.sentAt.isSome && r.data.isNone)

/-- A completion: an unexpected or malformed one is counted and discarded (R362). -/
def execHostReadCompletion (tag : Nat) (data : List Byte) (status : CplStatus) (s : State) : Result :=
  .next <|
    match outstandingRead s tag with
    | none => uncorError 16 s
    | some r =>
      match status with
      | .ok => if data.length = r.len then pumpReads (readReturned r data s) else uncorError 18 s
      | .poisoned => pumpReads (readFailed r (uncorError 12 s))
      | _ => pumpReads (readFailed r { s with pcie := { s.pcie with uncorErr := satInc s.pcie.uncorErr } })

/-- The shortest completion timeout of a range (R348). -/
def timeoutTicks (code : Nat) : Nat :=
  match code with
  | 5 => msTicks 16
  | 6 => msTicks 65
  | 9 => msTicks 260
  | 10 => msTicks 1000
  | 13 => msTicks 4000
  | 14 => msTicks 17000
  | _ => usTicks 50

/-- No completion within the completion timeout. -/
def execHostReadCompletionTimeout (tag : Nat) (s : State) : Result :=
  .next <|
    match outstandingRead s tag with
    | some r =>
      if !bit s.pcie.devCtl2 4 && decide (r.sentAt.getD 0 + timeoutTicks (field s.pcie.devCtl2 3 0) ≤ s.clk.tick)
      then pumpReads (readFailed r (uncorError 14 s)) else s
    | none => s

/-! ### Loss of the host (R359, R362, R364) -/

/-- A descriptor has a host end. -/
def hostEnded (d : BitVec 512) : Bool :=
  decide (dmaTotal d ≠ 0) && (isHost (dmaSrc d) || isHost (dmaDst d)) || (dmaFlagEn d && isHost (dmaFlagAddr d))

/-- Channels that execute a descriptor with a host end. -/
def hostChannels (s : State) : List (CoreRef × Nat) :=
  s.cores.flatMap (fun (key, k) =>
    (List.range Config.dmaChannels).filterMap (fun ch =>
      match (vget {} k.dma ch).exec with
      | some e => if hostEnded e.e.desc then some (⟨key / 256, key % 256⟩, ch) else none
      | none => none))

/-- Descriptors with a host end in execution: a step fault, and their channels halt (R362). -/
def loseDescriptors (s : State) : State :=
  match hostChannels s with
  | [] => s
  | (c, _) :: _ =>
    let s := stepFault { cls := 6, action := 2, unitType := 0, unitIndex := physCore s c, die := c.die, lcore := c.core
                         history := historyCount s (.core c.die (physCore s c)) } s
    settleLost ((hostChannels s).foldl (fun s (c, ch) => haltDma c ch s) s)

/-- The other work that needs host memory: the fetch and a restore from the host fail, a drain restarts. -/
def loseTransfers (drain : Bool) (s : State) : State :=
  let s := failFetch s
  let s := if s.fail.restoreResult = 1 ∧ s.fail.restoreSource = 2 then failRestore 4 s else s
  if drain ∧ s.fail.background = 3 then { s with fail := { s.fail with copyRestart := true } } else s

/-- The link leaves L0. -/
def loseLink (s : State) : State :=
  if s.pcie.inL0 then
    let s := loseTransfers true (loseDescriptors s)
    { s with pcie := { s.pcie with
      inL0 := false, speed := 0, width := 0, flit := false, linkDowns := satInc s.pcie.linkDowns, reads := [] } }
  else s

/-- The port and the host-visible state take their reset values; counters, the objects of other chapters and held writes stay (R362, R418). -/
def resetPort (s : State) : State :=
  let p := s.pcie
  { s with
    pcie := { ({} : Pcie) with
      inL0 := p.inL0, speed := p.speed, width := p.width, flit := p.flit, perst := p.perst, nextTag := p.nextTag, reads := p.reads
      heldWrites := p.heldWrites, fetchAddr := p.fetchAddr, fetchLen := p.fetchLen, fetchResult := p.fetchResult, drainRate := p.drainRate
      linkDowns := p.linkDowns, corErr := p.corErr, uncorErr := p.uncorErr, poisonRx := p.poisonRx, unmapped := p.unmapped }
    dop := { s.dop with
      winReq := List.replicate 1040 0, winRsp := List.replicate 1040 0, doneSeq := 0, overrun := false, winBusy := false
      queue := s.dop.queue.map (fun r => if r.path = .window then { r with discard := true } else r) }
    boot := { s.boot with activateReq := s.boot.activateReq.map (fun r => if r.path = .window then { r with discard := true } else r) } }

/-- The link leaves L0 for another reason than a reset. -/
def execPcieLinkDown (s : State) : Result := .next (loseLink s)

/-- PERST_N takes a level; while it is low the port is in reset. -/
def execPerstN (level : Bool) (s : State) : Result :=
  .next (if level then { s with pcie := { s.pcie with perst := false } }
    else resetPort { loseLink s with pcie := { (loseLink s).pcie with perst := true } })

def execHotReset (s : State) : Result := .next (if s.pcie.inL0 then resetPort (loseLink s) else s)

def execLinkDisable (s : State) : Result := .next (if s.pcie.inL0 then resetPort (loseLink s) else s)

/-- Function level reset: descriptors and transfers meet it as link loss, the link stays (R362). -/
def resetFunction (s : State) : State :=
  let s := loseTransfers true (loseDescriptors s)
  resetPort { s with pcie := { s.pcie with reads := s.pcie.reads.map (fun r => { r with reader := .gone }) } }

def execFlr (s : State) : Result := .next (if pcieReady s then resetFunction s else s)

/-- The port reaches L0 in flit mode; a partner without flit mode keeps it out (R349). -/
def execPcieLinkUp (speed width : Nat) (flit : Bool) (s : State) : Result :=
  .next <|
    if s.pwr.state = .on ∧ vget 0 s.clk.pll 0 ≠ 0 ∧ s.pcie.perst = false ∧ s.pcie.inL0 = false ∧ flit = true
        ∧ 1 ≤ speed ∧ speed ≤ 7 ∧ [1, 2, 4, 8, 16].contains width then
      pumpMsix { s with pcie := { s.pcie with inL0 := true, speed := BitVec.ofNat 8 speed, width := BitVec.ofNat 8 width, flit := true } }
    else s

/-- PME_Turn_Off is answered with PME_TO_Ack (R348). -/
def execPmeTurnOff (s : State) : Result := .next (if s.pcie.inL0 then emit s .pmeToAck else s)

/-! ### Configuration space (R349 to R351; log 18) -/

/-- A field kept from the old value where a write mask is 0. -/
def maskWrite (mask old new : BitVec 32) : BitVec 32 := (old &&& ~~~mask) ||| (new &&& mask)

/-- The header of a capability: its ID, and a version and next pointer that the spec leaves open (R350; log 18). -/
def capHeader (c : Capability) : BitVec 32 :=
  let low (i id : Nat) : BitVec 32 := BitVec.ofNat 32 (id + (Config.capLink i).toNat % 2 ^ 8 * 2 ^ 8)
  let ext (i id : Nat) : BitVec 32 := BitVec.ofNat 32 (id + (Config.capLink i).toNat * 2 ^ 16)
  match c with
  | .powerManagement => low 0 0x01 ||| (3#32 <<< 16)
  | .express => low 1 0x10
  | .msix => low 2 0x11
  | .aer => ext 3 0x0001
  | .serialNumber => ext 4 0x0003
  | .resizableBar => ext 5 0x0015
  | .dataLinkFeature => ext 6 0x0025
  | .phys16 => ext 7 0x0026
  | .phys32 => ext 8 0x002A
  | .phys64 => ext 9 0x0031
  | .phys128 => ext 10 Config.capPhys128.toNat

/-- What a configuration read returns. The values of R348 and R350 stand in the fields of the PCI Express standard; its MSI-X Table Size holds 63 for the 64 vectors, the standard's own coding of that field, which is the model's choice against R6 (log 18). -/
def configRead (s : State) (reg : CfgReg) : BitVec 32 :=
  let p := s.pcie
  match reg with
  | .ids => 0x48001F47
  | .classRev => 0x120000B1
  | .subsystem => 0x48011F47
  | .command => p.command ||| (1#32 <<< 20)
  | .bar0Lo => p.bar0.extractLsb' 0 32 ||| 4
  | .bar0Hi => p.bar0.extractLsb' 32 32
  | .bar2Lo => p.bar2.extractLsb' 0 32 ||| 0xC
  | .bar2Hi => p.bar2.extractLsb' 32 32
  | .bar4Lo => 0
  | .bar4Hi => 0
  | .expansionRom => 0
  | .interruptPin => 0
  | .pmCsr => if p.d3 then 0xB else 8
  | .deviceControl => p.devCtl
  | .deviceControl2 => p.devCtl2
  | .msixControl => (if p.msixEnable then 1#32 <<< 31 else 0) ||| (if p.msixMask then 1#32 <<< 30 else 0) ||| (63#32 <<< 16)
  | .rebarControl => BitVec.ofNat 32 ((p.bar2Log - 20) * 256 + 0x22)
  | .aerUncorStatus => p.aerUncor
  | .aerUncorMask => p.aerUncorMask
  | .aerUncorSeverity => p.aerUncorSev
  | .aerCorStatus => p.aerCor
  | .aerCorMask => p.aerCorMask
  | .serialLo => Config.deviceUid.extractLsb' 0 32
  | .serialHi => Config.deviceUid.extractLsb' 32 32
  | .linkStatus => BitVec.ofNat 32 (p.speed.toNat % 16 * 2 ^ 16 + p.width.toNat % 64 * 2 ^ 20 + 2 ^ 28)
  | .header c => capHeader c
  -- Max Payload Size 512, function level reset
  | .deviceCapabilities => 0x10008022
  -- completion timeout ranges B, C and D, and its disable
  | .deviceCapabilities2 => 0x1E
  -- 128 GT/s, x16, no ASPM
  | .linkCapabilities => 0x107
  | .linkCapabilities2 => 0xFE
  | .msixTable => 0x4000
  | .msixPba => 0x5000
  -- 1 GiB to 4 TiB
  | .rebarCapability => 0x07FFC000
  -- no ECRC
  | .aerControl => 0

/-- A BAR's address with the bits below its size 0. -/
def barAligned (log : Nat) (x : BitVec 64) : BitVec 64 := (x >>> log) <<< log

/-- One half of a BAR written. -/
def barWrite (log : Nat) (high : Bool) (x : BitVec 64) (v : BitVec 32) : BitVec 64 :=
  barAligned log (if high then v ++ x.extractLsb' 0 32 else x.extractLsb' 32 32 ++ v)

/-- Bus Master Enable is cleared, or the function enters D3hot: the fetch and a restore from the host fail (R359, R361, R364). -/
def writeCommand (v : BitVec 32) (s : State) : State :=
  let c := maskWrite 0x546 s.pcie.command v
  let bme := bit c 2
  let s := if s.pcie.busMaster && !bme then loseTransfers false (loseDescriptors s) else s
  pumpMsix { s with pcie := { s.pcie with command := c, memEnable := bit c 1, busMaster := bme } }

/-- D3hot: descriptors with a host end complete with ADDR, those in execution with what they have moved, and no request leaves for them any more (R359, R364). -/
def enterD3 (s : State) : State :=
  let s := loseTransfers false s
  let s := (hostChannels s).foldl (fun s (c, ch) =>
    let x := getChannel s c ch
    match x.exec with
    | some e => if e.code = 1 then putChannel (dropReads (.dma e.id) s) c ch { x with exec := some { e with code := 3 } } else s
    | none => s) s
  { s with pcie := { s.pcie with d3 := true } }

def writePmCsr (v : BitVec 32) (s : State) : State :=
  if field v 1 0 = 3 then (if s.pcie.d3 then s else enterD3 s)
  else if field v 1 0 = 0 then pumpMsix { s with pcie := { s.pcie with d3 := false } }
  else s

/-- Device Control: error reporting, sizes and extended tags are kept; sizes that are not supported leave the old ones; what R348 does not list reads 0, and bit 15 starts a function level reset. -/
def writeDevCtl (v : BitVec 32) (s : State) : State :=
  if bit v 15 then resetFunction s
  else
    let old := s.pcie.devCtl
    let mps := if field v 7 5 ≤ 2 then field v 7 5 else field old 7 5
    let mrrs := if field v 14 12 ≤ 5 then field v 14 12 else field old 14 12
    let x := setField (setField (v &&& 0x71EF) 7 5 mps) 14 12 mrrs
    { s with pcie := { s.pcie with devCtl := x, maxPayload := 128 * 2 ^ mps, maxRead := 128 * 2 ^ mrrs } }

/-- The AER bits of the uncorrectable and of the correctable errors that the port can have; no ECRC (R348; log 18). -/
def aerUncorBits : BitVec 32 := 0x17F030
def aerCorBits : BitVec 32 := 0x31C1

def configWrite (reg : CfgReg) (v : BitVec 32) (s : State) : State :=
  let p := s.pcie
  match reg with
  | .command => writeCommand v s
  | .bar0Lo => { s with pcie := { p with bar0 := barWrite 26 false p.bar0 v } }
  | .bar0Hi => { s with pcie := { p with bar0 := barWrite 26 true p.bar0 v } }
  | .bar2Lo => { s with pcie := { p with bar2 := barWrite p.bar2Log false p.bar2 v } }
  | .bar2Hi => { s with pcie := { p with bar2 := barWrite p.bar2Log true p.bar2 v } }
  | .pmCsr => writePmCsr v s
  | .deviceControl => writeDevCtl v s
  | .deviceControl2 =>
    let code := field v 3 0
    let x := if [0, 5, 6, 9, 10, 13, 14].contains code then v &&& 0x1F else setField (v &&& 0x1F) 3 0 (field p.devCtl2 3 0)
    { s with pcie := { p with devCtl2 := x } }
  | .msixControl => pumpMsix { s with pcie := { p with msixEnable := bit v 31, msixMask := bit v 30 } }
  | .rebarControl =>
    let code := field v 13 8
    if p.memEnable ∨ code < 10 ∨ 22 < code then s
    else { s with pcie := { p with bar2Log := 20 + code, bar2 := barAligned (20 + code) p.bar2 } }
  | .aerUncorStatus => { s with pcie := { p with aerUncor := p.aerUncor &&& ~~~v } }
  | .aerUncorMask => { s with pcie := { p with aerUncorMask := v &&& aerUncorBits } }
  | .aerUncorSeverity => { s with pcie := { p with aerUncorSev := v &&& aerUncorBits } }
  | .aerCorStatus => { s with pcie := { p with aerCor := p.aerCor &&& ~~~v } }
  | .aerCorMask => { s with pcie := { p with aerCorMask := v &&& aerCorBits } }
  | _ => s

/-- A configuration request: Request Retry Status until the port is ready, then its value (R349). -/
def execConfigRequest (reg : CfgReg) (write : Option (BitVec 32)) (s : State) : Result :=
  .next <|
    if !s.pcie.inL0 then s
    else if !pcieReady s then emit s (.configReply none)
    else
      match write with
      | none => emit s (.configReply (some (configRead s reg)))
      | some v => emit (configWrite reg v s) (.configReply (some 0))

/-! ### The BAR2 window (R353 to R355) -/

/-- BAR2_BASE written. -/
def setBar2Base (v : Nat) (s : State) : State := { s with pcie := { s.pcie with bar2Base := BitVec.ofNat 64 (v % 2 ^ 48) } }

def execBar2BaseWrite (value : BitVec 64) (s : State) : Result := .next (bar0Request (setBar2Base value.toNat) s)

def execSignalWrite (value : BitVec 64) (s : State) : Result := .next (bar0Request (signal value.toNat) s)

/-- Device address of a BAR2 offset. -/
def bar2Addr (s : State) (off : Nat) : Nat := (barAligned s.pcie.bar2Log s.pcie.bar2Base).toNat + off

/-- A request of the host lies in the BAR and in one 4 KiB page; one of length zero reaches no byte (R6). -/
def bar2Fits (s : State) (off n : Nat) : Bool :=
  decide ((n = 0 ∨ off % 4096 + n ≤ 4096) ∧ off + n ≤ 2 ^ s.pcie.bar2Log)

def countUnmapped (s : State) : State := { s with pcie := { s.pcie with unmapped := satInc s.pcie.unmapped } }

/-- A host write at a device address lands, or is discarded (R191, R354). -/
def landHost (chk : Chk) (addr : Nat) (data : List Byte) (s : State) : State :=
  if data = [] then s
  else
    match toStore s.map addr data.length with
    | some a => if channelDown s a then countUnmapped s else landFrom chk a data s
    | none => countUnmapped s

def execBar2Write (off : Nat) (data : List Byte) (poisoned : Bool) (chk : Chk) (s : State) : Result :=
  .next <|
    if !hostAccess s then s
    else
      let s := portFinds chk s
      if !bar2Fits s off data.length ∨ s.pcie.maxPayload < data.length then uncorError 18 s
      else if poisoned then aerUncorrectable 12 { s with pcie := { s.pcie with poisonRx := satInc s.pcie.poisonRx } }
      else if s.boot.resetting then { s with pcie := { s.pcie with heldWrites := s.pcie.heldWrites ++ [(bar2Addr s off, data)] } }
      else landHost chk (bar2Addr s off) data s

/-- A read that cannot be trusted completes poisoned, with the data as read (R355). -/
def poisonedRead (a n : Nat) (bad : Nat) (s : State) : State := strayRecord bad (emit s (.completion (readBytes s.mem a n) true))

/-- A read of the host that lies in the window; one of length zero completes with no data (R6, R354). -/
def readBar2 (addr len : Nat) (chk : Chk) (s : State) : State :=
  if len = 0 then emit s (.completion [] false)
  else
    match toStore s.map addr len with
    | none => countUnmapped (emit s (.completion (List.replicate len 0xFF) false))
    | some a =>
      if channelDown s a then poisonedRead a len a (uncorrectableAt a s)
      else
        match checkRead chk 6 0 [(a, len)] s with
        | (s, some bad) => poisonedRead a len bad s
        | (s, none) => emit s (.completion (readBytes s.mem a len) false)

def execBar2Read (off len : Nat) (chk : Chk) (s : State) : Result :=
  .next <|
    if !hostAccess s || s.boot.resetting then s
    else
      let s := portFinds chk s
      if !bar2Fits s off len then uncorError 18 s else readBar2 (bar2Addr s off) len chk s

end Sys2Proof.Machine
end

