-- ==== Sys2Proof/Machine/Lifetime.lean ====
section
/-! DEFINITION. Lifetime records (R445 to R449): saves, the powered second, droops; the clearing of counters (R242, R444). -/
namespace Sys2Proof.Machine

/-! ### Saves (R445 to R447) -/

/-- The header of the next record, MAGIC and CRC still 0 (R447). -/
def newHeader (s : State) : Nat :=
  2 ^ 464 + 20152 * 2 ^ 416 + s.life.seq.toNat * 2 ^ 384 + s.life.poweredS.toNat * 2 ^ 352 + (timeNs s 0).toNat * 2 ^ 288

/-- The next record with its CRC, MAGIC still 0. -/
def newRecord (s : State) : List Byte :=
  let bs := toLE 64 (newHeader s) ++ lifeSections s
  splice bs 32 (toLE 4 (crc32 bs).toNat)

/-- The slot that does not hold the newest valid record (R446). -/
def saveSlot (s : State) : Nat :=
  match newestSlot s with
  | some (0, _) => 1
  | _ => 0

/-- A save begins: its slot is invalid until MAGIC is written. -/
def startSave (s : State) : State :=
  let slot := saveSlot s
  let bs := newRecord s
  { s with
    life := { s.life with saving := some (slot, bs) }
    flash := { s.flash with records := mset s.flash.records slot bs } }

/-- A die hands over to a new MGMT image (R385). -/
def handingOver (s : State) : Bool := decide (s.boot.upStatus = 10 ∧ s.boot.upComponent = 2)

/-- 600 s of powered time have passed since the timer's last save; a save in progress or a handover delays it (R445, R450). -/
def execLifetimeSaveTimer (s : State) : Result :=
  .next <|
    if s.opt.loaded && decide (s.life.timerAt + 600 ≤ s.life.seconds) && s.life.saving.isNone && !handingOver s then
      startSave { s with life := { s.life with timerAt := s.life.timerAt + 600 } }
    else s

/-- MAGIC is written last: the record is valid (R446). -/
def execLifetimeSaveComplete (s : State) : Result :=
  .next <|
    match s.life.saving with
    | none => s
    | some (slot, bs) =>
      let bs := splice bs 60 (toLE 4 0x534B4C31)
      { s with
        life := { s.life with saving := none, lastHdr := recordHeader bs, seq := s.life.seq + 1 }
        flash := { s.flash with records := mset s.flash.records slot bs } }

/-- At load-complete the accumulators come from the newest valid record (R446). -/
def loadLife (s : State) : State :=
  match newestSlot s with
  | none => { s with life := {} }
  | some (_, bs) =>
    let h := recordHeader bs
    { s with life := { ({} : Lifetime) with
      acc := (List.range 5022).map (fun i => (64 + 4 * i, BitVec.ofNat 32 (ofLE (slice bs (64 + 4 * i) 4))))
      poweredS := BitVec.ofNat 32 (field h 383 352), seq := BitVec.ofNat 32 (recordSeq bs + 1), lastHdr := h } }

/-! ### The powered second (R449) -/

/-- The bin of a temperature in units of 0.125 °C. -/
def tempBin (t : BitVec 16) : Nat := Nat.min 23 (t.toInt / 40).toNat

/-- The BER bin of a link's period. -/
def berBin (x : Link) : Nat :=
  let c := x.berCorr
  let n := x.berBytes
  if x.berUe then 7
  else if c = 0 then 0
  else if c * 10 ^ 9 < n then 1
  else if c * 10 ^ 8 < n then 2
  else if c * 10 ^ 7 < n then 3
  else if c * 10 ^ 6 < n then 4
  else if c * 10 ^ 5 < n then 5
  else 6

/-- The end of a link's 600 s of powered time. -/
def berPeriod (l : Nat) (s : State) : State :=
  let x := getLink s l
  let s := if x.berUp then lifeAdd (17920 + 40 * l + 4 * berBin x) 1 s else s
  putLink s l { x with berBytes := 0, berCorr := 0, berUe := false, berUp := decide (x.state = .up) }

/-- One more second. -/
def countSecond (s : State) : State :=
  { s with life := { s.life with poweredS := satInc s.life.poweredS, seconds := s.life.seconds + 1 } }

/-- The histograms of quads and stacks, the power states of quads, the throttled dies. -/
def histSecond (s : State) : State :=
  (List.range 12).foldl (fun s k => lifeAdd (7744 + 4 * (24 * k + tempBin (vget 0 s.pwr.temps (80 + k)))) 1 s)
    ((List.range 80).foldl (fun s q => lifeAdd (64 + 4 * (24 * q + tempBin (vget 0 s.pwr.temps q))) 1 s) s)
def stateSecond (s : State) : State :=
  (List.range 80).foldl (fun s q => lifeAdd (8992 + 4 * (3 * q + quadReport s (q / 40) (q % 40))) 1 s) s
def throttleSecond (s : State) : State :=
  let s := (List.range 2).foldl (fun s d => if vget false s.pwr.wSeen d then lifeAdd (9952 + 4 * d) 1 s else s) s
  { s with pwr := { s.pwr with wSeen := s.pwr.w.map (fun w => decide (w ≠ 0)) } }

/-- Each powered second advances the histograms, the power states and, every 600 s, the BER bins. -/
def poweredSecond (s : State) : State :=
  let t := throttleSecond (stateSecond (histSecond (countSecond s)))
  if t.life.seconds % 600 = 0 then (List.range 24).foldl (fun s l => berPeriod l s) t else t

def execPoweredSecondTick (s : State) : Result :=
  .next (if s.opt.loaded ∧ s.opt.loadedAt + secTicks (s.life.seconds + 1) ≤ s.clk.tick then poweredSecond s else s)

/-! ### Droops (R449) -/

/-- The number of a counted rail. -/
def railNumber (r : Rail) : Option Nat :=
  match r with
  | .vmain0 => some 0
  | .vmain1 => some 1
  | .vsram0 => some 2
  | .vsram1 => some 3
  | .vser => some 4
  | .vhbm => some 5
  | _ => none

def execRailDroopBegin (rail : Rail) (s : State) : Result :=
  .next <|
    if s.opt.loaded && (railNumber rail).isSome && !s.life.droops.contains rail then
      { s with life := { s.life with droops := s.life.droops ++ [rail] } }
    else s

/-- The bin of a droop by its deepest point. -/
def droopBin (depth : Nat) : Nat := if depth < 150 then 0 else if depth < 200 then 1 else if depth < 250 then 2 else 3

def execRailDroopEnd (rail : Rail) (depth : Nat) (s : State) : Result :=
  .next <|
    match railNumber rail with
    | some r =>
      if s.life.droops.contains rail then
        lifeAdd (8896 + 4 * (4 * r + droopBin depth)) 1
          { s with life := { s.life with droops := s.life.droops.filter (fun x => decide (x ≠ rail)) } }
      else s
    | none => s

/-! ### Clearing counters (R242, R444) -/

/-- Every counter of object 0x8001, and of object 0x8003. -/
def clearCores (s : State) : State := { s with coreStats := [] }
def clearDies (s : State) : State := { s with dieStats := [] }

/-- Every port, link and router counter and high-water mark; what is counted in cycles counts from here. -/
def clearTelemetry (s : State) : State :=
  { s with fab := { s.fab with
    portStats := Vector.replicate 8 (Vector.replicate 18 0)
    links := s.fab.links.map (fun x => { x with stats := Vector.replicate 8 0, txAt := s.clk.tick, xoffAt := s.clk.tick })
    routers := s.fab.routers.map (fun r => { r with stats := Vector.replicate 9 0 }) } }

end Sys2Proof.Machine
end

