-- ==== Sys2Proof/Machine/Firmware.lean ====
section
/-! DEFINITION. Firmware: images and their verification (R377, R378), fuses (R379, R383), the boot chain (R380, R381), live update (R384, R385), attestation (R387, R388). Components are numbered 0 FSB, 1 MGMT, 2 LINK; slots 0 A, 1 B. -/
namespace Sys2Proof.Machine

/-! ### Images (R377, R378) -/

/-- The largest body of a component, and its largest image. -/
def bodyLimit (c : Nat) : Nat := if c = 0 then 0x80000 else if c = 1 then 0x800000 else 0x200000
def imageLimit (c : Nat) : Nat := 512 + bodyLimit c + 384

/-- The bytes of a slot that an update has written; none for a factory image (log 12). -/
def slotFile (s : State) (c slot : Nat) : Option (List Byte) := mfind s.flash.fw (2 * c + slot)

/-- Fields of an image header. -/
def fwHeader (bs : List Byte) : BitVec 512 := BitVec.ofNat 512 (ofLE (bs.take 64))
def fwBody (h : BitVec 512) : Nat := field h 63 32
def fwSvn (h : BitVec 512) : Nat := field h 31 24
def fwKeySlot (h : BitVec 512) : Nat := field h 23 16

/-- The security-version floor of a component (R379). -/
def floorOf (s : State) (c : Nat) : Nat := popCount (vget ⟨0, 0, 0⟩ s.boot.floors c).value

/-- The voted hash of a fuse key slot. -/
def keyHashOf (s : State) (k : Nat) : BitVec 256 := (vget ⟨0, 0, 0⟩ s.boot.keyHash k).value

/-- The checks of R378 in their order: 1 when all hold. -/
def verifyImage (s : State) (c : Nat) (bs : List Byte) : Nat :=
  let h := fwHeader bs
  let key := slice bs 64 388
  if ¬(field h 7 0 = 0x46 ∧ field h 15 8 = c + 1 ∧ fwBody h ≤ bodyLimit c ∧ field h 511 96 = 0 ∧ ofLE (slice bs 452 60) = 0) then 2
  else if ¬(fwKeySlot h < 4 ∧ sha256 key = keyHashOf s (fwKeySlot h)) then 3
  else if bit s.boot.revoked.value (fwKeySlot h) then 4
  else if fwSvn h < floorOf s c then 5
  else if pssVerify key (slice bs 0 (512 + fwBody h)) (slice bs (512 + fwBody h) 384) then 1
  else 6

/-- What verification finds in a slot. -/
def slotResult (s : State) (c slot : Nat) : Nat :=
  match slotFile s c slot with
  | some bs => verifyImage s c bs
  | none =>
    if bit s.boot.revoked.value (Config.factoryKeySlot c slot).val then 4
    else if Config.factorySvn c slot < floorOf s c then 5
    else 1

/-- SVN, key slot and measurement of the image in a slot. -/
def slotSvn (s : State) (c slot : Nat) : Nat :=
  match slotFile s c slot with
  | some bs => fwSvn (fwHeader bs)
  | none => Config.factorySvn c slot
def slotKey (s : State) (c slot : Nat) : Nat :=
  match slotFile s c slot with
  | some bs => fwKeySlot (fwHeader bs)
  | none => (Config.factoryKeySlot c slot).val
def slotMeasure (s : State) (c slot : Nat) : BitVec 256 :=
  match slotFile s c slot with
  | some bs => sha256 (slice bs 0 (896 + fwBody (fwHeader bs)))
  | none => Config.factoryMeasure c slot

/-- The words that verification reads are voted (R185). -/
def voteFuses (s : State) : State :=
  let s := (List.range 4).foldl (fun s i => voteKeyHash i s) s
  (List.range 3).foldl (fun s i => voteFloor i s) (voteRevoked s)

/-! ### The boot chain (R379 to R382) -/

/-- The fuse words as read at boot; a bit is blown if either copy is. -/
def readFuses (s : State) : State :=
  { s with boot := { s.boot with
    keyHash := Vector.ofFn (fun i => triple (Config.fuseKeyHash i.val)), maintHash := triple Config.maintKeyHash
    floors := s.flash.floors.map (fun f => triple (f.1 ||| f.2)), revoked := triple (s.flash.revoked.1 ||| s.flash.revoked.2) } }

/-- The solicited-node group of an address, which a solicitation for it goes to: ff02::1:ff00:0 and the low 24 bits (R318: duplicate address detection, RFC 4862). -/
def solicitedNode (a : BitVec 128) : BitVec 128 := BitVec.ofNat 128 (0xFF0200000000000000000001FF000000 + field a 23 0)

/-- Duplicate address detection of the link-local address begins: a neighbour solicitation (type 135) for it (R318). -/
def solicitDad (s : State) : State :=
  let a : BitVec 128 := BitVec.ofNat 128 (ofLE linkLocal.reverse)
  emit s (.icmp (solicitedNode a) 135 (toBE 16 a.toNat))

/-- Step 1: the boot ROM starts; the module looks for duplicates of its address again (R318). -/
def bootStart (s : State) : State :=
  let b := s.boot
  solicitDad <| readFuses { s with
    boot := { b with
      state := 0, serving := false, active := Vector.replicate 3 0, log := Vector.replicate 3 0, svn := Vector.replicate 3 0
      measure := Vector.replicate 3 0, progHash := 0, progBase := 0, progBytes := 0, progValid := false }
    dop := { s.dop with dad := 0 } }

/-- What the chain finds in a slot: code 7 where the flash fails to read it, slots numbered 2 × component + slot (R378). -/
def bootResult (unreadable : List Nat) (s : State) (c slot : Nat) : Nat :=
  if unreadable.contains (2 * c + slot) then 7 else slotResult s c slot

/-- The slot of a component that runs, preferred one first, and its byte of BOOT_LOG. -/
def chooseSlot (unreadable : List Nat) (s : State) (c : Nat) : Option Nat × Nat :=
  let p := (vget 0 s.flash.pref c).toNat % 2
  let a := bootResult unreadable s c p
  if a = 1 then (some p, 16 ^ p)
  else
    let b := bootResult unreadable s c (1 - p)
    (if b = 1 then some (1 - p) else none, a * 16 ^ p + b * 16 ^ (1 - p))

/-- A component runs from a slot, or does not run. -/
def runSlot (c : Nat) (slot : Option Nat) (log : Nat) (s : State) : State :=
  let b := s.boot
  { s with boot := { b with
    active := vset b.active c (BitVec.ofNat 8 (slot.getD 255)), log := vset b.log c (BitVec.ofNat 8 log)
    svn := vset b.svn c (BitVec.ofNat 8 ((slot.map (slotSvn s c)).getD 0)), measure := vset b.measure c ((slot.map (slotMeasure s c)).getD 0) } }

/-- BOOT_STATE when the chain ends; the server runs. -/
def endBoot (state : BitVec 8) (s : State) : State :=
  { s with boot := { s.boot with state := state, serving := true, silent := false, watchdogAt := s.clk.tick } }

/-- LINK runs in the controllers of all links: those that belong to a port leave DOWN. -/
def linkStarted (s : State) : State :=
  (List.range 24).foldl (fun s l => settleLink l s) { s with boot := { s.boot with linkLoaded := true } }

/-- Steps 2 to 6. -/
def bootChain (unreadable : List Nat) (s : State) : State :=
  let s := voteFuses s
  let (f, lf) := chooseSlot unreadable s 0
  let s := runSlot 0 f lf s
  if f.isNone then endBoot 3 (runSlot 2 none 0 (runSlot 1 none 0 s))
  else
    let (m, lm) := chooseSlot unreadable s 1
    let s := runSlot 1 m lm s
    if m.isNone then endBoot 3 (runSlot 2 none 0 s)
    else
      let (l, ll) := chooseSlot unreadable s 2
      let s := runSlot 2 l ll s
      if l.isNone then endBoot 2 s else linkStarted (endBoot 1 s)

/-- MGMT takes over the DOP server, or the module is in recovery. -/
def execBootChainComplete (unreadable : List Nat) (s : State) : Result :=
  .next (if s.opt.loaded ∧ s.boot.state = 0 then bootChain unreadable s else s)

/-! ### Fuses (R383) -/

/-- RAISE_FLOOR of a component: its answer and effect. -/
def raiseFloor (c v : Nat) (s : State) : Nat × State :=
  let s := voteFloor c s
  let old := floorOf s c
  if v = old then (errNone, s)
  else if v < old ∨ 64 < v ∨ (vget 0 s.boot.svn c).toNat < v then (errRange, s)
  else
    let t : BitVec 64 := BitVec.ofNat 64 (2 ^ v - 1)
    (errNone, { s with
      flash := { s.flash with floors := vset s.flash.floors c (t, t) }
      boot := { s.boot with floors := vset s.boot.floors c (triple t) } })

/-- A key slot is valid: not empty and not revoked. -/
def keyValid (s : State) (k : Nat) : Bool := decide (keyHashOf s k ≠ 0) && !bit s.boot.revoked.value k

/-- The running images of the three components use a key slot. -/
def keyInUse (s : State) (k : Nat) : Bool :=
  [0, 1, 2].any (fun c =>
    let a := (vget 0 s.boot.active c).toNat
    decide (a ≤ 1) && decide (slotKey s c a = k))

/-- REVOKE of a key slot. -/
def revokeKey (k : Nat) (s : State) : Nat × State :=
  let s := voteFuses s
  if 4 ≤ k ∨ keyHashOf s k = 0 ∨ keyInUse s k ∨ ((List.range 4).filter (fun i => keyValid s i)) = [k] then (errRange, s)
  else
    let r := s.boot.revoked.value ||| (1#4 <<< k)
    (errNone, { s with flash := { s.flash with revoked := (r, r) }, boot := { s.boot with revoked := triple r } })

/-! ### Live update (R384, R385) -/

/-- The slot of a component that does not run. -/
def inactiveSlot (s : State) (c : Nat) : Nat :=
  let a := (vget 0 s.boot.active c).toNat
  if a = 0 then 1 else if a = 1 then 0 else 1 - (vget 0 s.flash.pref c).toNat % 2

/-- The component being updated. -/
def upComp (s : State) : Nat := s.boot.upComponent.toNat - 1

/-- A verification or an activation runs. -/
def upBusy (s : State) : Bool := decide (s.boot.upStatus = 2 ∨ s.boot.upStatus = 10)

def setUpStatus (v : BitVec 8) (s : State) : State := { s with boot := { s.boot with upStatus := v } }

/-- COMPONENT erases the inactive slot. -/
def updateComponent (v : Nat) (s : State) : Nat × State :=
  if upBusy s then (errBusy, s)
  else if v = 0 ∨ 3 < v then (errRange, s)
  else (errNone, { s with
    flash := { s.flash with fw := mset s.flash.fw (2 * (v - 1) + inactiveSlot s (v - 1)) [] }
    boot := { s.boot with upComponent := BitVec.ofNat 8 v, upOffset := 0, upStatus := 1 } })

/-- OFFSET is a multiple of 1024. -/
def updateOffset (v : Nat) (s : State) : Nat × State :=
  if upBusy s then (errBusy, s)
  else if v % 1024 ≠ 0 then (errRange, s)
  else (errNone, { s with boot := { s.boot with upOffset := BitVec.ofNat 32 v } })

/-- A slot's bytes with a chunk written; bytes between stay erased. -/
def writeChunk (old : List Byte) (off : Nat) (bs : List Byte) : List Byte :=
  splice (old ++ List.replicate (off + bs.length - old.length) 0xFF) off bs

/-- CHUNK at OFFSET. -/
def updateChunk (bs : List Byte) (s : State) : Nat × State :=
  let c := upComp s
  let off := s.boot.upOffset.toNat
  if upBusy s ∨ s.boot.upComponent = 0 then (errBusy, s)
  else if bs.length = 0 ∨ 1024 < bs.length ∨ imageLimit c < off + bs.length then (errRange, s)
  else
    let slot := inactiveSlot s c
    (errNone, { s with
      flash := { s.flash with fw := mset s.flash.fw (2 * c + slot) (writeChunk ((slotFile s c slot).getD []) off bs) }
      boot := { s.boot with upOffset := BitVec.ofNat 32 (off + bs.length), upStatus := 1 } })

/-- VERIFY begins. -/
def updateVerify (v : Nat) (s : State) : Nat × State :=
  if upBusy s ∨ s.boot.upComponent = 0 then (errBusy, s)
  else if v = 0 then (errNone, s)
  else (errNone, setUpStatus 2 s)

/-- Verification ends: verified, or the failing code plus 2. -/
def execUpdateVerifyComplete (flashError : Bool) (s : State) : Result :=
  .next <|
    if s.boot.upStatus = 2 then
      let s := voteFuses s
      let r := slotResult s (upComp s) (inactiveSlot s (upComp s))
      if flashError then setUpStatus 9 s
      else if r = 1 then setUpStatus 3 s
      else setUpStatus (BitVec.ofNat 8 (r + 2)) s
    else s

/-- The preference of a component follows the activation, and a staged one is discarded. -/
def preferSlot (c slot : Nat) (s : State) : State :=
  { s with
    flash := { s.flash with pref := vset s.flash.pref c (BitVec.ofNat 8 slot) }
    dop := { s.dop with staged := s.dop.staged.filter (fun e => decide (e.1 ≠ objKey 0x9001 (4 + c))) }
    boot := { s.boot with prefBefore := vget 0 s.flash.pref c } }

/-- ACTIVATE begins; in recovery the boot chain starts again. -/
def beginActivate (s : State) : State :=
  let c := upComp s
  let recovery := decide (s.boot.state = 3)
  let s := preferSlot c (inactiveSlot s c) s
  if recovery then bootStart (setUpStatus 11 s)
  else if c = 0 then setUpStatus 11 s
  else { setUpStatus 10 s with boot := { (setUpStatus 10 s).boot with handed := [], linksLoaded := 0, pauseAt := s.clk.tick } }

/-- The new image of a component runs. -/
def activated (c : Nat) (s : State) : State :=
  let b := s.boot
  let slot := (vget 0 s.flash.pref c).toNat
  { s with boot := { b with
    active := vset b.active c (BitVec.ofNat 8 slot), svn := vset b.svn c (BitVec.ofNat 8 (slotSvn s c slot))
    measure := vset b.measure c (slotMeasure s c slot), upStatus := 11 } }

/-- The pause of a link's controller is no part of a training in progress (R208, R385). -/
def endPause (s : State) : State :=
  let l := s.boot.linksLoaded
  let x := getLink s l
  if linkPaused s l ∧ x.state = .training then
    putLink s l { x with trainStart := x.trainStart + (s.clk.tick - Nat.max s.boot.pauseAt x.trainStart) }
  else s

/-- The next link's controller has loaded the new LINK; after the last one it is active. -/
def execLinkControllerLoadComplete (s : State) : Result :=
  .next <|
    if s.boot.upStatus = 10 ∧ s.boot.upComponent = 3 then
      let n := s.boot.linksLoaded + 1
      let s := endPause s
      let s := { s with boot := { s.boot with linksLoaded := n, pauseAt := s.clk.tick } }
      if n < 24 then s
      else
        let s := activated 2 s
        if s.boot.state = 2 then linkStarted { s with boot := { s.boot with state := 1 } } else s
    else s

/-- An activation that does not end keeps the running slot and the old preference (R385, R389). -/
def abandonActivate (s : State) : State :=
  let s := endPause s
  { s with
    flash := { s.flash with pref := vset s.flash.pref (upComp s) s.boot.prefBefore }
    boot := { s.boot with upStatus := 12, activateReq := none, handed := [] } }

/-! ### Attestation (R387, R388) -/

/-- Bytes 0 to 255 of a report. -/
def reportBody (s : State) (nonce : Nat) : Nat :=
  let b := s.boot
  let at_ (v lo : Nat) : Nat := v * 2 ^ lo
  let act (c : Nat) : Nat := if vget 0 b.active c = 1 then 2 ^ c else 0
  at_ s.run.state.toNat 1976 + at_ (act 0 + act 1 + act 2) 1968 + at_ (vget 0 b.svn 2).toNat 1952 + at_ (vget 0 b.svn 1).toNat 1936
    + at_ (vget 0 b.svn 0).toNat 1920 + at_ b.progBytes.toNat 1856 + at_ b.progBase.toNat 1792 + at_ b.progHash.toNat 1536
    + at_ s.opt.hash.toNat 1280 + at_ (vget 0 b.measure 2).toNat 1024 + at_ (vget 0 b.measure 1).toNat 768 + at_ (vget 0 b.measure 0).toNat 512
    + at_ s.run.commit.value.toNat 448 + at_ (timeNs s 0).toNat 384 + at_ nonce 128 + at_ Config.deviceUid.toNat 64
    + (if s.time.state = 2 then 2 ^ 57 else 0) + (if b.progValid then 2 ^ 56 else 0) + at_ 0xB1 48 + at_ 1 32 + 0x534B4131

/-- A nonce captures the state. -/
def takeNonce (nonce : List Byte) (s : State) : Nat × State :=
  if s.boot.reportState = 1 then (errBusy, s)
  else
    let s := voteCommit s
    (errNone, { s with boot := { s.boot with report := BitVec.ofNat 5120 (reportBody s (ofLE nonce)), reportState := 1 } })

/-- The report is signed and ready. -/
def execAttestationReady (s : State) : Result :=
  .next <|
    if s.boot.reportState = 1 then
      let body : BitVec 2048 := s.boot.report.setWidth 2048
      { s with boot := { s.boot with
        report := Config.attestSignature body s.boot.reports ++ body, reportState := 2, reports := s.boot.reports + 1 } }
    else s

end Sys2Proof.Machine
end

