-- ==== Sys2Proof/Machine/Reset.lean ====
section
/-! DEFINITION. Resets (R416 to R421): warm, management and fabric resets, block resets, the watchdog. -/
namespace Sys2Proof.Machine

/-! ### What resets clear (R418) -/

/-- Every merge-buffer entry whose word passes a test retires; an uncorrectable word that loses bytes is counted, and raises a step fault (R189, R192). -/
def retireWhere (p : Nat → Bool) (s : State) : State :=
  let es := ((s.mem.spmMerge.flatMap (fun e => e.2)) ++ (s.mem.tierMerge.flatMap (fun e => e.2))).filter (fun e => p e.base)
  settleLost (es.foldl (fun s e =>
    match retireEntry s.mem e with
    | (m, some a) => uncorrectableAt a { s with mem := m, intg := { s.intg with lost := s.intg.lost ++ [a] } }
    | (m, none) => { s with mem := m }) s)

/-- A core in its state after a reset (R97); its trap record stays. -/
def freshCore (k : Core) : Core := { ({} : Core) with trap := k.trap }

/-- Every core, unit queue, channel and array; nothing is left on the die network. -/
def clearCoreState (s : State) : State := { s with cores := s.cores.map (fun e => (e.1, freshCore e.2)), noc := [] }

/-- The HRCs; the instruction caches went with the cores. -/
def clearHrc (s : State) : State := { s with mem := { s.mem with hrc := [] } }

/-- A link that is reset: DOWN, a permanent one FAILED, one of no port DISABLED; its preset and counters stay. -/
def freshLink (x : Link) : Link :=
  { ({} : Link) with
    state := if x.permanent then .failed else if x.state = .disabled then .disabled else .down
    preset := x.preset, trained := x.trained, peer := x.peer, permanent := x.permanent, stats := x.stats, delayPs := x.delayPs
    berBytes := x.berBytes, berCorr := x.berCorr, berUe := x.berUe, berUp := x.berUp }

/-- A router without packets, combining table and slots; its piste table and counters stay. -/
def freshRouter (r : Router) : Router := { ({} : Router) with piste := r.piste, pisteBad := r.pisteBad, stats := r.stats, collStats := r.collStats }

/-- The routers, their tables and the links; what is in transit is lost. -/
def clearFabric (s : State) : State :=
  { s with
    fab := { s.fab with
      links := s.fab.links.map freshLink, routers := s.fab.routers.map freshRouter, held := [], injected := [], window := none }
    grp := { s.grp with glideTable := [], glideOps := [], releases := [] } }

/-- Every link that belongs to a port trains (R208, R419 step 5). -/
def trainLinks (s : State) : State := notePorts ((List.range 24).foldl (fun s l => settleLink l s) s)

/-- Steps 1 and 2 of R419: the cores stop, RUN_STATE becomes STOPPED, merge buffers retire. -/
def stopForReset (s : State) : State := retireWhere (fun _ => true) (enterStopped (haltAll s))

/-- What a reset does to copies and a restore in progress (R302, R316, R421). -/
def breakCopies (s : State) : State :=
  let s := { s with fail := { s.fail with copyRestart := s.fail.copyRestart || decide (s.fail.background ≠ 0) } }
  if s.fail.restoreResult = 1 then failRestore 4 s else settlePhase s

/-- Both passes of the resurfacer start again (R197). -/
def restartPasses (s : State) : State :=
  { s with intg := { s.intg with
    tierPos := 0, tierStart := s.clk.tick, tierRate := s.intg.tierPass, spmPos := 0, spmStart := s.clk.tick, spmRate := s.intg.spmPass } }

def setCause (c : BitVec 8) (s : State) : State := { s with pwr := { s.pwr with resetCause := c } }

/-! ### Warm reset (R419) -/

/-- Steps 1 to 4. During the option load nothing has been loaded, and the load starts again (R415). -/
def beginWarm (cause : BitVec 8) (s : State) : State :=
  if s.pwr.state ≠ .on then s
  else if !s.opt.loaded then setCause cause s
  else
    let s := breakCopies (failFetch (stopForReset s))
    let s := dropNotices 0x4014 (clearFabric (clearHrc (clearCoreState s)))
    setCause cause { s with
      intg := { s.intg with levels := [], overflows := [] }, life := { s.life with saving := none }, boot := { s.boot with resetting := true } }

/-- Step 5: links train, the resurfacer restarts, held requests complete. -/
def finishWarm (s : State) : State :=
  let held := s.pcie.heldWrites
  let s := restartPasses (trainLinks { s with boot := { s.boot with resetting := false }, pcie := { s.pcie with heldWrites := [] } })
  held.foldl (fun s w => landHost .ok w.1 w.2 s) s

/-- The pin has been low for 1 µs. -/
def execWarmRstNAssert (s : State) : Result := .next (beginWarm 6 { s with pwr := { s.pwr with warmRstN := false } })

/-- The pin goes high, or the held steps of a requested reset end. -/
def execWarmResetRelease (s : State) : Result :=
  .next <|
    let s := { s with pwr := { s.pwr with warmRstN := true } }
    if s.boot.resetting then finishWarm s else s

/-! ### Management reset -/

/-- An update that a management reset cuts off is idle; one that was being activated keeps the old preference. -/
def resetUpdate (s : State) : State :=
  if s.boot.upStatus = 10 then setUpStatus 0 (abandonActivate s) else if s.boot.upStatus = 2 then setUpStatus 0 s else s

/-- What the object server holds for its clients. -/
def clearServer (s : State) : State :=
  { s with dop := { s.dop with queue := [], kept := [], captures := [], segs := [], subs := [], staged := [], pending := [], token := none } }

/-- Both management controllers restart; nothing is answered until MGMT serves again. -/
def managementReset (cause : BitVec 8) (s : State) : State :=
  if s.pwr.state = .on ∧ s.opt.loaded then
    let s := bootStart (clearServer (resetUpdate s))
    setCause cause { s with
      boot := { s.boot with silent := true, resetReq := none, report := 0, reportState := 0 }, life := { s.life with saving := none } }
  else s

/-- MGMT has run for 4 s without servicing the watchdog. -/
def execWatchdogExpire (s : State) : Result :=
  .next (if s.boot.serving ∧ s.boot.state ≠ 3 ∧ s.boot.watchdogAt + secTicks 4 ≤ s.clk.tick then managementReset 4 s else s)

/-! ### Fabric reset -/

/-- Piste tables, table epoch and endpoint ID are cleared with what every stop clears. -/
def fabricReset (cause : BitVec 8) (s : State) : State :=
  if s.pwr.state = .on ∧ s.opt.loaded then
    let s := stopForReset s
    let s := { s with fail := { s.fail with copyRestart := s.fail.copyRestart || decide (s.fail.background = 2) } }
    let s := clearFabric (clearHrc (clearCoreState (settlePhase s)))
    let s := { s with fab := { s.fab with
      routers := s.fab.routers.map (fun r => { r with piste := [], pisteBad := [] }), tableEpoch := triple 0, ownId := 0, hasId := false } }
    setCause cause (trainLinks (refreshSource s))
  else s

/-- 10 ms after its response, the requested reset begins (R417). -/
def execResetRequestDelayExpire (s : State) : Result :=
  .next <|
    match s.boot.resetReq with
    | some (kind, t) =>
      if t + msTicks 10 ≤ s.clk.tick then
        let s := { s with boot := { s.boot with resetReq := none } }
        match kind with
        | .warm => beginWarm 7 s
        | .management => managementReset 5 s
        | .fabric => fabricReset 8 s
      else s
    | none => s

/-- RESET_REQUEST, accepted. -/
def requestReset (kind : ResetKind) (s : State) : State := { s with boot := { s.boot with resetReq := some (kind, s.clk.tick) } }

/-! ### Block resets (R420): their answers and effects -/

def spmOf (die phys a : Nat) : Bool := decide (spmBase ≤ a) && decide (storeDie a = die) && decide (storePhys a = phys)

/-- One core of a quad: merge entries retire, its state is that of R97, its SPM is undefined. -/
def blockCore (die phys : Nat) (s : State) : State :=
  let s := spmUndefined die phys (retireWhere (spmOf die phys) s)
  match logicalOf s.map die phys with
  | some l => putCore s ⟨die, l⟩ (freshCore (getCore s ⟨die, l⟩))
  | none => s

def blockQuad (v : BitVec 16) (s : State) : Nat × State :=
  let (die, q) := (field v 15 15, field v 5 0)
  let busy := (List.range 4).any (fun i =>
    let x := physState s die (4 * q + i)
    decide (x = .active ∨ x = .testing))
  if busy && decide (q < 40) && decide (s.run.state ≠ 0) then (errBusy, s)
  else if 40 ≤ q ∨ field v 14 6 ≠ 0 then (errRange, s)
  else
    let s := (List.range 4).foldl (fun s i => blockCore die (4 * q + i) s) s
    (errNone, { s with pwr := { s.pwr with quads := mset s.pwr.quads (40 * die + q) .on } })

def blockLink (l : Nat) (s : State) : Nat × State :=
  if 24 ≤ l then (errRange, s)
  else
    let x := getLink s l
    if s.run.state ≠ 0 ∧ (x.state = .up ∨ x.state = .training) then (errBusy, s)
    else
      let s := if x.state = .up then leaveUp l s else s
      (errNone, notePorts (settleLink l (putLink s l (freshLink (getLink s l)))))

/-- A stack or channel: merge entries retire, contents are undefined, the controller retrains. -/
def blockChannel (c : Nat) (s : State) : Nat × State :=
  let tier1 := decide (c < 2 * Config.stacksPerDie)
  let tier2 := decide (16 ≤ c ∧ c < 16 + 2 * Config.channelsPerDie)
  if s.run.state ≠ 0 ∨ s.fail.phase ≠ 0 ∨ s.pcie.fetchResult = 1 ∨ s.fail.restoreResult = 1 then (errBusy, s)
  else if !tier1 && !tier2 then (errRange, s)
  else
    let mode := if tier1 then s.mem.tier1Mode else s.mem.tier2Mode
    let perDie := decide (mode = 1)
    let (lo, hi) := if tier1 then (0, Config.tier1Bytes) else (tier2Base, tier2Base + Config.tier2Bytes)
    let s := retireWhere (fun a => decide (lo ≤ a ∧ a < hi) && decide (unitCode perDie a = c)) s
    (errNone, { s with
      mem := makeUndefUnit s.mem lo hi c perDie
      boot := { s.boot with retraining := if s.boot.retraining.contains c then s.boot.retraining else s.boot.retraining ++ [c] } })

/-- The controller has retrained; the pass of the resurfacer over the tiers starts again (R197, R420). -/
def execChannelRetrainComplete (ch : Nat) (s : State) : Result :=
  whenUnit (channelCodeOk ch) <|
    if s.boot.retraining.contains ch then
      { s with
        boot := { s.boot with retraining := s.boot.retraining.filter (fun c => decide (c ≠ ch)) }
        intg := { s.intg with tierPos := 0, tierStart := s.clk.tick, tierRate := s.intg.tierPass } }
    else s

end Sys2Proof.Machine
end

