-- ==== Sys2Proof/Machine/Power.lean ====
section
/-! DEFINITION. Power (R404 to R411), the option load (R412 to R415), pins and straps (R423, R424, R427), reference and PLLs (R393), cages (R433, R434), the management segment (R317, R318, R320). -/
namespace Sys2Proof.Machine

/-! ### Power-off and start (R404 to R407, R416) -/

/-- Contents of all memory are undefined. -/
def freshMemory (m : Memory) : Memory := { ({} : Memory) with undef := [{ lo := 0, hi := 2 ^ 48, gen := m.gen }], gen := m.gen + 1 }

/-- The power inputs, and what the power stage has latched. -/
def pinsOf (p : Power) : Power :=
  { ({} : Power) with vin := p.vin, pwrEn := p.pwrEn, warmRstN := p.warmRstN, nextCause := p.nextCause, pwrEnLowAt := p.pwrEnLowAt }

/-- Every rail goes: only flash, the pins and what is outside the module stay (R406, R418). -/
def railsOff (s : State) : State :=
  let s := if s.boot.upStatus = 10 then abandonActivate s else s
  { State.reset with
    pending := s.pending, out := s.out, free := s.free, ids := s.ids, flash := s.flash, cages := s.cages
    clk := { ({} : Clock) with tick := s.clk.tick }
    pwr := pinsOf s.pwr
    pcie := { ({} : Pcie) with perst := s.pcie.perst }
    fab := { ({} : Fabric) with links := s.fab.links.map (fun x => { ({} : Link) with peer := x.peer }) }
    mem := freshMemory s.mem }

def setPower (p : PowerState) (s : State) : State := { s with pwr := { s.pwr with state := p } }
def setNext (c : BitVec 8) (s : State) : State := { s with pwr := { s.pwr with nextCause := c } }

/-- The power stage starts with step 1 when VIN is valid and PWR_EN is high. -/
def tryStart (s : State) : State :=
  if s.pwr.state = .off ∧ s.pwr.vin ∧ s.pwr.pwrEn then
    setCause s.pwr.nextCause (setNext 1 (setPower (.step 1) { s with mem := freshMemory s.mem }))
  else s

/-- Power is on in some form: rails are up or coming up. -/
def powered (s : State) : Bool :=
  match s.pwr.state with
  | .off => false
  | .overvoltage => false
  | .tripped => false
  | _ => true

/-- VIN rises through 47 V. -/
def execVinOn (s : State) : Result :=
  .next <|
    let s := { s with pwr := { s.pwr with vin := true, modFaultN := if s.pwr.state = .tripped then false else s.pwr.modFaultN } }
    tryStart s

/-- VIN has been below 45 V for 100 µs; a latched trip outlives it, MOD_FAULT_N does not (R409). -/
def execVinOff (s : State) : Result :=
  .next <|
    let was := s.pwr.vin
    let s := { s with pwr := { s.pwr with vin := false } }
    if s.pwr.state = .tripped then { s with pwr := { s.pwr with modFaultN := true } }
    else if was then setNext 2 (railsOff s)
    else s

/-- VIN is above 60 V. -/
def execVinOvervoltage (s : State) : Result :=
  .next (if s.pwr.vin ∧ s.pwr.state ≠ .tripped then setNext 2 (setPower .overvoltage (railsOff s)) else s)

/-- VIN falls below 59 V after an overvoltage. -/
def execVinOvervoltageClear (s : State) : Result :=
  .next (if s.pwr.state = .overvoltage then tryStart (setPower .off s) else s)

/-- PWR_EN goes high; after a thermal trip only once it has been low for 1 s (R409). -/
def execPwrEnHigh (s : State) : Result :=
  .next <|
    let low := s.pwr.pwrEnLowAt
    let s := { s with pwr := { s.pwr with pwrEn := true, pwrEnLowAt := none } }
    if s.pwr.state = .tripped then
      match low with
      | some t => if t + secTicks 1 ≤ s.clk.tick then tryStart (setPower .off { s with pwr := { s.pwr with modFaultN := true } }) else s
      | none => s
    else tryStart s

/-- PWR_EN has been low for 100 µs. -/
def execPwrEnLow (s : State) : Result :=
  .next <|
    let s := { s with pwr := { s.pwr with pwrEn := false, pwrEnLowAt := some s.clk.tick } }
    match s.pwr.state with
    | .tripped => s
    | .overvoltage => s
    | _ => setNext 1 (railsOff s)

/-- A step's rails are valid; after the last, PWR_GOOD rises (R405). -/
def execRailStepValid (s : State) : Result :=
  .next <|
    match s.pwr.state with
    | .step n => if n < 6 then setPower (.step (n + 1)) s else setPower .on { s with pwr := { s.pwr with pwrGood := true } }
    | _ => s

/-- A rail leaves its band: PWR_GOOD falls. -/
def execRailOutOfBand (rail : Rail) (s : State) : Result :=
  let _ := rail
  .next { s with pwr := { s.pwr with pwrGood := false } }

/-- A junction or a stack has reached its trip (R409). -/
def execThermalTrip (s : State) : Result :=
  .next <|
    if powered s then
      let t := setNext 3 (setPower .tripped (railsOff s))
      { t with pwr := { t.pwr with modFaultN := false } }
    else s

/-! ### Power samples (R408) -/

/-- A quad junction of a die at or above THERMAL_LIMIT, or a stack at or above 95 °C. -/
def dieHot (s : State) (d : Nat) : Bool :=
  let t (i : Nat) : Int := (vget 0 s.pwr.temps i).toInt
  (List.range 40).any (fun q => decide ((8 * s.pwr.thermal.toNat : Nat) ≤ t (40 * d + q)))
    || (List.range 6).any (fun k => decide (760 ≤ t (80 + 6 * d + k)))

/-- The next W of a die, and whether the change was one of those made every 100 µs. -/
def nextW (s : State) (d watts : Nat) : Nat × Bool :=
  let w := (vget 0 s.pwr.w d).toNat
  let slow := decide (vget 0 s.pwr.wAt d + usTicks 100 ≤ s.clk.tick)
  if 3600 < watts then (Nat.min 48 (w + 8), false)
  else if s.pwr.limit.toNat * s.pwr.samples.length < s.pwr.samples.sum then (Nat.min 48 (w + 1), false)
  else if dieHot s d then (if slow then Nat.min 48 (w + 1) else w, slow)
  else (if slow then w - 1 else w, slow)

def updateW (watts d : Nat) (s : State) : State :=
  let (w, slow) := nextW s d watts
  { s with pwr := { s.pwr with
    w := vset s.pwr.w d (BitVec.ofNat 8 w), wAt := if slow then vset s.pwr.wAt d s.clk.tick else s.pwr.wAt
    wSeen := if 0 < w then vset s.pwr.wSeen d true else s.pwr.wSeen } }

/-- One sample every 10 µs. -/
def execPowerSample (millivolts watts : Nat) (temps : List (BitVec 16)) (s : State) : Result :=
  .next <|
    if powered s then
      let p := s.pwr
      let recent := p.peaks.filter (fun x => decide (s.clk.tick < x.1 + secTicks 1) && decide (watts < x.2))
      let s := { s with pwr := { p with
        vinMv := BitVec.ofNat 32 millivolts, samples := (watts :: p.samples).take 1000, peaks := (s.clk.tick, watts) :: recent
        temps := if temps.length = 92 then p.temps.mapIdx (fun i _ => temps.getD i 0) else p.temps } }
      if s.opt.loaded then updateW watts 1 (updateW watts 0 s) else s
    else s

/-! ### The option load (R412 to R415, R423, R424) -/

/-- The PLLs lock; the straps are sampled as the load starts, with W at 48 (R393, R413, R424). -/
def execPllLock (slotId : BitVec 6) (testMode : Bool) (s : State) : Result :=
  .next <|
    if s.pwr.state = .on ∧ vget 0 s.clk.pll 0 = 0 then
      let s := { s with clk := { s.clk with pll := Vector.replicate 2 1, refPresent := true } }
      if testMode then setPower .testMode { s with pwr := { s.pwr with modFaultN := false } }
      else { s with dop := { s.dop with slot := slotId.setWidth 8 }, pwr := { s.pwr with w := Vector.replicate 2 48 } }
    else s

/-- The copies of one word as finally read. -/
abbrev Copies : Type := BitVec 64 × BitVec 64 × BitVec 64

def copiesTri (x : Copies) : Tri (BitVec 64) := ⟨x.1, x.2.1, x.2.2⟩
def copiesOk (x : Copies) : Bool := (copiesTri x).agrees
def copiesRepaired (x : Copies) : Bool := decide (voteOf (copiesTri x) = .repaired)

/-- The words of an attempt up to the first without a majority. -/
def votedPrefix : List Copies → List Copies
  | [] => []
  | x :: xs => if copiesOk x then x :: votedPrefix xs else []

/-- An attempt has voted every word, as many as its header says. -/
def attemptOk (xs : List Copies) : Bool :=
  xs.all copiesOk && decide (2 ≤ xs.length ∧ xs.length ≤ 8192)
    && (match xs with
        | x :: _ => decide (field (copiesTri x).value 47 32 = xs.length)
        | [] => false)

/-- A failed attempt has stopped at a word without a majority. -/
def attemptFailed (xs : List Copies) : Bool := xs.any (fun x => !copiesOk x)

/-- The initial core map of a die (R73): spares at position 3 of the quads of rows 0 and 4; a permanent core is retired, and a spare takes its place (R313). -/
def spareHome (p : Nat) : Bool := decide (p % 4 = 3) && (decide (p < 32) || decide (128 ≤ p))

def initialMap (s : State) (die : Nat) : List Nat × List Nat :=
  let bad (p : Nat) : Bool := s.flash.permanent.contains (.core die p)
  let spares := (List.range Config.physCores).filter (fun p => spareHome p && !bad p)
  let homes := (List.range Config.physCores).filter (fun p => !spareHome p)
  homes.foldl (fun (acc : List Nat × List Nat) p =>
    if bad p then
      match acc.2 with
      | q :: rest => (acc.1 ++ [q], rest)
      | [] => (acc.1 ++ [p], [])
    else (acc.1 ++ [p], acc.2)) ([], spares)

/-- The map of a die and the states of its physical cores. -/
def loadMap (die : Nat) (s : State) : State :=
  let (homes, spares) := initialMap s die
  let toPhys := (List.range Config.logicalCores).foldl (fun m l => mset m (256 * die + l) (triple (BitVec.ofNat 8 (homes.getD l 0)))) s.map.toPhys
  let phys := (List.range Config.physCores).foldl (fun m p =>
    mset m (256 * die + p) (if homes.contains p then PhysState.active else if spares.contains p then .spare else .retired)) s.map.phys
  let s := { s with map := { s.map with toPhys := toPhys, phys := phys } }
  if homes.any (fun p => s.flash.permanent.contains (.core die p)) then reportLost s else s

/-- Links as they stand after the load: the standard bundles, permanent links FAILED (R211, R313, R418). -/
def loadLinks (s : State) : State :=
  let s := { s with fab := { s.fab with ports := Vector.ofFn (fun i => BitVec.ofNat 32 (standardPort i.val)) } }
  let s := { s with fab := { s.fab with links := s.fab.links.mapIdx (fun l x =>
    { x with preset := 3, permanent := s.flash.permanent.contains (.link l) }) } }
  trainLinks s

/-- Units whose permanence ends in a report of loss (R313). -/
def awaitedUnits (s : State) : List UnitId :=
  s.flash.permanent.filter (fun u => match u with
    | .stack _ => true
    | .channel _ => true
    | .die _ => true
    | _ => false)

/-- Load-complete: the words take effect, blocks leave reset, the boot ROM starts (R413). -/
def loadComplete (words : List Copies) (attempts : Nat) (repairs : Nat) (s : State) : State :=
  let vs := words.map (fun x => (copiesTri x).value)
  let (c, s) := takeFree s
  let s := { s with
    opt := { s.opt with
      loaded := true, words := vs.map triple, hash := sha256 (vs.flatMap (fun v => toLE 8 v.toNat))
      optWords := BitVec.ofNat 16 vs.length, repairs := BitVec.ofNat 32 repairs, attempts := BitVec.ofNat 8 attempts, loadedAt := s.clk.tick }
    dop := { s.dop with nodeId := s.dop.slot + 1, challenge := c }
    pwr := { s.pwr with wAt := Vector.replicate 2 s.clk.tick }
    fail := { s.fail with awaiting := awaitedUnits s } }
  bootStart (restartPasses (settleQuads (loadLinks (loadMap 1 (loadMap 0 (loadLife s))))))

/-- The load ends: at the first attempt that votes every word, or in option failure after three that do not (R414). -/
def execOptionLoadComplete (attempts : List (List (BitVec 64 × BitVec 64 × BitVec 64))) (s : State) : Result :=
  .next <|
    if s.pwr.state = .on ∧ vget 0 s.clk.pll 0 ≠ 0 ∧ s.opt.loaded = false ∧ s.pwr.warmRstN = true then
      let repairs := (attempts.map (fun xs => ((votedPrefix xs).filter copiesRepaired).length)).sum
      let n := attempts.length
      match attempts.getLast? with
      | none => s
      | some last =>
        if (attempts.take (n - 1)).all attemptFailed && decide (n ≤ 3) then
          if attemptOk last then loadComplete last n repairs s
          else if attemptFailed last ∧ n = 3 then
            setPower .optionFailure { s with
              pwr := { s.pwr with modFaultN := false }
              opt := { s.opt with repairs := BitVec.ofNat 32 repairs, attempts := 3 } }
          else s
        else s
    else s

/-! ### Reference (R393) -/

/-- A change of PLL_DIE0, PLL_DIE1 and REF_PRESENT is notified. -/
def notifyClocks (s : State) : State :=
  notify 0x300003 0 (toLE 1 (if s.clk.refPresent then 1 else 0))
    (notify 0x300002 1 (toLE 1 (vget 0 s.clk.pll 1).toNat) (notify 0x300001 1 (toLE 1 (vget 0 s.clk.pll 0).toNat) s))

/-- No reference edge for 500 ns: the PLLs hold. -/
def execRefLost (s : State) : Result :=
  .next <|
    if s.clk.refPresent then
      let s := { s with clk := { s.clk with
        pll := Vector.replicate 2 2, refPresent := false, refLosses := satInc s.clk.refLosses, refLostAt := some s.clk.tick } }
      notify 0x300004 3 (toLE 4 s.clk.refLosses.toNat) (notifyClocks s)
    else s

/-- The reference returns, and the PLLs lock to it again. -/
def execRefReturn (s : State) : Result :=
  .next <|
    if s.clk.refLostAt.isSome then
      notifyClocks { s with clk := { s.clk with pll := Vector.replicate 2 1, refPresent := true, refLostAt := none } }
    else s

/-- The reference has been lost for 10 s: the module reports itself lost. -/
def execRefLostTimeout (s : State) : Result :=
  .next <|
    match s.clk.refLostAt with
    | some t => if t + secTicks 10 ≤ s.clk.tick then reportLost s else s
    | none => s

/-! ### Cages (R433, R434, R440) -/

/-- CAGE_STATE of a cage changes. -/
def setCage (k : Nat) (v : BitVec 8) (s : State) : State :=
  notify (objKey 0x5014 (k + 1)) 1 [v] { s with cages := vset s.cages k v }

/-- The links of a cage lose their peers' signal; those that were UP leave UP. -/
def darkCage (k : Nat) (s : State) : State :=
  [2 * k, 2 * k + 1].foldl (fun s l =>
    let up := decide ((getLink s l).state = .up)
    let s := putLink s l { getLink s l with peer := false }
    if up then leaveUp l s else settleLink l s) s

/-- An assembly is fitted; an active one is powered. -/
def execCageInsert (cage : Nat) (a : Sys2Proof.Assembly) (s : State) : Result :=
  whenUnit (decide (cage < 12)) <|
    if vget 0 s.cages cage = 0 then setCage cage (match a with
      | .passive => 1
      | .active => 2) s
    else s

def execCageRemove (cage : Nat) (s : State) : Result :=
  whenUnit (decide (cage < 12)) <|
    if vget 0 s.cages cage = 0 then s else setCage cage 0 (darkCage cage s)

/-- More than 6.5 A: the supply stays off until the assembly is removed. -/
def execCageOvercurrent (cage : Nat) (s : State) : Result :=
  whenUnit (decide (cage < 12)) <|
    if vget 0 s.cages cage = 2 then setCage cage 3 (darkCage cage s) else s

/-! ### The management segment (R317, R318, R320) -/

def execPlcaBeaconReceived (s : State) : Result := .next (if s.opt.loaded then { s with dop := { s.dop with plcaStatus := true } } else s)

def execPlcaBeaconTimeout (s : State) : Result := .next { s with dop := { s.dop with plcaStatus := false } }

/-- Duplicate address detection ends (R318). -/
def execDadComplete (duplicate : Bool) (s : State) : Result :=
  .next (if s.opt.loaded ∧ s.dop.dad = 0 then { s with dop := { s.dop with dad := if duplicate then 2 else 1 } } else s)

end Sys2Proof.Machine
end

