-- ==== Sys2Proof/Machine/Frames.lean ====
section
/-! DEFINITION. DOP frames (R326), privileges and tokens (R324, R336), responses and kept responses (R330, R344, R346), and which command of the table a request is. -/
namespace Sys2Proof.Machine

def errNoObject : Nat := 1
def errNoSub : Nat := 2
def errType : Nat := 4
def errStaged : Nat := 6
def errAuth : Nat := 8

/-! ### Requests -/

def hOp (h : BitVec 128) : Nat := field h 123 120
def hResp (h : BitVec 128) : Bool := bit h 111
def hMore (h : BitVec 128) : Bool := bit h 110
def hSnap (h : BitVec 128) : Bool := bit h 109
def hStagedv (h : BitVec 128) : Bool := bit h 108
def hDiscard (h : BitVec 128) : Bool := bit h 107
def hIndex (h : BitVec 128) : Nat := field h 103 88
def hSub (h : BitVec 128) : Nat := field h 87 80
def hType (h : BitVec 128) : Nat := field h 79 76
def hLen (h : BitVec 128) : Nat := field h 63 48
def hSeg (h : BitVec 128) : Nat := field h 47 32
def hReqId (h : BitVec 128) : BitVec 32 := BitVec.ofNat 32 (field h 31 0)
def hKey (h : BitVec 128) : Nat := field h 103 80

/-- A datagram's header and payload, unless it is discarded: a wrong VERSION, a LENGTH beyond 1024 or the bytes present, RESP = 1 on anything but an acknowledgement, a NOTIFY that is none (R326). -/
def parseDop (bs : List Byte) : Option (BitVec 128 × List Byte) :=
  let h := BitVec.ofNat 128 (ofLE (bs.take 16))
  if 16 ≤ bs.length ∧ field h 127 124 = 1 ∧ hLen h ≤ 1024 ∧ 16 + hLen h ≤ bs.length ∧ hResp h = decide (hOp h = 5)
  then some (h, (bs.drop 16).take (hLen h)) else none

/-- The frame is an acknowledgement of a notification (R335). -/
def isAck (h : BitVec 128) : Bool := decide (hOp h = 5)

/-- Bytes per segment of a path: 8 for remote object access (R331, R345). -/
def segSize (p : DopPath) : Nat :=
  match p with
  | .remote _ => 8
  | _ => 1024

/-- Privilege of a path without a token: 0 observer, 1 operator (R324). -/
def pathPriv (s : State) (p : DopPath) : Nat :=
  match p with
  | .net addr _ => if s.dop.operators = [] ∨ s.dop.operators.contains addr then 1 else 0
  | _ => 1

/-- The armed token is for this client, object and operation (R336). -/
def tokenNames (s : State) (p : DopPath) (key op : Nat) : Option Token :=
  match s.dop.token with
  | some t => if t.path = p ∧ t.key = key ∧ t.op = op ∧ s.clk.tick < t.at_ + secTicks 10 then some t else none
  | none => none

/-- The token is for this whole value. -/
def tokenFits (t : Token) (value : List Byte) : Bool := decide (value.length = t.length) && decide (sha256 value = t.hash)

/-! ### Responses -/

/-- What a request is answered with. -/
structure Answer where
  code : Nat
  typ : Nat := 0
  value : List Byte := []
  more : Bool := false
  stagedv : Bool := false
deriving DecidableEq, Repr

/-- The response frame (R326). -/
def responseFrame (h : BitVec 128) (a : Answer) : List Byte :=
  toLE 16 (dopHeader (hOp h) a.code true a.more false a.stagedv false (hIndex h) (hSub h) a.typ a.value.length (hSeg h) (hReqId h).toNat).toNat
    ++ a.value

/-- The OBJ_RSP payload (R345). -/
def responsePayload (h : BitVec 128) (a : Answer) : List Byte :=
  toLE 16 (objPayload (hOp h) a.typ a.code (hIndex h) (hSub h) a.more a.value.length (hSeg h) (ofLE a.value)).toNat

/-- An OBJ_RSP leaves. -/
def sendObjRsp (ep tag : Nat) (payload : List Byte) (s : State) : State :=
  injectCtrl s 0 (mkCtrl s 0 ep 6 false 0 0 0 tag (BitVec.ofNat 128 (ofLE payload)))

/-- A response leaves on its path: a datagram, the response frame of the window, an OBJ_RSP. -/
def sendResponse (p : DopPath) (id : BitVec 32) (bs : List Byte) (s : State) : State :=
  match p with
  | .net addr port => if segmentOpen s then dopCount (emit s (.datagram addr port bs)) 1 else s
  | .window =>
    msix 0 { s with dop := { s.dop with winRsp := padTo 1040 bs, doneSeq := s.dop.doneSeq + 1, winBusy := false } }
  | .remote ep => sendObjRsp ep.toNat id.toNat bs s

/-- The bytes of a response on a path. -/
def responseBytes (p : DopPath) (h : BitVec 128) (a : Answer) : List Byte :=
  match p with
  | .remote _ => responsePayload h a
  | _ => responseFrame h a

/-- The last 16 responses of a client stay (R330). -/
def keepOf (p : DopPath) (ks : List Kept) : List Kept :=
  if 16 < (ks.filter (fun k => decide (k.path = p))).length then
    match findAt (fun k : Kept => decide (k.path = p)) ks with
    | some (i, _) => dropAt ks i
    | none => ks
  else ks

def keepResponse (p : DopPath) (id : BitVec 32) (bs : List Byte) (s : State) : State :=
  match p with
  | .window => s
  | _ => { s with dop := { s.dop with kept := keepOf p (s.dop.kept ++ [⟨p, id, bs, s.clk.tick⟩]) } }

/-- A token, or an operation, was refused (R338). -/
def authFailed (h : BitVec 128) (code : Nat) : Bool :=
  decide (code = errAuth) || decide (hOp h = 2 ∧ hIndex h = 0x1221 ∧ code ≠ errNone ∧ code ≠ errBusy)

/-- Counters of an answer: BUSY_SENT, AUTH_FAIL, REMOTE_REQ (R338). -/
def countAnswer (p : DopPath) (h : BitVec 128) (code : Nat) (s : State) : State :=
  let s := if code = errBusy then dopCount s 4 else s
  let s := if authFailed h code then dopCount s 5 else s
  match p with
  | .remote _ => dopCount s 8
  | _ => s

/-- A request is answered; the answer is kept unless the queue was full. -/
def respond (q : DopReq) (a : Answer) (keep : Bool) (s : State) : State :=
  let bs := responseBytes q.path q.hdr a
  let s := countAnswer q.path q.hdr a.code s
  let s := if keep then keepResponse q.path (hReqId q.hdr) bs s else s
  if q.discard then s else sendResponse q.path (hReqId q.hdr) bs s

/-- The code that the bytes of a response carry (R326, R345). -/
def responseCode (bs : List Byte) : Nat := field (BitVec.ofNat 128 (ofLE (bs.take 16))) 119 112

/-- A kept response of a request (R330). -/
def keptFor (s : State) (p : DopPath) (id : BitVec 32) : Option Kept :=
  s.dop.kept.find? (fun k => decide (k.path = p) && decide (k.reqId = id) && decide (s.clk.tick < k.at_ + secTicks 10))

/-- A request that is still in the queue, or whose response the new image will send. -/
def inQueue (s : State) (p : DopPath) (id : BitVec 32) : Bool :=
  let same (r : DopReq) : Bool := decide (r.path = p) && decide (hReqId r.hdr = id)
  s.dop.queue.any same || s.boot.activateReq.any same

/-! ### Rows of the table -/

/-- The command of the table that a request is. -/
inductive Row where
  | read | readSnap | readStaged | write | stage | commit | discard | subscribe
  | run | stop | variant | resync | trigger | restore | portReport | fieldTest | token | key | fetch
  | warm | mgmt | fabric | quad | link | channel | clearCore | clearDie | telemetry | save
  | nonce | floor | revoke | component | chunk | verify | activate
deriving DecidableEq, Repr

/-- The command of a WRITE by its object. -/
def writeRow (key : Nat) (payload : List Byte) : Row :=
  let v := ofLE payload
  let sub := key % 256
  match key / 256 with
  | 0x1221 => .token
  | 0x1222 => .key
  | 0x2000 => if v = 0 then .stop else .run
  | 0x2004 => .variant
  | 0x2007 => if sub = 3 then .fetch else .write
  | 0x2010 => if v = 1 then .warm else if v = 2 then .mgmt else .fabric
  | 0x3120 => if sub = 1 then .quad else if sub = 2 then .link else .channel
  | 0x5043 => .telemetry
  | 0x6008 => .resync
  | 0x7003 => .portReport
  | 0x7011 => .trigger
  | 0x7012 => if sub = 3 then .restore else .write
  | 0x7040 => if sub = 2 then .fieldTest else .write
  | 0x8002 => if v % 2 = 1 then .clearCore else .clearDie
  | 0x8032 => .save
  | 0x9003 => .floor
  | 0x9005 => .revoke
  | 0x9012 => if sub = 1 then .component else if sub = 3 then .chunk else if sub = 4 then .verify else if sub = 5 then .activate else .write
  | 0x9030 => .nonce
  | _ => .write

/-- The command of a request. -/
def rowOf (q : DopReq) : Row :=
  match hOp q.hdr with
  | 2 => writeRow (hKey q.hdr) q.payload
  | 3 => .stage
  | 4 => if hDiscard q.hdr then .discard else .commit
  | 6 => .subscribe
  | _ => if hSnap q.hdr then .readSnap else if hStagedv q.hdr then .readStaged else .read

end Sys2Proof.Machine
end

