-- ==== Sys2Proof/Machine/Server.lean ====
section
/-! DEFINITION. The object server (R323 to R341): what a READ, WRITE, STAGE, COMMIT and SUBSCRIBE of every object answers and does, in the order of the conditions of R329. -/
namespace Sys2Proof.Machine

/-- A refusal. -/
def refuse (code : Nat) : Answer := { code := code }

/-- Nothing but an OK. -/
def okAnswer : Answer := { code := errNone }

/-! ### READ (R331, R340) -/

/-- Segment `seg` of a value. -/
def segmentOf (size typ : Nat) (v : List Byte) (seg : Nat) (stagedv : Bool) : Answer :=
  if seg ≠ 0 ∧ v.length ≤ size * seg then refuse errRange
  else { code := errNone, typ := typ, value := (v.drop (size * seg)).take size, more := decide (size * (seg + 1) < v.length), stagedv := stagedv }

/-- The value that a READ asks for, and whether it is a staged one. -/
def valueAsked (s : State) (h : BitVec 128) : List Byte × Bool :=
  match (if hStagedv h then mfind s.dop.staged (hKey h) else none) with
  | some v => (v, true)
  | none => (readValue s (hKey h), false)

/-- The captures without one client's of one object. -/
def otherCaptures (s : State) (p : DopPath) (key : Nat) : List Capture := s.dop.captures.filter (fun c => decide (c.path ≠ p ∨ c.key ≠ key))

/-- A READ with SNAP = 1: SEG 0 captures the value, later segments come from the capture. -/
def readSnap (p : DopPath) (h : BitVec 128) (typ : Nat) (s : State) : Answer × State :=
  let key := hKey h
  let rest := otherCaptures s p key
  let put (v : List Byte) (st : Bool) (s : State) : State := { s with dop := { s.dop with captures := rest ++ [⟨p, key, v, st, s.clk.tick⟩] } }
  if hSeg h = 0 then
    let (v, st) := valueAsked s h
    if 4 ≤ rest.length then (refuse errBusy, s)
    else if 2 ^ 20 < v.length then (refuse errRange, s)
    else (segmentOf (segSize p) typ v 0 st, put v st s)
  else
    match s.dop.captures.find? (fun c => decide (c.path = p) && decide (c.key = key) && decide (s.clk.tick < c.at_ + secTicks 10)) with
    | some c => (segmentOf (segSize p) typ c.value (hSeg h) c.stagedv, put c.value c.stagedv s)
    | none => (refuse errRange, s)

/-- A READ of an object that is present and readable; a report that is being generated is BUSY (R387), and the ward's READ of WARD_COMMIT sets off the push of its area (R305; log 131). -/
def readObject (p : DopPath) (h : BitVec 128) (r : ObjRow) (s : State) : Answer × State :=
  let s := voteRead (hKey h) s
  let s := if hKey h = 0x701005 ∧ p = .remote s.fail.wardEp then pushWard s else s
  if hIndex h = 0x9031 ∧ s.boot.reportState = 1 then (refuse errBusy, s)
  else if hSnap h then readSnap p h r.typ s
  else
    let (v, st) := valueAsked s h
    (segmentOf (segSize p) r.typ v (hSeg h) st, s)

/-! ### STAGE (R340): the range of one value -/

/-- A staged member list: header and entries without reserved bits (R8, R244). -/
def recordOk (bs : List Byte) : Bool :=
  let h : BitVec 128 := BitVec.ofNat 128 (ofLE (bs.take 16))
  let n := field h 127 107
  decide (1 ≤ n ∧ n ≤ 1048576 ∧ bs.length = 16 + 4 * n) && decide (field h 105 64 = 0 ∧ field h 15 0 = 0 ∧ field h 63 16 % 4 = 0)
    && (recOf bs).members.all (fun e => decide (field e 14 8 = 0 ∧ field e 15 15 < Config.dies ∧ field e 7 0 < Config.logicalCores))

/-- The range of a staged value alone. -/
def stageOk (s : State) (key : Nat) (bs : List Byte) : Bool :=
  let v := ofLE bs
  let sub := key % 256
  let within (a b : Nat) : Bool := decide (a ≤ v ∧ v ≤ b)
  match key / 256 with
  | 0x1201 => within 1 254
  | 0x1202 => within 1 255
  | 0x1210 => decide (bs.length % 16 = 0) && (addrsOf 8 bs).all isLinkLocal
  | 0x4001 => within 0 1
  | 0x4010 => if sub = 1 then within 1 2592000 else true
  | 0x4020 => if sub = 1 then within 0 1 else if sub = 2 then within 3600 604800 else within 60 86400
  | 0x5001 => if sub = 1 then within 1 Config.torusMaxX else if sub = 2 then within 1 Config.torusMaxY else if sub = 3 then within 1 Config.torusMaxZ else true
  | 0x5010 => decide (v < 2 ^ 27 ∧ (v % 2 ^ 24 = 0 ∨ v / 2 ^ 24 < 6))
  | 0x5020 => if 4 ≤ sub ∧ sub ≤ 6 then within 1 255 else true
  | 0x6001 => decide (bs.length = epochBytes s)
  | 0x6002 => recordOk bs
  | 0x7020 => if sub = 3 then within 0 1 else true
  | 0x3101 => within 1000 3200
  | 0x3102 => within 85 105
  | 0x3111 => within 0 1
  | 0x9001 => within 0 1
  | 0xA001 => within 0x0000000900000000 0x0000000B00000000
  | 0xA002 => within 0 3
  | 0xA003 => within 0 127
  | _ => true

/-- A whole value becomes the staged one. -/
def stageValue (key : Nat) (bs : List Byte) (s : State) : Nat × State :=
  if stageOk s key bs then (errNone, { s with dop := { s.dop with staged := mset s.dop.staged key bs } }) else (errRange, s)

/-! ### WRITE: the effects of each object -/

/-- A BOOL that starts something: 0 starts nothing. -/
def onGo (v : Nat) (f : State → State) (s : State) : Nat × State := (errNone, if v = 1 then f s else s)

/-- A value that is held when it lies in its range. -/
def hold (ok : Bool) (t s : State) : Nat × State := if ok then (errNone, t) else (errRange, s)

/-- Object 0x2000 (R276, R361). -/
def writeRun (v : Nat) (chk : Chk) (s : State) : Nat × State :=
  if s.pcie.fetchResult = 1 then (errBusy, s)
  else if v = 0 then stopWritten s
  else if v = 2 then startProgram chk s
  else (errRange, s)

/-- Objects 0x2001 to 0x2003, accepted in STOPPED (R275). -/
def writeStopped (t s : State) : Nat × State := if s.run.state = 0 then (errNone, t) else (errBusy, s)

/-- VARIANT_REQ (R275). -/
def writeVariant (v : Nat) (s : State) : Nat × State :=
  let t := { s with run := { s.run with variantReq := BitVec.ofNat 8 v } }
  if s.run.state = 0 then hold (decide (v ≤ 3)) t s
  else if s.run.state = 2 then hold (decide (v ≤ 3 ∧ v < imgVariants s.run.hdr)) { t with run := { t.run with variantAsked := true } } s
  else (errBusy, s)

/-- Object 0x2007 (R361). -/
def writeFetch (sub v : Nat) (s : State) : Nat × State :=
  if sub = 1 then (errNone, { s with pcie := { s.pcie with fetchAddr := BitVec.ofNat 64 v } })
  else if sub = 2 then (errNone, { s with pcie := { s.pcie with fetchLen := BitVec.ofNat 64 v } })
  else if s.run.state ≠ 0 then (errBusy, s)
  else onGo v startFetch s

/-- RESET_REQUEST (R417). -/
def writeReset (v : Nat) (s : State) : Nat × State :=
  if v = 1 then (errNone, requestReset .warm s)
  else if v = 2 then (errNone, requestReset .management s)
  else if v = 3 then (errNone, requestReset .fabric s)
  else (errRange, s)

/-- Object 0x7012 (R305). -/
def writeRestore (sub v : Nat) (s : State) : Nat × State :=
  if sub = 1 then (errNone, { s with fail := { s.fail with restoreCommit := BitVec.ofNat 64 v } })
  else if sub = 2 then hold (decide (v ≤ 2)) { s with fail := { s.fail with restoreSource := BitVec.ofNat 8 v } } s
  else if s.run.state ≠ 0 then (errBusy, s)
  else onGo v (fun s => restoreStart (dropReads .restore s)) s

/-- Object 0x7040 (R311, R312). -/
def writeTest (sub v : Nat) (s : State) : Nat × State :=
  let w := BitVec.ofNat 16 v
  if sub = 1 then hold (decide (field w 14 8 = 0 ∧ testPhys w < Config.physCores)) { s with fail := { s.fail with testTarget := w } } s
  else if v ≠ 1 then (errNone, s)
  else if testOn s (testDie s.fail.testTarget) then (errBusy, s)
  else if physState s (testDie s.fail.testTarget) (testPhys s.fail.testTarget) = .retired then (errRange, s)
  else (errNone, testStart s)

/-- COUNTER_CLEAR (R444). -/
def writeClear (v : Nat) (s : State) : Nat × State :=
  if 4 ≤ v then (errRange, s)
  else
    let s := if v % 2 = 1 then clearCores s else s
    (errNone, if v / 2 = 1 then clearDies s else s)

/-- SAVE_NOW (R445). -/
def writeSave (v : Nat) (s : State) : Nat × State :=
  if v ≠ 1 then (errNone, s) else if s.life.saving.isSome then (errBusy, s) else (errNone, startSave s)

/-- PORT_REPORT from the module it names (R307). -/
def writeReport (p : DopPath) (v : Nat) (s : State) : Nat × State :=
  let w := BitVec.ofNat 64 v
  if p = .remote (BitVec.ofNat 16 (repEp w)) ∧ repDir w < 6 ∧ field w 47 43 = 0 ∧ field w 38 32 = 0 then (errNone, takeReport w s) else (errRange, s)

/-- TRIGGER_AT; the slice master relays it to every member first (R303). -/
def writeTrigger (v : Nat) (s : State) : Nat × State :=
  let s := if isMaster s then (otherMembers s).foldl (fun s m => sendRemote m 2 4 0x7011 1 8 v s) s else s
  (errNone, { s with fail := { s.fail with triggerAt := BitVec.ofNat 64 v } })

/-- Object 0x9012 (R384). -/
def writeUpdate (sub : Nat) (bs : List Byte) (s : State) : Nat × State :=
  let v := ofLE bs
  if sub = 1 then updateComponent v s
  else if sub = 2 then updateOffset v s
  else if sub = 3 then updateChunk bs s
  else if sub = 4 then updateVerify v s
  else if s.boot.upStatus ≠ 3 then (errBusy, s)
  else onGo v beginActivate s

/-- Fields of a token (R336). -/
def tokenHdr (bs : List Byte) : BitVec 512 := BitVec.ofNat 512 (ofLE (bs.take 64))

/-- A token verifies: signature, magic, module, challenge, operation. -/
def tokenOk (s : State) (bs : List Byte) : Bool :=
  let h := tokenHdr bs
  decide (s.flash.maintKey ≠ []) && decide (field h 511 480 = 0x534B5431 ∧ field h 479 416 = Config.deviceUid.toNat)
    && decide (field h 415 352 = s.dop.challenge.toNat) && [2, 3, 4].contains (field h 327 324)
    && pssVerify s.flash.maintKey (bs.take 64) (slice bs 64 384)

/-- A token is written: the challenge changes in any case; a token that verifies arms one operation (R336). Remote requests are never armed (R346). -/
def writeToken (p : DopPath) (bs : List Byte) (s : State) : Nat × State :=
  let ok := tokenOk s bs
  let h := tokenHdr bs
  let (c, s) := takeFree s
  let s := { s with dop := { s.dop with challenge := c } }
  match p with
  | .remote _ => (errAuth, s)
  | _ =>
    if !ok then (errAuth, s)
    else if field h 323 320 ≠ 0 ∨ field h 287 256 ≠ 0 then (errRange, s)
    else (errNone, { s with dop := { s.dop with
      token := some ⟨p, field h 351 328, field h 327 324, field h 319 288, BitVec.ofNat 256 (field h 255 0), s.clk.tick⟩ } })

/-- MAINT_KEY must hash to the fuses (R337). -/
def writeMaintKey (bs : List Byte) (s : State) : Nat × State :=
  let s := voteMaintHash s
  if sha256 bs = s.boot.maintHash.value then (errNone, { s with flash := { s.flash with maintKey := bs } }) else (errAuth, s)

/-- The effect of a WRITE of a whole value. -/
def writeValue (p : DopPath) (key : Nat) (bs : List Byte) (chk : Chk) (s : State) : Nat × State :=
  let v := ofLE bs
  let sub := key % 256
  match key / 256 with
  | 0x1221 => writeToken p bs s
  | 0x1222 => writeMaintKey bs s
  | 0x2000 => writeRun v chk s
  | 0x2001 => writeStopped (fillSlice { s with run := { s.run with base := BitVec.ofNat 64 v } }) s
  | 0x2002 => writeStopped { s with run := { s.run with commit := triple (BitVec.ofNat 64 v) } } s
  | 0x2003 => writeStopped { s with run := { s.run with skipped := BitVec.ofNat 64 v } } s
  | 0x2004 => writeVariant v s
  | 0x2007 => writeFetch sub v s
  | 0x2010 => writeReset v s
  | 0x3120 => if sub = 1 then blockQuad (BitVec.ofNat 16 v) s else if sub = 2 then blockLink v s else blockChannel v s
  | 0x5013 => hold (decide (v ≤ 7)) (putLink s (sub - 1) { getLink s (sub - 1) with preset := BitVec.ofNat 8 v }) s
  | 0x5043 => onGo v clearTelemetry s
  | 0x6008 => (errNone, { s with grp := { s.grp with resync := some (BitVec.ofNat 16 v) } })
  | 0x7001 => (errNone, { s with fail := { s.fail with replayLimit := BitVec.ofNat 16 v } })
  | 0x7003 => writeReport p v s
  | 0x7011 => writeTrigger v s
  | 0x7012 => writeRestore sub v s
  | 0x7013 => hold (decide (1 ≤ v ∧ v ≤ 256)) { s with pcie := { s.pcie with drainRate := BitVec.ofNat 16 v } } s
  | 0x7040 => writeTest sub v s
  | 0x8002 => writeClear v s
  | 0x8032 => writeSave v s
  | 0x9003 => raiseFloor (sub - 4) v s
  | 0x9005 => revokeKey v s
  | 0x9012 => writeUpdate sub bs s
  | 0x9030 => takeNonce bs s
  | _ => (errRange, s)

/-! ### Segments of a WRITE or STAGE (R331) -/

/-- The open write of a client on an object. -/
def openWrite (s : State) (p : DopPath) (op key : Nat) : Option SegWrite :=
  s.dop.segs.find? (fun w => decide (w.path = p ∧ w.op = op ∧ w.key = key))

/-- Another client's write is open on an object. -/
def otherWrite (s : State) (p : DopPath) (key : Nat) : Bool := s.dop.segs.any (fun w => decide (w.key = key ∧ w.path ≠ p))

/-- The open writes without one client's on an object. -/
def closeWrite (p : DopPath) (key : Nat) (s : State) : State :=
  { s with dop := { s.dop with segs := s.dop.segs.filter (fun w => decide (w.path ≠ p ∨ w.key ≠ key)) } }

/-- What a segment leads to: a whole value, a wait for more, or a refusal. -/
inductive Gather where
  | whole (v : List Byte)
  | partial_ (w : SegWrite)
  | refused (code : Nat)
deriving DecidableEq, Repr

/-- A segment of a STR or DOMAIN. -/
def gather (s : State) (p : DopPath) (h : BitVec 128) (r : ObjRow) (payload : List Byte) : Gather :=
  let key := hKey h
  let op := hOp h
  let size := segSize p
  let fits (v : List Byte) : Bool := if hMore h then decide (v.length ≤ r.size) else if r.exact_ then decide (v.length = r.size) else decide (v.length ≤ r.size)
  let next (v : List Byte) (n at_ : Nat) : Gather :=
    if !fits v ∨ (hMore h ∧ payload.length ≠ size) then .refused errRange
    else if hMore h then .partial_ ⟨p, op, key, n + 1, v, at_⟩
    else .whole v
  if hSeg h = 0 then (if otherWrite s p key then .refused errBusy else next payload 0 s.clk.tick)
  else
    match openWrite s p op key with
    | some w => if w.next = hSeg h ∧ s.clk.tick < w.at_ + secTicks 10 then next (w.data ++ payload) (hSeg h) w.at_ else .refused errRange
    | none => .refused errRange

/-- The code for a value that the object does not allow: BUSY comes before RANGE, so an object that could not take an allowed value now answers BUSY (R329). -/
def rangeCode (allowed : List Byte) (act : List Byte → State → Nat × State) (s : State) : Nat :=
  if (act allowed s).1 = errBusy then errBusy else errRange

/-- A request for a whole value or a segment of it, once it may act. -/
def takeValue (p : DopPath) (h : BitVec 128) (r : ObjRow) (payload : List Byte) (act : List Byte → State → Nat × State) (s : State) : Answer × State :=
  match typeBytes r.typ with
  | some _ =>
    if r.typ = 0 ∧ 1 < ofLE payload then (refuse (rangeCode [1] act s), s)
    else
      let (code, s) := act payload s
      (refuse code, s)
  | none =>
    match gather s p h r payload with
    | .refused code =>
      if code = errRange then
        (refuse (rangeCode (if r.exact_ then padTo r.size (payload.take r.size) else payload.take r.size) act s), closeWrite p (hKey h) s)
      else (refuse code, s)
    | .partial_ w =>
      let s := closeWrite p (hKey h) s
      (okAnswer, { s with dop := { s.dop with segs := s.dop.segs ++ [w] } })
    | .whole v =>
      let (code, s) := act v (closeWrite p (hKey h) s)
      (refuse code, s)

/-! ### Conditions (R323, R324, R329) -/

/-- MORE = 1 leaves further segments to come: only a STR or DOMAIN that is written or staged moves in segments (R331). -/
def moreToCome (s : State) (q : DopReq) : Bool :=
  hMore q.hdr && decide (hOp q.hdr ≠ 4) && (((objRow s (hKey q.hdr)).map (fun r => decide (typeBytes r.typ = none))).getD false)

/-- The whole value that a request would complete, for the hash of a token: none of a COMMIT, nothing yet while segments are still to come. -/
def wholeValue (s : State) (q : DopReq) : Option (List Byte) :=
  if hOp q.hdr = 4 then some []
  else if moreToCome s q then none
  else some (((openWrite s q.path (hOp q.hdr) (hKey q.hdr)).map (fun w => if hSeg q.hdr = 0 then [] else w.data)).getD [] ++ q.payload)

/-- Privilege of a request, and the state with the token it uses consumed, whatever becomes of the request (R336). -/
def privilege (s : State) (q : DopReq) : Nat × State :=
  match tokenNames s q.path (hKey q.hdr) (hOp q.hdr) with
  | none => (pathPriv s q.path, s)
  | some t =>
    match wholeValue s q with
    | none => (2, s)
    | some v => if tokenFits t v then (2, { s with dop := { s.dop with token := none } }) else (pathPriv s q.path, s)

/-- An object's chapter refuses a WRITE on this path, in this module or with this value (R303, R307, R417). -/
def chapterDenies (s : State) (q : DopReq) : Bool :=
  let fromMaster := decide (q.path = .remote (masterEp s))
  match hIndex q.hdr with
  | 0x2010 => decide (ofLE q.payload = 3) && !fromMaster
  | 0x7003 =>
    (match q.path with
     | .remote _ => !(isMaster s || (s.fab.hasId && decide (s.fail.deputy = s.fab.ownId)))
     | _ => true)
  | 0x7011 => !(isMaster s || fromMaster)
  | _ => false

/-- TYPE of a request against its object: the code, and the length of a fixed-size type. -/
def typeDiffers (r : ObjRow) (q : DopReq) : Bool :=
  decide (hType q.hdr ≠ r.typ) || (match typeBytes r.typ with
    | some n => decide (q.payload.length ≠ n)
    | none => false)

/-- The object of a request: its row, or NO_OBJECT or NO_SUBINDEX. -/
def lookup (s : State) (q : DopReq) : ObjRow ⊕ Nat :=
  match objRow s (hKey q.hdr) with
  | some r => .inl r
  | none => .inr (if objRows s (hIndex q.hdr) = [] then errNoObject else errNoSub)

/-- Objects 0xF000 to 0xFFFF: reading needs maintainer, writing is refused (R324). -/
def factoryAnswer (q : DopReq) : Answer := refuse (if hOp q.hdr = 1 then errAuth else errAccess)

def serveRead (q : DopReq) (s : State) : Answer × State :=
  match lookup s q with
  | .inr code => (refuse code, s)
  | .inl r =>
    if r.access = WO then (refuse errAccess, s)
    else if pathPriv s q.path < r.rpriv then (refuse errAuth, s)
    else readObject q.path q.hdr r s

/-- An object whose chapter asks who the slice master is has its ID voted (R185). -/
def voteChapter (q : DopReq) (s : State) : State := if [0x2010, 0x7003, 0x7011].contains (hIndex q.hdr) then voteMaster s else s

/-- WRITE with a privilege. -/
def serveWrite (q : DopReq) (priv : Nat) (chk : Chk) (s : State) : Answer × State :=
  match lookup s q with
  | .inr code => (refuse code, s)
  | .inl r =>
    if r.access = RO ∨ hIndex q.hdr = 0x2100 ∨ (r.access ≠ RWS ∧ chapterDenies s q) then (refuse errAccess, s)
    else if r.access = RWS then (refuse errStaged, s)
    else
      if priv < r.wpriv then (refuse errAuth, s)
      else if typeDiffers r q then (refuse errType, s)
      else takeValue q.path q.hdr r q.payload (fun v s => writeValue q.path (hKey q.hdr) v chk s) s

/-- STAGE: an object of a PENDING group is BUSY (R342). -/
def serveStage (q : DopReq) (priv : Nat) (s : State) : Answer × State :=
  match lookup s q with
  | .inr code => (refuse code, s)
  | .inl r =>
    if r.access ≠ RWS then (refuse errAccess, s)
    else
      if priv < r.wpriv then (refuse errAuth, s)
      else if typeDiffers r q then (refuse errType, s)
      else if s.dop.pending.contains (groupOf (hKey q.hdr)) then (refuse errBusy, s)
      else takeValue q.path q.hdr r q.payload (fun v s => stageValue (hKey q.hdr) v s) s

/-! ### COMMIT (R341) -/

/-- The answer of a COMMIT of group g: the group's state after it. -/
def groupAnswer (code g : Nat) (s : State) : Answer := { code := code, typ := 1, value := [BitVec.ofNat 8 (groupState s g)] }

/-- The highest write privilege among a group's staged objects, at least operator. -/
def groupPriv (s : State) (g : Nat) : Nat := (stagedOf s g).foldl (fun m e => Nat.max m (((objRow s e.1).map (fun r => r.wpriv)).getD 1)) 1

/-- The code of a group's last commit check. -/
def setCheck (g code : Nat) (s : State) : State :=
  { s with dop := { s.dop with lastCheck := mset s.dop.lastCheck g (BitVec.ofNat 8 code) } }

def commitGroup (g : Nat) (s : State) : Answer × State :=
  if groupState s g ≠ 1 then (groupAnswer errNone g s, s)
  else if commitOk s g then
    let s := setCheck g errNone { s with dop := { s.dop with pending := s.dop.pending ++ [g] } }
    let s := if groupQuiet s g then applyGroup g s else s
    (groupAnswer errNone g s, s)
  else
    let s := setCheck g errRange s
    (groupAnswer errRange g s, s)

def discardGroup (g : Nat) (s : State) : Answer × State :=
  if groupState s g = 2 then (groupAnswer errBusy g s, s)
  else
    let s := { s with dop := { s.dop with staged := s.dop.staged.filter (fun e => !(groupKeys g).contains e.1) } }
    (groupAnswer errNone g s, s)

def serveCommit (q : DopReq) (priv : Nat) (s : State) : Answer × State :=
  let g := hSub q.hdr
  match lookup s q with
  | .inr code => (refuse code, s)
  | .inl _ =>
    if hIndex q.hdr ≠ 0x2100 ∨ g = 0 then (refuse errAccess, s)
    else if priv < groupPriv s g then (groupAnswer errAuth g s, s)
    else if hDiscard q.hdr then discardGroup g s
    else commitGroup g s

/-! ### SUBSCRIBE (R333) -/

/-- The readable subindices that a subscription covers. -/
def coveredRows (s : State) (key : Nat) : List ObjRow :=
  (objRows s (key / 256)).filter (fun r => decide (r.access ≠ WO) && (decide (r.sub = key % 256) || decide (key % 256 = 0)))

/-- The values that a new subscription starts from. -/
def startValues (s : State) (key : Nat) : SMap (List Byte) :=
  (coveredRows s key).foldl (fun m r => mset m (objKey (key / 256) r.sub) (readValue s (objKey (key / 256) r.sub))) []

def subscribe (addr : BitVec 128) (port key lease minMs : Nat) (s : State) : Nat × State :=
  let mine (u : Subscription) : Bool := decide (u.addr = addr ∧ u.port = port ∧ u.key = key)
  let expires := s.clk.tick + secTicks lease
  if lease = 0 then (errNone, { s with dop := { s.dop with subs := s.dop.subs.filter (fun u => !mine u) } })
  else if s.dop.subs.any mine then
    (errNone, { s with dop := { s.dop with subs := s.dop.subs.map (fun u => if mine u then { u with expires := expires, minMs := minMs } else u) } })
  else
    (errNone, { s with dop := { s.dop with subs := s.dop.subs ++
      [{ addr := addr, port := port, key := key, expires := expires, minMs := minMs, queue := [], outstanding := none, sent := 0
         firstSend := 0, last := startValues s key }] } })

def serveSubscribe (q : DopReq) (s : State) : Answer × State :=
  match lookup s q with
  | .inr code => (refuse code, s)
  | .inl r =>
    match q.path with
    | .net addr port =>
      let v : BitVec 64 := BitVec.ofNat 64 (ofLE q.payload)
      let known := s.dop.subs.any (fun u => decide (u.addr = addr ∧ u.port = port ∧ u.key = hKey q.hdr))
      if r.access = WO then (refuse errAccess, s)
      else if pathPriv s q.path < r.rpriv then (refuse errAuth, s)
      else if !known ∧ field v 63 48 ≠ 0 ∧ 32 ≤ s.dop.subs.length then (refuse errBusy, s)
      else if q.payload.length ≠ 8 ∨ 3600 < field v 63 48 ∨ 60000 < field v 47 32 ∨ field v 31 0 ≠ 0 then (refuse errRange, s)
      else
        let (code, s) := subscribe addr port (hKey q.hdr) (field v 63 48) (field v 47 32) s
        (refuse code, s)
    | _ => (refuse errAccess, s)

/-! ### Every operation (R327) -/

/-- The answer to a request and its effect. -/
def process (q : DopReq) (chk : Chk) (s : State) : Answer × State :=
  if 0xF000 ≤ hIndex q.hdr then (factoryAnswer q, s)
  else
    let p := privilege s q
    match hOp q.hdr with
    | 1 => serveRead q s
    | 2 => serveWrite q p.1 chk (voteChapter q p.2)
    | 3 => serveStage q p.1 p.2
    | 4 => serveCommit q p.1 p.2
    | 6 => serveSubscribe q s
    | _ => (match lookup s q with
      | .inr code => (refuse code, s)
      | .inl _ => (refuse errAccess, s))

/-- What recovery serves: READs of 0x1000 to 0x11FF and 0x9000 to 0x9005, the update objects, token arming (R381). -/
def recoveryServes (h : BitVec 128) : Bool :=
  let i := hIndex h
  (decide (hOp h = 1) && (decide (0x1000 ≤ i ∧ i ≤ 0x11FF) || decide (0x9000 ≤ i ∧ i ≤ 0x9005)))
    || decide (i = 0x9012) || decide (i = 0x1220) || decide (i = 0x1221)

/-- What the boot ROM serves before MGMT does: READs of 0x1000 to 0x11FF and of 0x9000 (R328, R380). -/
def romServes (h : BitVec 128) : Bool :=
  decide (hOp h = 1) && (decide (0x1000 ≤ hIndex h ∧ hIndex h ≤ 0x11FF) || decide (hIndex h = 0x9000))

/-- The server may act on this request now; otherwise it is BUSY. -/
def serverActs (s : State) (h : BitVec 128) : Bool :=
  if !s.boot.serving then romServes h else if s.boot.state = 3 then recoveryServes h else true

end Sys2Proof.Machine
end

