-- ==== Sys2Proof/Machine/Dop.lean ====
section
/-! DEFINITION. The DOP server's queue (R328, R330, R346), its three paths, notifications and their timers (R331 to R336), the handover of MGMT (R385), and what the module answers of ICMPv6 (R318). -/
namespace Sys2Proof.Machine

/-! ### The queue (R328) -/

/-- A COMMIT names a group that exists, so its answers carry the group's state (R327). -/
def namesGroup (h : BitVec 128) : Bool := decide (hOp h = 4 ∧ hIndex h = 0x2100 ∧ 1 ≤ hSub h ∧ hSub h ≤ 12)

/-- BUSY of a server that may not act on a request (R328, R381). -/
def busyAnswer (q : DopReq) (s : State) : Answer := if namesGroup q.hdr then groupAnswer errBusy (hSub q.hdr) s else refuse errBusy

/-- A request is served: its answer leaves, or waits for the new MGMT image (R385). -/
def serve (q : DopReq) (chk : Chk) (s : State) : State :=
  if serverActs s q.hdr then
    let r := process q chk s
    if rowOf q = .activate ∧ r.1.code = errNone ∧ handingOver r.2 then { r.2 with boot := { r.2.boot with activateReq := some q } }
    else respond q r.1 true r.2
  else respond q (busyAnswer q s) true (privilege s q).2

/-- Requests taken and not answered. -/
def taken (s : State) : Nat := s.dop.queue.length + (if s.boot.activateReq.isSome then 1 else 0)

/-- A request joins the queue. -/
def enqueue (q : DopReq) (s : State) : State := { s with dop := { s.dop with queue := s.dop.queue ++ [q] } }

/-- A request arrives: a kept response is sent again, a repeat is ignored, a full queue answers BUSY, and `go` takes the request otherwise (R328, R330). -/
def arrive (q : DopReq) (go : State → State) (s : State) : State :=
  match (if q.path = .window then none else keptFor s q.path (hReqId q.hdr)) with
  | some k =>
    let s := dopCount s 3
    sendResponse q.path (hReqId q.hdr) k.resp (if responseCode k.resp = errBusy then dopCount s 4 else s)
  | none =>
    if q.path ≠ .window ∧ inQueue s q.path (hReqId q.hdr) then s
    else if 32 ≤ taken s then respond q (refuse errBusy) false s
    else go s

/-- A request of the segment is served at once when nothing is before it. -/
def takeNet (q : DopReq) (chk : Chk) (s : State) : State :=
  arrive q (fun s => if handingOver s ∨ s.dop.queue ≠ [] then enqueue q s else serve q chk s) s

/-- The management port hears a source (R318), and the module answers requests (R328, R418). -/
def hears (s : State) (src : BitVec 128) : Bool := s.opt.loaded && !s.boot.silent && isLinkLocal src

/-- A discarded datagram (R326, R338). -/
def badFrame (s : State) : State := dopCount (dopCount s 0) 2

/-- The request of a datagram. -/
def netReq (f : NetFrame) (h : BitVec 128) (p : List Byte) : DopReq := { path := .net f.addr f.port, hdr := h, payload := p }

/-- What a request sent to ff02::1 must be (R319). -/
def servedToAll (h : BitVec 128) : Bool := decide (hOp h = 1) && decide (0x1000 ≤ hIndex h ∧ hIndex h ≤ 0x11FF)

/-- The command of one row of the table: a datagram that arrives, or the head of the queue. A request of another row changes nothing. -/
def handleRow (row : Row) (r : ReqRef) (chk : Chk) (s : State) : Result :=
  .next <|
    match r with
    | .net f =>
      if !(hears s f.addr && segmentOpen s) then s
      else
        match (if f.sumOk then parseDop f.bytes else none) with
        | none => badFrame s
        | some (h, p) =>
          if isAck h ∨ rowOf (netReq f h p) ≠ row then s
          else if f.toAll && !servedToAll h then dopCount s 0
          else takeNet (netReq f h p) chk (dopCount s 0)
    | .queue =>
      match s.dop.queue with
      | [] => s
      | q :: rest =>
        if rowOf q ≠ row ∨ handingOver s ∨ s.boot.silent then s
        else serve q chk { s with dop := { s.dop with queue := rest } }

def execDopRead (r : ReqRef) (s : State) : Result := handleRow .read r .ok s
def execDopReadSnap (r : ReqRef) (s : State) : Result := handleRow .readSnap r .ok s
def execDopReadStaged (r : ReqRef) (s : State) : Result := handleRow .readStaged r .ok s
def execDopWrite (r : ReqRef) (s : State) : Result := handleRow .write r .ok s
def execDopStage (r : ReqRef) (s : State) : Result := handleRow .stage r .ok s
def execDopCommit (r : ReqRef) (s : State) : Result := handleRow .commit r .ok s
def execDopCommitDiscard (r : ReqRef) (s : State) : Result := handleRow .discard r .ok s
def execDopSubscribe (r : ReqRef) (s : State) : Result := handleRow .subscribe r .ok s
def execRunStateRun (r : ReqRef) (chk : Chk) (s : State) : Result := handleRow .run r chk s
def execRunStateStop (r : ReqRef) (s : State) : Result := handleRow .stop r .ok s
def execVariantReqWrite (r : ReqRef) (s : State) : Result := handleRow .variant r .ok s
def execRoleEpochResync (r : ReqRef) (s : State) : Result := handleRow .resync r .ok s
def execTriggerAtWrite (r : ReqRef) (s : State) : Result := handleRow .trigger r .ok s
def execRestoreGo (r : ReqRef) (s : State) : Result := handleRow .restore r .ok s
def execPortReport (r : ReqRef) (s : State) : Result := handleRow .portReport r .ok s
def execFieldTestStart (r : ReqRef) (s : State) : Result := handleRow .fieldTest r .ok s
def execMaintTokenWrite (r : ReqRef) (s : State) : Result := handleRow .token r .ok s
def execMaintKeyWrite (r : ReqRef) (s : State) : Result := handleRow .key r .ok s
def execImageFetchGo (r : ReqRef) (s : State) : Result := handleRow .fetch r .ok s
def execResetRequestWarm (r : ReqRef) (s : State) : Result := handleRow .warm r .ok s
def execResetRequestMgmt (r : ReqRef) (s : State) : Result := handleRow .mgmt r .ok s
def execResetRequestFabric (r : ReqRef) (s : State) : Result := handleRow .fabric r .ok s
def execBlockResetQuad (r : ReqRef) (s : State) : Result := handleRow .quad r .ok s
def execBlockResetLink (r : ReqRef) (s : State) : Result := handleRow .link r .ok s
def execBlockResetChannel (r : ReqRef) (s : State) : Result := handleRow .channel r .ok s
def execCounterClearCore (r : ReqRef) (s : State) : Result := handleRow .clearCore r .ok s
def execCounterClearDie (r : ReqRef) (s : State) : Result := handleRow .clearDie r .ok s
def execTelemetryClear (r : ReqRef) (s : State) : Result := handleRow .telemetry r .ok s
def execSaveNow (r : ReqRef) (s : State) : Result := handleRow .save r .ok s
def execNonce (r : ReqRef) (s : State) : Result := handleRow .nonce r .ok s
def execRaiseFloor (r : ReqRef) (s : State) : Result := handleRow .floor r .ok s
def execRevoke (r : ReqRef) (s : State) : Result := handleRow .revoke r .ok s
def execUpdateComponent (r : ReqRef) (s : State) : Result := handleRow .component r .ok s
def execUpdateChunk (r : ReqRef) (s : State) : Result := handleRow .chunk r .ok s
def execUpdateVerify (r : ReqRef) (s : State) : Result := handleRow .verify r .ok s
def execActivate (r : ReqRef) (s : State) : Result := handleRow .activate r .ok s

/-! ### Handover of MGMT (R385) -/

/-- The deferred ACTIVATE is answered. -/
def answerActivate (r : Option DopReq) (s : State) : State :=
  match r with
  | some q => respond q okAnswer true s
  | none => s

/-- Die 1 and then die 0 runs the new image, or returns to the old slot. -/
def execMgmtHandoverComplete (die : Nat) (selfCheckOk : Bool) (s : State) : Result :=
  whenUnit (dieOk die) <|
    let r := s.boot.activateReq
    if !handingOver s ∨ (die = 1 ∧ s.boot.handed ≠ []) ∨ (die = 0 ∧ s.boot.handed ≠ [1]) then s
    else if !selfCheckOk then answerActivate r (abandonActivate s)
    else if die = 1 then { s with boot := { s.boot with handed := [1] } }
    else
      let s := activated 1 s
      answerActivate r { s with
        dop := { s.dop with segs := [], captures := [], token := none }
        boot := { s.boot with handed := [], activateReq := none } }

/-! ### Remote object access (R345, R346) -/

/-- The request of an OBJ_REQ. -/
def remoteReq (p : CtrlPkt) : DopReq :=
  let x := p.payload
  let n := Nat.min (field x 86 83) 8
  { path := .remote (BitVec.ofNat 16 (ctrlSrc p))
    hdr := dopHeader (field x 127 124) 0 false (bit x 87) false false false (field x 111 96) (field x 95 88) (field x 123 120) n (field x 79 64) (ctrlTag p)
    payload := (toLE 8 (field x 63 0)).take n }

/-- A liveness probe: a READ of object 0x2000 from the slice master or the deputy. -/
def isProbe (s : State) (p : CtrlPkt) : Bool :=
  decide (field p.payload 127 124 = 1 ∧ field p.payload 111 96 = 0x2000) && (decide (ctrlSrc p = (masterEp s).toNat) || decide (ctrlSrc p = s.fail.deputy.toNat))

/-- The oldest OBJ_REQ in a die's router joins the queue, or is answered as a probe. -/
def execObjReq (die : Nat) (s : State) : Result :=
  whenUnit (decide (die < Config.dies)) <|
    match takeCtrl s die 5 with
    | none => s
    | some (p, t) =>
      let q := remoteReq p.pkt
      let t := voteMaster t
      if t.boot.silent then t
      else if isProbe t p.pkt then
        let r := process q .ok t
        respond q r.1 false r.2
      else arrive q (enqueue q) t

/-- The oldest OBJ_RSP in a die's router ends its request, or answers a probe; what a takeover or a restore waits for goes on (R305, R308). -/
def execObjRsp (die : Nat) (s : State) : Result :=
  whenUnit (decide (die < Config.dies)) <|
    match takeCtrl s die 6 with
    | none => s
    | some (p, s) =>
      let (src, tag) := (ctrlSrc p.pkt, ctrlTag p.pkt)
      if s.fail.probes.any (fun x => decide (x.1.toNat = src ∧ x.2.1.toNat = tag)) then probeAnswered src s
      else
        let mine (x : RemoteReq) : Bool := decide (x.tag.toNat = tag ∧ x.dest.toNat = src)
        if s.dop.remote.any mine then
          let v := p.pkt.payload
          let s := { s with dop := { s.dop with remote := s.dop.remote.filter (fun x => !mine x) } }
          let s := if field v 127 124 = 1 ∧ field v 119 112 = errNone then takeoverAnswer src (field v 111 96) (field v 95 88) (field v 63 0) s else s
          afterAnswer s
        else s

/-! ### Notifications (R333 to R335) -/

/-- A subscription takes a new form. -/
def putSub (i : Nat) (u : Subscription) (s : State) : State := { s with dop := { s.dop with subs := putAt s.dop.subs i u } }

/-- An acknowledgement names the outstanding notification of a subscription. -/
def ackFits (addr : BitVec 128) (port : Nat) (h : BitVec 128) (u : Subscription) : Bool :=
  match u.outstanding with
  | some (id, frame, _, _) =>
    decide (u.addr = addr ∧ u.port = port ∧ id = hReqId h ∧ hLen h = 0) && decide (hKey (BitVec.ofNat 128 (ofLE (frame.take 16))) = hKey h)
  | none => false

def execNotifyAck (f : NetFrame) (s : State) : Result :=
  .next <|
    if !(hears s f.addr && segmentOpen s) then s
    else
      match (if f.sumOk then parseDop f.bytes else none) with
      | none => badFrame s
      | some (h, _) =>
        if !isAck h then s
        else
          let s := dopCount s 0
          match findAt (ackFits f.addr f.port h) s.dop.subs with
          | some (i, u) => pumpAt i (putSub i { u with outstanding := none } s)
          | none => s

/-- 500 ms without an acknowledgement: the notification is sent again, four times at most, and then dropped. -/
def execNotifyResend (i : Nat) (s : State) : Result :=
  .next <|
    match s.dop.subs[i]? with
    | none => s
    | some u =>
      match u.outstanding with
      | none => s
      | some (id, frame, sentAt, sends) =>
        if !segmentOpen s ∨ s.boot.silent ∨ s.clk.tick < sentAt + msTicks 500 then s
        else if sends < 5 then
          dopCount (dopCount (emit (putSub i { u with outstanding := some (id, frame, s.clk.tick, sends + 1) } s) (.datagram u.addr u.port frame)) 6) 1
        else pumpAt i (dopCount (putSub i { u with outstanding := none } s) 7)

/-- Objects whose notifications are sent at events only (R334). -/
def eventObjects : List Nat := [0x4014, 0x7010, 0x8040]

/-- A subscribed value that differs from the last value sent is notified. -/
def pollValue (i key : Nat) (r : ObjRow) (s : State) : State :=
  match s.dop.subs[i]? with
  | some u =>
    let k := objKey (key / 256) r.sub
    let v := readValue s k
    if mfind u.last k = some v then s else queueNotice i ⟨k, r.typ, v⟩ s
  | none => s

def execNotifyValuePoll (i : Nat) (s : State) : Result :=
  .next <|
    match s.dop.subs[i]? with
    | none => s
    | some u =>
      if !s.boot.serving ∨ s.boot.silent then s
      else
        let s := if eventObjects.contains (u.key / 256) then s else (coveredRows s u.key).foldl (fun s r => pollValue i u.key r s) s
        pumpAt i s

/-! ### Timers of the server -/

def execSubscriptionExpire (i : Nat) (s : State) : Result :=
  .next <|
    match s.dop.subs[i]? with
    | some u => if u.expires ≤ s.clk.tick then { s with dop := { s.dop with subs := dropAt s.dop.subs i } } else s
    | none => s

def execCaptureExpire (i : Nat) (s : State) : Result :=
  .next <|
    match s.dop.captures[i]? with
    | some c => if c.at_ + secTicks 10 ≤ s.clk.tick then { s with dop := { s.dop with captures := dropAt s.dop.captures i } } else s
    | none => s

def execSegmentWriteTimeout (i : Nat) (s : State) : Result :=
  .next <|
    match s.dop.segs[i]? with
    | some w => if w.at_ + secTicks 10 ≤ s.clk.tick then { s with dop := { s.dop with segs := dropAt s.dop.segs i } } else s
    | none => s

def execKeptResponseExpire (i : Nat) (s : State) : Result :=
  .next <|
    match s.dop.kept[i]? with
    | some k => if k.at_ + secTicks 10 ≤ s.clk.tick then { s with dop := { s.dop with kept := dropAt s.dop.kept i } } else s
    | none => s

def execMaintTokenExpire (s : State) : Result :=
  .next <|
    match s.dop.token with
    | some t => if t.at_ + secTicks 10 ≤ s.clk.tick then { s with dop := { s.dop with token := none } } else s
    | none => s

/-! ### ICMPv6 (R318) -/

/-- The module's own address. -/
def ownAddr : BitVec 128 := BitVec.ofNat 128 (ofLE linkLocal.reverse)

/-- A neighbour solicitation for the module's address is answered with an advertisement (type 136), also after a duplicate was found. -/
def execNeighbourSolicitation (src target : BitVec 128) (s : State) : Result :=
  .next <| if hears s src && decide (s.dop.dad ≠ 0 ∧ target = ownAddr) then emit s (.icmp src 136 (toBE 16 target.toNat)) else s

/-- An echo request is answered with an echo reply (type 129). -/
def execEchoRequest (src : BitVec 128) (payload : List Byte) (s : State) : Result :=
  .next <| if hears s src && segmentOpen s then emit s (.icmp src 129 payload) else s

end Sys2Proof.Machine
end

