-- ==== Sys2Proof/Machine/Window.lean ====
section
/-! DEFINITION. The host's side of BAR0: the object window (R343, R344) and the registers (R352 to R358). -/
namespace Sys2Proof.Machine

/-- The request frame is submitted: it joins the queue, or it is discarded as R326 says. -/
def submitWindow (s : State) : State :=
  match parseDop s.dop.winReq with
  | none => dopCount s 2
  | some (h, p) =>
    if isAck h then s
    else
      let q : DopReq := { path := .window, hdr := h, payload := p }
      if s.boot.silent then s else arrive q (enqueue q) s

/-- A write to WIN_CTRL (R343). -/
def writeWinCtrl (v : Nat) (s : State) : State :=
  let s := if v.testBit 2 then { s with dop := { s.dop with overrun := false } } else s
  if !v.testBit 0 then s
  else if s.dop.winBusy then { s with dop := { s.dop with overrun := true } }
  else submitWindow { s with dop := { s.dop with winBusy := true } }

def execWinCtrlGo (value : BitVec 64) (s : State) : Result := .next (bar0Request (writeWinCtrl value.toNat) s)

/-- A register of 8 bytes with some of its bytes replaced. -/
def withBytes (old : BitVec 64) (off : Nat) (data : List Byte) : Nat := ofLE (splice (toLE 8 old.toNat) off data)

/-- Bytes of the MSI-X table; of Vector Control only the mask bit is kept. Vectors that are no longer masked are sent (R357). -/
def writeMsixTable (off : Nat) (data : List Byte) (s : State) : State :=
  let e := vget 0 s.pcie.msix (off / 16)
  let e := BitVec.ofNat 128 (ofLE (splice (toLE 16 e.toNat) (off % 16) data) % 2 ^ 97)
  pumpMsix { s with pcie := { s.pcie with msix := vset s.pcie.msix (off / 16) e } }

/-- A write to a register of BAR0. -/
def writeBar0 (off : Nat) (data : List Byte) (s : State) : State :=
  if off + data.length ≤ 8 then setBar2Base (withBytes s.pcie.bar2Base off data) s
  else if off = 0x100 then signal (ofLE data) s
  else if 0x4000 ≤ off ∧ off < 0x4400 then writeMsixTable (off - 0x4000) data s
  else if off = 0x101000 then writeWinCtrl (ofLE data) s
  else s

/-- Bytes written at an offset, those of disabled byte enables left as they were (R352). -/
def spliceEnabled (old : List Byte) (off : Nat) (data : List Byte) (disabled : List Nat) : List Byte :=
  splice old off ((List.range data.length).map (fun i => if disabled.contains i then old.getD (off + i) 0 else data.getD i 0))

/-- The request frame of the window takes any memory write that lies within it, with any byte enables; a register takes whole aligned writes of 4 or 8 bytes (R352). -/
def execBar0RegisterWrite (off : Nat) (data : List Byte) (disabled : List Nat) (s : State) : Result :=
  .next <| bar0Request (fun s =>
    if 0x100000 ≤ off ∧ off + data.length ≤ 0x100410 then
      (if data.length ≤ s.pcie.maxPayload then
        { s with dop := { s.dop with winReq := spliceEnabled s.dop.winReq (off - 0x100000) data disabled } }
       else uncorError 18 s)
    else if (data.length = 4 ∨ data.length = 8) ∧ off % data.length = 0 ∧ disabled = [] then writeBar0 off data s
    else s) s

/-! ### What BAR0 reads as (R343, R352, R353, R356) -/

/-- WIN_CTRL as it reads (R343). -/
def winCtrl (s : State) : Nat := s.dop.doneSeq.toNat * 2 ^ 32 + (if s.dop.overrun then 4 else 0) + (if s.dop.winBusy then 2 else 0)

/-- One byte of the registers of BAR0; every offset that R352 does not list, and a write-only register, reads 0. -/
def bar0Byte (s : State) (off : Nat) : Byte :=
  let of (base : Nat) (bs : List Byte) : Byte := bs.getD (off - base) 0
  if off < 8 then of 0 (toLE 8 s.pcie.bar2Base.toNat)
  else if off < 16 then of 8 (toLE 8 (hostStatus s).toNat)
  else if off < 24 then of 16 (toLE 8 s.run.commit.value.toNat)
  else if 0x4000 ≤ off ∧ off < 0x4400 then of (off / 16 * 16) (toLE 16 (vget 0 s.pcie.msix ((off - 0x4000) / 16)).toNat)
  else if 0x5000 ≤ off ∧ off < 0x5008 then of 0x5000 (toLE 8 s.pcie.pba.toNat)
  else if 0x101000 ≤ off ∧ off < 0x101008 then of 0x101000 (toLE 8 (winCtrl s))
  else 0

/-- What a read of BAR0 by the host returns: any bytes of the response frame, a register by an aligned read of 4 or 8 bytes, else 0. A read changes nothing, and the table of commands has no row for one (log 132). -/
def bar0Read (s : State) (off n : Nat) : List Byte :=
  if 0x100800 ≤ off ∧ off + n ≤ 0x100C10 then slice s.dop.winRsp (off - 0x100800) n
  else if (n = 4 ∨ n = 8) ∧ off % n = 0 then (List.range n).map (fun i => bar0Byte s (off + i))
  else List.replicate n 0

end Sys2Proof.Machine
end

