-- ==== Sys2Proof/Machine/Dispatch.lean ====
section
/-! DEFINITION. One arm per command: the meaning it calls. -/
namespace Sys2Proof.Machine

def exec (i : Instr) (s : State) : Host.Outcome State Fault Refusal :=
  match i with
  | .nop th f => Sys2Proof.Machine.execNop th f s
  | .add th f => Sys2Proof.Machine.execAdd th f s
  | .sub th f => Sys2Proof.Machine.execSub th f s
  | .and th f => Sys2Proof.Machine.execAnd th f s
  | .or th f => Sys2Proof.Machine.execOr th f s
  | .xor th f => Sys2Proof.Machine.execXor th f s
  | .shl th f => Sys2Proof.Machine.execShl th f s
  | .shr th f => Sys2Proof.Machine.execShr th f s
  | .sra th f => Sys2Proof.Machine.execSra th f s
  | .mul th f => Sys2Proof.Machine.execMul th f s
  | .mulhu th f => Sys2Proof.Machine.execMulhu th f s
  | .mulh th f => Sys2Proof.Machine.execMulh th f s
  | .min th f => Sys2Proof.Machine.execMin th f s
  | .max th f => Sys2Proof.Machine.execMax th f s
  | .slt th f => Sys2Proof.Machine.execSlt th f s
  | .sltu th f => Sys2Proof.Machine.execSltu th f s
  | .addi th f => Sys2Proof.Machine.execAddi th f s
  | .andi th f => Sys2Proof.Machine.execAndi th f s
  | .ori th f => Sys2Proof.Machine.execOri th f s
  | .xori th f => Sys2Proof.Machine.execXori th f s
  | .shli th f => Sys2Proof.Machine.execShli th f s
  | .shri th f => Sys2Proof.Machine.execShri th f s
  | .srai th f => Sys2Proof.Machine.execSrai th f s
  | .li th f => Sys2Proof.Machine.execLi th f s
  | .lui th f => Sys2Proof.Machine.execLui th f s
  | .seq th f => Sys2Proof.Machine.execSeq th f s
  | .ld th f => Sys2Proof.Machine.execLd th f s
  | .ldU th f => Sys2Proof.Machine.execLdU th f s
  | .st th f chk => Sys2Proof.Machine.execSt th f chk s
  | .cacheDrop th f => Sys2Proof.Machine.execCacheDrop th f s
  | .rdspec th f => Sys2Proof.Machine.execRdspec th f s
  | .loadReturn c n chk => Sys2Proof.Machine.execLoadReturn c n chk s
  | .br th f => Sys2Proof.Machine.execBr th f s
  | .beq th f => Sys2Proof.Machine.execBeq th f s
  | .bne th f => Sys2Proof.Machine.execBne th f s
  | .blt th f => Sys2Proof.Machine.execBlt th f s
  | .bge th f => Sys2Proof.Machine.execBge th f s
  | .bltu th f => Sys2Proof.Machine.execBltu th f s
  | .bgeu th f => Sys2Proof.Machine.execBgeu th f s
  | .call th f => Sys2Proof.Machine.execCall th f s
  | .jr th f => Sys2Proof.Machine.execJr th f s
  | .texit th f => Sys2Proof.Machine.execTexit th f s
  | .brk th f => Sys2Proof.Machine.execBrk th f s
  | .illegalInstruction th w => Sys2Proof.Machine.execIllegalInstruction th w s
  | .mxaFill th f chk => Sys2Proof.Machine.execMxaFill th f chk s
  | .mxaRun th f chk => Sys2Proof.Machine.execMxaRun th f chk s
  | .mxaDrain th f chk => Sys2Proof.Machine.execMxaDrain th f chk s
  | .acsAlloc th f => Sys2Proof.Machine.execAcsAlloc th f s
  | .acsAllocGrant th f => Sys2Proof.Machine.execAcsAllocGrant th f s
  | .acsFree th f => Sys2Proof.Machine.execAcsFree th f s
  | .acsRowsRelease c n => Sys2Proof.Machine.execAcsRowsRelease c n s
  | .mxaSync th f => Sys2Proof.Machine.execMxaSync th f s
  | .mxaSyncWake th => Sys2Proof.Machine.execMxaSyncWake th s
  | .fillBegin c chk => Sys2Proof.Machine.execFillBegin c chk s
  | .fillComplete c => Sys2Proof.Machine.execFillComplete c s
  | .runBegin c chk => Sys2Proof.Machine.execRunBegin c chk s
  | .runComplete c => Sys2Proof.Machine.execRunComplete c s
  | .drainBegin c chk => Sys2Proof.Machine.execDrainBegin c chk s
  | .drainComplete c => Sys2Proof.Machine.execDrainComplete c s
  | .vadd th f => Sys2Proof.Machine.execVadd th f s
  | .vsub th f => Sys2Proof.Machine.execVsub th f s
  | .vmul th f => Sys2Proof.Machine.execVmul th f s
  | .vfma th f => Sys2Proof.Machine.execVfma th f s
  | .vmax th f => Sys2Proof.Machine.execVmax th f s
  | .vmin th f => Sys2Proof.Machine.execVmin th f s
  | .vabs th f => Sys2Proof.Machine.execVabs th f s
  | .vneg th f => Sys2Proof.Machine.execVneg th f s
  | .vcvt th f => Sys2Proof.Machine.execVcvt th f s
  | .vexp th f => Sys2Proof.Machine.execVexp th f s
  | .vlog th f => Sys2Proof.Machine.execVlog th f s
  | .vrcp th f => Sys2Proof.Machine.execVrcp th f s
  | .vrsqrt th f => Sys2Proof.Machine.execVrsqrt th f s
  | .vtanh th f => Sys2Proof.Machine.execVtanh th f s
  | .vsigmoid th f => Sys2Proof.Machine.execVsigmoid th f s
  | .vectorBegin c chk => Sys2Proof.Machine.execVectorBegin c chk s
  | .vectorComplete c => Sys2Proof.Machine.execVectorComplete c s
  | .dmaPush th f chk => Sys2Proof.Machine.execDmaPush th f chk s
  | .dmaStat th f => Sys2Proof.Machine.execDmaStat th f s
  | .dmaDescriptorBegin c ch chk => Sys2Proof.Machine.execDmaDescriptorBegin c ch chk s
  | .dmaDescriptorComplete c ch => Sys2Proof.Machine.execDmaDescriptorComplete c ch s
  | .fenceLocal th f => Sys2Proof.Machine.execFenceLocal th f s
  | .fenceLocalWake th => Sys2Proof.Machine.execFenceLocalWake th s
  | .waitflag th f chk => Sys2Proof.Machine.execWaitflag th f chk s
  | .waitflagRetest th chk => Sys2Proof.Machine.execWaitflagRetest th chk s
  | .waitflagTimeout th => Sys2Proof.Machine.execWaitflagTimeout th s
  | .ksel th f => Sys2Proof.Machine.execKsel th f s
  | .setep th f => Sys2Proof.Machine.execSetep th f s
  | .aadd th f => Sys2Proof.Machine.execAadd th f s
  | .amax th f => Sys2Proof.Machine.execAmax th f s
  | .amin th f => Sys2Proof.Machine.execAmin th f s
  | .axchg th f => Sys2Proof.Machine.execAxchg th f s
  | .acas th f => Sys2Proof.Machine.execAcas th f s
  | .colStart th f chk => Sys2Proof.Machine.execColStart th f chk s
  | .bar th f => Sys2Proof.Machine.execBar th f s
  | .sred th f => Sys2Proof.Machine.execSred th f s
  | .colWait th f => Sys2Proof.Machine.execColWait th f s
  | .glideReleaseWake c n chk => Sys2Proof.Machine.execGlideReleaseWake c n chk s
  | .collectiveComplete c n chk => Sys2Proof.Machine.execCollectiveComplete c n chk s
  | .kernelBoundary c => Sys2Proof.Machine.execKernelBoundary c s
  | .kernelDescriptorArrive c chk => Sys2Proof.Machine.execKernelDescriptorArrive c chk s
  | .gateRelease c => Sys2Proof.Machine.execGateRelease c s
  | .spmRemoteWriteArrive n chk => Sys2Proof.Machine.execSpmRemoteWriteArrive n chk s
  | .spmMergeRetire die phys bank chk => Sys2Proof.Machine.execSpmMergeRetire die phys bank chk s
  | .tierMergeRetire ctrl chk => Sys2Proof.Machine.execTierMergeRetire ctrl chk s
  | .hrcMissFill c line chk => Sys2Proof.Machine.execHrcMissFill c line chk s
  | .cacheDropComplete c n => Sys2Proof.Machine.execCacheDropComplete c n s
  | .resurfacerTierRead chk => Sys2Proof.Machine.execResurfacerTierRead chk s
  | .resurfacerSpmRead chk => Sys2Proof.Machine.execResurfacerSpmRead chk s
  | .bucketLeakTick => Sys2Proof.Machine.execBucketLeakTick s
  | .linkPeerSignal l => Sys2Proof.Machine.execLinkPeerSignal l s
  | .linkPeerSignalLost l => Sys2Proof.Machine.execLinkPeerSignalLost l s
  | .linkRxLock l scr lanes => Sys2Proof.Machine.execLinkRxLock l scr lanes s
  | .frameReceive l lanes => Sys2Proof.Machine.execFrameReceive l lanes s
  | .frameTransmit l => Sys2Proof.Machine.execFrameTransmit l s
  | .scheduleWindowStart => Sys2Proof.Machine.execScheduleWindowStart s
  | .linkRetrain l => Sys2Proof.Machine.execLinkRetrain l s
  | .linkTrainingTimeout l => Sys2Proof.Machine.execLinkTrainingTimeout l s
  | .controlPacketRoute die chk => Sys2Proof.Machine.execControlPacketRoute die chk s
  | .dataPacketRoute die chk => Sys2Proof.Machine.execDataPacketRoute die chk s
  | .multicastForward die => Sys2Proof.Machine.execMulticastForward die s
  | .writePacket die chk => Sys2Proof.Machine.execWritePacket die chk s
  | .reducePacket die chk => Sys2Proof.Machine.execReducePacket die chk s
  | .combiningSlotFlush die slot => Sys2Proof.Machine.execCombiningSlotFlush die slot s
  | .chainPacket die chk => Sys2Proof.Machine.execChainPacket die chk s
  | .finalWrite die chk => Sys2Proof.Machine.execFinalWrite die chk s
  | .finalWriteRelease n chk => Sys2Proof.Machine.execFinalWriteRelease n chk s
  | .glideBarrier die => Sys2Proof.Machine.execGlideBarrier die s
  | .glideSred die => Sys2Proof.Machine.execGlideSred die s
  | .collCtrlSig die => Sys2Proof.Machine.execCollCtrlSig die s
  | .collCtrlAbort die => Sys2Proof.Machine.execCollCtrlAbort die s
  | .collCtrlDone die => Sys2Proof.Machine.execCollCtrlDone die s
  | .objReq die => Sys2Proof.Machine.execObjReq die s
  | .objRsp die => Sys2Proof.Machine.execObjRsp die s
  | .pisteUpdateWriteEntry die => Sys2Proof.Machine.execPisteUpdateWriteEntry die s
  | .pisteUpdateSetEpoch die => Sys2Proof.Machine.execPisteUpdateSetEpoch die s
  | .pisteUpdateSetId die => Sys2Proof.Machine.execPisteUpdateSetId die s
  | .timeSync die => Sys2Proof.Machine.execTimeSync die s
  | .timeSyncSend l => Sys2Proof.Machine.execTimeSyncSend l s
  | .unreachable die => Sys2Proof.Machine.execUnreachable die s
  | .pisteFault die => Sys2Proof.Machine.execPisteFault die s
  | .runStateRun r chk => Sys2Proof.Machine.execRunStateRun r chk s
  | .runStateStop r => Sys2Proof.Machine.execRunStateStop r s
  | .imageMeasureComplete chk => Sys2Proof.Machine.execImageMeasureComplete chk s
  | .openingLiftRelease => Sys2Proof.Machine.execOpeningLiftRelease s
  | .openingLiftTimeout => Sys2Proof.Machine.execOpeningLiftTimeout s
  | .liftArrival => Sys2Proof.Machine.execLiftArrival s
  | .liftRelease => Sys2Proof.Machine.execLiftRelease s
  | .liftTimeoutBeforeArrival => Sys2Proof.Machine.execLiftTimeoutBeforeArrival s
  | .liftTimeoutAfterArrival => Sys2Proof.Machine.execLiftTimeoutAfterArrival s
  | .variantReqWrite r => Sys2Proof.Machine.execVariantReqWrite r s
  | .roleEpochResync r => Sys2Proof.Machine.execRoleEpochResync r s
  | .snapshotCheckRelease => Sys2Proof.Machine.execSnapshotCheckRelease s
  | .snapshotCopyDone chk => Sys2Proof.Machine.execSnapshotCopyDone chk s
  | .resumeLiftRelease => Sys2Proof.Machine.execResumeLiftRelease s
  | .buddyCopyComplete chk => Sys2Proof.Machine.execBuddyCopyComplete chk s
  | .hostDrainComplete chk => Sys2Proof.Machine.execHostDrainComplete chk s
  | .triggerAtWrite r => Sys2Proof.Machine.execTriggerAtWrite r s
  | .restoreGo r => Sys2Proof.Machine.execRestoreGo r s
  | .restoreComplete chk => Sys2Proof.Machine.execRestoreComplete chk s
  | .portDownReportTimer port => Sys2Proof.Machine.execPortDownReportTimer port s
  | .portReport r => Sys2Proof.Machine.execPortReport r s
  | .livenessProbeTimeout ep => Sys2Proof.Machine.execLivenessProbeTimeout ep s
  | .fieldTestStart r => Sys2Proof.Machine.execFieldTestStart r s
  | .fieldTestEnd die pass => Sys2Proof.Machine.execFieldTestEnd die pass s
  | .dopRead r => Sys2Proof.Machine.execDopRead r s
  | .dopReadSnap r => Sys2Proof.Machine.execDopReadSnap r s
  | .dopReadStaged r => Sys2Proof.Machine.execDopReadStaged r s
  | .dopWrite r => Sys2Proof.Machine.execDopWrite r s
  | .dopStage r => Sys2Proof.Machine.execDopStage r s
  | .dopCommit r => Sys2Proof.Machine.execDopCommit r s
  | .dopCommitDiscard r => Sys2Proof.Machine.execDopCommitDiscard r s
  | .consistencyGroupApply g => Sys2Proof.Machine.execConsistencyGroupApply g s
  | .dopSubscribe r => Sys2Proof.Machine.execDopSubscribe r s
  | .notifyAck f => Sys2Proof.Machine.execNotifyAck f s
  | .notifyResend n => Sys2Proof.Machine.execNotifyResend n s
  | .notifyValuePoll n => Sys2Proof.Machine.execNotifyValuePoll n s
  | .subscriptionExpire n => Sys2Proof.Machine.execSubscriptionExpire n s
  | .captureExpire n => Sys2Proof.Machine.execCaptureExpire n s
  | .segmentWriteTimeout n => Sys2Proof.Machine.execSegmentWriteTimeout n s
  | .keptResponseExpire n => Sys2Proof.Machine.execKeptResponseExpire n s
  | .maintTokenWrite r => Sys2Proof.Machine.execMaintTokenWrite r s
  | .maintTokenExpire => Sys2Proof.Machine.execMaintTokenExpire s
  | .maintKeyWrite r => Sys2Proof.Machine.execMaintKeyWrite r s
  | .neighbourSolicitation src target => Sys2Proof.Machine.execNeighbourSolicitation src target s
  | .echoRequest src payload => Sys2Proof.Machine.execEchoRequest src payload s
  | .dadComplete duplicate => Sys2Proof.Machine.execDadComplete duplicate s
  | .winCtrlGo value => Sys2Proof.Machine.execWinCtrlGo value s
  | .bar0RegisterWrite off data disabled => Sys2Proof.Machine.execBar0RegisterWrite off data disabled s
  | .bar2BaseWrite value => Sys2Proof.Machine.execBar2BaseWrite value s
  | .signalWrite value => Sys2Proof.Machine.execSignalWrite value s
  | .bar2Write off data poisoned chk => Sys2Proof.Machine.execBar2Write off data poisoned chk s
  | .bar2Read off len chk => Sys2Proof.Machine.execBar2Read off len chk s
  | .configRequest reg write => Sys2Proof.Machine.execConfigRequest reg write s
  | .hostReadCompletion tag data status => Sys2Proof.Machine.execHostReadCompletion tag data status s
  | .pmeTurnOff => Sys2Proof.Machine.execPmeTurnOff s
  | .pcieLinkUp speed width flit => Sys2Proof.Machine.execPcieLinkUp speed width flit s
  | .pcieLinkDown => Sys2Proof.Machine.execPcieLinkDown s
  | .perstN level => Sys2Proof.Machine.execPerstN level s
  | .hotReset => Sys2Proof.Machine.execHotReset s
  | .linkDisable => Sys2Proof.Machine.execLinkDisable s
  | .flr => Sys2Proof.Machine.execFlr s
  | .imageFetchGo r => Sys2Proof.Machine.execImageFetchGo r s
  | .imageFetchComplete => Sys2Proof.Machine.execImageFetchComplete s
  | .resetRequestWarm r => Sys2Proof.Machine.execResetRequestWarm r s
  | .resetRequestMgmt r => Sys2Proof.Machine.execResetRequestMgmt r s
  | .resetRequestFabric r => Sys2Proof.Machine.execResetRequestFabric r s
  | .blockResetQuad r => Sys2Proof.Machine.execBlockResetQuad r s
  | .blockResetLink r => Sys2Proof.Machine.execBlockResetLink r s
  | .blockResetChannel r => Sys2Proof.Machine.execBlockResetChannel r s
  | .counterClearCore r => Sys2Proof.Machine.execCounterClearCore r s
  | .counterClearDie r => Sys2Proof.Machine.execCounterClearDie r s
  | .telemetryClear r => Sys2Proof.Machine.execTelemetryClear r s
  | .saveNow r => Sys2Proof.Machine.execSaveNow r s
  | .lifetimeSaveTimer => Sys2Proof.Machine.execLifetimeSaveTimer s
  | .lifetimeSaveComplete => Sys2Proof.Machine.execLifetimeSaveComplete s
  | .poweredSecondTick => Sys2Proof.Machine.execPoweredSecondTick s
  | .railDroopBegin rail => Sys2Proof.Machine.execRailDroopBegin rail s
  | .railDroopEnd rail depth => Sys2Proof.Machine.execRailDroopEnd rail depth s
  | .nonce r => Sys2Proof.Machine.execNonce r s
  | .attestationReady => Sys2Proof.Machine.execAttestationReady s
  | .raiseFloor r => Sys2Proof.Machine.execRaiseFloor r s
  | .revoke r => Sys2Proof.Machine.execRevoke r s
  | .updateComponent r => Sys2Proof.Machine.execUpdateComponent r s
  | .updateChunk r => Sys2Proof.Machine.execUpdateChunk r s
  | .updateVerify r => Sys2Proof.Machine.execUpdateVerify r s
  | .updateVerifyComplete flashError => Sys2Proof.Machine.execUpdateVerifyComplete flashError s
  | .activate r => Sys2Proof.Machine.execActivate r s
  | .mgmtHandoverComplete die selfCheckOk => Sys2Proof.Machine.execMgmtHandoverComplete die selfCheckOk s
  | .vinOn => Sys2Proof.Machine.execVinOn s
  | .vinOff => Sys2Proof.Machine.execVinOff s
  | .vinOvervoltage => Sys2Proof.Machine.execVinOvervoltage s
  | .pwrEnHigh => Sys2Proof.Machine.execPwrEnHigh s
  | .pwrEnLow => Sys2Proof.Machine.execPwrEnLow s
  | .railStepValid => Sys2Proof.Machine.execRailStepValid s
  | .railOutOfBand rail => Sys2Proof.Machine.execRailOutOfBand rail s
  | .powerSample millivolts watts temps => Sys2Proof.Machine.execPowerSample millivolts watts temps s
  | .thermalTrip => Sys2Proof.Machine.execThermalTrip s
  | .warmRstNAssert => Sys2Proof.Machine.execWarmRstNAssert s
  | .warmResetRelease => Sys2Proof.Machine.execWarmResetRelease s
  | .watchdogExpire => Sys2Proof.Machine.execWatchdogExpire s
  | .pllLock slotId testMode => Sys2Proof.Machine.execPllLock slotId testMode s
  | .optionLoadComplete attempts => Sys2Proof.Machine.execOptionLoadComplete attempts s
  | .bootChainComplete unreadable => Sys2Proof.Machine.execBootChainComplete unreadable s
  | .refLost => Sys2Proof.Machine.execRefLost s
  | .refReturn => Sys2Proof.Machine.execRefReturn s
  | .refLostTimeout => Sys2Proof.Machine.execRefLostTimeout s
  | .cageInsert cage a => Sys2Proof.Machine.execCageInsert cage a s
  | .cageRemove cage => Sys2Proof.Machine.execCageRemove cage s
  | .cageOvercurrent cage => Sys2Proof.Machine.execCageOvercurrent cage s
  | .ptpSync h twoStep logInterval correction => Sys2Proof.Machine.execPtpSync h twoStep logInterval correction s
  | .ptpFollowUp h originNs correction => Sys2Proof.Machine.execPtpFollowUp h originNs correction s
  | .ptpDelayResp h mine receiveNs correction logInterval => Sys2Proof.Machine.execPtpDelayResp h mine receiveNs correction logInterval s
  | .ptpAnnounce h m logInterval => Sys2Proof.Machine.execPtpAnnounce h m logInterval s
  | .ptpDelayReqSend => Sys2Proof.Machine.execPtpDelayReqSend s
  | .ptpAnnounceTimeout => Sys2Proof.Machine.execPtpAnnounceTimeout s
  | .fabricMarkTimeout => Sys2Proof.Machine.execFabricMarkTimeout s
  | .vinOvervoltageClear => Sys2Proof.Machine.execVinOvervoltageClear s
  | .resetRequestDelayExpire => Sys2Proof.Machine.execResetRequestDelayExpire s
  | .instructionFetchReturn th chk => Sys2Proof.Machine.execInstructionFetchReturn th chk s
  | .hostReadCompletionTimeout tag => Sys2Proof.Machine.execHostReadCompletionTimeout tag s
  | .linkControllerLoadComplete => Sys2Proof.Machine.execLinkControllerLoadComplete s
  | .channelRetrainComplete ch => Sys2Proof.Machine.execChannelRetrainComplete ch s
  | .plcaBeaconReceived => Sys2Proof.Machine.execPlcaBeaconReceived s
  | .plcaBeaconTimeout => Sys2Proof.Machine.execPlcaBeaconTimeout s
  | .remoteObjectRetry tag => Sys2Proof.Machine.execRemoteObjectRetry tag s

end Sys2Proof.Machine
end

