-- ==== Sys2Proof/Safety.lean ====
section
/-! DEFINITION. The terms in which the statements speak: the state after an issue, rows of instructions of one shape, memory read byte by byte, what a command leaves alone. -/
namespace Sys2Proof.Machine

/-! ### Issue -/

/-- A thread issues a word in this cycle (R46 to R48). -/
def MayIssue (s : State) (th : ThreadRef) (w : BitVec 64) : Prop := th.wf = true ∧ issuable s th w = true

/-- A thread whose next word follows the one it has issued. -/
def passed (x : Thread) : Thread := { x with pc := x.pc + 8, allocWait := false }

/-- A word that its code has corrected leaves the cache with its line, and counts (R184, R192). -/
def fetched (s : State) (th : ThreadRef) : State := if th.line = .corrected then dropLine th s else s

/-- The state after an issue, with the thread standing as `x` and the core changed by `g`; nothing else of the machine differs, the line and the count of a corrected word aside. -/
def afterIssue (s : State) (th : ThreadRef) (x : Thread) (g : Core → Core := id) : State :=
  let t := fetched s th
  putCore t (coreOf th) (g (putThread { getCore t (coreOf th) with
    issuedAt := some (aclkOf s th.die), search := (th.thread + 1) % 64 } th.thread x))

/-- A thread with a result in a register, to be read `n` ACLK cycles after `now`; s0 takes none (R49, R54). -/
def withResult (x : Thread) (now : Nat) (d : BitVec 5) (v : Word) (n : Nat) : Thread :=
  if d = 0 then x else { x with regs := vset x.regs d.toNat v, ready := vset x.ready d.toNat (now + n) }

/-- A scalar instruction of R56: its command, its operation code, its latency (R49), and its result from sA, sB and the old sD. -/
structure ScalarRow where
  make : ThreadRef → Fields → Instr
  op : Nat
  latency : Nat
  value : Fields → Word → Word → Word → Word

/-- The scalar instructions that write a result at issue (R56, R49). -/
def scalarRows : List ScalarRow := [
  ⟨.add, 0x01, 1, fun _ a b _ => BitVec.ofNat 64 (a.toNat + b.toNat)⟩,
  ⟨.sub, 0x02, 1, fun _ a b _ => BitVec.ofInt 64 (a.toInt - b.toInt)⟩,
  ⟨.and, 0x03, 1, fun _ a b _ => a &&& b⟩,
  ⟨.or, 0x04, 1, fun _ a b _ => a ||| b⟩,
  ⟨.xor, 0x05, 1, fun _ a b _ => a ^^^ b⟩,
  ⟨.shl, 0x06, 1, fun _ a b _ => BitVec.ofNat 64 (a.toNat * 2 ^ (b.toNat % 64))⟩,
  ⟨.shr, 0x07, 1, fun _ a b _ => BitVec.ofNat 64 (a.toNat / 2 ^ (b.toNat % 64))⟩,
  ⟨.sra, 0x08, 1, fun _ a b _ => BitVec.ofInt 64 (a.toInt / 2 ^ (b.toNat % 64))⟩,
  ⟨.mul, 0x09, 3, fun _ a b _ => BitVec.ofNat 64 (a.toNat * b.toNat)⟩,
  ⟨.mulhu, 0x0A, 3, fun _ a b _ => BitVec.ofNat 64 (a.toNat * b.toNat / 2 ^ 64)⟩,
  ⟨.mulh, 0x0B, 3, fun _ a b _ => BitVec.ofInt 64 (a.toInt * b.toInt / 2 ^ 64)⟩,
  ⟨.min, 0x0C, 1, fun _ a b _ => if a.toInt ≤ b.toInt then a else b⟩,
  ⟨.max, 0x0D, 1, fun _ a b _ => if b.toInt ≤ a.toInt then a else b⟩,
  ⟨.slt, 0x0E, 1, fun _ a b _ => if a.toInt < b.toInt then 1 else 0⟩,
  ⟨.sltu, 0x0F, 1, fun _ a b _ => if a.toNat < b.toNat then 1 else 0⟩,
  ⟨.addi, 0x10, 1, fun f a _ _ => BitVec.ofInt 64 (a.toInt + f.imm.toInt)⟩,
  ⟨.andi, 0x11, 1, fun f a _ _ => a &&& BitVec.ofNat 64 f.imm.toNat⟩,
  ⟨.ori, 0x12, 1, fun f a _ _ => a ||| BitVec.ofNat 64 f.imm.toNat⟩,
  ⟨.xori, 0x13, 1, fun f a _ _ => a ^^^ BitVec.ofNat 64 f.imm.toNat⟩,
  ⟨.shli, 0x14, 1, fun f a _ _ => BitVec.ofNat 64 (a.toNat * 2 ^ (f.imm.toNat % 64))⟩,
  ⟨.shri, 0x15, 1, fun f a _ _ => BitVec.ofNat 64 (a.toNat / 2 ^ (f.imm.toNat % 64))⟩,
  ⟨.srai, 0x16, 1, fun f a _ _ => BitVec.ofInt 64 (a.toInt / 2 ^ (f.imm.toNat % 64))⟩,
  ⟨.li, 0x17, 1, fun f _ _ _ => BitVec.ofInt 64 f.imm.toInt⟩,
  ⟨.lui, 0x18, 1, fun f _ _ d => BitVec.ofNat 64 (f.imm.toNat * 2 ^ 32 + d.toNat % 2 ^ 32)⟩,
  ⟨.seq, 0x19, 1, fun _ a b _ => if a = b then 1 else 0⟩]

/-- A branch of R57: its command, its operation code, and when it jumps. -/
structure BranchRow where
  make : ThreadRef → Fields → Instr
  op : Nat
  jumps : Word → Word → Bool

/-- The branches of R57. -/
def branchRows : List BranchRow := [
  ⟨.br, 0x00, fun _ _ => true⟩,
  ⟨.beq, 0x01, fun a b => decide (a = b)⟩,
  ⟨.bne, 0x02, fun a b => decide (a ≠ b)⟩,
  ⟨.blt, 0x03, fun a b => decide (a.toInt < b.toInt)⟩,
  ⟨.bge, 0x04, fun a b => decide (b.toInt ≤ a.toInt)⟩,
  ⟨.bltu, 0x05, fun a b => decide (a.toNat < b.toNat)⟩,
  ⟨.bgeu, 0x06, fun a b => decide (b.toNat ≤ a.toNat)⟩]

/-- The target of a branch at `pc` (R57). -/
def targetOf (pc : Word) (f : Fields) : Word := BitVec.ofInt 64 (pc.toInt + f.imm.toInt * 8)

/-- A thread that has jumped: its next word issues 2 ACLK cycles later at the earliest (R49). -/
def jumped (x : Thread) (now : Nat) (target : Word) : Thread := { x with pc := target, nextIssue := now + 2, allocWait := false }

/-! ### Accesses of threads -/

/-- An atomic of R61: its command, its operation code, its operation. -/
structure AtomicRow where
  make : ThreadRef → Fields → Instr
  op : Nat
  kind : AtomOp

def atomicRows : List AtomicRow := [⟨.aadd, 0x10, .add⟩, ⟨.amax, 0x11, .max⟩, ⟨.amin, 0x12, .min⟩, ⟨.axchg, 0x13, .xchg⟩, ⟨.acas, 0x14, .cas⟩]

/-- The address that a load or store names (R56). -/
def addrOf (s : State) (th : ThreadRef) (f : Fields) : Nat := (readReg s th f.a + BitVec.ofInt 64 f.imm.toInt).toNat

/-- A thread with a pending destination (R48, R49). -/
def awaiting (x : Thread) (d : BitVec 5) : Thread := markBusy (passed x) d

/-- The state with one more name in use. -/
def named (s : State) : State := { s with ids := s.ids + 1 }

/-- A request of a thread that issues now, at the end of its core's list, translated by the core map of this moment (R45). -/
def asked (s : State) (th : ThreadRef) (d : BitVec 5) (addr : Nat) (kind : ReqKind) (k : Core) : Core :=
  { k with requests := k.requests ++ [{
      thread := th.thread, pc := (threadOf s th).pc, d := d, addr := addr, kind := kind, epoch := (threadOf s th).expEpoch, at_ := aclkOf s th.die
      id := s.ids, store := toStore s.map addr 1 }] }

/-- No word of the memories is known to be uncorrectable. -/
def Clean (s : State) : Prop := s.mem.bad = []

/-- What a reader of the memories sees: every byte but those of `n` bytes from `a` on is as it was. -/
def SameBytesBut (s t : State) (a n : Nat) : Prop := ∀ x, x < a ∨ a + n ≤ x → readByte t.mem x = readByte s.mem x

/-- Entries of a merge buffer stand in the buffer of their word, name a whole word's address, and hold bytes of that word alone (R187, R188). -/
def entryOk (m : Memory) (spm : Bool) (k : Nat) (e : MergeEntry) : Prop :=
  decide (spmBase ≤ e.base) = spm ∧ mergeKey m e.base = k ∧ wordBase e.base = e.base ∧
    (e.bytes.map (fun b => b.1)).Pairwise (· < ·) ∧ ∀ b ∈ e.bytes, b.1 < wordBytes e.base

/-- The merge buffers hold only such entries. -/
def MergeOk (m : Memory) : Prop :=
  (∀ k es, mfind m.spmMerge k = some es → ∀ e ∈ es, entryOk m true k e) ∧
  (∀ k es, mfind m.tierMerge k = some es → ∀ e ∈ es, entryOk m false k e)

/-! ### Special values, sync -/

/-- Every copy of a critical word agrees (R185). -/
def Agrees {α : Type} [DecidableEq α] (t : Tri α) : Prop := t.a = t.b ∧ t.b = t.c

/-- The special values that RDSPEC lists, by index (R55). -/
def specialList (s : State) (th : ThreadRef) : List (Nat × Word) :=
  let k := getCore s (coreOf th)
  [(0x00, BitVec.ofNat 64 th.thread), (0x01, BitVec.ofNat 64 th.core), (0x02, BitVec.ofNat 64 th.die),
   (0x03, BitVec.ofNat 64 s.fab.ownId.toNat), (0x04, BitVec.ofNat 64 k.role.toNat), (0x05, BitVec.ofNat 64 k.epoch.a.toNat),
   (0x10, BitVec.ofNat 64 k.kernel.toNat), (0x11, s.run.commit.a), (0x12, BitVec.ofNat 64 s.run.variant.toNat),
   (0x13, (vget 0 s.time.counter th.die).extractLsb' 32 64), (0x14, BitVec.ofNat 64 (aclkOf s th.die - k.kernelStart))]
  ++ (List.range 8).map (fun w => (8 + w, BitVec.ofNat 64 (vget ⟨0, 0, 0⟩ k.windows w).a.toNat))

/-- The word that a WAITFLAG or a ready word names in a core's own SPM. -/
def ownWord (s : State) (c : CoreRef) (off : Nat) : Nat := readNum s.mem (ownSpm s c off) 8

/-! ### Vector instructions -/

/-- A vector instruction of R59: its command, its operation code, its operation, and the code of a result element from the codes of the elements of A, B and D, by the formats of the sources and of the destination and the saturation bit (R133 to R135). -/
structure VectorRow where
  make : ThreadRef → Fields → Instr
  op : Nat
  kind : VecOp
  value : (src dst : Nat) → (sat : Bool) → (a b d : Nat) → Nat

/-- A result element that is an exact value, rounded once into the destination format. -/
def rounded (dst : Nat) (sat : Bool) (v : Val) : Nat := (convert dst sat v).1

/-- A result element that is a function on FP32 values. -/
def ofFunction (f : BitVec 32 → BitVec 32) (src dst a : Nat) : Nat := rounded dst false (ofF32 (f (toF32 (elemValue src a))))

def vectorRows : List VectorRow := [
  ⟨.vadd, 0x01, .add, fun s t _ a b _ => rounded t false ((elemValue s a).add (elemValue s b))⟩,
  ⟨.vsub, 0x02, .sub, fun s t _ a b _ => rounded t false ((elemValue s a).add (elemValue s b).negate)⟩,
  ⟨.vmul, 0x03, .mul, fun s t _ a b _ => rounded t false ((elemValue s a).mul (elemValue s b))⟩,
  ⟨.vfma, 0x04, .fma, fun s t _ a b d => rounded t false (((elemValue s a).mul (elemValue s b)).add (elemValue t d))⟩,
  ⟨.vmax, 0x05, .max, fun s t _ a b _ => rounded t false ((elemValue s a).max (elemValue s b))⟩,
  ⟨.vmin, 0x06, .min, fun s t _ a b _ => rounded t false ((elemValue s a).min (elemValue s b))⟩,
  ⟨.vabs, 0x07, .abs, fun s t _ a _ _ => rounded t false (elemValue s a).abs⟩,
  ⟨.vneg, 0x08, .neg, fun s t _ a _ _ => rounded t false (elemValue s a).negate⟩,
  ⟨.vcvt, 0x09, .cvt, fun s t sat a _ _ => rounded t sat (elemValue s a)⟩,
  ⟨.vexp, 0x10, .exp, fun s t _ a _ _ => ofFunction expF32 s t a⟩,
  ⟨.vlog, 0x11, .log, fun s t _ a _ _ => ofFunction logF32 s t a⟩,
  ⟨.vrcp, 0x12, .rcp, fun s t _ a _ _ => ofFunction rcpF32 s t a⟩,
  ⟨.vrsqrt, 0x13, .rsqrt, fun s t _ a _ _ => ofFunction rsqrtF32 s t a⟩,
  ⟨.vtanh, 0x14, .tanh, fun s t _ a _ _ => ofFunction (tanhF32 3) s t a⟩,
  ⟨.vsigmoid, 0x15, .sigmoid, fun s t _ a _ _ => ofFunction (sigmoidF32 4) s t a⟩]

/-- The bytes of an instruction's first group of results, from the core's own SPM as it stands (R59, R133, R136). -/
def firstGroup (r : VectorRow) (s : State) (c : CoreRef) (e : VecEntry) : List Byte :=
  let src := vecSrc e.imm
  let dst := vecDst e.imm
  let n := Nat.min (vecGroup e.imm) (vecN e.imm)
  let at_ (fmt off : Nat) (used : Bool) : List Byte := if used then readBytes s.mem (ownSpm s c off) (packedBytes fmt n) else []
  packElems dst ((List.range n).map (fun i => r.value src dst e.sat (unpackElem src (at_ src e.srcA true) i)
    (unpackElem src (at_ src e.srcB (vecBinary r.kind)) i) (unpackElem dst (at_ dst e.dst (r.kind == .fma)) i)))

/-- The spans that a vector instruction uses, from the offsets in sA, sB and sD (R59). -/
def vectorSpans (op : VecOp) (f : Fields) (a b d : Nat) : List (Nat × Nat) :=
  [(a, packedBytes (vecSrc f.imm) (vecN f.imm)), (d, packedBytes (vecDst f.imm) (vecN f.imm))]
    ++ (if vecBinary op then [(b, packedBytes (vecSrc f.imm) (vecN f.imm))] else [])

/-- An instruction of a thread: its command, and the class and operation code of its word (R51, R52). -/
structure IssueRow where
  make : ThreadRef → Fields → Instr
  cls : Nat
  op : Nat

/-- Every listed instruction of a thread, ACS.ALLOC aside, which may wait before it issues (R109). -/
def issueRows : List IssueRow :=
  scalarRows.map (fun r => ⟨r.make, 0, r.op⟩) ++ branchRows.map (fun r => ⟨r.make, 1, r.op⟩)
  ++ vectorRows.map (fun r => ⟨r.make, 3, r.op⟩) ++ atomicRows.map (fun r => ⟨r.make, 5, r.op⟩)
  ++ [⟨.nop, 0, 0x00⟩, ⟨.ld, 0, 0x20⟩, ⟨.ldU, 0, 0x21⟩, ⟨fun th f => .st th f .ok, 0, 0x22⟩, ⟨.cacheDrop, 0, 0x23⟩, ⟨.rdspec, 0, 0x30⟩,
      ⟨.call, 1, 0x08⟩, ⟨.jr, 1, 0x09⟩, ⟨.texit, 1, 0x10⟩, ⟨.brk, 1, 0x11⟩,
      ⟨fun th f => .mxaFill th f .ok, 2, 0x01⟩, ⟨fun th f => .mxaRun th f .ok, 2, 0x02⟩, ⟨fun th f => .mxaDrain th f .ok, 2, 0x03⟩,
      ⟨.acsFree, 2, 0x05⟩, ⟨.mxaSync, 2, 0x06⟩, ⟨fun th f => .dmaPush th f .ok, 4, 0x01⟩, ⟨.dmaStat, 4, 0x02⟩,
      ⟨.fenceLocal, 5, 0x01⟩, ⟨fun th f => .waitflag th f .ok, 5, 0x02⟩, ⟨.ksel, 5, 0x03⟩, ⟨.setep, 5, 0x04⟩,
      ⟨fun th f => .colStart th f .ok, 6, 0x01⟩, ⟨.bar, 6, 0x02⟩, ⟨.sred, 6, 0x03⟩, ⟨.colWait, 6, 0x04⟩]

/-! ### Cores -/

/-- A core in which no ACLK cycle does anything: no unit has work, no thread sleeps on WAITFLAG. -/
def Idle (k : Core) : Prop :=
  k.mxa.queue = [] ∧ k.mxa.flight = [] ∧ k.vecFlight = [] ∧ k.colQueue = [] ∧
    ∀ x ∈ k.threads, ∀ off v d pc due, x.2.mode ≠ .sleeping (.waitflag off v d pc due)

/-- Only the named core differs. -/
def OnlyCore (s t : State) (c : CoreRef) : Prop := t = putCore s c (getCore t c)

/-- Only the named core and the counters of cores differ. -/
def OnlyCoreAndCounts (s t : State) (c : CoreRef) : Prop := t = { putCore s c (getCore t c) with coreStats := t.coreStats }

/-- An array instruction of a thread at the end of its core's queue, under the core's next number. -/
def arrayEntered (s : State) (th : ThreadRef) (op : ArrayOp) (mark : Mxa → Mxa) (k : Core) : Core :=
  { k with seq := k.seq + 1, mxa := { mark k.mxa with queue := k.mxa.queue ++ [⟨k.seq, th.thread, (threadOf s th).pc, op⟩] } }

/-- A row of an ACS.FREE with number `seq` is free of earlier work: the array instructions in flight that precede it do not name the row, and no chained reduction holds it (R92, R110). -/
def rowDone (k : Core) (seq r : Nat) : Bool :=
  k.mxa.flight.all (fun f => decide (seq < f.e.seq) || !namesRow f.e.op r) && k.colQueue.all (fun q => !chainHolds q r)

/-- The descriptor at an offset of a core's own SPM, `n` bytes, and that it may be copied (R79). -/
def ownDescriptor (s : State) (th : ThreadRef) (off n : Nat) : Nat := readNum s.mem (ownSpm s (coreOf th) off) n
def copyable (off n : Nat) : Prop := off % n = 0 ∧ off + n ≤ Config.spmBytes

/-- Nothing is under way in a core's units. -/
def Quiet (k : Core) : Prop :=
  k.mxa.flight = [] ∧ k.vecFlight = [] ∧ k.colQueue = [] ∧ k.requests = [] ∧
    ∀ i, i < 4 → (vget {} k.dma i).exec = none ∧ (vget {} k.dma i).queue = []

/-! ### Requests to the object server -/

/-- A state whose queue of requests has lost its head. -/
def dequeued (rest : List DopReq) (s : State) : State := { s with dop := { s.dop with queue := rest } }

/-- The request at the head of the queue is served now: MGMT runs, not in recovery, and hands nothing over (R328, R381, R385). -/
def HeadRequest (s : State) (q : DopReq) (rest : List DopReq) : Prop :=
  s.dop.queue = q :: rest ∧ s.boot.silent = false ∧ s.boot.serving = true ∧ s.boot.state ≠ 3 ∧ handingOver s = false

/-- A request of an operation on an object key with a type code (R326). -/
def Asks (q : DopReq) (op key typ : Nat) : Prop :=
  hOp q.hdr = op ∧ hKey q.hdr = key ∧ hIndex q.hdr = key / 256 ∧ hSub q.hdr = key % 256 ∧ hType q.hdr = typ

/-- The commands that are requests to the server, each with the requests it stands for. -/
def objectRows : List ((ReqRef → Instr) × Row) := [
  (.dopRead, .read), (.dopReadSnap, .readSnap), (.dopReadStaged, .readStaged), (.dopWrite, .write), (.dopStage, .stage), (.dopCommit, .commit),
  (.dopCommitDiscard, .discard), (.dopSubscribe, .subscribe), ((fun r => .runStateRun r .ok), .run), (.runStateStop, .stop),
  (.variantReqWrite, .variant), (.roleEpochResync, .resync), (.triggerAtWrite, .trigger), (.restoreGo, .restore), (.portReport, .portReport),
  (.fieldTestStart, .fieldTest), (.maintTokenWrite, .token), (.maintKeyWrite, .key), (.imageFetchGo, .fetch), (.resetRequestWarm, .warm),
  (.resetRequestMgmt, .mgmt), (.resetRequestFabric, .fabric), (.blockResetQuad, .quad), (.blockResetLink, .link), (.blockResetChannel, .channel),
  (.counterClearCore, .clearCore), (.counterClearDie, .clearDie), (.telemetryClear, .telemetry), (.saveNow, .save), (.nonce, .nonce),
  (.raiseFloor, .floor), (.revoke, .revoke), (.updateComponent, .component), (.updateChunk, .chunk), (.updateVerify, .verify), (.activate, .activate)]

/-- A WRITE of an object of a fixed size: its command, key, type code, bytes, the privilege it needs, when it is accepted, and its effect. -/
structure WriteRow where
  make : ReqRef → Instr
  key : Nat
  typ : Nat
  bytes : Nat
  priv : Nat
  ok : DopReq → Nat → State → Prop
  effect : Nat → State → State

/-- WRITEs to the step program's objects (R275 to R277, R268, R303, R361). -/
def stepWrites : List WriteRow := [
  ⟨fun r => .runStateRun r .ok, 0x200000, 1, 1, 1, fun _ v s => v = 2 ∧ s.run.state = 0 ∧ s.pcie.fetchResult ≠ 1,
    fun _ s => match runStages .ok (startStages (setRunState 1 s)) (setRunState 1 s) with
      | (some code, t) => stopRun (BitVec.ofNat 8 code) t
      | (none, t) => { t with run := { t.run with phase := .measuring, phaseAt := t.clk.tick } }⟩,
  ⟨.runStateStop, 0x200000, 1, 1, 1, fun _ v s => v = 0 ∧ s.pcie.fetchResult ≠ 1,
    fun _ s => if s.run.state = 1 then stopRun 0x0A s else if s.run.state = 2 then setRunState 3 s else if s.run.state = 4 then enterStopped s else s⟩,
  ⟨.variantReqWrite, 0x200401, 1, 1, 1, fun _ v s => v ≤ 3 ∧ (s.run.state = 0 ∨ (s.run.state = 2 ∧ v < imgVariants s.run.hdr)),
    fun v s => { s with run := { s.run with variantReq := BitVec.ofNat 8 v, variantAsked := s.run.variantAsked || decide (s.run.state = 2) } }⟩,
  ⟨.roleEpochResync, 0x600800, 2, 2, 1, fun _ _ _ => True, fun v s => { s with grp := { s.grp with resync := some (BitVec.ofNat 16 v) } }⟩,
  ⟨.triggerAtWrite, 0x701101, 4, 8, 1, fun q _ s => isMaster s = true ∨ q.path = .remote (masterEp s),
    fun v s =>
      let t := if isMaster s then (otherMembers s).foldl (fun s m => sendRemote m 2 4 0x7011 1 8 v s) s else s
      { t with fail := { t.fail with triggerAt := BitVec.ofNat 64 v } }⟩,
  ⟨.dopWrite, 0x200100, 4, 8, 1, fun _ _ s => s.run.state = 0, fun v s => fillSlice { s with run := { s.run with base := BitVec.ofNat 64 v } }⟩,
  ⟨.dopWrite, 0x200200, 4, 8, 1, fun _ _ s => s.run.state = 0,
    fun v s => { s with run := { s.run with commit := ⟨BitVec.ofNat 64 v, BitVec.ofNat 64 v, BitVec.ofNat 64 v⟩ } }⟩,
  ⟨.dopWrite, 0x200300, 4, 8, 1, fun _ _ s => s.run.state = 0, fun v s => { s with run := { s.run with skipped := BitVec.ofNat 64 v } }⟩,
  ⟨.dopWrite, 0x200701, 4, 8, 1, fun _ _ _ => True, fun v s => { s with pcie := { s.pcie with fetchAddr := BitVec.ofNat 64 v } }⟩,
  ⟨.dopWrite, 0x200702, 4, 8, 1, fun _ _ _ => True, fun v s => { s with pcie := { s.pcie with fetchLen := BitVec.ofNat 64 v } }⟩,
  ⟨.imageFetchGo, 0x200703, 0, 1, 1, fun _ v s => v = 1 ∧ s.run.state = 0,
    fun _ s =>
      let t := dropReads .image s
      if s.pcie.fetchLen = 0 then setFetch 2 t
      else if s.pcie.fetchAddr.toNat < hostBase ∨ 2 ^ 48 < s.pcie.fetchAddr.toNat + s.pcie.fetchLen.toNat
          ∨ Config.tier1Bytes < s.run.base.toNat + s.pcie.fetchLen.toNat then setFetch 3 t
      else if hostUsable t then readHost .image (s.pcie.fetchAddr.toNat - hostBase) s.run.base.toNat s.pcie.fetchLen.toNat (setFetch 1 t)
      else setFetch 4 t⟩]

/-- WRITEs to the module's other objects (R210, R242, R282, R305, R307, R311, R417, R420, R444, R445). -/
def moduleWrites : List WriteRow := [
  ⟨.resetRequestWarm, 0x201000, 1, 1, 1, fun _ v _ => v = 1, fun _ s => { s with boot := { s.boot with resetReq := some (.warm, s.clk.tick) } }⟩,
  ⟨.resetRequestMgmt, 0x201000, 1, 1, 1, fun _ v _ => v = 2, fun _ s => { s with boot := { s.boot with resetReq := some (.management, s.clk.tick) } }⟩,
  ⟨.resetRequestFabric, 0x201000, 1, 1, 1, fun q v s => v = 3 ∧ q.path = .remote (masterEp s),
    fun _ s => { s with boot := { s.boot with resetReq := some (.fabric, s.clk.tick) } }⟩,
  ⟨.blockResetQuad, 0x312001, 2, 2, 1, fun _ v s => v % 2 ^ 15 < 40 ∧
      (s.run.state = 0 ∨ ∀ i, i < 4 → physState s (v / 2 ^ 15) (4 * (v % 64) + i) = .spare ∨ physState s (v / 2 ^ 15) (4 * (v % 64) + i) = .retired),
    fun v s =>
      let t := (List.range 4).foldl (fun s i => blockCore (v / 2 ^ 15) (4 * (v % 64) + i) s) s
      { t with pwr := { t.pwr with quads := mset t.pwr.quads (40 * (v / 2 ^ 15) + v % 64) .on } }⟩,
  ⟨.blockResetLink, 0x312002, 1, 1, 1, fun _ v s => v < 24 ∧ (s.run.state = 0 ∨ ((getLink s v).state ≠ .up ∧ (getLink s v).state ≠ .training)),
    fun v s =>
      let t := if (getLink s v).state = .up then leaveUp v s else s
      notePorts (settleLink v (putLink t v (freshLink (getLink t v))))⟩,
  ⟨.blockResetChannel, 0x312003, 1, 1, 1, fun _ v s => (v < 2 * Config.stacksPerDie ∨ (16 ≤ v ∧ v < 16 + 2 * Config.channelsPerDie)) ∧
      s.run.state = 0 ∧ s.fail.phase = 0 ∧ s.pcie.fetchResult ≠ 1 ∧ s.fail.restoreResult ≠ 1,
    fun v s =>
      let perDie := decide ((if v < 2 * Config.stacksPerDie then s.mem.tier1Mode else s.mem.tier2Mode) = 1)
      let lo := if v < 2 * Config.stacksPerDie then 0 else tier2Base
      let hi := if v < 2 * Config.stacksPerDie then Config.tier1Bytes else tier2Base + Config.tier2Bytes
      let t := retireWhere (fun a => decide (lo ≤ a ∧ a < hi) && decide (unitCode perDie a = v)) s
      { t with
        mem := makeUndefUnit t.mem lo hi v perDie
        boot := { t.boot with retraining := if t.boot.retraining.contains v then t.boot.retraining else t.boot.retraining ++ [v] } }⟩,
  ⟨.counterClearCore, 0x800200, 1, 1, 1, fun _ v _ => v = 1 ∨ v = 3,
    fun v s => { s with coreStats := [], dieStats := if v = 3 then [] else s.dieStats }⟩,
  ⟨.counterClearDie, 0x800200, 1, 1, 1, fun _ v _ => v = 2, fun _ s => { s with dieStats := [] }⟩,
  ⟨.telemetryClear, 0x504300, 0, 1, 1, fun _ v _ => v = 1,
    fun _ s => { s with fab := { s.fab with
      portStats := Vector.replicate 8 (Vector.replicate 18 0), links := s.fab.links.map (fun x => { x with stats := Vector.replicate 8 0, txAt := s.clk.tick, xoffAt := s.clk.tick })
      routers := s.fab.routers.map (fun r => { r with stats := Vector.replicate 9 0 }) } }⟩,
  ⟨.saveNow, 0x803200, 0, 1, 1, fun _ v s => v = 1 ∧ s.life.saving = none,
    fun _ s => { s with
      life := { s.life with saving := some (saveSlot s, newRecord s) }
      flash := { s.flash with records := mset s.flash.records (saveSlot s) (newRecord s) } }⟩,
  ⟨.restoreGo, 0x701203, 0, 1, 1, fun _ v s => v = 1 ∧ s.run.state = 0, fun _ s => restoreStart (dropReads .restore s)⟩,
  ⟨.portReport, 0x700300, 4, 8, 1, fun q v s => q.path = .remote (BitVec.ofNat 16 (v / 2 ^ 48)) ∧ v / 2 ^ 40 % 2 ^ 8 < 6 ∧ v / 2 ^ 32 % 2 ^ 7 = 0 ∧
      (isMaster s = true ∨ (s.fab.hasId = true ∧ s.fail.deputy = s.fab.ownId)),
    fun v s => takeReport (BitVec.ofNat 64 v) s⟩,
  ⟨.fieldTestStart, 0x704002, 0, 1, 1, fun _ v s => v = 1 ∧ testOn s (testDie s.fail.testTarget) = false ∧
      physState s (testDie s.fail.testTarget) (testPhys s.fail.testTarget) ≠ .retired, fun _ s => testStart s⟩,
  ⟨.dopWrite, 0x700100, 2, 2, 1, fun _ _ _ => True, fun v s => { s with fail := { s.fail with replayLimit := BitVec.ofNat 16 v } }⟩,
  ⟨.dopWrite, 0x701201, 4, 8, 1, fun _ _ _ => True, fun v s => { s with fail := { s.fail with restoreCommit := BitVec.ofNat 64 v } }⟩,
  ⟨.dopWrite, 0x701202, 1, 1, 1, fun _ v _ => v ≤ 2, fun v s => { s with fail := { s.fail with restoreSource := BitVec.ofNat 8 v } }⟩,
  ⟨.dopWrite, 0x701300, 2, 2, 1, fun _ v _ => 1 ≤ v ∧ v ≤ 256, fun v s => { s with pcie := { s.pcie with drainRate := BitVec.ofNat 16 v } }⟩,
  ⟨.dopWrite, 0x704001, 2, 2, 1, fun _ v _ => v / 2 ^ 8 % 2 ^ 7 = 0 ∧ v % 256 < Config.physCores,
    fun v s => { s with fail := { s.fail with testTarget := BitVec.ofNat 16 v } }⟩]
  ++ (List.range 24).map (fun l => ⟨.dopWrite, 0x501301 + l, 1, 1, 1, fun _ v _ => v ≤ 7,
    fun v s => putLink s l { getLink s l with preset := BitVec.ofNat 8 v }⟩)

/-- WRITEs to fuses and the update objects (R379, R383, R384). -/
def firmwareWrites : List WriteRow :=
  (List.range 3).map (fun c => ⟨.raiseFloor, 0x900304 + c, 1, 1, 2,
    fun _ v s => v = floorOf (voteFloor c s) c ∨ (floorOf (voteFloor c s) c ≤ v ∧ v ≤ 64 ∧ v ≤ (vget 0 (voteFloor c s).boot.svn c).toNat),
    fun v s =>
      let t := voteFloor c s
      let x : BitVec 64 := BitVec.ofNat 64 (2 ^ v - 1)
      if v = floorOf t c then t
      else { t with flash := { t.flash with floors := vset t.flash.floors c (x, x) }, boot := { t.boot with floors := vset t.boot.floors c ⟨x, x, x⟩ } }⟩)
  ++ [⟨.revoke, 0x900505, 1, 1, 2,
      fun _ v s => v < 4 ∧ keyHashOf (voteFuses s) v ≠ 0 ∧ keyInUse (voteFuses s) v = false ∧
        (List.range 4).filter (fun i => keyValid (voteFuses s) i) ≠ [v],
      fun v s =>
        let t := voteFuses s
        let r := t.boot.revoked.value ||| (1#4 <<< v)
        { t with flash := { t.flash with revoked := (r, r) }, boot := { t.boot with revoked := ⟨r, r, r⟩ } }⟩,
    ⟨.updateComponent, 0x901201, 1, 1, 1, fun _ v s => upBusy s = false ∧ 1 ≤ v ∧ v ≤ 3,
      fun v s => { s with
        flash := { s.flash with fw := mset s.flash.fw (2 * (v - 1) + inactiveSlot s (v - 1)) [] }
        boot := { s.boot with upComponent := BitVec.ofNat 8 v, upOffset := 0, upStatus := 1 } }⟩,
    ⟨.dopWrite, 0x901202, 3, 4, 1, fun _ v s => upBusy s = false ∧ v % 1024 = 0, fun v s => { s with boot := { s.boot with upOffset := BitVec.ofNat 32 v } }⟩,
    ⟨.updateVerify, 0x901204, 0, 1, 1, fun _ v s => v = 1 ∧ upBusy s = false ∧ s.boot.upComponent ≠ 0,
      fun _ s => { s with boot := { s.boot with upStatus := 2 } }⟩]

/-- What it takes for a WRITE of a row to be accepted from the head of the queue, the state after the check of its privilege and the vote its object asks for being `u` (R185, R324, R329, R336). -/
def Accepted (r : WriteRow) (s : State) (q : DopReq) (rest : List DopReq) (u : State) : Prop :=
  HeadRequest s q rest ∧ Asks q 2 r.key r.typ ∧ q.payload.length = r.bytes ∧ (∃ p t, privilege (dequeued rest s) q = (p, t) ∧ r.priv ≤ p ∧ u = voteChapter q t) ∧
    r.ok q (ofLE q.payload) u

end Sys2Proof.Machine
end

