-- ==== Sys2Proof/Certificates/Slice0/Obligations.lean ====
section
/-! DEFINITION. The statements for the provers. -/

open Sys2Proof Sys2Proof.Machine

/-! ### The queue, reset, the invariant, the commands as a whole -/

/-- A step takes the command at the front of the queue and runs it on the state with the queue's rest. -/
def Obligations.StepRunsFrontCommand : Prop :=
  ∀ (c : Instr) (rest : List Instr) (s : State), s.pending = c :: rest → step s = exec c { s with pending := rest }

/-- With no command waiting a step advances the root clock by one cycle (the model's choice, log 1). Where no core has work in its units and no thread sleeps on WAITFLAG, only the clocks and the time counters differ: an ACLK slot every 4 cycles is a cycle of its die or a withheld one, and every 52 cycles each die's time counter adds its effective addend (R365, R367, R390, R408). Before the PLLs lock the root clock alone runs (R393). -/
def Obligations.EmptyQueueAdvancesClock : Prop :=
  ∀ s : State, s.pending = [] →
    ∃ t, step s = .next t ∧ t.clk.tick = s.clk.tick + 1 ∧ t.pending = []
      ∧ (vget 0 s.clk.pll 0 = 0 → t = { s with clk := { s.clk with tick := s.clk.tick + 1 } })
      ∧ ((∀ e ∈ s.cores, Idle e.2) → vget 0 s.clk.pll 0 ≠ 0 →
        t = { s with clk := t.clk, time := { s.time with counter := t.time.counter } }
        ∧ (∀ d, d < 2 → vget 0 t.time.counter d = if (s.clk.tick + 1) % 52 = 0 then vget 0 s.time.counter d + BitVec.ofInt 96 (effectiveAddend s d)
            else vget 0 s.time.counter d)
        ∧ (∀ d, d < 2 → vget 0 t.clk.aclk d = if (s.clk.tick + 1) % 4 = 0 ∧ withheld s d (vget 0 s.clk.slots d) = false then vget 0 s.clk.aclk d + 1
            else vget 0 s.clk.aclk d))

/-- The module right after reset: unpowered, nothing waiting, memory listing nothing in its canonical form, RUN_STATE, BOOT_STATE and RESET_CAUSE 0, no core started, no link active. -/
def Obligations.ResetState : Prop :=
  State.reset.pending = [] ∧ State.reset.mem.cells = [] ∧ State.reset.mem.wf = true ∧ State.reset.run.state = 0
    ∧ State.reset.boot.state = 0 ∧ State.reset.pwr.state = .off ∧ State.reset.pwr.vin = false ∧ State.reset.cores = []
    ∧ (∀ l, l < 24 → (vget {} State.reset.fab.links l).state = .disabled) ∧ MergeOk State.reset.mem

/-- Every step that answers a next state keeps the canonical form of the memories. -/
def Obligations.StepKeepsMemoryCanonical : Prop :=
  ∀ s t : State, s.mem.wf = true → step s = .next t → t.mem.wf = true

/-- Every command answers a next state when it names only units the module has, and only then; it never refuses, and another unit is the one fault. -/
def Obligations.CommandsAnswerNext : Prop :=
  ∀ (c : Instr) (s : State), (c.wf = true → ∃ t, exec c s = .next t) ∧ (c.wf = false → exec c s = .fault .noSuchUnit)

/-! ### The cores: words, scalar results, branches, traps -/

/-- The fields of an instruction word: CLASS, OP, D, A, B, FL and IMM are read where R51 places them, no bit is dropped, and every word is the word of its own fields. -/
def Obligations.InstructionWordFields : Prop :=
  (∀ (cls op : Nat) (f : Fields), cls < 16 → op < 256 →
    wordClass (encodeWord cls op f) = cls ∧ wordOp (encodeWord cls op f) = op ∧ wordFields (encodeWord cls op f) = f) ∧
  (∀ w : BitVec 64, encodeWord (wordClass w) (wordOp w) (wordFields w) = w)

/-- A scalar instruction that issues writes its result of R56 into sD, s0 aside, moves its thread to the next word, and changes nothing else. Commands shown to complete (`exec` answers the next state): add, sub, and, or, xor, shl, shr, sra, mul, mulhu, mulh, min, max, slt, sltu, addi, andi, ori, xori, shli, shri, srai, li, lui, seq. -/
def Obligations.ScalarResults : Prop :=
  ∀ row ∈ scalarRows, ∀ (th : ThreadRef) (f : Fields) (s : State), MayIssue s th (encodeWord 0 row.op f) →
    exec (row.make th f) s = .next (afterIssue s th (withResult (passed (threadOf s th)) (aclkOf s th.die) f.d
      (row.value f (readReg s th f.a) (readReg s th f.b) (readReg s th f.d)) row.latency))

/-- A branch that issues jumps to PC + 8 sext(IMM) when its comparison holds and else goes on; CALL also writes PC + 8 to sD; JR jumps to an aligned sA; NOP only goes on; TEXIT makes the thread INACTIVE. Nothing else changes. Commands shown to complete (`exec` answers the next state): call, jr, nop, texit, br, beq, bne, blt, bge, bltu, bgeu. -/
def Obligations.BranchesJump : Prop :=
  (∀ row ∈ branchRows, ∀ (th : ThreadRef) (f : Fields) (s : State), MayIssue s th (encodeWord 1 row.op f) →
    exec (row.make th f) s = .next (afterIssue s th
      (if row.jumps (readReg s th f.a) (readReg s th f.b) = true
       then jumped (threadOf s th) (aclkOf s th.die) (targetOf (threadOf s th).pc f) else passed (threadOf s th)))) ∧
  (∀ (th : ThreadRef) (f : Fields) (s : State), MayIssue s th (encodeWord 1 0x08 f) →
    exec (.call th f) s = .next (afterIssue s th
      (jumped (withResult (threadOf s th) (aclkOf s th.die) f.d ((threadOf s th).pc + 8) 1) (aclkOf s th.die) (targetOf (threadOf s th).pc f)))) ∧
  (∀ (th : ThreadRef) (f : Fields) (s : State), MayIssue s th (encodeWord 1 0x09 f) → (readReg s th f.a).toNat % 8 = 0 →
    exec (.jr th f) s = .next (afterIssue s th (jumped (threadOf s th) (aclkOf s th.die) (readReg s th f.a)))) ∧
  (∀ (th : ThreadRef) (f : Fields) (s : State), MayIssue s th (encodeWord 0 0x00 f) →
    exec (.nop th f) s = .next (afterIssue s th (passed (threadOf s th)))) ∧
  (∀ (th : ThreadRef) (f : Fields) (s : State), MayIssue s th (encodeWord 1 0x10 f) →
    exec (.texit th f) s = .next (afterIssue s th { passed (threadOf s th) with mode := .inactive }))

/-- BRK takes TRAP_BREAK, a word of no listed operation TRAP_ILLEGAL, a JR to a misaligned target, a misaligned load, store or atomic TRAP_ALIGN, and one that no such access may reach TRAP_ADDR; the pc of the trap is the instruction's own (R52, R56, R57, R61, R64, R65). A word whose cache line cannot be trusted does not issue: its line leaves the cache, to be fetched again (R192). Commands shown to complete (`exec` answers the next state): brk, illegalInstruction. -/
def Obligations.InstructionTraps : Prop :=
  (∀ (th : ThreadRef) (f : Fields) (s : State), MayIssue s th (encodeWord 1 0x11 f) →
    exec (.brk th f) s = .next (trap (coreOf th) th.thread 8 0 (threadOf s th).pc.toNat
      (afterIssue s th { threadOf s th with allocWait := false }))) ∧
  (∀ (th : ThreadRef) (w : BitVec 64) (s : State), MayIssue s th w → opListed (wordClass w) (wordOp w) = false →
    exec (.illegalInstruction th w) s = .next (trap (coreOf th) th.thread 1 0 (threadOf s th).pc.toNat
      (afterIssue s th { threadOf s th with allocWait := false }))) ∧
  (∀ (th : ThreadRef) (f : Fields) (s : State), MayIssue s th (encodeWord 1 0x09 f) → (readReg s th f.a).toNat % 8 ≠ 0 →
    exec (.jr th f) s = .next (trap (coreOf th) th.thread 2 (readReg s th f.a).toNat (threadOf s th).pc.toNat
      (afterIssue s th { threadOf s th with allocWait := false }))) ∧
  (∀ row ∈ issueRows, ∀ (th : ThreadRef) (f : Fields) (s : State), th.wf = true → slotFor s th (encodeWord row.cls row.op f) = true → th.line = .bad →
    exec (row.make th f) s = .next (dropLine th s)) ∧
  (∀ (make : ThreadRef → Fields → Instr) (op : Nat) (chk : Chk), (make, op) ∈ [(Instr.ld, 0x20), (Instr.ldU, 0x21), (fun th f => Instr.st th f chk, 0x22)] →
    ∀ (th : ThreadRef) (f : Fields) (s : State), MayIssue s th (encodeWord 0 op f) →
    ((addrOf s th f) % 2 ^ (f.fl.toNat % 4) ≠ 0 →
      exec (make th f) s = .next (trap (coreOf th) th.thread 2 (addrOf s th f) (threadOf s th).pc.toNat
        (afterIssue s th { threadOf s th with allocWait := false }))) ∧
    ((addrOf s th f) % 2 ^ (f.fl.toNat % 4) = 0 → scalarReach (addrOf s th f) (2 ^ (f.fl.toNat % 4)) = false →
      exec (make th f) s = .next (trap (coreOf th) th.thread 3 (addrOf s th f) (threadOf s th).pc.toNat
        (afterIssue s th { threadOf s th with allocWait := false })))) ∧
  (∀ row ∈ atomicRows, ∀ (th : ThreadRef) (f : Fields) (s : State), MayIssue s th (encodeWord 5 row.op f) →
    ((readReg s th f.a).toNat % (if bit f.fl 0 then 8 else 4) ≠ 0 →
      exec (row.make th f) s = .next (trap (coreOf th) th.thread 2 (readReg s th f.a).toNat (threadOf s th).pc.toNat
        (afterIssue s th { threadOf s th with allocWait := false }))) ∧
    ((readReg s th f.a).toNat % (if bit f.fl 0 then 8 else 4) = 0 → atomicReach (readReg s th f.a).toNat (if bit f.fl 0 then 8 else 4) = false →
      exec (row.make th f) s = .next (trap (coreOf th) th.thread 3 (readReg s th f.a).toNat (threadOf s th).pc.toNat
        (afterIssue s th { threadOf s th with allocWait := false }))))

/-- A trap stops its core: the trap record of R67 names the cause, the thread, the core role epoch, the address and the pc; every thread the core holds is HALTED, and every thread but the trapping one has taken TRAP_KILL (R64, R65); every queue of the core is empty, and no other core's trap record changes. -/
def Obligations.TrapStopsCore : Prop :=
  ∀ (c : CoreRef) (thread cause addr pc : Nat) (s : State), (getCore s c).phase ≠ .stopped →
    let t := trap c thread cause addr pc s
    (getCore t c).phase = .stopped ∧
    (getCore t c).trap = BitVec.ofNat 128 (cause * 2 ^ 120 + thread % 64 * 2 ^ 114 + (getCore s c).epoch.value.toNat * 2 ^ 96
      + addr % 2 ^ 48 * 2 ^ 48 + pc % 2 ^ 48) ∧
    (∀ i, threadMode (getCore t c) i = .halted) ∧ threadCause (getCore t c) thread = cause ∧ (∀ i, i ≠ thread → threadCause (getCore t c) i = 9) ∧
    (getCore t c).mxa.queue = [] ∧ (getCore t c).mxa.flight = [] ∧ (getCore t c).vecQueue = [] ∧ (getCore t c).vecFlight = [] ∧
    (getCore t c).colQueue = [] ∧ (getCore t c).requests = [] ∧
    (∀ c' : CoreRef, coreKey c' ≠ coreKey c → (getCore t c').trap = (getCore s c').trap)

/-! ### Loads, stores, atomics -/

/-- A load or atomic that issues enters its core's request list with its width, sign, kind, and its place in the memories as the core map has it now, under the module's next name, and marks sD pending; nothing else changes (R45, R48, R49, R56, R61). An LD goes past the HRC when the die is dropping its address (R153). Commands shown to complete (`exec` answers the next state): ld, ldU, aadd, amax, amin, axchg, acas. -/
def Obligations.LoadsAndAtomicsAsk : Prop :=
  (∀ (th : ThreadRef) (f : Fields) (s : State), MayIssue s th (encodeWord 0 0x20 f) →
    (addrOf s th f) % 2 ^ (f.fl.toNat % 4) = 0 → scalarReach (addrOf s th f) (2 ^ (f.fl.toNat % 4)) = true →
    exec (.ld th f) s = .next (named (afterIssue s th (awaiting (threadOf s th) f.d)
      (asked s th f.d (addrOf s th f) (.load (2 ^ (f.fl.toNat % 4)) (bit f.fl 2) (dropCovers s th.die (addrOf s th f))))))) ∧
  (∀ (th : ThreadRef) (f : Fields) (s : State), MayIssue s th (encodeWord 0 0x21 f) →
    (addrOf s th f) % 2 ^ (f.fl.toNat % 4) = 0 → scalarReach (addrOf s th f) (2 ^ (f.fl.toNat % 4)) = true →
    exec (.ldU th f) s = .next (named (afterIssue s th (awaiting (threadOf s th) f.d)
      (asked s th f.d (addrOf s th f) (.load (2 ^ (f.fl.toNat % 4)) (bit f.fl 2) true))))) ∧
  (∀ row ∈ atomicRows, ∀ (th : ThreadRef) (f : Fields) (s : State), MayIssue s th (encodeWord 5 row.op f) →
    (readReg s th f.a).toNat % (if bit f.fl 0 then 8 else 4) = 0 → atomicReach (readReg s th f.a).toNat (if bit f.fl 0 then 8 else 4) = true →
    exec (row.make th f) s = .next (named (afterIssue s th (awaiting (threadOf s th) f.d)
      (asked s th f.d (readReg s th f.a).toNat
        (.atomic row.kind (if bit f.fl 0 then 8 else 4) (readReg s th f.b) (readReg s th f.d))))))

/-- The value of a load returns: at the head of its granule's order, after its latency, with nothing uncorrectable, sD takes the loaded bytes of the place in the memories that the request has had since its issue, extended as the load says and is no longer pending; the request leaves the list, and nothing else changes (R49, R56, R166). Commands shown to complete (`exec` answers the next state): loadReturn. -/
def Obligations.LoadReturns : Prop :=
  ∀ (c : CoreRef) (i n : Nat) (r : MemReq) (sg : Bool) (a : Nat) (s : State), c.wf = true → (getCore s c).requests[i]? = some r →
    (getCore s c).phase ≠ .stopped → r.kind = .load n sg true → r.value = none → r.bad = none → r.store = some a →
    (placeOf r.addr n = .tier1 → a = r.addr) → (∀ off, placeOf r.addr n ≠ .control off) → Clean s → inOrder s c i r = true →
    returnCycle c r ≤ aclkOf s c.die → (getThread (getCore s c) r.thread).mode ≠ .inactive →
    exec (.loadReturn c i .ok) s = .next (putCore s c (putThread { getCore s c with requests := dropAt (getCore s c).requests i } r.thread
      (returnReg (getThread (getCore s c) r.thread) r.d
        (if sg then (BitVec.ofNat (8 * n) (readNum s.mem a n)).signExtend 64 else BitVec.ofNat 64 (readNum s.mem a n)))))

/-- A store that issues: to a tier, or to the core's own SPM, with no earlier request of the thread to its granule, its bytes land where R56 and R143 place them, with what the write finds there; where it finds nothing every other byte reads as before, and the rest of the machine is as after the issue, the tests of WAITFLAG sleepers aside; a parity miss discards the write whole (R191); a store to SIGNAL raises its vector; a store to another core's SPM leaves as one packet with the epoch the thread expects, for the physical core that the map names now (R45, R76, R77). Commands shown to complete (`exec` answers the next state): st. -/
def Obligations.StoresLand : Prop :=
  ∀ (th : ThreadRef) (f : Fields) (s : State), MayIssue s th (encodeWord 0 0x22 f) → (addrOf s th f) % 2 ^ (f.fl.toNat % 4) = 0 →
    (getCore s (coreOf th)).requests = [] →
    (∀ a, (placeOf (addrOf s th f) (2 ^ (f.fl.toNat % 4)) = .tier1 ∨ placeOf (addrOf s th f) (2 ^ (f.fl.toNat % 4)) = .tier2) ∧ a = addrOf s th f
        ∨ (∃ off, placeOf (addrOf s th f) (2 ^ (f.fl.toNat % 4)) = .spm th.die th.core off ∧ a = spmAddr th.die (physCore s (coreOf th)) off) →
      (∀ chk, exec (.st th f chk) s = .next (landFrom chk a (toLE (2 ^ (f.fl.toNat % 4)) (readReg s th f.b).toNat) (afterIssue s th (passed (threadOf s th))))) ∧
      (∀ chk, parityMiss chk a (2 ^ (f.fl.toNat % 4)) = true →
        exec (.st th f chk) s = .next (settleLost (writeMissed a (afterIssue s th (passed (threadOf s th)))))) ∧
      (Clean s → MergeOk s.mem → s.intg.lost = [] → s.intg.missed = [] →
      ∃ m, exec (.st th f .ok) s = .next (flagWrite a (2 ^ (f.fl.toNat % 4)) { afterIssue s th (passed (threadOf s th)) with mem := m })
        ∧ readBytes m a (2 ^ (f.fl.toNat % 4)) = toLE (2 ^ (f.fl.toNat % 4)) (readReg s th f.b).toNat
        ∧ ∀ x, x < a ∨ a + 2 ^ (f.fl.toNat % 4) ≤ x → readByte m x = readByte s.mem x)) ∧
    (∀ off, placeOf (addrOf s th f) (2 ^ (f.fl.toNat % 4)) = .control off →
      ∀ chk, exec (.st th f chk) s = .next (if off = 0x100 ∧ 16 ≤ (readReg s th f.b).toNat % 64
        then msix ((readReg s th f.b).toNat % 64) (afterIssue s th (passed (threadOf s th))) else afterIssue s th (passed (threadOf s th)))) ∧
    (∀ die core off, placeOf (addrOf s th f) (2 ^ (f.fl.toNat % 4)) = .spm die core off → (die ≠ th.die ∨ core ≠ th.core) →
      ∀ chk, exec (.st th f chk) s = .next { afterIssue s th (passed (threadOf s th)) with
        ids := s.ids + 1,
        noc := s.noc ++ [⟨s.ids, th.die, th.core, th.thread, addrOf s th f, physOf s.map die core,
          toLE (2 ^ (f.fl.toNat % 4)) (readReg s th f.b).toNat, (threadOf s th).expEpoch, none⟩] })

/-- What a write leaves in the memories: with sound merge buffers and no uncorrectable word, each byte written reads as written and every other byte as before, and the merge buffers stay sound. -/
def Obligations.LandedBytesRead : Prop :=
  ∀ (m : Memory) (tick a : Nat) (bs : List Byte), MergeOk m → m.bad = [] →
    MergeOk (landMem m tick a bs).1 ∧ (landMem m tick a bs).1.bad = [] ∧ (landMem m tick a bs).2 = [] ∧
    ∀ x, readByte (landMem m tick a bs).1 x = if a ≤ x ∧ x < a + bs.length then bs.getD (x - a) 0 else readByte m x

/-- A write of another agent that reaches an SPM window: with the window's epoch as expected all of it lands, in the physical core that its packet has named since it entered (R45), and every other byte reads as before; with an expected epoch 1 to 32,767 ahead it is dropped as early, else as stale, and only the packet's place and the counter differ (R76); one with a path-parity miss is discarded whole with its step fault (R191). Commands shown to complete (`exec` answers the next state): spmRemoteWriteArrive. -/
def Obligations.RemoteWriteArrives : Prop :=
  ∀ (i die core off : Nat) (p : NocPacket) (s : State), s.noc[i]? = some p → nocBehind s i p = false →
    placeOf p.addr p.data.length = .spm die core off →
    Agrees (vget ⟨0, 0, 0⟩ (getCore s ⟨die, core⟩).windows (off / (Config.spmBytes / 8))) →
    let cur := (vget ⟨0, 0, 0⟩ (getCore s ⟨die, core⟩).windows (off / (Config.spmBytes / 8))).a
    let rest := { s with noc := dropAt s.noc i }
    (p.epoch = cur → (∀ chk, parityMiss chk (spmAddr die p.phys off) p.data.length = false →
        exec (.spmRemoteWriteArrive i chk) s = .next (landFrom chk (spmAddr die p.phys off) p.data rest)) ∧
      (Clean s → MergeOk s.mem → s.intg.lost = [] → s.intg.missed = [] → ∃ m, exec (.spmRemoteWriteArrive i .ok) s = .next (flagWrite (spmAddr die p.phys off) p.data.length { rest with mem := m }) ∧
        readBytes m (spmAddr die p.phys off) p.data.length = p.data ∧
        ∀ x, x < spmAddr die p.phys off ∨ spmAddr die p.phys off + p.data.length ≤ x → readByte m x = readByte s.mem x)) ∧
    (0 < (p.epoch - cur).toNat ∧ (p.epoch - cur).toNat < 32768 → exec (.spmRemoteWriteArrive i .ok) s = .next (coreCount rest ⟨die, core⟩ 7 1)) ∧
    (32768 ≤ (p.epoch - cur).toNat → exec (.spmRemoteWriteArrive i .ok) s = .next (coreCount rest ⟨die, core⟩ 8 1)) ∧
    (∀ chk, parityMiss chk (spmAddr die p.phys off) p.data.length = true → exec (.spmRemoteWriteArrive i chk) s =
      .next (settleLost (writeMissed (spmAddr die p.phys off) (discardOwned p.owner p.data.length rest))))

/-- RDSPEC writes the special value that IMM selects of the list of R55, and takes TRAP_ILLEGAL for an index that the list does not hold; nothing else changes while the copies of the critical words agree. Commands shown to complete (`exec` answers the next state): rdspec. -/
def Obligations.RdspecReads : Prop :=
  ∀ (th : ThreadRef) (f : Fields) (s : State), MayIssue s th (encodeWord 0 0x30 f) →
    Agrees (getCore s (coreOf th)).epoch → (∀ w, w < 8 → Agrees (vget ⟨0, 0, 0⟩ (getCore s (coreOf th)).windows w)) → Agrees s.run.commit →
    (∀ v, (f.imm.toNat, v) ∈ specialList s th →
      exec (.rdspec th f) s = .next (afterIssue s th (withResult (passed (threadOf s th)) (aclkOf s th.die) f.d v 1))) ∧
    (f.imm.toNat ∉ (specialList s th).map (fun e => e.1) →
      exec (.rdspec th f) s = .next (trap (coreOf th) th.thread 1 0 (threadOf s th).pc.toNat
        (afterIssue s th { threadOf s th with allocWait := false })))

/-- FENCE.LOCAL goes on when everything it waits for is done and else sleeps; KSEL keeps the low half of IMM as the next kernel; SETEP takes the thread's expected epoch from sA; WAITFLAG on an aligned word of the core's own SPM writes 0 when the word is at least sB, writes 1 when it is not and IMM is 0, and else sleeps with sD pending until IMM µs from its issue (R62, R70, R77, R167). Commands shown to complete (`exec` answers the next state): fenceLocal, ksel, setep, waitflag. -/
def Obligations.SyncInstructions : Prop :=
  (∀ (th : ThreadRef) (f : Fields) (s : State), MayIssue s th (encodeWord 5 0x01 f) →
    exec (.fenceLocal th f) s = .next (afterIssue s th
      (if fenceHolds s th then passed (threadOf s th) else { passed (threadOf s th) with mode := .sleeping .fence }))) ∧
  (∀ (th : ThreadRef) (f : Fields) (s : State), MayIssue s th (encodeWord 5 0x03 f) →
    exec (.ksel th f) s = .next (afterIssue s th (passed (threadOf s th)) (fun k => { k with ksel := some (BitVec.ofNat 16 f.imm.toNat) }))) ∧
  (∀ (th : ThreadRef) (f : Fields) (s : State), MayIssue s th (encodeWord 5 0x04 f) →
    exec (.setep th f) s = .next (afterIssue s th
      { passed (threadOf s th) with expEpoch := BitVec.ofNat 16 (readReg s th f.a).toNat })) ∧
  (∀ (th : ThreadRef) (f : Fields) (s : State), MayIssue s th (encodeWord 5 0x02 f) → Clean s →
    (readReg s th f.a).toNat % 8 = 0 → (readReg s th f.a).toNat < Config.spmBytes →
    let word := ownWord s (coreOf th) (readReg s th f.a).toNat
    ((readReg s th f.b).toNat ≤ word → exec (.waitflag th f .ok) s = .next (afterIssue s th
      (withResult (passed (threadOf s th)) (aclkOf s th.die) f.d 0 1))) ∧
    (word < (readReg s th f.b).toNat → f.imm = 0 → exec (.waitflag th f .ok) s = .next (afterIssue s th
      (withResult (passed (threadOf s th)) (aclkOf s th.die) f.d 1 1))) ∧
    (word < (readReg s th f.b).toNat → f.imm ≠ 0 → exec (.waitflag th f .ok) s = .next (afterIssue s th
      { awaiting (threadOf s th) f.d with mode := .sleeping (.waitflag (readReg s th f.a).toNat (readReg s th f.b) f.d
        (threadOf s th).pc (s.clk.tick + 5200 * f.imm.toNat)) } (fun k => { k with flags := mdel k.flags th.thread }))))

/-- A thread sleeping at FENCE.LOCAL, at MXA.SYNC or at WAITFLAG wakes when what it waits for has come: the fence's operations are done, the thread's array instructions have completed, a write to its word's granule has left the value there (sD = 0; a test that found too small a word leaves the thread asleep, and with no write since nothing is tested), the time has passed (sD = 1, or 0 when a write had brought the value). Only the thread and the record of those writes change (R58, R62, R167). Commands shown to complete (`exec` answers the next state): fenceLocalWake, mxaSyncWake, waitflagRetest, waitflagTimeout. -/
def Obligations.SleepersWake : Prop :=
  (∀ (th : ThreadRef) (s : State), th.wf = true → (getCore s (coreOf th)).phase ≠ .stopped → (threadOf s th).mode = .sleeping .fence →
    fenceHolds s th = true → exec (.fenceLocalWake th) s = .next (putThreadOf s th { threadOf s th with mode := .active })) ∧
  (∀ (th : ThreadRef) (s : State), th.wf = true → (getCore s (coreOf th)).phase ≠ .stopped → (threadOf s th).mode = .sleeping .arraySync →
    arrayDone (getCore s (coreOf th)).mxa th.thread = true →
    exec (.mxaSyncWake th) s = .next (putThreadOf s th { threadOf s th with mode := .active })) ∧
  (∀ (th : ThreadRef) (off : Nat) (val : Word) (d : BitVec 5) (pc : Word) (due : Nat) (s : State), th.wf = true →
    (getCore s (coreOf th)).phase ≠ .stopped → (threadOf s th).mode = .sleeping (.waitflag off val d pc due) →
    let tested : State := putCore s (coreOf th) { getCore s (coreOf th) with flags := mdel (getCore s (coreOf th)).flags th.thread }
    let woken (v : Word) : State := putThreadOf tested th { returnReg (threadOf s th) d v with mode := .active }
    (Clean s → mfind (getCore s (coreOf th)).flags th.thread = some true → exec (.waitflagRetest th .ok) s = .next (woken 0)) ∧
    (Clean s → mfind (getCore s (coreOf th)).flags th.thread = some false → exec (.waitflagRetest th .ok) s = .next tested) ∧
    (∀ chk, mfind (getCore s (coreOf th)).flags th.thread = none → exec (.waitflagRetest th chk) s = .next s) ∧
    (due ≤ s.clk.tick → exec (.waitflagTimeout th) s = .next (woken (if mget false (getCore s (coreOf th)).flags th.thread = true then 0 else 1))))

/-! ### The matrix array -/

/-- MXA.FILL, MXA.RUN and MXA.DRAIN with a descriptor that passes the checks of R79 and R90 enter the array queue with their copy of the descriptor; an ACS.ALLOC or ACS.FREE that then stands at its head begins (R48, R58, R92). Commands shown to complete (`exec` answers the next state): mxaFill, mxaRun, mxaDrain. -/
def Obligations.ArrayInstructionsEnter : Prop :=
  (∀ (th : ThreadRef) (f : Fields) (s : State), MayIssue s th (encodeWord 2 0x01 f) → Clean s → copyable (readReg s th f.a).toNat 32 →
    let d := BitVec.ofNat 256 (ownDescriptor s th (readReg s th f.a).toNat 32)
    fillOk d = true → spanBeyond (fillSpans d) = none →
    exec (.mxaFill th f .ok) s = .next (settleArray (coreOf th) (afterIssue s th (passed (threadOf s th))
      (arrayEntered s th (.fill d) (fun m => { m with fillIssued := true }))))) ∧
  (∀ (th : ThreadRef) (f : Fields) (s : State), MayIssue s th (encodeWord 2 0x02 f) → Clean s → copyable (readReg s th f.a).toNat 64 →
    let d := BitVec.ofNat 512 (ownDescriptor s th (readReg s th f.a).toNat 64)
    runOk (getCore s (coreOf th)).mxa d = true → spanBeyond (runSpans d) = none →
    exec (.mxaRun th f .ok) s = .next (settleArray (coreOf th) (afterIssue s th (passed (threadOf s th))
      (arrayEntered s th (.run d) (fun m => if runCommit d then { m with fillIssued := false } else m))))) ∧
  (∀ (th : ThreadRef) (f : Fields) (s : State), MayIssue s th (encodeWord 2 0x03 f) → Clean s → copyable (readReg s th f.a).toNat 64 →
    let d := BitVec.ofNat 512 (ownDescriptor s th (readReg s th f.a).toNat 64)
    drainOk d = true → spanBeyond (drainReadSpans d ++ drainWriteSpans d) = none →
    exec (.mxaDrain th f .ok) s = .next (settleArray (coreOf th) (afterIssue s th (passed (threadOf s th)) (arrayEntered s th (.drain d) id))))

/-- ACS.ALLOC takes the lowest free run of IMM rows into the reservation map, with 0 rows taking none and more than 128 answering all ones; sD is pending until the queued allocation begins. A waiting one is granted the same way. ACS.FREE enters the queue; MXA.SYNC sleeps; each freed row is released when every array instruction and chained reduction is done with it, and the ACS.FREE completes with its last (R58, R109, R110). Commands shown to complete (`exec` answers the next state): acsAlloc, acsAllocGrant, acsFree, mxaSync, acsRowsRelease. -/
def Obligations.AcsRowsReserve : Prop :=
  (∀ (th : ThreadRef) (f : Fields) (s : State), MayIssue s th (encodeWord 2 0x04 f) → canAlloc (getCore s (coreOf th)).mxa f.imm.toNat = true →
    let n := f.imm.toNat
    let t (first count : Nat) (v : Word) : State := settleArray (coreOf th) (afterIssue s th (awaiting (threadOf s th) f.d)
      (arrayEntered s th (.alloc f.d first count v) (fun m => { m with taken := m.taken ||| rowsMask first count })))
    (n = 0 → exec (.acsAlloc th f) s = .next (t 0 0 0)) ∧
    (128 < n → exec (.acsAlloc th f) s = .next (t 0 0 (BitVec.allOnes 64))) ∧
    (∀ r, 0 < n → n ≤ 128 → freeRun (getCore s (coreOf th)).mxa.taken n = some r →
      exec (.acsAlloc th f) s = .next (t r n (BitVec.ofNat 64 r)) ∧
      ((threadOf s th).allocWait = true → exec (.acsAllocGrant th f) s = .next (t r n (BitVec.ofNat 64 r))))) ∧
  (∀ (th : ThreadRef) (f : Fields) (s : State), MayIssue s th (encodeWord 2 0x05 f) →
    exec (.acsFree th f) s = .next (settleArray (coreOf th) (afterIssue s th (passed (threadOf s th))
      (arrayEntered s th (.free (readReg s th f.a).toNat f.imm.toNat) id)))) ∧
  (∀ (th : ThreadRef) (f : Fields) (s : State), MayIssue s th (encodeWord 2 0x06 f) →
    exec (.mxaSync th f) s = .next (afterIssue s th { passed (threadOf s th) with mode := .sleeping .arraySync })) ∧
  (∀ (c : CoreRef) (i seq t : Nat) (rows : BitVec 128) (s : State), c.wf = true → (getCore s c).mxa.releasing[i]? = some (seq, t, rows) →
    rows ≠ 0 ∨ earlierDone (getCore s c).mxa seq = true →
    ∃ free : BitVec 128, (∀ r, r < 128 → bit free r = (bit rows r && rowDone (getCore s c) seq r)) ∧
      exec (.acsRowsRelease c i) s = .next (putCore s c { getCore s c with mxa := { (getCore s c).mxa with
        taken := (getCore s c).mxa.taken &&& ~~~free, reserved := (getCore s c).mxa.reserved &&& ~~~free,
        releasing := if rows &&& ~~~free = 0 then dropAt (getCore s c).mxa.releasing i
          else putAt (getCore s c).mxa.releasing i (seq, t, rows &&& ~~~free) } }))

/-- A fill, run or drain at the head of the array queue begins when R92 allows it and its ready word holds: it leaves the queue, the fill's decoded tile stands in the shadow plane, the run commits that plane when it says so and its slot sums stand in the ACS entries it reaches and in no others, the drain reads its first group of entries, their pending carries resolved (R105), and its writes follow its reads by 12 cycles. Memory and other cores are as before (R81, R85, R87, R92 to R95). Commands shown to complete (`exec` answers the next state): fillBegin, runBegin, drainBegin. -/
def Obligations.ArrayInstructionsBegin : Prop :=
  (∀ (c : CoreRef) (e : ArrayEntry) (d : BitVec 256) (s : State), c.wf = true → arrayHead s c = some e → e.op = .fill d → Clean s →
    fillEngineFree (getCore s c).mxa (aclkOf s c.die) = true → drainsClear (getCore s c).mxa (hull (fillSpans d)) = true →
    readyHolds s c (fillReadyEn d) (fillReadyOff d) (fillReadyVal d) = true →
    ∃ t, exec (.fillBegin c .ok) s = .next t ∧ OnlyCoreAndCounts s t c ∧
      (getCore t c).mxa.queue = (getCore s c).mxa.queue.drop 1 ∧
      (getCore t c).mxa.shadow = some ⟨some (BitVec.ofNat 4 (fillTile d).fmt), (decodeTile (fillTile d)
        (fun o => readNum s.mem (ownSpm s c ((fillTile d).scaleBase + o)) 1) (fillElems d (spmBytesAt s c))).1⟩ ∧
      (getCore t c).mxa.active = (getCore s c).mxa.active ∧ (getCore t c).mxa.acs = (getCore s c).mxa.acs ∧
      (getCore t c).mxa.flight = (getCore s c).mxa.flight ++
        [{ e := e, began := aclkOf s c.die, due := aclkOf s c.die + 6 + Nat.max (fillCount d) 1, empty := decide (fillCount d = 0) }]) ∧
  (∀ (c : CoreRef) (e : ArrayEntry) (d : BitVec 512) (s : State), c.wf = true → arrayHead s c = some e → e.op = .run d → Clean s →
    feedAccepts (getCore s c).mxa (aclkOf s c.die) = true →
    (getCore s c).mxa.flight.all (fun f => rowsRead e.op f (aclkOf s c.die)) = true → drainsClear (getCore s c).mxa (hull (runSpans d)) = true →
    chainsClear (getCore s c) e = true → readyHolds s c (runReadyEn d) (runReadyOff d) (runReadyVal d) = true →
    ∃ t, exec (.runBegin c .ok) s = .next t ∧ OnlyCoreAndCounts s t c ∧
      (let m := (getCore s c).mxa
       let m' := (getCore t c).mxa
       let plane := if runCommit d then m.shadow.getD {} else m.active
       let fed := fedRows d (BitVec.ofNat 128 (readNum s.mem (ownSpm s c (runMmaskOff d)) 16))
       let xs := runElems d fed (fun i => runKmask d i && planeRow plane i && decide (i < Config.mxaK)) (spmBytesAt s c)
       let moving := (decodeTile (runTile d) (fun o => readNum s.mem (ownSpm s c ((runTile d).scaleBase + o)) 1) xs).1
       m'.queue = m.queue.drop 1 ∧ m'.active = plane ∧ m'.shadow = (if runCommit d then none else m.shadow) ∧
       (∀ r ∈ fed, ∀ n ∈ planeCols plane, mfind m'.acs (64 * (runRow d + r) + n) = some ((columnSlots d plane moving r n).foldl addSlot
          (if runAcc d then acsEntry s c (64 * (runRow d + r) + n) else {}))) ∧
       (∀ key, key ∉ runReach d plane fed → mfind m'.acs key = mfind m.acs key))) ∧
  (∀ (c : CoreRef) (e : ArrayEntry) (d : BitVec 512) (s : State), c.wf = true → arrayHead s c = some e → e.op = .drain d → Clean s →
    (∀ f ∈ (getCore s c).mxa.flight, ∀ x, f.e.op = .run x → shareRow e.op f.e.op = false) → (getCore s c).mxa.drainReadEnd ≤ aclkOf s c.die →
    (∀ f ∈ (getCore s c).mxa.flight, f.rows.length * f.rowCycles ≤ f.groups ∧ f.e.seq ≠ e.seq) →
    drainsClear (getCore s c).mxa (hull (drainReadSpans d)) = true → chainsClear (getCore s c) e = true →
    let rows := drainedRows d (BitVec.ofNat 128 (readNum s.mem (ownSpm s c (drainMmaskOff d)) 16))
    let first := (groupCols d 0).map (fun n => 64 * (drainRow d + rows.headD 0) + n)
    ∃ t fl, exec (.drainBegin c .ok) s = .next t ∧ OnlyCoreAndCounts s t c ∧
      (getCore t c).mxa.queue = (getCore s c).mxa.queue.drop 1 ∧ (getCore t c).mxa.active = (getCore s c).mxa.active ∧
      (getCore t c).mxa.acs = (if rows = [] then (getCore s c).mxa.acs
        else (getCore s c).mxa.acs.map (fun x => if first.contains x.1 then (x.1, laResolved x.2) else x)) ∧
      (getCore t c).mxa.flight = (getCore s c).mxa.flight ++ [fl] ∧ fl.e = e ∧ fl.began = aclkOf s c.die ∧
      fl.rows = rows.map (fun r => drainRow d + r) ∧ fl.groups = (if rows = [] then 0 else 1) ∧
      fl.due = (if rows = [] then aclkOf s c.die else aclkOf s c.die + rows.length * drainGroups d + 12) ∧
      (∀ w ∈ fl.writes, aclkOf s c.die + 12 ≤ w.1 ∧ w.1 ≤ fl.due))

/-- The oldest fill, run or drain that is due completes: it leaves its engine, and the bytes of a drain that are still to be written land in the core's own SPM in their order (R93 to R95). Commands shown to complete (`exec` answers the next state): fillComplete, runComplete, drainComplete. -/
def Obligations.ArrayInstructionsComplete : Prop :=
  ∀ (make : CoreRef → Instr) (engine : Nat), (make, engine) ∈ [(Instr.fillComplete, 0), (Instr.runComplete, 1), (Instr.drainComplete, 2)] →
    ∀ (c : CoreRef) (i : Nat) (f : ArrayFlight) (s : State), c.wf = true →
    dueFlight (getCore s c).mxa engine (aclkOf s c.die) = some (i, f) →
    exec (make c) s = .next (landAll f.chk c f.writes (putCore s c { getCore s c with
      mxa := { (getCore s c).mxa with flight := dropAt (getCore s c).mxa.flight i } }))

/-! ### The vector unit -/

/-- A vector instruction (VADD, VSUB, VMUL, VFMA, VMAX, VMIN, VABS, VNEG, VCVT, VEXP, VLOG, VRCP, VRSQRT, VTANH, VSIGMOID) whose formats, offsets and spans pass R59 issues: it enters the vector queue with its offsets and IMM; nothing else changes. The vector instruction at the queue head begins once the ones before have read their last groups: with no elements it is done, else it is in flight and reads its first group, whose results are the operation's function of the elements of A, B and D, to be written 8 cycles later (R133 to R136). The oldest in flight completes when due, and its bytes that are still to be written land in the core's own SPM. Commands shown to complete (`exec` answers the next state): vectorBegin, vectorComplete, vadd, vsub, vmul, vfma, vmax, vmin, vabs, vneg, vcvt, vexp, vlog, vrcp, vrsqrt, vtanh, vsigmoid. -/
def Obligations.VectorInstructions : Prop :=
  (∀ row ∈ vectorRows, ∀ (th : ThreadRef) (f : Fields) (s : State), MayIssue s th (encodeWord 3 row.op f) → vecFormatsOk row.kind f.imm = true →
      (readReg s th f.a).toNat % 8 = 0 → (readReg s th f.d).toNat % 8 = 0 → (vecBinary row.kind = true → (readReg s th f.b).toNat % 8 = 0) →
      spanBeyond (vectorSpans row.kind f (readReg s th f.a).toNat (readReg s th f.b).toNat (readReg s th f.d).toNat) = none →
      exec (row.make th f) s = .next (afterIssue s th (passed (threadOf s th)) (fun k => { k with
        seq := k.seq + 1
        vecQueue := k.vecQueue ++ [⟨k.seq, th.thread, (threadOf s th).pc, row.kind, (readReg s th f.d).toNat, (readReg s th f.a).toNat,
          (readReg s th f.b).toNat, f.imm, bit f.fl 0⟩] }))) ∧
  ((∀ (c : CoreRef) (e : VecEntry) (rest : List VecEntry) (s : State), c.wf = true → (getCore s c).phase ≠ .stopped → Clean s →
      (∀ f ∈ (getCore s c).vecFlight, f.began + vecGroups f.e.imm ≤ aclkOf s c.die ∧ vecGroups f.e.imm ≤ f.groups ∧ f.e.seq ≠ e.seq) →
      (getCore s c).vecQueue = e :: rest →
      (vecN e.imm = 0 → exec (.vectorBegin c .ok) s = .next (putCore s c { getCore s c with vecQueue := rest })) ∧
      (∀ row ∈ vectorRows, row.kind = e.op → vecN e.imm ≠ 0 → ∃ t, exec (.vectorBegin c .ok) s = .next t ∧ OnlyCoreAndCounts s t c ∧
        getCore t c = { getCore s c with vecQueue := rest, vecFlight := (getCore s c).vecFlight ++
          [{ e := e, began := aclkOf s c.die, due := aclkOf s c.die + vecGroups e.imm + 8, groups := 1,
             writes := [(aclkOf s c.die + 8, e.dst, firstGroup row s c e)] }] })) ∧
    (∀ (c : CoreRef) (f : VecFlight) (rest : List VecFlight) (s : State), c.wf = true → (getCore s c).vecFlight = f :: rest →
      f.due ≤ aclkOf s c.die →
      exec (.vectorComplete c) s = .next (landAll f.chk c f.writes (putCore s c { getCore s c with vecFlight := rest }))))

/-! ### DMA -/

/-- DMA.PUSH copies the descriptor into the queue of the channel that FL[1:0] names; DMA.STAT answers that channel's status word and clears ERR (R60, R154, R161). The descriptor at the head of an idle channel begins: one that fails a check of R157 is in execution with that code and has moved nothing; a local one that passes, with both ends in this module's memories, its rows not in another core's SPM and no store of the core on its way to its source (R175), is in execution with code DONE to come. Memory and the other channels are as before. Commands shown to complete (`exec` answers the next state): dmaPush, dmaStat, dmaDescriptorBegin. -/
def Obligations.DmaQueues : Prop :=
  ((∀ (th : ThreadRef) (f : Fields) (s : State), MayIssue s th (encodeWord 4 0x01 f) → Clean s → copyable (readReg s th f.a).toNat 64 →
      exec (.dmaPush th f .ok) s = .next (afterIssue s th (passed (threadOf s th)) (fun k =>
        { k with dma := vset k.dma (f.fl.toNat % 4) { vget {} k.dma (f.fl.toNat % 4) with
            queue := (vget {} k.dma (f.fl.toNat % 4)).queue ++
              [⟨(readReg s th f.a).toNat, BitVec.ofNat 512 (ownDescriptor s th (readReg s th f.a).toNat 64)⟩] } }))) ∧
    (∀ (th : ThreadRef) (f : Fields) (s : State), MayIssue s th (encodeWord 4 0x02 f) →
      let x := vget {} (getCore s (coreOf th)).dma (f.fl.toNat % 4)
      exec (.dmaStat th f) s = .next (afterIssue s th
        (withResult (passed (threadOf s th)) (aclkOf s th.die) f.d
          (BitVec.ofNat 64 (x.lastCode.toNat * 2 ^ 56 + (x.queue.length + (if x.exec.isSome then 1 else 0)) * 2 ^ 48
            + (if x.exec.isSome then 2 ^ 47 else 0) + (if x.err then 2 ^ 46 else 0) + x.completed.toNat)) 1)
        (fun k => { k with dma := vset k.dma (f.fl.toNat % 4) { x with err := false } })))) ∧
  (∀ (c : CoreRef) (ch : Nat) (e : DmaEntry) (rest : List DmaEntry) (s : State), c.wf = true → ch < 4 → (getCore s c).phase ≠ .stopped →
      (vget {} (getCore s c).dma ch).exec = none → (vget {} (getCore s c).dma ch).queue = e :: rest → Clean s →
      s.intg.lost = [] → s.intg.missed = [] → (getRouter s c.die).pisteBad = [] →
      (dmaCode s c e.desc = 1 → dmaHostSrc e.desc = false ∧ dmaRemote e.desc = false ∧ dmaExternal c e.desc = false ∧
        nocAhead s c s.ids (dmaSources e.desc) = false) →
      exec (.dmaDescriptorBegin c ch .ok) s = .next { putCore s c { getCore s c with
        dma := vset (getCore s c).dma ch { vget {} (getCore s c).dma ch with
          queue := rest, exec := some { e := e, id := s.ids, code := BitVec.ofNat 8 (dmaCode s c e.desc), doneBytes := 0, packets := 0, began := aclkOf s c.die } } }
        with ids := s.ids + 1 })

/-- A settled descriptor completes: one with a failed check writes its code and no byte count to its status word, sets ERR and cancels nothing when nothing waits; a single local row between two places of tier 1 that do not overlap has its bytes at the destination, its status word DONE with the byte count, and every other byte of tier 1 and tier 2 as before (R155 to R157, R161). Commands shown to complete (`exec` answers the next state): dmaDescriptorComplete. -/
def Obligations.DmaCompletes : Prop :=
  ∀ (c : CoreRef) (ch : Nat) (e : DmaExec) (s : State), c.wf = true → ch < 4 → (vget {} (getCore s c).dma ch).exec = some e →
    (vget {} (getCore s c).dma ch).queue = [] → e.flagOut = false → Clean s → MergeOk s.mem → s.intg.lost = [] → s.intg.missed = [] →
    (e.code ≠ 1 → e.code ≠ 2 → ∃ t, exec (.dmaDescriptorComplete c ch) s = .next t ∧
      readNum t.mem (ownSpm s c e.e.off) 8 = e.code.toNat * 2 ^ 56 + e.doneBytes % 2 ^ 48 ∧ SameBytesBut s t (ownSpm s c e.e.off) 8 ∧
      t = { s with mem := t.mem, cores := t.cores } ∧
      (∀ c' : CoreRef, coreKey c' ≠ coreKey c → { getCore t c' with flags := [] } = { getCore s c' with flags := [] }) ∧
      getCore t c = { getCore s c with dma := (getCore t c).dma, flags := (getCore t c).flags } ∧
      (∀ i, i < 4 → i ≠ ch → vget {} (getCore t c).dma i = vget {} (getCore s c).dma i) ∧
      vget {} (getCore t c).dma ch = { queue := [], exec := none, lastCode := e.code, err := true, completed := (vget {} (getCore s c).dma ch).completed + 1 }) ∧
    (e.code = 1 → e.chk = .ok → dmaSettled s c e = true → e.doneBytes = 0 → dmaRemote e.e.desc = false → dmaFlagEn e.e.desc = false → dmaRows e.e.desc = 1 →
      0 < dmaLength e.e.desc → dmaSrc e.e.desc + dmaLength e.e.desc ≤ Config.tier1Bytes → dmaDst e.e.desc + dmaLength e.e.desc ≤ Config.tier1Bytes →
      (dmaSrc e.e.desc + dmaLength e.e.desc ≤ dmaDst e.e.desc ∨ dmaDst e.e.desc + dmaLength e.e.desc ≤ dmaSrc e.e.desc) →
      ∃ t, exec (.dmaDescriptorComplete c ch) s = .next t ∧
        (∀ i, i < dmaLength e.e.desc → readByte t.mem (dmaDst e.e.desc + i) = readByte s.mem (dmaSrc e.e.desc + i)) ∧
        (∀ a, a < spmBase → a < dmaDst e.e.desc ∨ dmaDst e.e.desc + dmaLength e.e.desc ≤ a → readByte t.mem a = readByte s.mem a) ∧
        readNum t.mem (ownSpm s c e.e.off) 8 = 2 ^ 56 + dmaLength e.e.desc ∧
        (vget {} (getCore t c).dma ch).exec = none ∧ (vget {} (getCore t c).dma ch).lastCode = 1 ∧
        (vget {} (getCore t c).dma ch).completed = (vget {} (getCore s c).dma ch).completed + 1)

/-! ### Collectives of a core -/

/-- COL.START with a descriptor that passes R253 enters the collective queue with its record, in the data phase when the group has one member; in a larger group its signature goes to the next rank. BAR and SRED enter, their thread sleeps with its destinations pending, and the next arrival of the group that may go goes. A group whose epoch ended by FAILED_MEMBER answers at once. COL.WAIT answers the status of the offset's last operation, or sleeps while one is in progress (R63, R246, R253, R254, R262, R265, R266). Commands shown to complete (`exec` answers the next state): colStart, bar, sred, colWait. -/
def Obligations.CollectiveInstructions : Prop :=
  (∀ (th : ThreadRef) (f : Fields) (s : State), MayIssue s th (encodeWord 6 0x01 f) → Clean s → copyable (readReg s th f.a).toNat 64 →
    let h := f.imm.toNat % 2 ^ 16
    let d := BitVec.ofNat 512 (ownDescriptor s th (readReg s th f.a).toNat 64)
    handleOk s h = true → colOk s (coreOf th) h d = true → epochFailed s h = false →
    let entered (phase : ColPhase) : State := { afterIssue s th (passed (threadOf s th)) (fun k => { k with
      seq := k.seq + 1
      colQueue := k.colQueue ++ [{ seq := k.seq, thread := th.thread, pc := (threadOf s th).pc, kind := .bulk d (readReg s th f.a).toNat, handle := h, gepoch := groupEpoch s h, d := f.d, fl := f.fl, hi := readReg s th f.a, lo := readReg s th f.b, phase := phase, id := s.ids }]
      colRecords := k.colRecords ++ [⟨(readReg s th f.a).toNat, k.seq, none⟩] }) with
        ids := s.ids + 1, grp := if colReduces d then { s.grp with tagOps := mset s.grp.tagOps (colTag d) d } else s.grp }
    (groupSize s h = 1 → exec (.colStart th f .ok) s = .next (entered .data)) ∧
    (∀ r m, groupSize s h ≠ 1 → rankOf s (coreOf th) h = some r → memberAt s h ((r + 1) % groupSize s h) = some m →
      (getCore s (coreOf th)).sigNotes = [] →
      exec (.colStart th f .ok) s = .next (sendColl (coreOf th) h (colTag d) 1 0 (colSignature s h d) m (entered .signature)))) ∧
  (∀ (th : ThreadRef) (f : Fields) (s : State), MayIssue s th (encodeWord 6 0x02 f) → handleOk s (f.imm.toNat % 2 ^ 16) = true →
    let h := f.imm.toNat % 2 ^ 16
    (epochFailed s h = true → exec (.bar th f) s = .next (afterIssue s th (withResult (passed (threadOf s th)) (aclkOf s th.die) f.d 2 1))) ∧
    (epochFailed s h = false → exec (.bar th f) s = .next (pumpGlide (coreOf th) h { afterIssue s th
      { awaiting (threadOf s th) f.d with mode := .sleeping (.glide (getCore s (coreOf th)).seq) } (fun k => { k with
        seq := k.seq + 1
        colQueue := k.colQueue ++ [{ seq := k.seq, thread := th.thread, pc := (threadOf s th).pc, kind := .bar, handle := h, gepoch := groupEpoch s h, d := f.d, fl := f.fl, hi := readReg s th f.a, lo := readReg s th f.b, phase := .queued, id := s.ids }] })
      with ids := s.ids + 1 }))) ∧
  (∀ (th : ThreadRef) (f : Fields) (s : State), MayIssue s th (encodeWord 6 0x03 f) → handleOk s (f.imm.toNat % 2 ^ 16) = true →
    f.fl.toNat < 6 → (f.fl = 5 → f.d ≠ 31) → epochFailed s (f.imm.toNat % 2 ^ 16) = false →
    let h := f.imm.toNat % 2 ^ 16
    exec (.sred th f) s = .next (pumpGlide (coreOf th) h { afterIssue s th
      { (if f.fl = 5 then markBusy (awaiting (threadOf s th) f.d) (f.d + 1) else awaiting (threadOf s th) f.d)
        with mode := .sleeping (.glide (getCore s (coreOf th)).seq) } (fun k => { k with
        seq := k.seq + 1
        colQueue := k.colQueue ++ [{ seq := k.seq, thread := th.thread, pc := (threadOf s th).pc, kind := .sred, handle := h, gepoch := groupEpoch s h, d := f.d, fl := f.fl, hi := readReg s th f.a, lo := readReg s th f.b, phase := .queued, id := s.ids }] })
      with ids := s.ids + 1 })) ∧
  (∀ (th : ThreadRef) (f : Fields) (s : State), MayIssue s th (encodeWord 6 0x04 f) →
    let off := (readReg s th f.a).toNat
    (∀ v, waitStatus (getCore s (coreOf th)) off = some v → exec (.colWait th f) s = .next (afterIssue s th
      (withResult (passed (threadOf s th)) (aclkOf s th.die) f.d (BitVec.ofNat 64 v) 1)
      (fun k => { k with colRecords := k.colRecords.filter (fun r => decide (r.off ≠ off)) }))) ∧
    (waitStatus (getCore s (coreOf th)) off = none → exec (.colWait th f) s = .next (afterIssue s th
      { awaiting (threadOf s th) f.d with mode := .sleeping (.colWait off f.d) })))

/-- A release that reaches its core wakes the thread of an arrived BAR with the status in sD, its entry gone; an SRED of FL 0 to 4 gets the result in sD. An operation that an abort has ended, or whose outputs have landed, writes its STATUS, leaves the queue, and its record holds the status (R246, R250, R253, R256, R265). Commands shown to complete (`exec` answers the next state): glideReleaseWake, collectiveComplete. -/
def Obligations.CollectivesComplete : Prop :=
  (∀ (c : CoreRef) (i : Nat) (r : Release) (e : ColEntry) (s : State), c.wf = true → (getCore s c).phase ≠ .stopped → s.grp.releases[i]? = some r → r.dst = .core c.die c.core →
    (getCore s c).colQueue.find? (fun e => decide (e.handle = r.handle) && decide (e.phase = .arrived)) = some e →
    (e.kind = .bar ∨ (e.kind = .sred ∧ e.fl ≠ 5 ∧ r.status = 0)) → (∀ q ∈ (getCore s c).colQueue, q.handle = r.handle → q = e) →
    ∀ chk, exec (.glideReleaseWake c i chk) s = .next (putCore { s with grp := { s.grp with releases := dropAt s.grp.releases i } } c
      (putThread { getCore s c with colQueue := (getCore s c).colQueue.filter (fun q => decide (q.seq ≠ e.seq)) } e.thread
        { returnReg (getThread (getCore s c) e.thread) e.d (if e.kind = .bar then BitVec.ofNat 64 r.status.toNat else r.payload.extractLsb' 0 64)
          with mode := .active }))) ∧
  (∀ (c : CoreRef) (i off : Nat) (e : ColEntry) (d : BitVec 512) (st : BitVec 8) (s : State), c.wf = true → (getCore s c).phase ≠ .stopped → (getCore s c).colQueue[i]? = some e →
    e.kind = .bulk d off → Clean s → MergeOk s.mem → s.intg.lost = [] → s.intg.missed = [] → isGateOp s e = false →
    (e.phase = .ended st ∨ (e.phase = .data ∧ st = 0 ∧ colDone s c e d = true ∧ groupSize s e.handle ≠ 1 ∧ colOp d ≠ 7)) →
    ∃ t, exec (.collectiveComplete c i .ok) s = .next t ∧ readNum t.mem (ownSpm s c off) 8 = st.toNat * 2 ^ 56 ∧
      SameBytesBut s t (ownSpm s c off) 8 ∧ (∀ q ∈ (getCore t c).colQueue, q.seq ≠ e.seq) ∧
      (∀ q ∈ (getCore t c).colRecords, q.seq = e.seq → q.status = some st))

/-! ### Kernels -/

/-- A kernel boundary that is reached, with no core-map change pending and no gate to wait at, sends for the next kernel: the one KSEL chose, else NEXT; a kick-turn first takes the new role and adds 1 to the core epoch and to the windows of its mask. The instruction cache is empty and memory stands (R69 to R71, R74). A kernel descriptor that arrives and is valid starts its kernel: each thread of the mask is active at ENTRY with s1 its number, s2 ARG and every other register 0, and no other thread; a core that waits at the decided commit gate goes on to the gate's kernel, or to SKIP_INDEX when the gate is not open (R54, R68, R71, R285). Commands shown to complete (`exec` answers the next state): kernelBoundary, kernelDescriptorArrive, gateRelease. -/
def Obligations.Kernels : Prop :=
  (∀ (c : CoreRef) (s : State), c.wf = true → boundaryReached s c = true → (∀ p ∈ s.map.pending, p.1 ≠ coreKey c) →
      Agrees (getCore s c).epoch → (∀ w, w < 8 → Agrees (vget ⟨0, 0, 0⟩ (getCore s c).windows w)) →
      let k := getCore s c
      let next := (match k.ksel with
        | some i => i.toNat
        | none => kdNext k.desc)
      let role := if kdKick k.desc then kdNewRole k.desc else k.role
      let e := roleEntry s role.toNat
      roleGate e = 0xFFFF → next < roleKcount e →
      ∃ t, exec (.kernelBoundary c) s = .next t ∧ OnlyCore s t c ∧
        (getCore t c).phase = .fetching (s.run.imageBase + roleKlist e + 32 * next) (aclkOf s c.die + 3) ∧
        (getCore t c).kernel = BitVec.ofNat 16 next ∧ (getCore t c).role = role ∧ (getCore t c).icache = [] ∧ (getCore t c).ksel = none ∧
        (getCore t c).epoch.value = (if kdKick k.desc then k.epoch.a + 1 else k.epoch.a) ∧
        (∀ w, w < 8 → (vget ⟨0, 0, 0⟩ (getCore t c).windows w).value =
          if kdKick k.desc ∧ (kdWindows k.desc).testBit w = true then (vget ⟨0, 0, 0⟩ k.windows w).a + 1 else (vget ⟨0, 0, 0⟩ k.windows w).a)) ∧
  ((∀ (c : CoreRef) (addr since : Nat) (s : State), c.wf = true → (getCore s c).phase = .fetching addr since → since + 1 ≤ aclkOf s c.die → Clean s →
      let d : BitVec 256 := BitVec.ofNat 256 (readNum s.mem addr 32)
      kdEntry d % 8 = 0 → kdEntry d < Config.tier1Bytes → (kdKick d = true → (kdNewRole d).toNat < imageRoles s) →
      ∃ t, exec (.kernelDescriptorArrive c .ok) s = .next t ∧ OnlyCore s t c ∧ (getCore t c).phase = .running ∧ (getCore t c).desc = d ∧
        (getCore t c).kernelStart = aclkOf s c.die + 1 ∧ (getCore t c).search = 0 ∧
        ∀ i, i < 64 → (bit (kdMask d) i = true →
            let x := getThread (getCore t c) i
            x.mode = .active ∧ x.pc = BitVec.ofNat 64 (kdEntry d) ∧ reg x 1 = BitVec.ofNat 64 i ∧ reg x 2 = kdArg d ∧
            (∀ r : BitVec 5, r ≠ 1 → r ≠ 2 → reg x r = 0) ∧ x.expEpoch = 0 ∧ x.busy = 0) ∧
          (bit (kdMask d) i = false → (getThread (getCore t c) i).mode = .inactive)) ∧
    (∀ (c : CoreRef) (s : State), c.wf = true → (getCore s c).phase = .gate → s.run.gate ≠ .undecided →
      let e := roleEntry s (getCore s c).role.toNat
      let i := if s.run.gate = .opened then roleGate e else roleSkip e
      roleGate e ≠ 0xFFFF →
      exec (.gateRelease c) s = .next (putCore s c (if roleKcount e ≤ i then { getCore s c with phase := .ended }
        else { getCore s c with kernel := BitVec.ofNat 16 i, phase := .fetching (s.run.imageBase + roleKlist e + 32 * i) (aclkOf s c.die) }))))

/-! ### The memories -/

/-- A miss fill brings the 256 bytes of its line into the die's HRC and answers the load that waits for it with the memory's bytes; a fetch that returns from a line of the HRC puts its part of the line into the instruction cache, and a fetch from outside tier 1 takes TRAP_ADDR; CACHE.DROP takes the lines that overlap its range out of the HRC, at its issue and when it ends (R57, R151 to R153). Commands shown to complete (`exec` answers the next state): hrcMissFill, instructionFetchReturn, cacheDrop, cacheDropComplete. -/
def Obligations.ReadCacheServes : Prop :=
  (∀ (c : CoreRef) (i n : Nat) (r : MemReq) (sg : Bool) (s : State), c.wf = true → fillRequest s c (r.addr / 256 * 256) = some (i, r) →
    (getCore s c).phase ≠ .stopped → r.kind = .load n sg false → r.value = none → r.bad = none → n ∈ [1, 2, 4, 8] → r.addr % n = 0 → Clean s → (getCore s c).boundaryAt ≤ aclkOf s c.die →
    (getThread (getCore s c) r.thread).mode ≠ .inactive →
    ∃ t, exec (.hrcMissFill c (r.addr / 256 * 256) .ok) s = .next t ∧
      (getHrc t c.die).head? = some ⟨r.addr / 256 * 256, readBytes s.mem (r.addr / 256 * 256) 256, aclkOf s c.die⟩ ∧
      t.mem = { s.mem with hrc := t.mem.hrc } ∧ OnlyCore { s with mem := t.mem } t c ∧
      getCore t c = putThread { getCore s c with requests := dropAt (getCore s c).requests i } r.thread
        (returnReg (getThread (getCore s c) r.thread) r.d
          (if sg then (BitVec.ofNat (8 * n) (readNum s.mem r.addr n)).signExtend 64 else BitVec.ofNat 64 (readNum s.mem r.addr n)))) ∧
  (∀ (th : ThreadRef) (s : State), th.wf = true → needsFetch s (coreOf th) th.thread = true →
    let pc := (threadOf s th).pc
    (∀ l, placeOf pc.toNat 8 = .tier1 → hrcHit s (coreOf th) pc.toNat = some l →
      exec (.instructionFetchReturn th .ok) s = .next (putIcache (coreOf th) (pc.toNat / 64 * 64)
        (slice l.data (pc.toNat / 64 * 64 - l.addr) 64) (hrcTouch s th.die l))) ∧
    (placeOf pc.toNat 8 ≠ .tier1 →
      exec (.instructionFetchReturn th .ok) s = .next (trap (coreOf th) th.thread 3 pc.toNat pc.toNat s))) ∧
  (∀ (th : ThreadRef) (f : Fields) (s : State), MayIssue s th (encodeWord 0 0x23 f) → 0 < (readReg s th f.b).toNat →
    let lo := (readReg s th f.a).toNat
    let hi := Nat.min (lo + (readReg s th f.b).toNat) (2 ^ 64 - 1)
    ∃ t due, exec (.cacheDrop th f) s = .next t ∧ OnlyCore { fetched s th with mem := t.mem } t (coreOf th) ∧
      t.mem = { s.mem with hrc := mset s.mem.hrc th.die ((getHrc s th.die).filter (fun l => decide (hi ≤ l.addr) || decide (l.addr + 256 ≤ lo))) } ∧
      (getCore t (coreOf th)).drops = (getCore s (coreOf th)).drops ++ [⟨th.thread, lo, hi, due⟩] ∧ s.clk.tick ≤ due ∧
      threadOf t th = passed (threadOf s th)) ∧
  (∀ (c : CoreRef) (i : Nat) (d : CacheDrop) (s : State), c.wf = true → (getCore s c).drops[i]? = some d → d.due ≤ s.clk.tick → d.lo < d.hi →
    exec (.cacheDropComplete c i) s = .next (putCore { s with mem := { s.mem with hrc := mset s.mem.hrc c.die ((getHrc s c.die).filter (fun l => decide (d.hi ≤ l.addr) || decide (l.addr + 256 ≤ d.lo))) } } c
      { getCore s c with drops := dropAt (getCore s c).drops i }))

/-- The oldest entry of a merge buffer that is due retires into its word: no byte that a read returns changes, the entry is gone, and only memory differs (R187 to R189). A resurfacer read at its pace that finds nothing moves its pass to the next word; the last word of a pass over the tiers counts the pass and starts the next one. A leak tick takes 1 from every bucket above 0 (R195, R197). Commands shown to complete (`exec` answers the next state): spmMergeRetire, tierMergeRetire, resurfacerTierRead, resurfacerSpmRead, bucketLeakTick. -/
def Obligations.MemoryUpkeep : Prop :=
  ((∀ (die phys bank : Nat) (e : MergeEntry) (rest : List MergeEntry) (s : State), die < 2 → phys < Config.physCores → bank < 32 →
      mget [] s.mem.spmMerge (32 * (256 * die + phys) + bank) = e :: rest → e.at_ + 16 ≤ aclkOf s die → Clean s → MergeOk s.mem →
      ∃ m, exec (.spmMergeRetire die phys bank .ok) s = .next { s with mem := m } ∧ (∀ a, readByte m a = readByte s.mem a) ∧
        (∀ q ∈ mget [] m.spmMerge (32 * (256 * die + phys) + bank), q ∈ rest ∧ q.base ≠ e.base)) ∧
    (∀ (ctrl : Nat) (e : MergeEntry) (rest : List MergeEntry) (s : State), controllerOk ctrl = true → mget [] s.mem.tierMerge ctrl = e :: rest →
      e.at_ + 520 ≤ s.clk.tick → Clean s → MergeOk s.mem →
      ∃ m, exec (.tierMergeRetire ctrl .ok) s = .next { s with mem := m } ∧ (∀ a, readByte m a = readByte s.mem a) ∧
        (∀ q ∈ mget [] m.tierMerge ctrl, q ∈ rest ∧ q.base ≠ e.base))) ∧
  ((∀ s : State, s.opt.loaded = true → s.intg.rsEnable = true → paceReached s s.intg.tierStart s.intg.tierPos tierWords s.intg.tierRate = true → Clean s →
      (s.intg.tierPos + 1 < tierWords → exec (.resurfacerTierRead .ok) s = .next { s with intg := { s.intg with tierPos := s.intg.tierPos + 1 } }) ∧
      (s.intg.tierPos + 1 = tierWords → ∃ t, exec (.resurfacerTierRead .ok) s = .next t ∧ t = { s with intg := t.intg } ∧ t.intg.tierPos = 0 ∧
        t.intg.tierPasses = satInc s.intg.tierPasses ∧ t.intg.tierRate = s.intg.tierPass)) ∧
    (∀ s : State, s.opt.loaded = true → s.intg.rsEnable = true → paceReached s s.intg.spmStart s.intg.spmPos spmWords s.intg.spmRate = true → Clean s →
      s.intg.spmPos + 1 < spmWords → exec (.resurfacerSpmRead .ok) s = .next { s with intg := { s.intg with spmPos := s.intg.spmPos + 1 } }) ∧
    (∀ s : State, s.opt.loaded = true → s.intg.period.toNat ≠ 0 →
      let next := (s.intg.leaks / s.intg.period.toNat + 1) * s.intg.period.toNat
      s.opt.loadedAt + 5200000000 * next ≤ s.clk.tick →
      exec .bucketLeakTick s = .next { s with intg := { s.intg with
        leaks := next, levels := s.intg.levels.map (fun e => (e.1, if e.2 = 0 then 0 else e.2 - 1)) } }))

/-! ### Links and frames -/

/-- A peer signal at a link of a port takes it from DOWN or DISABLED to TRAINING with the preset written last; its loss takes a link in TRAINING back to DOWN, which is no failed training; a lock of the receiver is kept and sets the descramblers, and crossed lanes never lock (R432). Only the link changes (R201, R204, R208). Commands shown to complete (`exec` answers the next state): linkPeerSignal, linkPeerSignalLost, linkRxLock. -/
def Obligations.LinkSignals : Prop :=
  (∀ (l : Nat) (s : State), l < 24 → (portOfLink s l).isSome = true → (getLink s l).permanent = false → s.boot.linkLoaded = true →
    ((getLink s l).state = .down ∨ (getLink s l).state = .disabled) →
    ∃ t, exec (.linkPeerSignal l) s = .next t ∧ t = putLink s l (getLink t l) ∧ (getLink t l).state = .training ∧ (getLink t l).peer = true ∧
      (getLink t l).trained = (getLink s l).preset ∧ (getLink t l).trainStart = s.clk.tick ∧ (getLink t l).active = false) ∧
  (∀ (l : Nat) (s : State), l < 24 → (portOfLink s l).isSome = true → (getLink s l).permanent = false → (getLink s l).state = .training →
    exec (.linkPeerSignalLost l) s = .next (putLink s l { getLink s l with peer := false, state := .down })) ∧
  (∀ (l : Nat) (scr : List (BitVec 31)) (s : State), l < 24 → (getLink s l).state = .training → scr.length = 8 →
    (∃ t, exec (.linkRxLock l scr (List.range 8)) s = .next t ∧ t = putLink s l { getLink s l with locked := true, rxScr := (getLink t l).rxScr } ∧
      ∀ i, i < 8 → vget 0 (getLink t l).rxScr i = scr.getD i 0) ∧
    (∀ lanes : List Nat, lanes ≠ List.range 8 → exec (.linkRxLock l scr lanes) s = .next s))

/-- An UP link that must retrain leaves UP for TRAINING: it is inactive and RETRAINS counts. A training that has not reached UP in 20 ms, the pause of its controller aside (R385), starts again while fewer than three in a row have failed; the third fails the link (R209, R210, R213). Commands shown to complete (`exec` answers the next state): linkRetrain, linkTrainingTimeout. -/
def Obligations.LinksRetrainAndFail : Prop :=
  (∀ (l : Nat) (s : State), l < 24 → (portOfLink s l).isSome = true → (getLink s l).permanent = false → (getLink s l).state = .up →
    (getLink s l).peer = true → mustRetrain s (getLink s l) = true → s.boot.linkLoaded = true →
    ((getLink s l).downs.filter (fun t => decide (s.clk.tick < t + 312000000000))).length < 7 →
    ∃ t, exec (.linkRetrain l) s = .next t ∧ (getLink t l).state = .training ∧ (getLink t l).active = false ∧
      vget 0 (getLink t l).stats 4 = satAdd (vget 0 (getLink s l).stats 4) 1) ∧
  (∀ (l : Nat) (s : State), l < 24 → (getLink s l).state = .training → linkPaused s l = false → (getLink s l).trainStart + 104000000 ≤ s.clk.tick →
    ((getLink s l).trainFails + 1 < 3 → ∃ t, exec (.linkTrainingTimeout l) s = .next t ∧ t = putLink s l (getLink t l) ∧
      (getLink t l).state = .training ∧ (getLink t l).trainFails = (getLink s l).trainFails + 1 ∧ (getLink t l).trainStart = s.clk.tick) ∧
    (3 ≤ (getLink s l).trainFails + 1 → ∃ t, exec (.linkTrainingTimeout l) s = .next t ∧ (getLink t l).state = .failed ∧
      (getLink t l).active = false ∧ t.mem = s.mem ∧ t.cores = s.cores))

/-- A frame at a locked link whose first codewords are correctable gives the link the header's FSEQ and LSTATE; LSTATE 2 takes a link in TRAINING to UP, unless its controller pauses to load LINK (R385). A link in a port that has not failed sends one frame of eight lane blocks under its next sequence number. The next window of a step, once its time has come, makes every link's control allowance whole (R205, R207, R208, R232, R236). Commands shown to complete (`exec` answers the next state): frameReceive, frameTransmit, scheduleWindowStart. -/
def Obligations.FramesAndWindows : Prop :=
  (∀ (l : Nat) (lanes : List (List Byte)) (s : State), l < 24 →
    ((getLink s l).state = .training ∧ (getLink s l).locked = true ∨ (getLink s l).state = .up ∧ mustRetrain s (getLink s l) = false) →
    let ins := (List.range 8).map (fun i => decodeLane (scramble (slice (lanes.getD i []) 0 112) (vget 0 (getLink s l).rxScr i)).1)
    let h := headerOf (ins.map (fun i => i.block))
    (∀ i ∈ ins, i.aBad = false) →
    ∃ t, exec (.frameReceive l lanes) s = .next t ∧ (getLink t l).rxSeq = h.extractLsb' 176 16 ∧ (getLink t l).lstateRx = h.extractLsb' 96 3 ∧
      ((getLink s l).state = .training → h.extractLsb' 96 3 = 2 → linkPaused s l = false → (getLink t l).state = .up) ∧
      ((getLink s l).state = .training → h.extractLsb' 96 3 ≠ 2 ∨ linkPaused s l = true → (getLink t l).state = .training)) ∧
  (∀ (l : Nat) (s : State), l < 24 → (getLink s l).state ≠ .disabled → (getLink s l).state ≠ .failed →
    ∃ t lanes, exec (.frameTransmit l) s = .next t ∧ t.out = s.out ++ [.frame l lanes] ∧ lanes.length = 8 ∧
      (getLink t l).txSeq = (getLink s l).txSeq + 1 ∧ (getLink t l).state = (getLink s l).state ∧ t.mem = s.mem ∧ t.cores = s.cores ∧ t.run = s.run) ∧
  (∀ (w : Nat) (s : State), (s.fab.window.isSome = true ∨ s.run.phase = .inStep ∨ s.run.phase = .arrived) → w = (match s.fab.window with
      | none => 0
      | some x => x + 1) →
    s.run.origin.toNat + 4096 * w ≤ (timeNs s 0).toNat →
    ∃ t, exec .scheduleWindowStart s = .next t ∧ t = { s with fab := t.fab } ∧ t.fab.window = some w ∧
      (∀ l, l < 24 → (getLink t l).ctrlSent = 0 ∧ (getLink t l).outCtrl = (getLink s l).outCtrl ∧ (getLink t l).outData = (getLink s l).outData))

/-! ### Routing -/

/-- The next control packet of a router that passes R221 and R227 and is not at the end of a single hop: one for this module waits for the command of its type; one for another module goes to a link toward it with HOPS one higher; one whose CRC fails is discarded and, if a link brought it, counted there (R227 to R229, R242). Commands shown to complete (`exec` answers the next state): controlPacketRoute. -/
def Obligations.ControlPacketsRoute : Prop :=
  ∀ (die i : Nat) (p : RoutedCtrl) (s : State), die < 2 → nextCtrl s die (getRouter s die).ctrlIn = some (i, p) →
    let u := putRouter s die { getRouter s die with ctrlIn := dropAt (getRouter s die).ctrlIn i }
    ((ctrlCrc p.pkt).toNat = field p.pkt.hdr 31 0 → ctrlHeaderOk p.pkt = true → oneHop p = false → s.fab.hasId = true →
      (getRouter s die).pisteBad = [] →
      (route s die (ctrlDest p.pkt) (ctrlEpoch p.pkt) (ctrlHops p.pkt) = .deliver → ctrlDest p.pkt = s.fab.ownId.toNat → ctrlType p.pkt ≠ 7 →
        exec (.controlPacketRoute die .ok) s = .next (putRouter u die { getRouter u die with ctrlBox := (getRouter u die).ctrlBox ++ [p] })) ∧
      (∀ dir port l, route s die (ctrlDest p.pkt) (ctrlEpoch p.pkt) (ctrlHops p.pkt) = .send dir → portOfDir s dir = some port →
        chooseLink s port die = some l →
        exec (.controlPacketRoute die .ok) s = .next (pushCtrl l { p.pkt with hdr := setField p.pkt.hdr 82 76 (ctrlHops p.pkt + 1) } u))) ∧
    ((ctrlCrc p.pkt).toNat ≠ field p.pkt.hdr 31 0 →
      ∀ chk, exec (.controlPacketRoute die chk) s = .next (match p.src with
        | some l => putLink u l (linkCount l 2 1 (getLink u l))
        | none => u))

/-- The next unicast data packet of a router that passes R224 and R227: one for this module waits on the die that holds its address; one for another module goes out toward it with HOPS one higher. The next multicast packet leaves in each direction of R230 and is kept here when a copy ends here (R228 to R230). Commands shown to complete (`exec` answers the next state): dataPacketRoute, multicastForward. -/
def Obligations.DataPacketsRoute : Prop :=
  (∀ (die i : Nat) (p : RoutedData) (s : State), die < 2 → nextRouted s die false = some (i, p) →
    dataHeaderOk p.pkt = true → p.pkt.bad = false → (dataCrc p.pkt).toNat = field p.pkt.hdr 31 0 → (getRouter s die).pisteBad = [] →
    let u := takeRouted die i p s
    (route s die (pktDest p.pkt) (pktTable p.pkt) (pktHops p.pkt) = .deliver → s.fab.hasId = true → pktDest p.pkt = s.fab.ownId.toNat →
      let target := dieOfAddr s (pktAddr p.pkt)
      exec (.dataPacketRoute die .ok) s = .next (putRouter u target { getRouter u target with dataBox := (getRouter u target).dataBox ++ [p.pkt] })) ∧
    (∀ dir, route s die (pktDest p.pkt) (pktTable p.pkt) (pktHops p.pkt) = .send dir →
      exec (.dataPacketRoute die .ok) s = .next (sendOut die dir
        { p with pkt := { p.pkt with hdr := setField p.pkt.hdr 215 209 (pktHops p.pkt + 1) } } u))) ∧
  (∀ (die i : Nat) (p : RoutedData) (s : State), die < 2 → nextRouted s die true = some (i, p) →
    dataHeaderOk p.pkt = true → p.pkt.bad = false → (dataCrc p.pkt).toNat = field p.pkt.hdr 31 0 → s.fab.hasId = true →
    let v := (mcastCopies s p).1.foldl (fun s dir => sendOut die dir p s) (takeRouted die i p s)
    let target := dieOfAddr s (pktAddr p.pkt)
    exec (.multicastForward die) s = .next (if (mcastCopies s p).2 = true
      then putRouter v target { getRouter v target with dataBox := (getRouter v target).dataBox ++ [p.pkt] } else v))

/-! ### Packets at this module -/

/-- The oldest WRITE packet of a die lands in the tier or the SPM window it names and its transfer counts one more; one with a path-parity miss is discarded and not counted (R191); a FINAL_WRITE with COUNT 0 is released at once, one with a higher COUNT waits and is released when the transfer's count reaches it (R76, R222, R223). Commands shown to complete (`exec` answers the next state): writePacket, finalWrite, finalWriteRelease. -/
def Obligations.WritesAndFinalWrites : Prop :=
  (∀ (die : Nat) (p : DataPkt) (chk : Chk) (s u : State), die < 2 → takeData s die 1 (fun _ => true) = some (p, u) →
    ((placeOf (pktAddr p) (pktBytes p).length = .tier1 ∨ placeOf (pktAddr p) (pktBytes p).length = .tier2) →
      (parityMiss chk (pktAddr p) (pktBytes p).length = false →
        exec (.writePacket die chk) s = .next (countXfer (pktXfer p) (landFrom chk (pktAddr p) (pktBytes p) u))) ∧
      (parityMiss chk (pktAddr p) (pktBytes p).length = true →
        exec (.writePacket die chk) s = .next (settleLost (writeMissed (pktAddr p) u)))) ∧
    (∀ d core off, placeOf (pktAddr p) (pktBytes p).length = .spm d core off →
      let a := spmAddr d (physOf u.map d core) off
      (parityMiss chk a (pktBytes p).length = false → Agrees (vget ⟨0, 0, 0⟩ (getCore s ⟨d, core⟩).windows (off / (Config.spmBytes / 8))) →
        pktEpoch p = (vget ⟨0, 0, 0⟩ (getCore s ⟨d, core⟩).windows (off / (Config.spmBytes / 8))).a.toNat →
        exec (.writePacket die chk) s = .next (countXfer (pktXfer p) (landFrom chk a (pktBytes p) u))) ∧
      (parityMiss chk a (pktBytes p).length = true → exec (.writePacket die chk) s = .next (settleLost (writeMissed a u))))) ∧
  (∀ (die : Nat) (p : RoutedCtrl) (chk : Chk) (s u : State), die < 2 → takeCtrl s die 1 = some (p, u) →
    (fwCount p.pkt = 0 → exec (.finalWrite die chk) s = .next (releaseFinal chk p.pkt u)) ∧
    (fwCount p.pkt ≠ 0 → exec (.finalWrite die chk) s = .next { u with fab := { u.fab with held := u.fab.held ++ [p.pkt] } })) ∧
  (∀ (i : Nat) (p : CtrlPkt) (chk : Chk) (s : State), s.fab.held[i]? = some p → fwCount p ≤ xferCount s (ctrlTag p) →
    exec (.finalWriteRelease i chk) s = .next (releaseFinal chk p { s with fab := { s.fab with held := dropAt s.fab.held i } })) ∧
  (∀ (p : CtrlPkt) (chk : Chk) (s : State), fwAddr p / 2 ^ 42 ≠ 3 → (placeOf (fwAddr p) 8 = .tier1 ∨ placeOf (fwAddr p) 8 = .tier2) →
    releaseFinal chk p s = settleDones (ctrlTag p) (landFrom chk (fwAddr p) (toLE 8 (fwVal p)) (setXfer s (ctrlTag p) (xferCount s (ctrlTag p) - fwCount p))))

/-- A REDUCE packet that a combining slot must see opens its slot, or is combined with what the slot holds and releases it when the contributions reach EXPECT; a slot left alone for 1 µs is flushed as a late packet and SLOT_FLUSH counts. A REDUCE packet at the member that finishes its chunk adds its contributions. A CHAIN packet at a middle rank is combined with the rank's elements, the pending carries of its ACS entries resolved (R105), and sent on (R111, R257, R260, R264). Commands shown to complete (`exec` answers the next state): reducePacket, combiningSlotFlush, chainPacket. -/
def Obligations.ReductionPackets : Prop :=
  (∀ (die i : Nat) (p : RoutedData) (e : BitVec 64) (s : State), die < 2 → takeData s die 2 (fun _ => true) = none →
    findAt (wantsSlot (getRouter s die)) (getRouter s die).dataIn = some (i, p) → combineEntry (getRouter s die) (pktTag p.pkt) = some e →
    let u := takeRouted die i p s
    let n := field e 47 40 + redChunk (pktBytes p.pkt) % field e 39 32
    let x : Slot := ⟨BitVec.ofNat 16 (pktTag p.pkt), redChunk (pktBytes p.pkt), redContrib (pktBytes p.pkt), p.pkt.hdr, (pktBytes p.pkt).drop 16, s.clk.tick⟩
    mfind (getRouter u die).slots n = none → redContrib (pktBytes p.pkt) < field e 31 8 →
    ∀ chk, exec (.reducePacket die chk) s = .next (putRouter u die { getRouter u die with slots := mset (getRouter u die).slots n x })) ∧
  (∀ (die : Nat) (p : DataPkt) (c : CoreRef) (e : ColEntry) (d : BitVec 512) (s u : State), die < 2 →
    takeData s die 2 (fun _ => true) = some (p, u) → finisher u (pktTag p) (pktAddr p) = some (c, e, d) →
    (∀ d' core off, placeOf (pktAddr p) 1 = .spm d' core off → Agrees (vget ⟨0, 0, 0⟩ (getCore s ⟨d', core⟩).windows (off / (Config.spmBytes / 8))) ∧
      pktEpoch p = (vget ⟨0, 0, 0⟩ (getCore s ⟨d', core⟩).windows (off / (Config.spmBytes / 8))).a.toNat) → e.phase = .data →
    ∀ chk, exec (.reducePacket die chk) s = .next (addChunk chk c e d (pktBytes p) u)) ∧
  (∀ (die slot : Nat) (x : Slot) (s : State), die < 2 → slot < Config.combiningSlots → mfind (getRouter s die).slots slot = some x →
    x.at_ + 5200 ≤ s.clk.tick →
    exec (.combiningSlotFlush die slot) s = .next (putRouter s die { getRouter s die with
      slots := mdel (getRouter s die).slots slot
      collStats := vset (getRouter s die).collStats 1 (satAdd (vget 0 (getRouter s die).collStats 1) 1)
      dataIn := (getRouter s die).dataIn ++ [{ src := none, pkt := sealData x.hdr (reducePrefix x.contrib x.chunk ++ x.payload), owner := none, passed := true, late := true }] })) ∧
  (∀ (die q a n : Nat) (p : DataPkt) (c : CoreRef) (e : ColEntry) (d : BitVec 512) (s u : State), die < 2 →
    takeData s die 3 (chainReady s) = some (p, u) → chainCore p = some c → Agrees (getCore s c).epoch →
    pktEpoch p = (getCore s c).epoch.a.toNat → chainOp u c (pktTag p) = some (e, d) → e.phase = .data → Clean s →
    rankOf u c e.handle = some q → chainNext (chainPer d) e.finished (chainIn d (groupSize u e.handle) q) = some (a, n, false) →
    let v := if colIsAcs d then resolveEntries c (chainKeys d a n) u else u
    exec (.chainPacket die .ok) s = .next (sendChain c e d q
      ((chainElems (colExact d) n (pktBytes p)).zipIdx.map (fun (x, j) => chainCombine v c d (a + j) x))
      (setEntry c e.seq (fun e => { e with finished := e.finished + n }) v)))

/-- A glide packet at this module with the group's epoch: a packet up is one more input of its operation, a release reaches every input and ends the operation; one of another epoch only counts GROUP_EPOCH_DROP (R246, R247, R267). Commands shown to complete (`exec` answers the next state): glideBarrier, glideSred. -/
def Obligations.GlidePackets : Prop :=
  ∀ (make : Nat → Instr) (typ : Nat), (make, typ) ∈ [(Instr.glideBarrier, 2), (Instr.glideSred, 3)] →
    ∀ (die : Nat) (p : RoutedCtrl) (s u : State), die < 2 → takeCtrl s die typ = some (p, u) →
    let h := ctrlTag p.pkt % 4096
    let code := ctrlTag p.pkt / 4096 % 8
    (ctrlExp p.pkt ≠ (groupEpoch u h).toNat → exec (make die) s = .next (collCount u die 3 1)) ∧
    (ctrlExp p.pkt = (groupEpoch u h).toNat → ctrlTag p.pkt / 32768 = 1 → (mfind u.grp.glideOps h).isSome = true →
      exec (make die) s = .next (releaseGlide h code p.pkt.payload u)) ∧
    (ctrlExp p.pkt = (groupEpoch u h).toNat → ctrlTag p.pkt / 32768 = 0 → code ≠ 5 →
      exec (make die) s = .next (glideArrive h (.child (BitVec.ofNat 16 (ctrlSrc p.pkt)))
        { op := code, mark := decide (ctrlDie p.pkt = 1), value := p.pkt.payload } u))

/-- A signature that comes before its operation has begun is kept; a DONE waits at its operation until the transfer's count suffices; an ABORT with FAILED_MEMBER of the group's epoch ends the group's operations; each only when the packet's core and group epochs are current, and an ABORT of another group epoch only counts GROUP_EPOCH_DROP (R254, R256, R266, R267). Commands shown to complete (`exec` answers the next state): collCtrlSig, collCtrlDone, collCtrlAbort. -/
def Obligations.CollectiveControl : Prop :=
  (∀ (die : Nat) (p : RoutedCtrl) (s u : State), die < 2 → takeColl s die 1 = some (p, u) →
    let c : CoreRef := ⟨ctrlDie p.pkt, ctrlCore p.pkt⟩
    c.wf = true → Agrees (getCore s c).epoch → ctrlExp p.pkt = (getCore s c).epoch.a.toNat →
    collEpoch p.pkt = (groupEpoch s (ctrlTag p.pkt)).toNat → (getCore s c).colQueue = [] →
    exec (.collCtrlSig die) s = .next (putCore u c { getCore u c with sigNotes := (getCore u c).sigNotes ++
      [⟨ctrlTag p.pkt, BitVec.ofNat 16 (collEpoch p.pkt), BitVec.ofNat 16 (collTag p.pkt), BitVec.ofNat 64 (collValue p.pkt)⟩] })) ∧
  (∀ (die : Nat) (p : RoutedCtrl) (e : ColEntry) (d : BitVec 512) (off : Nat) (s u : State), die < 2 → takeColl s die 3 = some (p, u) →
    let c : CoreRef := ⟨ctrlDie p.pkt, ctrlCore p.pkt⟩
    c.wf = true → Agrees (getCore s c).epoch → ctrlExp p.pkt = (getCore s c).epoch.a.toNat →
    collEpoch p.pkt = (groupEpoch s (ctrlTag p.pkt)).toNat →
    colFor s c (ctrlTag p.pkt) (collTag p.pkt) (fun e => decide (e.phase = .arrived ∨ e.phase = .data)) = some e → e.kind = .bulk d off →
    exec (.collCtrlDone die) s = .next (settleDones ((colXfer d + 1) % 2 ^ 16)
      (setEntry c e.seq (fun e => { e with dones := e.dones ++ [collCountOf p.pkt] }) u))) ∧
  (∀ (die : Nat) (p : RoutedCtrl) (s u : State), die < 2 → takeColl s die 2 = some (p, u) → Agrees s.fab.torus.master →
    (collEpoch p.pkt ≠ (groupEpoch s (ctrlTag p.pkt)).toNat → exec (.collCtrlAbort die) s = .next (collCount u die 3 1)) ∧
    (collEpoch p.pkt = (groupEpoch s (ctrlTag p.pkt)).toNat → collReason p.pkt = 2 → ctrlTag p.pkt ≠ stepGroup s →
      ∃ t, exec (.collCtrlAbort die) s = .next t ∧ mfind t.grp.failedEpoch (ctrlTag p.pkt) = some (groupEpoch s (ctrlTag p.pkt)) ∧
        t.mem = s.mem ∧ t.run = s.run))

/-- PISTE_UPDATE from the slice master writes an entry of the current or the next epoch into both dies' tables, sets the table epoch, or sets the module's endpoint ID, by which the time base chooses its source (R366); from any other endpoint it takes no effect and is counted. A PISTE_FAULT at the slice master is answered with the entry at the current epoch (R218, R219). Commands shown to complete (`exec` answers the next state): pisteFault, pisteUpdateWriteEntry, pisteUpdateSetEpoch, pisteUpdateSetId. -/
def Obligations.PisteTable : Prop :=
  (∀ (make : Nat → Instr) (op : Nat), (make, op) ∈ [(Instr.pisteUpdateWriteEntry, 0), (Instr.pisteUpdateSetEpoch, 1), (Instr.pisteUpdateSetId, 2)] →
    ∀ (die : Nat) (p : RoutedCtrl) (s u : State), die < 2 → takePiste s die op = some (p, u) → Agrees s.fab.torus.master → Agrees s.fab.tableEpoch →
    (ctrlSrc p.pkt ≠ s.fab.torus.master.a.toNat → exec (make die) s = .next (routerCount u die 6 1)) ∧
    (ctrlSrc p.pkt = s.fab.torus.master.a.toNat → op = 1 →
      exec (make die) s = .next { u with fab := { u.fab with tableEpoch := ⟨pisteNew p.pkt, pisteNew p.pkt, pisteNew p.pkt⟩ } }) ∧
    (ctrlSrc p.pkt = s.fab.torus.master.a.toNat → op = 2 →
      exec (make die) s = .next (refreshSource { u with fab := { u.fab with ownId := BitVec.ofNat 16 (pisteId p.pkt), hasId := true } })) ∧
    (ctrlSrc p.pkt = s.fab.torus.master.a.toNat → op = 0 →
      (field (pisteWord p.pkt) 23 16 = s.fab.tableEpoch.a.toNat ∨ field (pisteWord p.pkt) 23 16 = (s.fab.tableEpoch.a + 1).toNat) →
      ∃ t, exec (make die) s = .next t ∧ t = { u with fab := { u.fab with routers := t.fab.routers } } ∧
        ∀ d, d < 2 → mfind (getRouter t d).piste (pisteId p.pkt) = some (setField (pisteWord p.pkt) 30 24 0) ∧
          ∀ id, id ≠ pisteId p.pkt → mfind (getRouter t d).piste id = mfind (getRouter s d).piste id)) ∧
  (∀ (die : Nat) (p : RoutedCtrl) (s u : State), die < 2 → takeCtrl s die 0xA = some (p, u) → Agrees s.fab.torus.master → Agrees s.fab.tableEpoch →
    isMaster s = true →
    exec (.pisteFault die) s = .next (sendPiste (ctrlSrc p.pkt) (pisteId p.pkt) 0 0
      (setField (pisteEntry u die (pisteId p.pkt)) 23 16 s.fab.tableEpoch.a.toNat) u))

/-- An UNREACHABLE ends what sends that transfer to that endpoint: a REMOTE descriptor in execution with code DONE to come ends with LINKFAIL and the bytes that no longer wait here and that this module's routers have not discarded; memory stands (R157, R231). Commands shown to complete (`exec` answers the next state): unreachable. -/
def Obligations.UnreachableEnds : Prop :=
  ∀ (die ch : Nat) (c : CoreRef) (p : RoutedCtrl) (e : DmaExec) (s u : State), die < 2 → takeCtrl s die 9 = some (p, u) → s.cores = [(coreKey c, getCore s c)] →
    c.die < 2 → c.core < 256 → ch < 4 → (∀ i, i < 4 → i ≠ ch → (vget {} (getCore s c).dma i).exec = none) → (vget {} (getCore s c).dma ch).exec = some e →
    s.fail.background = 0 → (getCore s c).colQueue = [] →
    dmaRemote e.e.desc = true → e.code = 1 → dmaDestEp e.e.desc = field p.pkt.payload 127 112 → dmaXfer e.e.desc = field p.pkt.payload 111 96 →
    ∃ t, exec (.unreachable die) s = .next t ∧ t.mem = s.mem ∧ waitingData t e.id = [] ∧
      (vget {} (getCore t c).dma ch).exec = some { e with code := 8, doneBytes := e.doneBytes - ((waitingData s e.id).map dataBytes).sum - e.discarded } ∧
      (vget {} (getCore t c).dma ch).queue = (vget {} (getCore s c).dma ch).queue

/-! ### The object server -/

/-- A WRITE accepted from the head of the server's queue on an object of the step program (its start, its stop, the variant, the epoch resync, the snapshot trigger, the image fetch and their parameters) or on one of the module's other objects (resets, clears, saves, restore, reports, field tests and parameters) is answered OK after its effect (R242, R268, R275 to R277, R282, R303, R305, R307, R311, R361, R417, R420, R444, R445). Commands shown to complete (`exec` answers the next state): runStateRun, runStateStop, variantReqWrite, roleEpochResync, triggerAtWrite, dopWrite, imageFetchGo, resetRequestWarm, resetRequestMgmt, resetRequestFabric, blockResetQuad, blockResetLink, blockResetChannel, counterClearCore, counterClearDie, telemetryClear, saveNow, restoreGo, portReport, fieldTestStart. -/
def Obligations.ObjectWrites : Prop :=
  ∀ r ∈ stepWrites ++ moduleWrites, ∀ (s u : State) (q : DopReq) (rest : List DopReq), Accepted r s q rest u →
    exec (r.make .queue) s = .next (respond q okAnswer true (r.effect (ofLE q.payload) u))

/-- Fuse and update objects: a floor, a revocation, COMPONENT, OFFSET, VERIFY and ACTIVATE take effect and are answered OK, an ACTIVATE of MGMT only at the end of its handover; a chunk, a nonce, a maintenance key and a maintenance token take effect when their value is whole (R336, R337, R379, R383 to R387). Commands shown to complete (`exec` answers the next state): activate, updateChunk, nonce, maintKeyWrite, maintTokenWrite, raiseFloor, revoke, updateComponent, dopWrite, updateVerify. -/
def Obligations.FirmwareWrites : Prop :=
  (∀ r ∈ firmwareWrites, ∀ (s u : State) (q : DopReq) (rest : List DopReq), Accepted r s q rest u →
    exec (r.make .queue) s = .next (respond q okAnswer true (r.effect (ofLE q.payload) u))) ∧
  (∀ (s u : State) (q : DopReq) (rest : List DopReq), HeadRequest s q rest → Asks q 2 0x901205 0 → q.payload = [1] →
    privilege (dequeued rest s) q = (2, u) → s.boot.upStatus = 3 →
    (s.boot.upComponent = 2 → exec (.activate .queue) s =
      .next { beginActivate u with boot := { (beginActivate u).boot with activateReq := some q } }) ∧
    (s.boot.upComponent = 1 ∨ s.boot.upComponent = 3 → exec (.activate .queue) s = .next (respond q okAnswer true (beginActivate u)))) ∧
  (∀ (s u : State) (q : DopReq) (rest : List DopReq) (p : Nat) (bs : List Byte), HeadRequest s q rest → hOp q.hdr = 2 → hType q.hdr = 0xA →
    privilege (dequeued rest s) q = (p, u) → 1 ≤ p →
    let x := closeWrite q.path (hKey q.hdr) u
    (Asks q 2 0x901203 0xA → gather u q.path q.hdr (domMax 3 WO 1024) q.payload = .whole bs → bs ≠ [] → upBusy s = false → s.boot.upComponent ≠ 0 →
      s.boot.upOffset.toNat + bs.length ≤ imageLimit (upComp s) →
      let k := 2 * upComp s + inactiveSlot s (upComp s)
      exec (.updateChunk .queue) s = .next (respond q okAnswer true { x with
        flash := { x.flash with fw := mset x.flash.fw k (writeChunk ((mfind s.flash.fw k).getD []) s.boot.upOffset.toNat bs) }
        boot := { x.boot with upOffset := BitVec.ofNat 32 (s.boot.upOffset.toNat + bs.length), upStatus := 1 } })) ∧
    (Asks q 2 0x903000 0xA → gather u q.path q.hdr { dom 0 WO 32 with wpriv := 0 } q.payload = .whole bs → s.boot.reportState ≠ 1 →
      let y := voteCommit x
      exec (.nonce .queue) s = .next (respond q okAnswer true { y with boot := { y.boot with
        report := BitVec.ofNat 5120 (reportBody y (ofLE bs)), reportState := 1 } })) ∧
    (Asks q 2 0x122200 0xA → gather u q.path q.hdr (dom 0 RW 388) q.payload = .whole bs → sha256 bs = (voteMaintHash x).boot.maintHash.value →
      exec (.maintKeyWrite .queue) s = .next (respond q okAnswer true { voteMaintHash x with
        flash := { (voteMaintHash x).flash with maintKey := bs } })) ∧
    (Asks q 2 0x122100 0xA → gather u q.path q.hdr { dom 0 WO 448 with wpriv := 0 } q.payload = .whole bs → (∀ ep, q.path ≠ .remote ep) →
      (tokenOk x bs = true → field (tokenHdr bs) 323 320 = 0 → field (tokenHdr bs) 287 256 = 0 →
        exec (.maintTokenWrite .queue) s = .next (respond q okAnswer true { x with free := x.free + 1, dop := { x.dop with
          challenge := Config.free x.free
          token := some ⟨q.path, field (tokenHdr bs) 351 328, field (tokenHdr bs) 327 324, field (tokenHdr bs) 319 288,
            BitVec.ofNat 256 (field (tokenHdr bs) 255 0), x.clk.tick⟩ } })) ∧
      (tokenOk x bs = false → exec (.maintTokenWrite .queue) s = .next (respond q (refuse 8) true { x with free := x.free + 1, dop := { x.dop with
        challenge := Config.free x.free } }))))

/-- A READ answers with the segment of the object's value that it names: the effective one, the staged one where it asks for it and there is one, or with SNAP the value captured at segment 0, each with STAGEDV as it was; a fifth capture is BUSY (R327, R331, R340). The ward's READ of WARD_COMMIT first sets off the push of its area (the model's choice, log 131). Commands shown to complete (`exec` answers the next state): dopRead, dopReadStaged, dopReadSnap. -/
def Obligations.ObjectsRead : Prop :=
  ∀ (s : State) (q : DopReq) (rest : List DopReq) (r : ObjRow), HeadRequest s q rest → hOp q.hdr = 1 → hIndex q.hdr < 0xF000 →
    objRow s (hKey q.hdr) = some r → r.access ≠ 2 → r.rpriv ≤ pathPriv s q.path →
    let v := voteRead (hKey q.hdr) (dequeued rest s)
    let u := if hKey q.hdr = 0x701005 ∧ q.path = .remote v.fail.wardEp then pushWard v else v
    ¬(hIndex q.hdr = 0x9031 ∧ u.boot.reportState = 1) →
    let seg (v : List Byte) (staged : Bool) : Answer :=
      if hSeg q.hdr ≠ 0 ∧ v.length ≤ segSize q.path * hSeg q.hdr then { code := 5 }
      else { code := 0, typ := r.typ, value := (v.drop (segSize q.path * hSeg q.hdr)).take (segSize q.path)
             more := decide (segSize q.path * (hSeg q.hdr + 1) < v.length), stagedv := staged }
    let asked : List Byte × Bool := match (if hStagedv q.hdr then mfind u.dop.staged (hKey q.hdr) else none) with
      | some v => (v, true)
      | none => (readValue u (hKey q.hdr), false)
    let others := u.dop.captures.filter (fun c => decide (c.path ≠ q.path ∨ c.key ≠ hKey q.hdr))
    let capture (v : List Byte) (staged : Bool) : State :=
      { u with dop := { u.dop with captures := others ++ [⟨q.path, hKey q.hdr, v, staged, u.clk.tick⟩] } }
    (hSnap q.hdr = false → hStagedv q.hdr = false →
      exec (.dopRead .queue) s = .next (respond q (seg (readValue u (hKey q.hdr)) false) true u)) ∧
    (hSnap q.hdr = false → hStagedv q.hdr = true →
      exec (.dopReadStaged .queue) s = .next (respond q (seg asked.1 asked.2) true u)) ∧
    (hSnap q.hdr = true → hSeg q.hdr = 0 →
      (others.length < 4 → asked.1.length ≤ 2 ^ 20 →
        exec (.dopReadSnap .queue) s = .next (respond q (seg asked.1 asked.2) true (capture asked.1 asked.2))) ∧
      (4 ≤ others.length → exec (.dopReadSnap .queue) s = .next (respond q (refuse 7) true u))) ∧
    (∀ c : Capture, hSnap q.hdr = true → hSeg q.hdr ≠ 0 →
      u.dop.captures.find? (fun c => decide (c.path = q.path) && decide (c.key = hKey q.hdr) && decide (u.clk.tick < c.at_ + 52000000000)) = some c →
      exec (.dopReadSnap .queue) s = .next (respond q (seg c.value c.stagedv) true (capture c.value c.stagedv)))

/-- A STAGE keeps a value in range beside the effective one; a COMMIT of a staged group that passes its checks applies the group at once where it is quiet and leaves it PENDING where it is not, and answers with the group's state; DISCARD empties the group; a PENDING group takes effect when it is quiet; a SUBSCRIBE makes, renews or ends a subscription (R333, R340 to R342). Commands shown to complete (`exec` answers the next state): dopStage, dopCommit, dopCommitDiscard, consistencyGroupApply, dopSubscribe. -/
def Obligations.StagesCommitsSubscribes : Prop :=
  (∀ (s u : State) (q : DopReq) (rest : List DopReq) (r : ObjRow) (p : Nat), HeadRequest s q rest → hOp q.hdr = 3 → hIndex q.hdr < 0xF000 →
    objRow s (hKey q.hdr) = some r → r.access = 3 → privilege (dequeued rest s) q = (p, u) → r.wpriv ≤ p → hType q.hdr = r.typ →
    s.dop.pending.contains (groupOf (hKey q.hdr)) = false →
    let staged (v : List Byte) (t : State) : State := { t with dop := { t.dop with staged := mset t.dop.staged (hKey q.hdr) v } }
    (∀ n, typeBytes r.typ = some n → q.payload.length = n → (r.typ = 0 → ofLE q.payload ≤ 1) →
      (stageOk u (hKey q.hdr) q.payload = true → exec (.dopStage .queue) s = .next (respond q okAnswer true (staged q.payload u))) ∧
      (stageOk u (hKey q.hdr) q.payload = false → exec (.dopStage .queue) s = .next (respond q (refuse 5) true u))) ∧
    (typeBytes r.typ = none →
      let x := closeWrite q.path (hKey q.hdr) u
      (∀ v, gather u q.path q.hdr r q.payload = .whole v → stageOk u (hKey q.hdr) v = true →
        exec (.dopStage .queue) s = .next (respond q okAnswer true (staged v x))) ∧
      (∀ w, gather u q.path q.hdr r q.payload = .partial_ w →
        exec (.dopStage .queue) s = .next (respond q okAnswer true { x with dop := { x.dop with segs := x.dop.segs ++ [w] } })))) ∧
  (∀ (s u : State) (q : DopReq) (rest : List DopReq) (p g : Nat), HeadRequest s q rest → hOp q.hdr = 4 → hIndex q.hdr = 0x2100 → hSub q.hdr = g → 1 ≤ g → g ≤ 12 →
    privilege (dequeued rest s) q = (p, u) → groupPriv u g ≤ p →
    let mark (code : BitVec 8) (t : State) : State := { t with dop := { t.dop with lastCheck := mset t.dop.lastCheck g code } }
    let wait := mark 0 { u with dop := { u.dop with pending := u.dop.pending ++ [g] } }
    (hDiscard q.hdr = false → groupState u g = 1 → commitOk u g = true →
      (groupQuiet wait g = true → exec (.dopCommit .queue) s = .next (respond q (groupAnswer 0 g (applyGroup g wait)) true (applyGroup g wait))) ∧
      (groupQuiet wait g = false → exec (.dopCommit .queue) s = .next (respond q { code := 0, typ := 1, value := [2] } true wait))) ∧
    (hDiscard q.hdr = false → groupState u g = 1 → commitOk u g = false →
      exec (.dopCommit .queue) s = .next (respond q { code := 5, typ := 1, value := [1] } true (mark 5 u))) ∧
    (hDiscard q.hdr = true → groupState u g ≠ 2 → exec (.dopCommitDiscard .queue) s = .next (respond q { code := 0, typ := 1, value := [0] } true
      { u with dop := { u.dop with staged := u.dop.staged.filter (fun e => !(groupKeys g).contains e.1) } }))) ∧
  (∀ (g : Nat) (s : State), s.dop.pending.contains g = true → groupQuiet s g = true → exec (.consistencyGroupApply g) s = .next (applyGroup g s)) ∧
  (∀ (s : State) (q : DopReq) (rest : List DopReq) (r : ObjRow) (addr : BitVec 128) (port : Nat), HeadRequest s q rest → hOp q.hdr = 6 → hIndex q.hdr < 0xF000 →
    q.path = .net addr port → objRow s (hKey q.hdr) = some r → r.access ≠ 2 → r.rpriv ≤ pathPriv s q.path → q.payload.length = 8 →
    let lease := ofLE q.payload / 2 ^ 48
    let gap := ofLE q.payload / 2 ^ 32 % 2 ^ 16
    lease ≤ 3600 → gap ≤ 60000 → ofLE q.payload % 2 ^ 32 = 0 →
    let u := dequeued rest s
    let mine (x : Subscription) : Bool := decide (x.addr = addr ∧ x.port = port ∧ x.key = hKey q.hdr)
    let done (subs : List Subscription) : Host.Outcome State Fault Refusal := .next (respond q okAnswer true { u with dop := { u.dop with subs := subs } })
    (lease = 0 → exec (.dopSubscribe .queue) s = done (s.dop.subs.filter (fun x => !mine x))) ∧
    (lease ≠ 0 → s.dop.subs.any mine = true → exec (.dopSubscribe .queue) s =
      done (s.dop.subs.map (fun x => if mine x then { x with expires := s.clk.tick + 5200000000 * lease, minMs := gap } else x))) ∧
    (lease ≠ 0 → s.dop.subs.any mine = false → s.dop.subs.length < 32 → exec (.dopSubscribe .queue) s =
      done (s.dop.subs ++ [{ addr := addr, port := port, key := hKey q.hdr, expires := s.clk.tick + 5200000000 * lease, minMs := gap, queue := [], outstanding := none
                             sent := 0, firstSend := 0, last := startValues u (hKey q.hdr) }])) ∧
    (lease ≠ 0 → s.dop.subs.any mine = false → 32 ≤ s.dop.subs.length → exec (.dopSubscribe .queue) s = .next (respond q (refuse 7) true u)))

/-- How requests reach the server, for every command that is one: the head of the queue is served; a datagram that is malformed or has a wrong checksum counts as bad; a good one is served at once when nothing waits, joins the queue otherwise, is answered from the kept response when it repeats a request, and is answered BUSY when 32 requests wait. The window's GO submits its frame; an OBJ_REQ joins the queue, and the slice master's probe is answered at once; an OBJ_RSP answers a probe or ends its request, and what a takeover or a restore waits for goes on (R305, R308); a request without a response for 2 s is sent again (R306, R326, R328, R330, R343, R345, R346). Commands shown to complete (`exec` answers the next state): winCtrlGo, objReq, objRsp, remoteObjectRetry, dopRead, dopReadSnap, dopReadStaged, dopWrite, dopStage, dopCommit, dopCommitDiscard, dopSubscribe, runStateRun, runStateStop, variantReqWrite, roleEpochResync, triggerAtWrite, restoreGo, portReport, fieldTestStart, maintTokenWrite, maintKeyWrite, imageFetchGo, resetRequestWarm, resetRequestMgmt, resetRequestFabric, blockResetQuad, blockResetLink, blockResetChannel, counterClearCore, counterClearDie, telemetryClear, saveNow, nonce, raiseFloor, revoke, updateComponent, updateChunk, updateVerify, activate. -/
def Obligations.RequestsReachServer : Prop :=
  (∀ (make : ReqRef → Instr) (row : Row), (make, row) ∈ objectRows →
    (∀ (s : State) (q : DopReq) (rest : List DopReq), s.dop.queue = q :: rest → rowOf q = row → handingOver s = false → s.boot.silent = false →
      exec (make .queue) s = .next (serve q .ok (dequeued rest s))) ∧
    (∀ (f : NetFrame) (s : State), hears s f.addr = true → segmentOpen s = true →
      (f.sumOk = false ∨ parseDop f.bytes = none → exec (make (.net f)) s = .next (dopCount (dopCount s 0) 2)) ∧
      (∀ h p, f.sumOk = true → parseDop f.bytes = some (h, p) → isAck h = false → f.toAll = false ∨ servedToAll h = true →
        let q : DopReq := { path := .net f.addr f.port, hdr := h, payload := p }
        let t := dopCount s 0
        rowOf q = row →
        (∀ k, keptFor s q.path (hReqId h) = some k → exec (make (.net f)) s = .next (sendResponse q.path (hReqId h) k.resp
          (if responseCode k.resp = 7 then dopCount (dopCount t 3) 4 else dopCount t 3))) ∧
        (keptFor s q.path (hReqId h) = none → inQueue s q.path (hReqId h) = false →
          (32 ≤ taken s → exec (make (.net f)) s = .next (respond q { code := 7 } false t)) ∧
          (taken s < 32 → s.dop.queue = [] → handingOver s = false → exec (make (.net f)) s = .next (serve q .ok t)) ∧
          (taken s < 32 → s.dop.queue ≠ [] ∨ handingOver s = true →
            exec (make (.net f)) s = .next { t with dop := { t.dop with queue := t.dop.queue ++ [q] } }))))) ∧
  (∀ (v : BitVec 64) (s : State), hostAccess s = true → bit v 2 = false →
    (bit v 0 = false → exec (.winCtrlGo v) s = .next s) ∧
    (bit v 0 = true → s.dop.winBusy = true → exec (.winCtrlGo v) s = .next { s with dop := { s.dop with overrun := true } }) ∧
    (∀ h p, bit v 0 = true → s.dop.winBusy = false → parseDop s.dop.winReq = some (h, p) → isAck h = false → s.boot.silent = false → taken s < 32 →
      exec (.winCtrlGo v) s = .next { s with dop := { s.dop with
        winBusy := true, queue := s.dop.queue ++ [{ path := .window, hdr := h, payload := p }] } })) ∧
  (∀ (die : Nat) (p : RoutedCtrl) (s u : State), die < 2 → takeCtrl s die 5 = some (p, u) → s.boot.silent = false → Agrees s.fab.torus.master →
    let q := remoteReq p.pkt
    (isProbe u p.pkt = true → exec (.objReq die) s = .next (respond q (process q .ok u).1 false (process q .ok u).2)) ∧
    (isProbe u p.pkt = false → keptFor u q.path (hReqId q.hdr) = none → inQueue u q.path (hReqId q.hdr) = false → taken u < 32 →
      exec (.objReq die) s = .next { u with dop := { u.dop with queue := u.dop.queue ++ [q] } })) ∧
  (∀ (die : Nat) (p : RoutedCtrl) (s u : State), die < 2 → takeCtrl s die 6 = some (p, u) →
    let src := ctrlSrc p.pkt
    let v := p.pkt.payload
    let mine (x : RemoteReq) : Bool := decide (x.tag.toNat = ctrlTag p.pkt ∧ x.dest.toNat = src)
    let gone : State := { u with dop := { u.dop with remote := u.dop.remote.filter (fun x => !mine x) } }
    ((∃ x ∈ u.fail.probes, x.1.toNat = src ∧ x.2.1.toNat = ctrlTag p.pkt) → exec (.objRsp die) s = .next (probeAnswered src u)) ∧
    ((∀ x ∈ u.fail.probes, ¬(x.1.toNat = src ∧ x.2.1.toNat = ctrlTag p.pkt)) →
      (u.dop.remote.any mine = false → exec (.objRsp die) s = .next u) ∧
      (u.dop.remote.any mine = true → exec (.objRsp die) s = .next (afterAnswer
        (if field v 127 124 = 1 ∧ field v 119 112 = 0 then takeoverAnswer src (field v 111 96) (field v 95 88) (field v 63 0) gone else gone))))) ∧
  (∀ (tag : BitVec 16) (r : RemoteReq) (s : State), s.dop.remote.find? (fun r => decide (r.tag = tag)) = some r → r.sentAt + 10400000000 ≤ s.clk.tick →
    s.boot.serving = true →
    exec (.remoteObjectRetry tag) s = .next (sendObjReq r.dest.toNat tag.toNat r.payload { s with dop := { s.dop with
      remote := s.dop.remote.map (fun x => if x.tag = tag then { x with sentAt := s.clk.tick } else x) } }))

/-- An acknowledgement frees its subscription for the next notification; an outstanding notification is sent again after 500 ms, four times at most, and then lost; a poll notifies what has changed. Leases, captures, open writes, kept responses and the armed token end after their time. Neighbour solicitations and echo requests are answered; duplicate address detection and the beacon set their objects (R317, R318, R320, R330, R331, R333 to R336). Commands shown to complete (`exec` answers the next state): notifyAck, notifyResend, notifyValuePoll, subscriptionExpire, captureExpire, segmentWriteTimeout, keptResponseExpire, maintTokenExpire, neighbourSolicitation, echoRequest, dadComplete, plcaBeaconReceived, plcaBeaconTimeout. -/
def Obligations.ServerTimers : Prop :=
  (∀ (f : NetFrame) (h : BitVec 128) (p : List Byte) (i : Nat) (u : Subscription) (s : State), hears s f.addr = true → segmentOpen s = true → f.sumOk = true →
    parseDop f.bytes = some (h, p) → isAck h = true → findAt (ackFits f.addr f.port h) s.dop.subs = some (i, u) →
    exec (.notifyAck f) s = .next (pumpAt i { dopCount s 0 with dop := { (dopCount s 0).dop with subs := putAt s.dop.subs i { u with outstanding := none } } })) ∧
  (∀ (i : Nat) (u : Subscription) (id : BitVec 32) (frame : List Byte) (at_ sends : Nat) (s : State), s.dop.subs[i]? = some u →
    u.outstanding = some (id, frame, at_, sends) → segmentOpen s = true → s.boot.silent = false → at_ + 2600000000 ≤ s.clk.tick →
    (sends < 5 → ∃ t, exec (.notifyResend i) s = .next t ∧ t.out = s.out ++ [.datagram u.addr u.port frame] ∧
      t.dop.subs = putAt s.dop.subs i { u with outstanding := some (id, frame, s.clk.tick, sends + 1) } ∧
      t = { s with out := t.out, dop := { s.dop with subs := t.dop.subs, counters := t.dop.counters } }) ∧
    (5 ≤ sends → exec (.notifyResend i) s = .next (pumpAt i (dopCount
      { s with dop := { s.dop with subs := putAt s.dop.subs i { u with outstanding := none } } } 7)))) ∧
  (∀ (i : Nat) (u : Subscription) (r : ObjRow) (s : State), s.dop.subs[i]? = some u → s.boot.serving = true → s.boot.silent = false →
    u.key / 256 ∉ [0x4014, 0x7010, 0x8040] → coveredRows s u.key = [r] →
    let k := 256 * (u.key / 256) + r.sub
    (mfind u.last k = some (readValue s k) → exec (.notifyValuePoll i) s = .next (pumpAt i s)) ∧
    (mfind u.last k ≠ some (readValue s k) → exec (.notifyValuePoll i) s = .next (pumpAt i (queueNotice i ⟨k, r.typ, readValue s k⟩ s)))) ∧
  (∀ (i : Nat) (u : Subscription) (s : State), s.dop.subs[i]? = some u → u.expires ≤ s.clk.tick →
    exec (.subscriptionExpire i) s = .next { s with dop := { s.dop with subs := dropAt s.dop.subs i } }) ∧
  (∀ (i : Nat) (x : Capture) (s : State), s.dop.captures[i]? = some x → x.at_ + 52000000000 ≤ s.clk.tick →
    exec (.captureExpire i) s = .next { s with dop := { s.dop with captures := dropAt s.dop.captures i } }) ∧
  (∀ (i : Nat) (x : SegWrite) (s : State), s.dop.segs[i]? = some x → x.at_ + 52000000000 ≤ s.clk.tick →
    exec (.segmentWriteTimeout i) s = .next { s with dop := { s.dop with segs := dropAt s.dop.segs i } }) ∧
  (∀ (i : Nat) (x : Kept) (s : State), s.dop.kept[i]? = some x → x.at_ + 52000000000 ≤ s.clk.tick →
    exec (.keptResponseExpire i) s = .next { s with dop := { s.dop with kept := dropAt s.dop.kept i } }) ∧
  (∀ (x : Token) (s : State), s.dop.token = some x → x.at_ + 52000000000 ≤ s.clk.tick →
    exec .maintTokenExpire s = .next { s with dop := { s.dop with token := none } }) ∧
  (∀ (src : BitVec 128) (s : State), hears s src = true → s.dop.dad ≠ 0 →
    exec (.neighbourSolicitation src ownAddr) s = .next { s with out := s.out ++ [.icmp src 136 (toBE 16 ownAddr.toNat)] }) ∧
  (∀ (src : BitVec 128) (bs : List Byte) (s : State), hears s src = true → segmentOpen s = true →
    exec (.echoRequest src bs) s = .next { s with out := s.out ++ [.icmp src 129 bs] }) ∧
  (∀ (dup : Bool) (s : State), s.opt.loaded = true → s.dop.dad = 0 →
    exec (.dadComplete dup) s = .next { s with dop := { s.dop with dad := if dup then 2 else 1 } }) ∧
  (∀ s : State, s.opt.loaded = true → exec .plcaBeaconReceived s = .next { s with dop := { s.dop with plcaStatus := true } }) ∧
  (∀ s : State, exec .plcaBeaconTimeout s = .next { s with dop := { s.dop with plcaStatus := false } })

/-! ### The step program -/

/-- The measurement of a start ends without an uncorrectable word: the tables and maps of the image take effect and the opening lift begins. Each of the two releases of the opening lift moves it on: a start with equal signatures begins the first step in RUNNING, the links that are UP joining their active sets (R213), one with different signatures stops with MISMATCH, one that is late stops with LIFT_TIMEOUT (R277, R280). Commands shown to complete (`exec` answers the next state): imageMeasureComplete, openingLiftRelease, openingLiftTimeout. -/
def Obligations.OpeningLift : Prop :=
  (∀ s : State, s.run.state = 1 → s.run.phase = .measuring → Clean s → exec (.imageMeasureComplete .ok) s = .next (startEffect s)) ∧
  (∀ (r : Release) (s u : State), takeRelease s = some (r, u) →
    (s.run.phase = .openMax → exec .openingLiftRelease s = .next (glideArrive (stepGroup u) .sequencer
      { op := 2, value := startSignature u }
      { u with run := { u.run with
        phase := .openMin, openMaxResult := r.payload.setWidth 64
        openBad := if r.status = 1 then some 8 else if r.status = 0 then none else some 0xC } })) ∧
    (s.run.phase = .openMin → r.status = 0 → s.run.openBad = none → r.payload.setWidth 64 = s.run.openMaxResult →
      exec .openingLiftRelease s = .next (beginStep (field r.payload 127 64) (joinLinks (setRunState 2 u)))) ∧
    (s.run.phase = .openMin → r.status = 0 → s.run.openBad = none → r.payload.setWidth 64 ≠ s.run.openMaxResult →
      exec .openingLiftRelease s = .next (stopRun 8 u)) ∧
    (s.run.phase = .openMin → r.status = 1 → exec .openingLiftRelease s = .next (stopRun 8 u))) ∧
  (∀ s : State, s.run.phase = .openMax ∨ s.run.phase = .openMin → s.run.phaseAt + 5200000 * imgTimeout s.run.hdr ≤ s.clk.tick →
    exec .openingLiftTimeout s = .next (stopRun 9 s))

/-- A member arrives at its lift when every core has ended its part, or when its step is faulted and has stopped. A release without faults counts the lift, and either commits (object 0x2002 + 1) or skips (0x2003 + 1) and begins the next step at the release's ORIGIN, unless a member wants to stop; a faulted step that may be replayed begins again with ATTEMPT + 1 and epochs 32,768 higher; one that may not fails; effects 4 to 6 come with every release, and a commit counter whose copies all differ ends the run without a commit (R186). A snapshot check that nobody defers begins the copy with the header of the local area, STATE 1 (R298, R300). A member without arrival or release in time faults its step or fails (R280 to R283, R291). Commands shown to complete (`exec` answers the next state): liftArrival, liftRelease, liftTimeoutBeforeArrival, liftTimeoutAfterArrival, snapshotCheckRelease, resumeLiftRelease. -/
def Obligations.Lifts : Prop :=
  (∀ s : State, s.run.phase = .inStep → allEnded s = true ∨ (s.run.faulted = true ∧ s.run.carried = false) →
    let u := { s with run := { s.run with phase := .arrived, phaseAt := s.clk.tick } }
    exec .liftArrival s = .next (glideArrive (stepGroup u) .sequencer { op := 4, value := liftPayload s } u)) ∧
  (∀ (r : Release) (s u : State), takeRelease s = some (r, u) → s.run.phase = .arrived →
    let v : BitVec 64 := r.payload.setWidth 64
    let origin := field r.payload 127 64
    let w := { u with run := { u.run with lifts := satInc u.run.lifts, last := v.setWidth 8 } }
    let x := { w with run := { w.run with attempt := 0, firstStep := false } }
    ((s.run.state = 2 ∨ s.run.state = 3) → voteOf s.run.commit = .lost →
      exec .liftRelease s = .next (settleLost (fatalIntegrity .commitCounter w)) ∧ (fatalIntegrity .commitCounter w).run.state = 4
        ∧ (fatalIntegrity .commitCounter w).run.commit = s.run.commit ∧ (fatalIntegrity .commitCounter w).run.skipped = s.run.skipped) ∧
    (s.run.state ≠ 4 → Agrees s.run.commit →
      let n := satInc s.run.commit.a
      let y := liftMiddle v { x with run := { x.run with commit := ⟨n, n, n⟩ } }
      let z := liftMiddle v { x with run := { x.run with skipped := satInc s.run.skipped } }
      let d := { w with fab := { w.fab with xfer := [], held := [] } }
      (r.status = 0 → bit v 1 = false → bit v 2 = false →
        (snapSelected y = false → exec .liftRelease s = .next (settleLost (if bit v 0 then stopRun 0x10 y else beginStep origin y))) ∧
        (snapSelected y = true → exec .liftRelease s = .next (settleLost (snapCheck v y)))) ∧
      (r.status = 0 → bit v 1 = false → bit v 2 = true → bit v 3 = false →
        exec .liftRelease s = .next (settleLost (if bit v 0 then stopRun 0x10 z else beginStep origin z))) ∧
      (r.status ≠ 0 ∨ bit v 1 = true ∨ (bit v 3 = true ∧ bit v 2 = true) →
        (r.status ≠ 2 → canReplay d v = true → exec .liftRelease s = .next (settleLost (beginStep origin (liftMiddle v (rewindStep d))))) ∧
        (r.status = 2 ∨ canReplay d v = false → exec .liftRelease s = .next (settleLost (liftMiddle v (failRun 0x12 d))))))) ∧
  (∀ s : State, s.run.phase = .inStep → s.run.phaseAt + 5200000 * imgTimeout s.run.hdr ≤ s.clk.tick →
    exec .liftTimeoutBeforeArrival s = .next (arriveLift (stepFault { cls := 6, action := 2 } s))) ∧
  (∀ s : State, s.run.phase = .arrived ∨ s.run.phase = .resume → s.run.phaseAt + 5200000 * imgTimeout s.run.hdr ≤ s.clk.tick →
    exec .liftTimeoutAfterArrival s = .next (settleLost (failRun 0x11 s))) ∧
  (∀ (r : Release) (s u : State), takeRelease s = some (r, u) → s.run.phase = .snapCheck →
    (r.status ≠ 2 → bit r.payload 0 = false → exec .snapshotCheckRelease s = .next (land (mapLocal u.fail.mapHdr) (slotHeader u 1) { u with
      run := { u.run with phase := .snapCopy, phaseAt := u.clk.tick }, fail := { u.fail with pendingSnap := false } })) ∧
    (r.status ≠ 2 → bit r.payload 0 = true → exec .snapshotCheckRelease s = .next (arriveResume false { u with fail := { u.fail with
      deferred := satInc u.fail.deferred, pendingSnap := true, copied := false } })) ∧
    (r.status = 2 → exec .snapshotCheckRelease s = .next (settleLost (failRun 0x12 u)))) ∧
  (∀ (r : Release) (s u : State), takeRelease s = some (r, u) → s.run.phase = .resume →
    (r.status ≠ 2 → s.fail.copied = false →
      let y := setPhase (if u.fail.background = 2 then 2 else if u.fail.background = 3 then 3 else 0) u
      exec .resumeLiftRelease s = .next (if bit u.run.liftResult 0 then stopRun 0x10 y else beginStep (field r.payload 127 64) y)) ∧
    (r.status = 2 → exec .resumeLiftRelease s = .next (settleLost (failRun 0x12 u))) ∧
    (r.status = 0 → s.fail.copied = true → bit r.payload 0 = false → u.fail.awaiting = [] → Clean s → s.intg.lost = [] → s.intg.missed = [] →
      ∃ y, exec .resumeLiftRelease s = .next (if bit u.run.liftResult 0 then stopRun 0x10 y else beginStep (field r.payload 127 64) y) ∧
        y.fail.groupCommit = u.run.commit.value ∧ y.run = u.run))

/-! ### Snapshots, failures, tests -/

/-- The copy of a snapshot writes every region behind the area's header and arrives at the resume lift; the buddy copy ends with its flagged final write and the host drain begins; the drain writes the area into the buffer that does not hold the newest complete drain and reports its COMMIT; a copy that meets a word it cannot trust restarts. A restore whose reads have all returned, or whose local area serves it, puts the bytes in place and takes COMMIT and SKIPPED from the header. A port that has been down for 100 ms is reported once; a probe that is not answered for 500 ms means a lost member; a field test that ends returns its core to SPARE, unless its history has made it permanent, or retires it (R298 to R307, R311, R312). Commands shown to complete (`exec` answers the next state): snapshotCopyDone, buddyCopyComplete, hostDrainComplete, restoreComplete, portDownReportTimer, livenessProbeTimeout, fieldTestEnd. -/
def Obligations.CopiesRestoresReports : Prop :=
  (∀ s : State, s.run.phase = .snapCopy → Clean s →
    let a := mapLocal s.fail.mapHdr
    let x := (placedRegions s.fail.regions 4096).foldl (fun t r => land (a + r.2.2) (readBytes t.mem r.1 r.2.1) t) s
    exec (.snapshotCopyDone .ok) s = .next (arriveResume false { x with fail := { x.fail with copied := true } })) ∧
  (∀ (chk : Chk) (s t : State), s.fail.background = 2 → s.fail.copyRestart = false → waitingData s s.fail.copyId = [] → copyRead chk s = (t, false) →
    exec (.buddyCopyComplete chk) s = .next t ∧ t.fail.copyRestart = true) ∧
  (∀ s : State, s.fail.background = 2 → s.fail.copyRestart = false → waitingData s s.fail.copyId = [] → Clean s →
    ∃ t, exec (.buddyCopyComplete .ok) s = .next t ∧ t.fail.background = 3 ∧ t.fail.phase = 3 ∧ t.mem = s.mem ∧ t.run = s.run ∧
      (getRouter t 0).ctrlIn.length = (getRouter s 0).ctrlIn.length + 1) ∧
  (∀ s : State, s.fail.background = 3 → s.fail.copyRestart = false → hostUsable s = true → Clean s →
    let commit := slotCommit (slotAt s.mem (mapLocal s.fail.mapHdr))
    ∃ t, exec (.hostDrainComplete .ok) s = .next t ∧ t.fail.background = 0 ∧ t.fail.phase = 0 ∧ t.fail.drainCommit = commit ∧
      t.fail.drainBufs = (if drainSlot s = 0 then (commit, s.fail.drainBufs.2) else (s.fail.drainBufs.1, commit)) ∧ t.mem = s.mem ∧ t.run = s.run) ∧
  (∀ s : State, s.fail.restoreResult = 1 → s.fail.restoreSource = 2 → s.fail.restoreStage = 2 →
    (∀ x ∈ s.pcie.reads, x.reader = .restore → x.data.isSome = true) →
    let u := { s with pcie := { s.pcie with reads := s.pcie.reads.filter (fun x => decide (x.reader ≠ .restore)) } }
    let w := (s.pcie.reads.filter (fun x => decide (x.reader = .restore))).foldl (fun t x => land x.dst (x.data.getD []) t) u
    exec (.restoreComplete .ok) s = .next (restoreDone w)) ∧
  (∀ s : State, s.fail.restoreResult = 1 → s.fail.restoreSource ≠ 2 → Clean s →
    let a := mapLocal s.fail.restoreHdr
    let u := { s with fail := { s.fail with restoreSlot := slotAt s.mem a } }
    (slotServes s (slotAt s.mem a) = true → exec (.restoreComplete .ok) s = .next (restoreDone
      ((placedRegions s.fail.restoreRegions 4096).foldl (fun t x => land x.1 (readBytes t.mem (a + x.2.2) x.2.1) t) u))) ∧
    (slotServes s (slotAt s.mem a) = false → exec (.restoreComplete .ok) s = .next s)) ∧
  (∀ w : State, let t := restoreDone w
    t.mem = w.mem ∧ t.fail.restoreResult = 2 ∧ t.fail.restoreStage = 0 ∧
      t.run.skipped = slotSkipped w.fail.restoreSlot ∧ t.run.commit.a = slotCommit w.fail.restoreSlot ∧ Agrees t.run.commit) ∧
  (∀ (port t : Nat) (s : State), portOk port = true → s.fab.hasId = true → vget none s.fab.portDownAt port = some t → vget false s.fab.portReported port = false →
    t + 520000000 ≤ s.clk.tick →
    exec (.portDownReportTimer port) s = .next (reportPort port true ((s.clk.tick - t) / 5200000)
      { s with fab := { s.fab with portReported := vset s.fab.portReported port true } })) ∧
  (∀ (ep tag : BitVec 16) (at_ : Nat) (s : State), s.fail.probes.find? (fun p => decide (p.1 = ep)) = some (ep, tag, at_) → at_ + 2600000000 ≤ s.clk.tick →
    exec (.livenessProbeTimeout ep) s = .next (declareLost ep.toNat { s with fail := { s.fail with
      probes := s.fail.probes.filter (fun q => decide (q.1 ≠ ep)), reports := s.fail.reports.filter (fun q => decide (q.2 ≠ ep)) } })) ∧
  (∀ (die p since : Nat) (pass : Bool) (s : State), die < 2 → mfind s.fail.tests die = some (p, since) → p < 160 →
    ∃ t, exec (.fieldTestEnd die pass) s = .next t ∧ physState t die p = (if pass = true ∧ s.flash.permanent.contains (.core die p) = false then .spare else .retired) ∧ mfind t.fail.tests die = none ∧
      t.fail.testState = (if pass then 3 else 4) ∧ t.cores = s.cores ∧ t.mem = s.mem ∧ (logicalOf s.map die p = none → t.run = s.run))

/-! ### Time -/

/-- A TIME_SYNC report gives a link its peer's average and its delay, and an UP link sends its own average once a millisecond. Sync, Follow_Up, Announce, Delay_Req and Delay_Resp of the selected master set the slave's offset and path delay as R368 says, messages of others are discarded; an offset above 1 ms in STOPPED is stepped away, any other slews within 50 ppm of NOMINAL and 0.1 ppm for each second of at most two (R370; the bound on the time is the model's choice, log 130); four Announce intervals without one, or 10 ms without a mark of the parent, put a disciplined time base into holdover (R366 to R374). Commands shown to complete (`exec` answers the next state): timeSync, timeSyncSend, fabricMarkTimeout, ptpSync, ptpFollowUp, ptpDelayResp, ptpAnnounce, ptpDelayReqSend, ptpAnnounceTimeout. -/
def Obligations.TimeBaseDiscipline : Prop :=
  (∀ (die l : Nat) (p : RoutedCtrl) (s u : State), die < 2 → takeCtrl s die 8 = some (p, u) → p.src = some l → l < 24 → p.pkt.payload.toNat / 2 ^ 120 = 1 →
    let peer : Int := (p.pkt.payload.setWidth 96 : BitVec 96).toInt
    let x := getLink u l
    exec (.timeSync die) s = .next (putLink u l { x with dPeer := some peer, delayPs := match x.dOwn with
      | some own => BitVec.ofInt 32 (divEven ((own + peer - 2 * Config.linkLatency l) * 1000) (2 ^ 33))
      | none => x.delayPs })) ∧
  (∀ (l : Nat) (s : State), l < 24 → (getLink s l).state = .up → (getLink s l).reportAt + 5200000 ≤ s.clk.tick → 0 < (getLink s l).markCount →
    let x := getLink s l
    let d := divEven x.markSum x.markCount
    ∃ t p, exec (.timeSyncSend l) s = .next t ∧ t = { s with fab := { s.fab with links := t.fab.links, portStats := t.fab.portStats } } ∧
      getLink t l = { x with
        outCtrl := x.outCtrl ++ [p], dOwn := some d, markSum := 0, markCount := 0, reports := x.reports + 1, reportAt := s.clk.tick } ∧
      (∀ k, k ≠ l → getLink t k = getLink s k) ∧ ctrlType p = 8 ∧ ctrlSrc p = s.fab.ownId.toNat ∧
      p.payload = BitVec.ofNat 128 (2 ^ 120 + l * 2 ^ 112 + x.reports.toNat * 2 ^ 96 + (BitVec.ofInt 96 d).toNat)) ∧
  (∀ s : State, let u := refreshSource s
    u.time.source = 2 → u.time.state = 2 → ∀ l, parentLink u = some l → ((getLink u l).markAt.getD 0) + 52000000 ≤ u.clk.tick →
    exec .fabricMarkTimeout s = .next { u with time := { u.time with
      state := 3, holdoverStart := some u.clk.tick, stepped := false, servoReady := false } }) ∧
  (∀ (h : PtpHead) (interval corr : Int) (s : State), ptpHears s h = true →
    let u := refreshSource s
    let discarded : State := { u with time := { u.time with ptp := { u.time.ptp with
      counters := vset u.time.ptp.counters 2 (satInc (vget 0 u.time.ptp.counters 2)) } } }
    (fromMaster u h = true → -4 ≤ interval → interval ≤ 1 → u.time.ptp.syncSeq = none →
      exec (.ptpSync h true interval corr) s = .next { u with time := { u.time with ptp := { u.time.ptp with
        counters := vset u.time.ptp.counters 0 (satInc (vget 0 u.time.ptp.counters 0)), syncSeq := some h.seq, syncAt := rxTime u - corr * 2 ^ 16 } } }) ∧
    (∀ two, fromMaster u h = false ∨ two = false ∨ interval < -4 ∨ 1 < interval → exec (.ptpSync h two interval corr) s = .next discarded)) ∧
  (∀ (h : PtpHead) (origin : Nat) (corr : Int) (s : State), ptpHears s h = true →
    let v := refreshSource s
    fromMaster v h = true → v.time.ptp.syncSeq = some h.seq →
    let ms := v.time.ptp.syncAt - (origin * 2 ^ 32 + corr * 2 ^ 16)
    let offset := ms - v.time.ptp.meanPath
    let u := { v with time := { v.time with ptp := { v.time.ptp with syncSeq := none, msDiff := ms, offset := offset } } }
    (v.time.source ≠ 1 → exec (.ptpFollowUp h origin corr) s = .next u) ∧
    (v.time.source = 1 → v.run.state = 0 → 1000000 * 2 ^ 32 < offset.natAbs → ∃ t, exec (.ptpFollowUp h origin corr) s = .next t ∧
      t = { u with time := t.time, fab := { u.fab with links := t.fab.links } } ∧ t.time.state = 1 ∧ t.time.stepped = true ∧ t.time.holdoverStart = none ∧
      t.time.correction = v.time.correction ∧ ∀ d, d < 2 → vget 0 t.time.counter d = BitVec.ofInt 96 ((vget 0 v.time.counter d).toInt - offset)) ∧
    (v.time.source = 1 → v.run.state ≠ 0 ∨ offset.natAbs ≤ 1000000 * 2 ^ 32 → ∃ t, exec (.ptpFollowUp h origin corr) s = .next t ∧ t = { u with time := t.time } ∧
      t.time = { u.time with correction := t.time.correction, servoAt := v.clk.tick, servoReady := true, state := t.time.state, holdoverStart := none } ∧
      t.time.state = (if v.time.ptp.pathKnown = true ∧ -(100 * 2 ^ 32) ≤ offset ∧ offset ≤ 100 * 2 ^ 32 then 2 else 1) ∧
      (let most : Int := (v.time.nominal.toNat : Int) * 50 / 1000000
       let old := vget 0 v.time.correction 0
       let new := vget 0 t.time.correction 0
       vget 0 t.time.correction 1 = new ∧ ((-most ≤ old ∧ old ≤ most) → -most ≤ new ∧ new ≤ most) ∧
         (new - old).natAbs ≤ v.time.nominal.toNat * Nat.min (v.clk.tick - v.time.servoAt) 10400000000 / 52000000000000000))) ∧
  (∀ (h : PtpHead) (receive : Nat) (corr log t : Int) (s : State), ptpHears s h = true → s.time.ptp.delaySentAt = some t → fromMaster s h = true →
    h.seq + 1 = s.time.ptp.delaySeq →
    exec (.ptpDelayResp h true receive corr log) s = .next { s with time := { s.time with ptp := { s.time.ptp with
      delaySentAt := none, delayInterval := log, pathKnown := true
      meanPath := divEven (s.time.ptp.msDiff + (receive * 2 ^ 32 - corr * 2 ^ 16 - t)) 2 } } } ∧
    exec (.ptpDelayResp h false receive corr log) s = .next { s with time := { s.time with ptp := { s.time.ptp with
      counters := vset s.time.ptp.counters 2 (satInc (vget 0 s.time.ptp.counters 2)) } } }) ∧
  (∀ (h : PtpHead) (m : PtpMaster) (log : Int) (s : State), ptpHears s h = true →
    let u := refreshSource s
    let chosen : Ptp := { u.time.ptp with
      master := some m, parent := h.source, gm := m.identity, announceAt := some u.clk.tick, announceTicks := 5200000000 * 2 ^ log.toNat }
    h.domain = u.time.ptp.domain → 0 ≤ log → log ≤ 4 →
    (∀ old, u.time.ptp.master = some old → h.source = u.time.ptp.parent →
      exec (.ptpAnnounce h m log) s = .next { u with time := { u.time with ptp := chosen } }) ∧
    (u.time.ptp.master = none ∨ (∃ old, u.time.ptp.master = some old ∧ h.source ≠ u.time.ptp.parent ∧ betterMaster m old = true) →
      exec (.ptpAnnounce h m log) s = .next { u with time := { u.time with
        servoReady := false, ptp := { chosen with syncSeq := none, delaySentAt := none, pathKnown := false } } }) ∧
    (∀ old, u.time.ptp.master = some old → h.source ≠ u.time.ptp.parent → betterMaster m old = false →
      exec (.ptpAnnounce h m log) s = .next u)) ∧
  (∀ s : State, s.time.ptp.master.isSome = true → s.opt.loaded = true → segmentOpen s = true → s.time.ptp.nextDelayReq ≤ s.clk.tick →
    exec .ptpDelayReqSend s = .next { s with
      out := s.out ++ [.delayReq ptpGroup 319 s.time.ptp.domain s.time.ptp.delaySeq]
      time := { s.time with ptp := { s.time.ptp with delaySeq := s.time.ptp.delaySeq + 1, delaySentAt := some (txTime s)
                                                     nextDelayReq := s.clk.tick + logSeconds s.time.ptp.delayInterval } } }) ∧
  (∀ (t : Nat) (s : State), s.time.ptp.announceAt = some t → t + 4 * s.time.ptp.announceTicks ≤ s.clk.tick → s.time.source = 1 → s.time.state = 2 →
    exec .ptpAnnounceTimeout s = .next { s with time := { s.time with
      ptp := { s.time.ptp with
        counters := vset s.time.ptp.counters 3 (satInc (vget 0 s.time.ptp.counters 3)), master := none, announceAt := none, syncSeq := none, delaySentAt := none }
      state := 3, holdoverStart := some s.clk.tick, stepped := false, servoReady := false } })

/-! ### PCI Express -/

/-- The host's requests. BAR0: the request frame of the window, BAR2_BASE, the MSI-X table and SIGNAL take what is written. BAR2: a write that fits lands at its device address, is held during a warm reset, is dropped when it is poisoned, and counts UNMAPPED where no memory is; a read returns the memory's bytes, poisoned where they cannot be trusted, all ones where no memory is; a correctable error of the link counts in COR_ERR. What a host's read of BAR0 returns has no command (log 132). A configuration read returns its register and a write is answered; before the port is ready the answer is a retry. PME_Turn_Off is acknowledged (R343, R348 to R358, R362, R419). Commands shown to complete (`exec` answers the next state): bar0RegisterWrite, bar2BaseWrite, signalWrite, winCtrlGo, bar2Write, bar2Read, configRequest, pmeTurnOff. -/
def Obligations.HostRequests : Prop :=
  (∀ (off : Nat) (bs : List Byte) (disabled : List Nat) (s : State), hostAccess s = true →
    (0x100000 ≤ off → off + bs.length ≤ 0x100410 → bs.length ≤ s.pcie.maxPayload → s.dop.winReq.length = 1040 →
      ∃ t, exec (.bar0RegisterWrite off bs disabled) s = .next t ∧ t = { s with dop := { s.dop with winReq := t.dop.winReq } } ∧
        ∀ i, i < 1040 → t.dop.winReq.getD i 0 =
          if off ≤ 0x100000 + i ∧ 0x100000 + i < off + bs.length ∧ disabled.contains (0x100000 + i - off) = false then bs.getD (0x100000 + i - off) 0
          else s.dop.winReq.getD i 0) ∧
    (off < 0x100000 ∨ 0x100410 < off + bs.length → (bs.length ≠ 4 ∧ bs.length ≠ 8) ∨ off % bs.length ≠ 0 ∨ disabled ≠ [] →
      exec (.bar0RegisterWrite off bs disabled) s = .next s)) ∧
  (∀ (bs : List Byte) (s : State), hostAccess s = true → bs.length = 8 →
    exec (.bar0RegisterWrite 0 bs []) s = .next { s with pcie := { s.pcie with bar2Base := BitVec.ofNat 64 (ofLE bs % 2 ^ 48) } }) ∧
  (∀ (off : Nat) (bs : List Byte) (s : State), hostAccess s = true → bs.length = 4 ∨ bs.length = 8 → off % bs.length = 0 → 0x4000 ≤ off → off < 0x4400 →
    let e : BitVec 128 := BitVec.ofNat 128 (ofLE (splice (toLE 16 (vget 0 s.pcie.msix ((off - 0x4000) / 16)).toNat) ((off - 0x4000) % 16) bs) % 2 ^ 97)
    exec (.bar0RegisterWrite off bs []) s = .next (pumpMsix { s with pcie := { s.pcie with msix := vset s.pcie.msix ((off - 0x4000) / 16) e } })) ∧
  (∀ (v : BitVec 64) (s : State), hostAccess s = true →
    exec (.bar2BaseWrite v) s = .next { s with pcie := { s.pcie with bar2Base := v &&& 0xFFFFFFFFFFFF } } ∧
    exec (.signalWrite v) s = .next (if 16 ≤ v.toNat % 64 then msix (v.toNat % 64) s else s)) ∧
  (∀ (off : Nat) (bs : List Byte) (v : BitVec 64) (disabled : List Nat) (s : State), s.pcie.inL0 = true → s.opt.loaded = false →
    let retry : State := { s with out := s.out ++ [.configReply none] }
    exec (.bar0RegisterWrite off bs disabled) s = .next retry ∧ exec (.bar2BaseWrite v) s = .next retry ∧ exec (.signalWrite v) s = .next retry ∧
      exec (.winCtrlGo v) s = .next retry) ∧
  (∀ (off n : Nat) (s : State), (0x100800 ≤ off → off + n ≤ 0x100C10 → bar0Read s off n = slice s.dop.winRsp (off - 0x100800) n) ∧
    bar0Read s 0 8 = toLE 8 s.pcie.bar2Base.toNat ∧ bar0Read s 0x100 8 = List.replicate 8 0 ∧
    bar0Read s 0x101000 8 = toLE 8 (s.dop.doneSeq.toNat * 2 ^ 32 + (if s.dop.overrun then 4 else 0) + (if s.dop.winBusy then 2 else 0))) ∧
  (∀ (off : Nat) (bs : List Byte) (chk : Chk) (s : State), hostAccess s = true →
    let u := portFinds chk s
    bar2Fits u off bs.length = true → bs.length ≤ u.pcie.maxPayload →
    (exec (.bar2Write off bs true chk) s = .next (aerUncorrectable 12 { u with pcie := { u.pcie with poisonRx := satInc u.pcie.poisonRx } })) ∧
    (u.boot.resetting = true → exec (.bar2Write off bs false chk) s = .next { u with pcie := { u.pcie with heldWrites := u.pcie.heldWrites ++ [(bar2Addr u off, bs)] } }) ∧
    (u.boot.resetting = false → bs = [] → exec (.bar2Write off bs false chk) s = .next u) ∧
    (u.boot.resetting = false → bs ≠ [] →
      (∀ a, toStore u.map (bar2Addr u off) bs.length = some a → channelDown u a = false → exec (.bar2Write off bs false chk) s = .next (landFrom chk a bs u)) ∧
      (toStore u.map (bar2Addr u off) bs.length = none →
        exec (.bar2Write off bs false chk) s = .next { u with pcie := { u.pcie with unmapped := satInc u.pcie.unmapped } }))) ∧
  (∀ (off n : Nat) (chk : Chk) (s : State), hostAccess s = true → s.boot.resetting = false →
    let u := portFinds chk s
    bar2Fits u off n = true →
    (n = 0 → exec (.bar2Read off n chk) s = .next { u with out := u.out ++ [.completion [] false] }) ∧
    (∀ a v, 0 < n → toStore u.map (bar2Addr u off) n = some a → channelDown u a = false →
      (checkRead chk 6 0 [(a, n)] u = (v, none) → exec (.bar2Read off n chk) s = .next { v with out := v.out ++ [.completion (readBytes v.mem a n) false] }) ∧
      (∀ b, checkRead chk 6 0 [(a, n)] u = (v, some b) → exec (.bar2Read off n chk) s = .next (poisonedRead a n b v))) ∧
    (0 < n → toStore u.map (bar2Addr u off) n = none → exec (.bar2Read off n chk) s = .next { u with
      out := u.out ++ [.completion (List.replicate n 0xFF) false], pcie := { u.pcie with unmapped := satInc u.pcie.unmapped } })) ∧
  (∀ (off n : Nat) (bs : List Byte) (pois : Bool) (chk : Chk) (s : State), hostAccess s = true →
    let u := portFinds chk s
    (bar2Fits u off bs.length = false ∨ u.pcie.maxPayload < bs.length → exec (.bar2Write off bs pois chk) s = .next (uncorError 18 u)) ∧
    (s.boot.resetting = false → bar2Fits u off n = false → exec (.bar2Read off n chk) s = .next (uncorError 18 u))) ∧
  (∀ (e : PortError) (s : State), let t := portFinds { finds := [.port e] } s
    t.pcie.corErr = satInc s.pcie.corErr ∧ t.mem = s.mem ∧ t.pcie.uncorErr = s.pcie.uncorErr ∧
      (bit s.pcie.aerCorMask (match e with
        | .receiver => 0
        | .badDllp => 7
        | .replay => 12) = true → t.out = s.out)) ∧
  (∀ (reg : CfgReg) (s : State), s.pcie.inL0 = true →
    (s.opt.loaded = false → ∀ w, exec (.configRequest reg w) s = .next { s with out := s.out ++ [.configReply none] }) ∧
    (s.opt.loaded = true → exec (.configRequest reg none) s = .next { s with out := s.out ++ [.configReply (some (configRead s reg))] } ∧
      ∀ v, exec (.configRequest reg (some v)) s = .next { configWrite reg v s with out := (configWrite reg v s).out ++ [.configReply (some 0)] })) ∧
  (∀ s : State, s.pcie.inL0 = true → exec .pmeTurnOff s = .next { s with out := s.out ++ [.pmeToAck] })

/-- The link: link-up in flit mode enters L0; leaving L0 ends the fetch and the host's transfers, counts LINK_DOWNS and forgets the outstanding reads; PERST_N, a hot reset, a link disable and a function level reset return the port's registers to their reset values and clear the window. A completion of an outstanding read gives it its bytes, and one that does not come in time or fails ends what has asked for it; the image fetch is complete when no read of it is left (R348, R349, R357 to R364). Commands shown to complete (`exec` answers the next state): pcieLinkUp, pcieLinkDown, perstN, hotReset, linkDisable, flr, hostReadCompletion, hostReadCompletionTimeout, imageFetchComplete. -/
def Obligations.HostLink : Prop :=
  (∀ (speed width : Nat) (s : State), s.pwr.state = .on → vget 0 s.clk.pll 0 ≠ 0 → s.pcie.perst = false → s.pcie.inL0 = false →
    1 ≤ speed → speed ≤ 7 → width ∈ [1, 2, 4, 8, 16] →
    exec (.pcieLinkUp speed width true) s = .next (pumpMsix { s with pcie := { s.pcie with
      inL0 := true, speed := BitVec.ofNat 8 speed, width := BitVec.ofNat 8 width, flit := true } }) ∧
    exec (.pcieLinkUp speed width false) s = .next s) ∧
  (∀ s : State, s.pcie.inL0 = true → s.pcie.fetchResult ≠ 1 → s.fail.restoreResult ≠ 1 → s.fail.background ≠ 3 → hostChannels s = [] →
    let lost : State := { s with pcie := { s.pcie with
      inL0 := false, speed := 0, width := 0, flit := false, linkDowns := satInc s.pcie.linkDowns, reads := [] } }
    exec .pcieLinkDown s = .next lost ∧ exec (.perstN false) s = .next (resetPort { lost with pcie := { lost.pcie with perst := true } }) ∧
    exec .hotReset s = .next (resetPort lost) ∧ exec .linkDisable s = .next (resetPort lost) ∧
    (s.opt.loaded = true → exec .flr s = .next (resetPort { s with pcie := { s.pcie with reads := s.pcie.reads.map (fun r => { r with reader := .gone }) } }))) ∧
  (∀ s : State, exec (.perstN true) s = .next { s with pcie := { s.pcie with perst := false } }) ∧
  (∀ s : State, let t := resetPort s
    t.pcie.command = 0 ∧ t.pcie.memEnable = false ∧ t.pcie.busMaster = false ∧ t.pcie.bar2Base = 0 ∧ t.pcie.bar2Log = 34 ∧ t.pcie.msixEnable = false ∧
    t.pcie.pba = 0 ∧ t.pcie.d3 = false ∧ t.dop.winBusy = false ∧ t.dop.doneSeq = 0 ∧ t.pcie.linkDowns = s.pcie.linkDowns ∧ t.pcie.uncorErr = s.pcie.uncorErr ∧
    t.mem = s.mem ∧ t.cores = s.cores ∧ t.run = s.run) ∧
  (∀ (tag : Nat) (bs : List Byte) (r : HostRead) (s : State), outstandingRead s tag = some r → r.reader = .image →
    (bs.length = r.len → exec (.hostReadCompletion tag bs .ok) s = .next (pumpReads (land r.dst bs
      { s with pcie := { s.pcie with reads := s.pcie.reads.filter (fun x => decide (x.tag ≠ r.tag)) } }))) ∧
    (bs.length ≠ r.len → exec (.hostReadCompletion tag bs .ok) s = .next (uncorError 18 s)) ∧
    (s.pcie.fetchResult = 1 → ∃ t, exec (.hostReadCompletion tag bs .poisoned) s = .next t ∧ t.pcie.fetchResult = 4 ∧ t.mem = s.mem ∧
      t.pcie.uncorErr = satInc s.pcie.uncorErr) ∧
    (s.pcie.fetchResult = 1 → bit s.pcie.devCtl2 4 = false → r.sentAt.getD 0 + timeoutTicks (field s.pcie.devCtl2 3 0) ≤ s.clk.tick →
      ∃ t, exec (.hostReadCompletionTimeout tag) s = .next t ∧ t.pcie.fetchResult = 4 ∧ t.mem = s.mem ∧ t.pcie.uncorErr = satInc s.pcie.uncorErr)) ∧
  (∀ (tag : Nat) (bs : List Byte) (st : CplStatus) (s : State), outstandingRead s tag = none →
    exec (.hostReadCompletion tag bs st) s = .next (uncorError 16 s)) ∧
  (∀ s : State, s.pcie.fetchResult = 1 → (∀ r ∈ s.pcie.reads, r.reader ≠ .image) →
    exec .imageFetchComplete s = .next (msix 7 { s with pcie := { s.pcie with fetchResult := 2 } }))

/-! ### Resets, firmware, lifetime records -/

/-- A requested reset begins 10 ms after its response; the pin's warm reset stops the program and clears every core, HRC and fabric table but no memory, flash or lifetime accumulator, and its release trains the links again; the watchdog resets the management after 4 s without service; a retrained channel restarts the pass over the tiers. A verification, a report, a handover and the links' controllers end as their objects say (R383 to R388, R416 to R421). Commands shown to complete (`exec` answers the next state): resetRequestDelayExpire, warmRstNAssert, warmResetRelease, watchdogExpire, channelRetrainComplete, updateVerifyComplete, attestationReady, mgmtHandoverComplete, linkControllerLoadComplete. -/
def Obligations.ResetsAndFirmware : Prop :=
  (∀ (kind : ResetKind) (t : Nat) (s : State), s.boot.resetReq = some (kind, t) → t + 52000000 ≤ s.clk.tick →
    let u := { s with boot := { s.boot with resetReq := none } }
    exec .resetRequestDelayExpire s = .next (match kind with
      | .warm => beginWarm 7 u
      | .management => managementReset 5 u
      | .fabric => fabricReset 8 u)) ∧
  (∀ s : State, s.pwr.state = .on → s.opt.loaded = true → s.mem.spmMerge = [] → s.mem.tierMerge = [] → (∀ c, Quiet (getCore s c)) →
    s.fail.restoreResult ≠ 1 → s.pcie.fetchResult ≠ 1 → s.dop.pending = [] → s.intg.lost = [] → s.intg.missed = [] →
    ∃ t, exec .warmRstNAssert s = .next t ∧ t.run.state = 0 ∧ t.pwr.resetCause = 6 ∧ t.boot.resetting = true ∧ t.noc = [] ∧
      t.mem = { s.mem with hrc := [] } ∧ t.flash = s.flash ∧ t.life.acc = s.life.acc ∧
      (∀ c, c.wf = true → getCore t c = { ({} : Core) with trap := (getCore s c).trap })) ∧
  (∀ s : State, s.boot.resetting = true → s.pcie.heldWrites = [] →
    exec .warmResetRelease s = .next (restartPasses (trainLinks { s with
      pwr := { s.pwr with warmRstN := true }, boot := { s.boot with resetting := false } }))) ∧
  (∀ s : State, s.boot.serving = true → s.boot.state ≠ 3 → s.boot.watchdogAt + 20800000000 ≤ s.clk.tick → exec .watchdogExpire s = .next (managementReset 4 s)) ∧
  (∀ s : State, s.pwr.state = .on → s.opt.loaded = true → s.boot.upStatus ≠ 10 →
    let t := managementReset 4 s
    t.boot.serving = false ∧ t.boot.silent = true ∧ t.boot.state = 0 ∧ t.pwr.resetCause = 4 ∧ t.dop.queue = [] ∧ t.dop.subs = [] ∧ t.dop.staged = [] ∧
      t.cores = s.cores ∧ t.mem = s.mem ∧ t.run = s.run ∧ t.fab = s.fab) ∧
  (∀ (ch : Nat) (s : State), channelCodeOk ch = true → s.boot.retraining.contains ch = true →
    exec (.channelRetrainComplete ch) s = .next { s with
      boot := { s.boot with retraining := s.boot.retraining.filter (fun c => decide (c ≠ ch)) }
      intg := { s.intg with tierPos := 0, tierStart := s.clk.tick, tierRate := s.intg.tierPass } }) ∧
  (∀ s : State, s.boot.upStatus = 2 →
    let u := voteFuses s
    let r := slotResult u (u.boot.upComponent.toNat - 1) (inactiveSlot u (u.boot.upComponent.toNat - 1))
    exec (.updateVerifyComplete true) s = .next { u with boot := { u.boot with upStatus := 9 } } ∧
    exec (.updateVerifyComplete false) s = .next { u with boot := { u.boot with upStatus := if r = 1 then 3 else BitVec.ofNat 8 (r + 2) } }) ∧
  (∀ s : State, s.boot.reportState = 1 →
    ∃ sig : BitVec 3072, exec .attestationReady s = .next { s with boot := { s.boot with
      report := sig ++ s.boot.report.setWidth 2048, reportState := 2, reports := s.boot.reports + 1 } }) ∧
  (∀ s : State, handingOver s = true →
    (s.boot.handed = [] → exec (.mgmtHandoverComplete 1 true) s = .next { s with boot := { s.boot with handed := [1] } }) ∧
    (s.boot.handed = [1] → s.boot.activateReq = none → ∃ t, exec (.mgmtHandoverComplete 0 true) s = .next t ∧ t.boot.upStatus = 11 ∧ t.boot.handed = [] ∧
      vget 0 t.boot.active 1 = BitVec.ofNat 8 (vget 0 s.flash.pref 1).toNat ∧ t.dop.captures = [] ∧ t.dop.segs = [] ∧ t.dop.token = none ∧
      t.dop.queue = s.dop.queue ∧ t.run = s.run ∧ t.mem = s.mem) ∧
    (∀ d, (d = 1 ∧ s.boot.handed = []) ∨ (d = 0 ∧ s.boot.handed = [1]) → s.boot.activateReq = none →
      exec (.mgmtHandoverComplete d false) s = .next { s with
        flash := { s.flash with pref := vset s.flash.pref 1 s.boot.prefBefore }, boot := { s.boot with upStatus := 12, activateReq := none, handed := [] } })) ∧
  (∀ s : State, s.boot.upStatus = 10 → s.boot.upComponent = 3 → s.boot.linksLoaded < 23 →
    let x := getLink s s.boot.linksLoaded
    let u : State := { s with boot := { s.boot with linksLoaded := s.boot.linksLoaded + 1, pauseAt := s.clk.tick } }
    (x.state ≠ .training → exec .linkControllerLoadComplete s = .next u) ∧
    (x.state = .training → s.boot.pauseAt ≤ s.clk.tick → x.trainStart ≤ s.boot.pauseAt →
      exec .linkControllerLoadComplete s = .next (putLink u s.boot.linksLoaded { x with trainStart := x.trainStart + (s.clk.tick - s.boot.pauseAt) }))) ∧
  (∀ s : State, s.boot.upStatus = 10 → s.boot.upComponent = 3 → s.boot.linksLoaded = 23 → s.boot.state ≠ 2 →
    ∃ t, exec .linkControllerLoadComplete s = .next t ∧ t = { s with boot := t.boot, fab := t.fab } ∧ ((getLink s 23).state ≠ .training → t.fab = s.fab) ∧ t.boot.upStatus = 11 ∧ t.boot.linksLoaded = 24 ∧
      vget 0 t.boot.active 2 = BitVec.ofNat 8 (vget 0 s.flash.pref 2).toNat)

/-- The timer of the lifetime record begins a save every 600 s of powered time; a save ends with its MAGIC; a powered second counts; a droop counts once, by its deepest point (R445 to R449). Commands shown to complete (`exec` answers the next state): lifetimeSaveTimer, lifetimeSaveComplete, poweredSecondTick, railDroopBegin, railDroopEnd. -/
def Obligations.LifetimeRecords : Prop :=
  (∀ s : State, s.opt.loaded = true → s.life.timerAt + 600 ≤ s.life.seconds → s.life.saving = none → handingOver s = false →
    let u := { s with life := { s.life with timerAt := s.life.timerAt + 600 } }
    exec .lifetimeSaveTimer s = .next { u with
      life := { u.life with saving := some (saveSlot u, newRecord u) }, flash := { u.flash with records := mset u.flash.records (saveSlot u) (newRecord u) } }) ∧
  (∀ (slot : Nat) (bs : List Byte) (s : State), s.life.saving = some (slot, bs) →
    let r := splice bs 60 [0x31, 0x4C, 0x4B, 0x53]
    exec .lifetimeSaveComplete s = .next { s with
      life := { s.life with saving := none, lastHdr := recordHeader r, seq := s.life.seq + 1 }, flash := { s.flash with records := mset s.flash.records slot r } }) ∧
  (∀ s : State, s.opt.loaded = true → s.opt.loadedAt + 5200000000 * (s.life.seconds + 1) ≤ s.clk.tick →
    ∃ t, exec .poweredSecondTick s = .next t ∧ t.life.seconds = s.life.seconds + 1 ∧ t.life.poweredS = satInc s.life.poweredS ∧
      t.mem = s.mem ∧ t.run = s.run ∧ t.cores = s.cores ∧ t.dop = s.dop) ∧
  (∀ (r : Rail) (n : Nat) (s : State), s.opt.loaded = true → railNumber r = some n → s.life.droops.contains r = false →
    exec (.railDroopBegin r) s = .next { s with life := { s.life with droops := s.life.droops ++ [r] } }) ∧
  (∀ (r : Rail) (n depth : Nat) (s : State), s.opt.loaded = true → railNumber r = some n → s.life.droops.contains r = true →
    let i := 8896 + 4 * (4 * n + (if depth < 150 then 0 else if depth < 200 then 1 else if depth < 250 then 2 else 3))
    exec (.railDroopEnd r depth) s = .next { s with life := { s.life with
      droops := s.life.droops.filter (fun x => decide (x ≠ r)), acc := mset s.life.acc i (satInc (mget 0 s.life.acc i)) } })

/-! ### Power, clocks, boot, cages -/

/-- Power: VIN and PWR_EN start the rails, each valid step leads to the next and the sixth to power-on; VIN or PWR_EN lost, an overvoltage and a thermal trip take every rail and leave flash and pins; a trip ends only after PWR_EN has been low for 1 s. A power sample is kept and moves W of each die. The PLLs lock and the option words load, at the first attempt that votes every word; the boot chain runs the components that verify. A lost reference holds the PLLs, its return locks them, and 10 s without it report the module lost. A cage's assembly, its removal and its overcurrent set CAGE_STATE (R378 to R381, R393, R404 to R416, R424, R433, R434). Commands shown to complete (`exec` answers the next state): vinOn, pwrEnHigh, railStepValid, railOutOfBand, vinOff, pwrEnLow, thermalTrip, vinOvervoltage, vinOvervoltageClear, powerSample, pllLock, optionLoadComplete, bootChainComplete, refLost, refReturn, refLostTimeout, cageInsert, cageRemove, cageOvercurrent. -/
def Obligations.PowerClocksBoot : Prop :=
  (∀ s : State, s.pwr.state = .off → s.pwr.pwrEn = true → ∃ t, exec .vinOn s = .next t ∧ t.pwr.state = .step 1 ∧ t.pwr.vin = true ∧
    t.pwr.resetCause = s.pwr.nextCause ∧ t.flash = s.flash ∧ t.clk = s.clk ∧ t.pwr.pwrGood = s.pwr.pwrGood) ∧
  (∀ s : State, s.pwr.state = .off → s.pwr.vin = true → ∃ t, exec .pwrEnHigh s = .next t ∧ t.pwr.state = .step 1 ∧ t.pwr.pwrEn = true ∧
    t.pwr.resetCause = s.pwr.nextCause ∧ t.flash = s.flash) ∧
  (∀ s : State, s.pwr.state = .off → s.pwr.vin = false →
    exec .pwrEnHigh s = .next { s with pwr := { s.pwr with pwrEn := true, pwrEnLowAt := none } }) ∧
  (∀ (n : Nat) (s : State), s.pwr.state = .step n →
    (n < 6 → exec .railStepValid s = .next { s with pwr := { s.pwr with state := .step (n + 1) } }) ∧
    (6 ≤ n → exec .railStepValid s = .next { s with pwr := { s.pwr with state := .on, pwrGood := true } })) ∧
  (∀ (r : Rail) (s : State), exec (.railOutOfBand r) s = .next { s with pwr := { s.pwr with pwrGood := false } }) ∧
  (∀ s : State, powered s = true → s.boot.upStatus ≠ 10 →
    (s.pwr.vin = true → ∃ t, exec .vinOff s = .next t ∧ t.pwr.state = .off ∧ t.pwr.vin = false ∧ t.pwr.nextCause = 2 ∧ t.flash = s.flash ∧ t.run.state = 0 ∧
      t.opt.loaded = false ∧ t.cores = [] ∧ t.pending = s.pending) ∧
    (∃ t, exec .pwrEnLow s = .next t ∧ t.pwr.state = .off ∧ t.pwr.pwrEn = false ∧ t.pwr.pwrEnLowAt = some s.clk.tick ∧ t.pwr.nextCause = 1 ∧
      t.flash = s.flash ∧ t.opt.loaded = false ∧ t.cores = []) ∧
    (∃ t, exec .thermalTrip s = .next t ∧ t.pwr.state = .tripped ∧ t.pwr.modFaultN = false ∧ t.pwr.nextCause = 3 ∧ t.flash = s.flash ∧ t.opt.loaded = false) ∧
    (s.pwr.vin = true → ∃ t, exec .vinOvervoltage s = .next t ∧ t.pwr.state = .overvoltage ∧ t.pwr.nextCause = 2 ∧ t.flash = s.flash ∧ t.opt.loaded = false)) ∧
  (∀ s : State, s.pwr.state = .overvoltage → s.pwr.vin = true → ∃ t, exec .vinOvervoltageClear s = .next t ∧
    t.pwr.state = (if s.pwr.pwrEn then .step 1 else .off) ∧ t.flash = s.flash) ∧
  (∀ (low : Nat) (s : State), s.pwr.state = .tripped → s.pwr.pwrEnLowAt = some low → s.pwr.vin = true →
    ∃ t, exec .pwrEnHigh s = .next t ∧ t.pwr.state = (if low + 5200000000 ≤ s.clk.tick then .step 1 else .tripped) ∧ t.flash = s.flash) ∧
  (∀ (mv watts : Nat) (s : State), powered s = true → ∃ t, exec (.powerSample mv watts []) s = .next t ∧ t = { s with pwr := t.pwr } ∧
    t.pwr.vinMv = BitVec.ofNat 32 mv ∧ t.pwr.samples = (watts :: s.pwr.samples).take 1000 ∧ t.pwr.temps = s.pwr.temps ∧
    (s.opt.loaded = true → 3600 < watts → ∀ d, d < 2 → (vget 0 t.pwr.w d).toNat = Nat.min 48 ((vget 0 s.pwr.w d).toNat + 8)) ∧
    (s.opt.loaded = false → t.pwr.w = s.pwr.w)) ∧
  (∀ (slot : BitVec 6) (s : State), s.pwr.state = .on → vget 0 s.clk.pll 0 = 0 →
    exec (.pllLock slot false) s = .next { s with
      clk := { s.clk with pll := Vector.replicate 2 1, refPresent := true }, dop := { s.dop with slot := slot.setWidth 8 }
      pwr := { s.pwr with w := Vector.replicate 2 48 } } ∧
    exec (.pllLock slot true) s = .next { s with
      clk := { s.clk with pll := Vector.replicate 2 1, refPresent := true }, pwr := { s.pwr with modFaultN := false, state := .testMode } }) ∧
  (∀ (words : List Copies) (s : State), s.pwr.state = .on → vget 0 s.clk.pll 0 ≠ 0 → s.opt.loaded = false → s.pwr.warmRstN = true →
    (attemptOk words = true → ∃ t, exec (.optionLoadComplete [words]) s = .next t ∧ t.opt.loaded = true ∧ t.opt.attempts = 1 ∧ t.opt.loadedAt = s.clk.tick ∧
      t.opt.optWords = BitVec.ofNat 16 words.length ∧ t.boot.state = 0 ∧ t.boot.serving = false ∧ t.dop.nodeId = s.dop.slot + 1) ∧
    (attemptFailed words = true → attemptOk words = false → ∃ t, exec (.optionLoadComplete [words, words, words]) s = .next t ∧
      t.pwr.state = .optionFailure ∧ t.pwr.modFaultN = false ∧ t.opt.loaded = false ∧ t.opt.attempts = 3)) ∧
  (∀ s : State, s.opt.loaded = true → s.boot.state = 0 →
    let u := voteFuses s
    (∀ bad : List Nat, (0 ∈ bad ∨ slotResult u 0 0 ≠ 1) → (1 ∈ bad ∨ slotResult u 0 1 ≠ 1) →
      ∃ t, exec (.bootChainComplete bad) s = .next t ∧ t.boot.state = 3 ∧ t.boot.serving = true ∧ vget 0 t.boot.active 0 = 255) ∧
    (slotResult u 0 0 = 1 → slotResult u 0 1 = 1 → slotResult u 1 0 = 1 → slotResult u 1 1 = 1 → slotResult u 2 0 = 1 → slotResult u 2 1 = 1 →
      ∃ t, exec (.bootChainComplete []) s = .next t ∧ t.boot.state = 1 ∧ t.boot.serving = true ∧ t.boot.silent = false ∧ t.boot.linkLoaded = true)) ∧
  (∀ s : State, s.clk.refPresent = true → s.dop.subs = [] →
    exec .refLost s = .next { s with clk := { s.clk with
      pll := Vector.replicate 2 2, refPresent := false, refLosses := satInc s.clk.refLosses, refLostAt := some s.clk.tick } }) ∧
  (∀ s : State, s.clk.refLostAt.isSome = true → s.dop.subs = [] →
    exec .refReturn s = .next { s with clk := { s.clk with pll := Vector.replicate 2 1, refPresent := true, refLostAt := none } }) ∧
  (∀ (t : Nat) (s : State), s.clk.refLostAt = some t → t + 52000000000 ≤ s.clk.tick → exec .refLostTimeout s = .next (reportLost s)) ∧
  (∀ (k : Nat) (s : State), k < 12 → s.dop.subs = [] →
    (vget 0 s.cages k = 0 → exec (.cageInsert k .passive) s = .next { s with cages := vset s.cages k 1 } ∧
      exec (.cageInsert k .active) s = .next { s with cages := vset s.cages k 2 }) ∧
    (vget 0 s.cages k ≠ 0 → exec (.cageRemove k) s = .next { darkCage k s with cages := vset (darkCage k s).cages k 0 }) ∧
    (vget 0 s.cages k = 2 → exec (.cageOvercurrent k) s = .next { darkCage k s with cages := vset (darkCage k s).cages k 3 }))

/-! ### Rules stated whole -/

/-- R224: a data packet with a reserved TYPE or region, BYTES of 0 or above 4096, or MCAST = 1 with a TYPE other than 0x1 is discarded at the router that reads its header and counted in BAD_HEADER_DROP, and nothing else happens but the note, in the descriptor of this module that sent the packet, that its bytes will not arrive. -/
def Obligations.BadDataHeadersDrop : Prop :=
  ∀ (die i : Nat) (p : RoutedData) (s : State), die < 2 →
    field p.pkt.hdr 35 32 ∉ [1, 2, 3] ∨ field p.pkt.hdr 80 79 = 3 ∨ field p.pkt.hdr 125 113 = 0 ∨ 4096 < field p.pkt.hdr 125 113
      ∨ (bit p.pkt.hdr 36 = true ∧ field p.pkt.hdr 35 32 ≠ 1) →
    let u := takeRouted die i p s
    let dropped := putRouter u die { getRouter u die with stats := vset (getRouter u die).stats 4 (satAdd (vget 0 (getRouter u die).stats 4) 1) }
    (p.owner = none → dropOwn p dropped = dropped) ∧
    (nextRouted s die false = some (i, p) → ∀ chk, exec (.dataPacketRoute die chk) s = .next (dropOwn p dropped)) ∧
    (nextRouted s die true = some (i, p) → exec (.multicastForward die) s = .next dropped)

/-- R351: BAR0 is a 64-bit, non-prefetchable BAR of 64 MiB, BAR2 a 64-bit, prefetchable one whose size is 16 GiB by default and is set to a power of two from 1 GiB to 4 TiB; a size written while Memory Space Enable is 1 is ignored; BAR4 and the Expansion ROM BAR read 0. Commands shown to complete (`exec` answers the next state): configRequest. -/
def Obligations.BarsOfTheFunction : Prop :=
  State.reset.pcie.bar2Log = 34 ∧
  (∀ s : State, configRead s .bar4Lo = 0 ∧ configRead s .bar4Hi = 0 ∧ configRead s .expansionRom = 0) ∧
  (∀ (v : BitVec 32) (s : State), s.pcie.inL0 = true → s.opt.loaded = true → 30 ≤ s.pcie.bar2Log → s.pcie.bar2Log ≤ 42 →
    (∃ t, exec (.configRequest .bar0Lo (some v)) s = .next t ∧ configRead t .bar0Lo = (v &&& 0xFC000000) ||| 4 ∧ configRead t .bar0Hi = configRead s .bar0Hi) ∧
    (∃ t, exec (.configRequest .bar0Hi (some v)) s = .next t ∧ configRead t .bar0Hi = v) ∧
    (∃ t, exec (.configRequest .bar2Lo (some v)) s = .next t ∧ field (configRead t .bar2Lo) 3 0 = 0xC ∧
      t.pcie.bar2 = (((s.pcie.bar2.extractLsb' 32 32 ++ v : BitVec 64) >>> s.pcie.bar2Log) <<< s.pcie.bar2Log)) ∧
    (∃ t, exec (.configRequest .bar2Hi (some v)) s = .next t ∧
      t.pcie.bar2 = (((v ++ s.pcie.bar2.extractLsb' 0 32 : BitVec 64) >>> s.pcie.bar2Log) <<< s.pcie.bar2Log)) ∧
    (∃ t, exec (.configRequest .rebarControl (some v)) s = .next t ∧
      (s.pcie.memEnable = true → t.pcie = s.pcie) ∧
      (s.pcie.memEnable = false → 10 ≤ field v 13 8 → field v 13 8 ≤ 22 → t.pcie.bar2Log = 20 + field v 13 8)))

/-- R358: a write to SIGNAL, from a core or from the host, raises the vector in bits [5:0]; values 0 to 15 are ignored, and every other bit is. Commands shown to complete (`exec` answers the next state): signalWrite, st. -/
def Obligations.SignalRaisesVector : Prop :=
  (∀ (v : BitVec 64) (s : State), hostAccess s = true →
    (field v 5 0 < 16 → exec (.signalWrite v) s = .next s) ∧ (16 ≤ field v 5 0 → exec (.signalWrite v) s = .next (msix (field v 5 0) s))) ∧
  (∀ (th : ThreadRef) (f : Fields) (s : State), MayIssue s th (encodeWord 0 0x22 f) → (addrOf s th f) % 2 ^ (f.fl.toNat % 4) = 0 →
    placeOf (addrOf s th f) (2 ^ (f.fl.toNat % 4)) = .control 0x100 →
    let u := afterIssue s th (passed (threadOf s th))
    ∀ chk, (field (readReg s th f.b) 5 0 < 16 → exec (.st th f chk) s = .next u) ∧
      (16 ≤ field (readReg s th f.b) 5 0 → exec (.st th f chk) s = .next (msix (field (readReg s th f.b) 5 0) u)))

/-- R417: RESET_REQUEST accepts 1, 2 and 3 and refuses other values with RANGE; 1 and 2 need operator privilege; 3 is accepted over remote object access from the slice master alone and is refused with ACCESS on any other path; the response goes first, and the reset begins 10 ms later. Commands shown to complete (`exec` answers the next state): resetRequestWarm, resetRequestMgmt, resetRequestFabric, resetRequestDelayExpire. -/
def Obligations.ResetRequestObject : Prop :=
  (∀ (s u : State) (q : DopReq) (rest : List DopReq) (p : Nat), HeadRequest s q rest → Asks q 2 0x201000 1 → q.payload.length = 1 →
    privilege (dequeued rest s) q = (p, u) → Agrees s.fab.torus.master →
    let v := ofLE q.payload
    let c : Instr := if v = 1 then .resetRequestWarm .queue else if v = 2 then .resetRequestMgmt .queue else .resetRequestFabric .queue
    let request (kind : ResetKind) : State := { u with boot := { u.boot with resetReq := some (kind, u.clk.tick) } }
    (v = 1 → 1 ≤ p → exec c s = .next (respond q okAnswer true (request .warm))) ∧
    (v = 2 → 1 ≤ p → exec c s = .next (respond q okAnswer true (request .management))) ∧
    (v ≠ 3 → p = 0 → exec c s = .next (respond q (refuse 8) true u)) ∧
    (v = 3 → 1 ≤ p → q.path = .remote s.fab.torus.master.a → exec c s = .next (respond q okAnswer true (request .fabric))) ∧
    (v = 3 → q.path ≠ .remote s.fab.torus.master.a → exec c s = .next (respond q (refuse 3) true u)) ∧
    (v ∉ [1, 2, 3] → 1 ≤ p → exec c s = .next (respond q (refuse 5) true u))) ∧
  (∀ (kind : ResetKind) (t : Nat) (s : State), s.boot.resetReq = some (kind, t) →
    (s.clk.tick < t + 52000000 → exec .resetRequestDelayExpire s = .next s) ∧
    (t + 52000000 ≤ s.clk.tick →
      let u := { s with boot := { s.boot with resetReq := none } }
      exec .resetRequestDelayExpire s = .next (match kind with
        | .warm => beginWarm 7 u
        | .management => managementReset 5 u
        | .fabric => fabricReset 8 u)))
end

