-- ==== Sys2Proof/Laws/Crc.lean ====
section
/-! SUPPORT. The CRC-32 in a form that evaluates one byte at a time, for packets written out. -/
namespace Sys2Proof.Machine

/-- A function at a number, the number evaluated first. -/
def forced {α : Type} (n : Nat) (f : Nat → α) : α :=
  match n with
  | 0 => f 0
  | k + 1 => f (k + 1)

theorem forced_eq {α : Type} (n : Nat) (f : Nat → α) : forced n f = f n := by cases n <;> rfl

/-- The CRC register after some bytes, as a number. -/
def crcSteps : List Byte → Nat → Nat
  | [], r => r
  | b :: bs, r => forced (crcBits 8 (BitVec.ofNat 32 r ^^^ b.setWidth 32)).toNat (crcSteps bs)

theorem crcSteps_eq (bs : List Byte) (r : BitVec 32) :
    bs.foldl (fun r b => crcBits 8 (r ^^^ b.setWidth 32)) r = BitVec.ofNat 32 (crcSteps bs r.toNat) := by
  induction bs generalizing r with
  | nil => simp [crcSteps]
  | cons b bs ih => simp only [List.foldl_cons, crcSteps, forced_eq, ih, BitVec.ofNat_toNat, BitVec.setWidth_eq]

theorem crc32_eq (bs : List Byte) : crc32 bs = ~~~(BitVec.ofNat 32 (crcSteps bs 0xFFFFFFFF)) := by
  unfold crc32
  rw [crcSteps_eq]
  rfl

theorem dataCrc_eq (p : DataPkt) : dataCrc p = ~~~(BitVec.ofNat 32 (crcSteps
    (toLE 32 (if pktMcast p then setField p.hdr 31 0 0 else setField (setField p.hdr 31 0 0) 215 209 0).toNat ++ p.payload) 0xFFFFFFFF)) :=
  crc32_eq _

end Sys2Proof.Machine
end

