-- ==== Sys2Proof/Laws/Reports.lean ====
section
/-! SUPPORT. What the counting of an error, a record, an interrupt and a notification can change: the outputs, the object server, the port, the lifetime and integrity records, and the step program's own record. -/
namespace Sys2Proof.Machine

/-- Nothing of `s` but its reports has changed. -/
def ReportsOnly (s t : State) : Prop :=
  t = { s with out := t.out, dop := t.dop, pcie := t.pcie, life := t.life
               intg := { t.intg with lost := s.intg.lost, missed := s.intg.missed }, run := { s.run with commit := t.run.commit } }

namespace ReportsOnly

variable {s t u : State}

theorem refl (s : State) : ReportsOnly s s := rfl

theorem trans (h : ReportsOnly s t) (g : ReportsOnly t u) : ReportsOnly s u := by
  unfold ReportsOnly at *; rw [g, h]

theorem cores_eq (h : ReportsOnly s t) : t.cores = s.cores := by rw [h]
theorem clk_eq (h : ReportsOnly s t) : t.clk = s.clk := by rw [h]
theorem mem_eq (h : ReportsOnly s t) : t.mem = s.mem := by rw [h]
theorem map_eq (h : ReportsOnly s t) : t.map = s.map := by rw [h]
theorem ids_eq (h : ReportsOnly s t) : t.ids = s.ids := by rw [h]
theorem noc_eq (h : ReportsOnly s t) : t.noc = s.noc := by rw [h]
theorem grp_eq (h : ReportsOnly s t) : t.grp = s.grp := by rw [h]
theorem fab_eq (h : ReportsOnly s t) : t.fab = s.fab := by rw [h]
theorem run_eq (h : ReportsOnly s t) : t.run = { s.run with commit := t.run.commit } := by rw [h]
theorem lost_eq (h : ReportsOnly s t) : t.intg.lost = s.intg.lost := by rw [h]
theorem missed_eq (h : ReportsOnly s t) : t.intg.missed = s.intg.missed := by rw [h]

theorem foldl {α : Type} (f : State → α → State) (hf : ∀ s a, ReportsOnly s (f s a)) (xs : List α) : ∀ s, ReportsOnly s (xs.foldl f s) := by
  induction xs with
  | nil => exact refl
  | cons a as ih => exact fun s => (hf s a).trans (ih _)

theorem ite {c : Prop} [Decidable c] (h : ReportsOnly s t) (g : ReportsOnly s u) : ReportsOnly s (if c then t else u) := by split <;> assumption

end ReportsOnly

theorem intg_reports (s : State) (levels overflows ev cper) :
    ReportsOnly s { s with intg := { s.intg with levels := levels, overflows := overflows, event := ev, cper := cper } } := rfl
theorem emit_reports (s : State) (o : Output) : ReportsOnly s (emit s o) := rfl
theorem dopCount_reports (s : State) (i : Nat) : ReportsOnly s (dopCount s i) := rfl

theorem msix_reports (v : Nat) (s : State) : ReportsOnly s (msix v s) := by
  unfold msix; dsimp only; split <;> rfl

theorem pumpAt_reports (i : Nat) (s : State) : ReportsOnly s (pumpAt i s) := by
  unfold pumpAt
  split
  · rfl
  · split
    · split <;> rfl
    · rfl

theorem queueNotice_reports (i : Nat) (n : Notice) (s : State) : ReportsOnly s (queueNotice i n s) := by
  unfold queueNotice
  split
  · rfl
  · refine ReportsOnly.trans ?_ (pumpAt_reports _ _)
    split <;> rfl

theorem notify_reports (key typ : Nat) (v : List Byte) (s : State) : ReportsOnly s (notify key typ v s) := by
  refine ReportsOnly.foldl _ (fun s i => ?_) _ s
  split
  · split
    · exact queueNotice_reports _ _ s
    · rfl
  · rfl

theorem lifeAdd_reports (off n : Nat) (s : State) : ReportsOnly s (lifeAdd off n s) := by
  unfold lifeAdd; split <;> rfl

theorem cperBare_reports (g : Signature) (s : State) : ReportsOnly s (cperBare g s) :=
  ((intg_reports s _ _ _ _).trans (notify_reports _ _ _ _)).trans (msix_reports _ _)

theorem correctableWith_reports (out : Signature → State → State) (ho : ∀ g s, ReportsOnly s (out g s)) (r : Nat) (s : State) :
    ReportsOnly s (correctableWith out r s) := by
  unfold correctableWith
  refine (lifeAdd_reports (9960 + 4 * r) 1 s).trans ?_
  generalize lifeAdd (9960 + 4 * r) 1 s = t
  dsimp only
  split
  · exact intg_reports t _ _ _ _
  · exact (((intg_reports t _ _ _ _).trans (notify_reports _ _ _ _)).trans (msix_reports _ _)).trans (ho _ _)

theorem repairWord_reports {α : Type} [DecidableEq α] (t : Tri α) (die : Nat) (put : Tri α → State → State)
    (hp : ∀ x s, ReportsOnly s (put x s)) (s : State) : ReportsOnly s (repairWord t die put s) := by
  unfold repairWord
  split
  · exact (hp _ s).trans (correctableWith_reports _ cperBare_reports _ _)
  · rfl

theorem cper_reports (g : Signature) (s : State) : ReportsOnly s (cper g s) :=
  (repairWord_reports s.run.commit 0 (fun t s => { s with run := { s.run with commit := t } }) (fun _ _ => rfl) s).trans (cperBare_reports g _)

/-- A correctable error changes nothing but reports (R184, R195). -/
theorem correctable_reports (r : Nat) (s : State) : ReportsOnly s (correctable r s) := correctableWith_reports _ cper_reports r s

end Sys2Proof.Machine
end

