-- ==== Sys2Proof/Laws/Maps.lean ====
section
/-! SUPPORT. Sparse tables, byte strings and vectors: what each operation of Machine/Maps.lean answers. -/
namespace Sys2Proof.Machine

theorem mfind_mset {β : Type} (m : SMap β) (k k' : Nat) (v : β) :
    mfind (mset m k v) k' = if k' = k then some v else mfind m k' := by
  induction m with
  | nil => by_cases h : k' = k <;> simp [mset, mfind, h]
  | cons e m ih =>
    obtain ⟨a, w⟩ := e
    simp only [mset]
    split
    · by_cases h : k' = k <;> simp [mfind, h]
    · split
      · next h => subst h; by_cases h : k' = k <;> simp [mfind, h]
      · next h1 h2 =>
        by_cases h : k' = a
        · subst h; simp [mfind, Ne.symm h2]
        · simp [mfind, h, ih]

theorem mfind_mdel {β : Type} (m : SMap β) (k k' : Nat) :
    mfind (mdel m k) k' = if k' = k then none else mfind m k' := by
  induction m with
  | nil => by_cases h : k' = k <;> simp [mdel, mfind, h]
  | cons e m ih =>
    obtain ⟨a, w⟩ := e
    simp only [mdel]
    split
    · next h => subst h; rw [ih]; by_cases h : k' = k <;> simp [mfind, h]
    · next h2 =>
      by_cases h : k' = a
      · subst h; simp [mfind, Ne.symm h2]
      · simp [mfind, h, ih]

@[simp] theorem mget_mset_self {β : Type} (d : β) (m : SMap β) (k : Nat) (v : β) : mget d (mset m k v) k = v := by
  simp [mget, mfind_mset]

theorem mget_mset_ne {β : Type} (d : β) (m : SMap β) {k k' : Nat} (v : β) (h : k' ≠ k) : mget d (mset m k v) k' = mget d m k' := by
  simp [mget, mfind_mset, h]

@[simp] theorem mset_mset {β : Type} (m : SMap β) (k : Nat) (v w : β) : mset (mset m k v) k w = mset m k w := by
  induction m with
  | nil => simp [mset]
  | cons e m ih =>
    obtain ⟨a, x⟩ := e
    by_cases h1 : k < a
    · simp [mset, h1]
    · by_cases h2 : k = a
      · subst h2; simp [mset]
      · simp [mset, h1, h2, ih]

@[simp] theorem vget_vset_self {α : Type} {n : Nat} (d : α) (v : Vector α n) {i : Nat} (x : α) (h : i < n) : vget d (vset v i x) i = x := by
  simp [vget, vset, h]

theorem vget_vset_ne {α : Type} {n : Nat} (d : α) (v : Vector α n) {i j : Nat} (x : α) (h : j ≠ i) : vget d (vset v i x) j = vget d v j := by
  simp [vget, vset, Ne.symm h]

@[simp] theorem toLE_length (n v : Nat) : (toLE n v).length = n := by
  induction n generalizing v with
  | zero => rfl
  | succ n ih => simp [toLE, ih]

theorem ofLE_toLE (n v : Nat) : ofLE (toLE n v) = v % 256 ^ n := by
  induction n generalizing v with
  | zero => simp [toLE, ofLE, Nat.mod_one]
  | succ n ih =>
    have hs : v % 256 ^ (n + 1) = v % 256 + 256 * (v / 256 % 256 ^ n) := by rw [Nat.pow_succ', Nat.mod_mul]
    simp only [toLE, ofLE, ih, BitVec.toNat_ofNat]
    exact hs.symm

/-- The keys of a table rise. -/
def keysRise {β : Type} (m : SMap β) : Prop := (m.map (fun e => e.1)).Pairwise (· < ·)

theorem mem_mset_keys {β : Type} (m : SMap β) (k x : Nat) (v : β) (h : x ∈ (mset m k v).map (fun e => e.1)) :
    x = k ∨ x ∈ m.map (fun e => e.1) := by
  induction m with
  | nil => simp [mset] at h; exact .inl h
  | cons e m ih =>
    obtain ⟨a, w⟩ := e
    simp only [mset] at h
    split at h
    · simpa using h
    · split at h
      · next hk => subst hk; simp only [List.map_cons, List.mem_cons] at h ⊢; grind
      · simp only [List.map_cons, List.mem_cons] at h ⊢
        grind

theorem mset_rises {β : Type} (m : SMap β) (k : Nat) (v : β) (h : keysRise m) : keysRise (mset m k v) := by
  induction m with
  | nil => simp [mset, keysRise]
  | cons e m ih =>
    obtain ⟨a, w⟩ := e
    have hm : keysRise m := (List.pairwise_cons.mp h).2
    have ha := (List.pairwise_cons.mp h).1
    simp only [mset]
    split
    · next hk =>
      refine List.pairwise_cons.mpr ⟨?_, h⟩
      intro x hx
      simp only [List.map_cons, List.mem_cons] at hx
      rcases hx with rfl | hx
      · exact hk
      · exact Nat.lt_trans hk (ha x hx)
    · split
      · next hk => subst hk; exact h
      · next h1 h2 =>
        refine List.pairwise_cons.mpr ⟨?_, ih hm⟩
        intro x hx
        rcases mem_mset_keys m k x v hx with rfl | hx
        · exact Nat.lt_of_le_of_ne (Nat.le_of_not_lt h1) (Ne.symm h2)
        · exact ha x hx

theorem mdel_sub {β : Type} (m : SMap β) (k : Nat) : (mdel m k).Sublist m := by
  induction m with
  | nil => exact .slnil
  | cons e m ih =>
    obtain ⟨a, w⟩ := e
    simp only [mdel]
    split
    · exact ih.cons _
    · exact ih.cons_cons _

theorem mdel_rises {β : Type} (m : SMap β) (k : Nat) (h : keysRise m) : keysRise (mdel m k) :=
  h.sublist ((mdel_sub m k).map _)

end Sys2Proof.Machine
end

