-- ==== Sys2Proof/Laws/State.lean ====
section
/-! SUPPORT. What the update operations of State leave as it was, field by field, and what each accessor reads after its own update. -/
namespace Sys2Proof.Machine

variable (s : State)

/-! ### putCore -/
@[simp] theorem putCore_pending (c : CoreRef) (k : Core) : (putCore s c k).pending = s.pending := rfl
@[simp] theorem putCore_out (c : CoreRef) (k : Core) : (putCore s c k).out = s.out := rfl
@[simp] theorem putCore_free (c : CoreRef) (k : Core) : (putCore s c k).free = s.free := rfl
@[simp] theorem putCore_ids (c : CoreRef) (k : Core) : (putCore s c k).ids = s.ids := rfl
@[simp] theorem putCore_clk (c : CoreRef) (k : Core) : (putCore s c k).clk = s.clk := rfl
@[simp] theorem putCore_time (c : CoreRef) (k : Core) : (putCore s c k).time = s.time := rfl
@[simp] theorem putCore_pwr (c : CoreRef) (k : Core) : (putCore s c k).pwr = s.pwr := rfl
@[simp] theorem putCore_opt (c : CoreRef) (k : Core) : (putCore s c k).opt = s.opt := rfl
@[simp] theorem putCore_boot (c : CoreRef) (k : Core) : (putCore s c k).boot = s.boot := rfl
@[simp] theorem putCore_flash (c : CoreRef) (k : Core) : (putCore s c k).flash = s.flash := rfl
@[simp] theorem putCore_dop (c : CoreRef) (k : Core) : (putCore s c k).dop = s.dop := rfl
@[simp] theorem putCore_pcie (c : CoreRef) (k : Core) : (putCore s c k).pcie = s.pcie := rfl
@[simp] theorem putCore_run (c : CoreRef) (k : Core) : (putCore s c k).run = s.run := rfl
@[simp] theorem putCore_fail (c : CoreRef) (k : Core) : (putCore s c k).fail = s.fail := rfl
@[simp] theorem putCore_grp (c : CoreRef) (k : Core) : (putCore s c k).grp = s.grp := rfl
@[simp] theorem putCore_map (c : CoreRef) (k : Core) : (putCore s c k).map = s.map := rfl
@[simp] theorem putCore_mem (c : CoreRef) (k : Core) : (putCore s c k).mem = s.mem := rfl
@[simp] theorem putCore_noc (c : CoreRef) (k : Core) : (putCore s c k).noc = s.noc := rfl
@[simp] theorem putCore_trapped (c : CoreRef) (k : Core) : (putCore s c k).trapped = s.trapped := rfl
@[simp] theorem putCore_intg (c : CoreRef) (k : Core) : (putCore s c k).intg = s.intg := rfl
@[simp] theorem putCore_coreStats (c : CoreRef) (k : Core) : (putCore s c k).coreStats = s.coreStats := rfl
@[simp] theorem putCore_dieStats (c : CoreRef) (k : Core) : (putCore s c k).dieStats = s.dieStats := rfl
@[simp] theorem putCore_fab (c : CoreRef) (k : Core) : (putCore s c k).fab = s.fab := rfl
@[simp] theorem putCore_life (c : CoreRef) (k : Core) : (putCore s c k).life = s.life := rfl
@[simp] theorem putCore_cages (c : CoreRef) (k : Core) : (putCore s c k).cages = s.cages := rfl

/-! ### putThreadOf -/
@[simp] theorem putThreadOf_pending (th : ThreadRef) (x : Thread) : (putThreadOf s th x).pending = s.pending := rfl
@[simp] theorem putThreadOf_out (th : ThreadRef) (x : Thread) : (putThreadOf s th x).out = s.out := rfl
@[simp] theorem putThreadOf_free (th : ThreadRef) (x : Thread) : (putThreadOf s th x).free = s.free := rfl
@[simp] theorem putThreadOf_ids (th : ThreadRef) (x : Thread) : (putThreadOf s th x).ids = s.ids := rfl
@[simp] theorem putThreadOf_clk (th : ThreadRef) (x : Thread) : (putThreadOf s th x).clk = s.clk := rfl
@[simp] theorem putThreadOf_time (th : ThreadRef) (x : Thread) : (putThreadOf s th x).time = s.time := rfl
@[simp] theorem putThreadOf_pwr (th : ThreadRef) (x : Thread) : (putThreadOf s th x).pwr = s.pwr := rfl
@[simp] theorem putThreadOf_opt (th : ThreadRef) (x : Thread) : (putThreadOf s th x).opt = s.opt := rfl
@[simp] theorem putThreadOf_boot (th : ThreadRef) (x : Thread) : (putThreadOf s th x).boot = s.boot := rfl
@[simp] theorem putThreadOf_flash (th : ThreadRef) (x : Thread) : (putThreadOf s th x).flash = s.flash := rfl
@[simp] theorem putThreadOf_dop (th : ThreadRef) (x : Thread) : (putThreadOf s th x).dop = s.dop := rfl
@[simp] theorem putThreadOf_pcie (th : ThreadRef) (x : Thread) : (putThreadOf s th x).pcie = s.pcie := rfl
@[simp] theorem putThreadOf_run (th : ThreadRef) (x : Thread) : (putThreadOf s th x).run = s.run := rfl
@[simp] theorem putThreadOf_fail (th : ThreadRef) (x : Thread) : (putThreadOf s th x).fail = s.fail := rfl
@[simp] theorem putThreadOf_grp (th : ThreadRef) (x : Thread) : (putThreadOf s th x).grp = s.grp := rfl
@[simp] theorem putThreadOf_map (th : ThreadRef) (x : Thread) : (putThreadOf s th x).map = s.map := rfl
@[simp] theorem putThreadOf_mem (th : ThreadRef) (x : Thread) : (putThreadOf s th x).mem = s.mem := rfl
@[simp] theorem putThreadOf_noc (th : ThreadRef) (x : Thread) : (putThreadOf s th x).noc = s.noc := rfl
@[simp] theorem putThreadOf_trapped (th : ThreadRef) (x : Thread) : (putThreadOf s th x).trapped = s.trapped := rfl
@[simp] theorem putThreadOf_intg (th : ThreadRef) (x : Thread) : (putThreadOf s th x).intg = s.intg := rfl
@[simp] theorem putThreadOf_coreStats (th : ThreadRef) (x : Thread) : (putThreadOf s th x).coreStats = s.coreStats := rfl
@[simp] theorem putThreadOf_dieStats (th : ThreadRef) (x : Thread) : (putThreadOf s th x).dieStats = s.dieStats := rfl
@[simp] theorem putThreadOf_fab (th : ThreadRef) (x : Thread) : (putThreadOf s th x).fab = s.fab := rfl
@[simp] theorem putThreadOf_life (th : ThreadRef) (x : Thread) : (putThreadOf s th x).life = s.life := rfl
@[simp] theorem putThreadOf_cages (th : ThreadRef) (x : Thread) : (putThreadOf s th x).cages = s.cages := rfl

/-! ### putChannel -/
@[simp] theorem putChannel_pending (c : CoreRef) (ch : Nat) (x : DmaChannel) : (putChannel s c ch x).pending = s.pending := rfl
@[simp] theorem putChannel_out (c : CoreRef) (ch : Nat) (x : DmaChannel) : (putChannel s c ch x).out = s.out := rfl
@[simp] theorem putChannel_free (c : CoreRef) (ch : Nat) (x : DmaChannel) : (putChannel s c ch x).free = s.free := rfl
@[simp] theorem putChannel_ids (c : CoreRef) (ch : Nat) (x : DmaChannel) : (putChannel s c ch x).ids = s.ids := rfl
@[simp] theorem putChannel_clk (c : CoreRef) (ch : Nat) (x : DmaChannel) : (putChannel s c ch x).clk = s.clk := rfl
@[simp] theorem putChannel_time (c : CoreRef) (ch : Nat) (x : DmaChannel) : (putChannel s c ch x).time = s.time := rfl
@[simp] theorem putChannel_pwr (c : CoreRef) (ch : Nat) (x : DmaChannel) : (putChannel s c ch x).pwr = s.pwr := rfl
@[simp] theorem putChannel_opt (c : CoreRef) (ch : Nat) (x : DmaChannel) : (putChannel s c ch x).opt = s.opt := rfl
@[simp] theorem putChannel_boot (c : CoreRef) (ch : Nat) (x : DmaChannel) : (putChannel s c ch x).boot = s.boot := rfl
@[simp] theorem putChannel_flash (c : CoreRef) (ch : Nat) (x : DmaChannel) : (putChannel s c ch x).flash = s.flash := rfl
@[simp] theorem putChannel_dop (c : CoreRef) (ch : Nat) (x : DmaChannel) : (putChannel s c ch x).dop = s.dop := rfl
@[simp] theorem putChannel_pcie (c : CoreRef) (ch : Nat) (x : DmaChannel) : (putChannel s c ch x).pcie = s.pcie := rfl
@[simp] theorem putChannel_run (c : CoreRef) (ch : Nat) (x : DmaChannel) : (putChannel s c ch x).run = s.run := rfl
@[simp] theorem putChannel_fail (c : CoreRef) (ch : Nat) (x : DmaChannel) : (putChannel s c ch x).fail = s.fail := rfl
@[simp] theorem putChannel_grp (c : CoreRef) (ch : Nat) (x : DmaChannel) : (putChannel s c ch x).grp = s.grp := rfl
@[simp] theorem putChannel_map (c : CoreRef) (ch : Nat) (x : DmaChannel) : (putChannel s c ch x).map = s.map := rfl
@[simp] theorem putChannel_mem (c : CoreRef) (ch : Nat) (x : DmaChannel) : (putChannel s c ch x).mem = s.mem := rfl
@[simp] theorem putChannel_noc (c : CoreRef) (ch : Nat) (x : DmaChannel) : (putChannel s c ch x).noc = s.noc := rfl
@[simp] theorem putChannel_trapped (c : CoreRef) (ch : Nat) (x : DmaChannel) : (putChannel s c ch x).trapped = s.trapped := rfl
@[simp] theorem putChannel_intg (c : CoreRef) (ch : Nat) (x : DmaChannel) : (putChannel s c ch x).intg = s.intg := rfl
@[simp] theorem putChannel_coreStats (c : CoreRef) (ch : Nat) (x : DmaChannel) : (putChannel s c ch x).coreStats = s.coreStats := rfl
@[simp] theorem putChannel_dieStats (c : CoreRef) (ch : Nat) (x : DmaChannel) : (putChannel s c ch x).dieStats = s.dieStats := rfl
@[simp] theorem putChannel_fab (c : CoreRef) (ch : Nat) (x : DmaChannel) : (putChannel s c ch x).fab = s.fab := rfl
@[simp] theorem putChannel_life (c : CoreRef) (ch : Nat) (x : DmaChannel) : (putChannel s c ch x).life = s.life := rfl
@[simp] theorem putChannel_cages (c : CoreRef) (ch : Nat) (x : DmaChannel) : (putChannel s c ch x).cages = s.cages := rfl

/-! ### putHrc -/
@[simp] theorem putHrc_pending (die : Nat) (ls : List HrcLine) : (putHrc s die ls).pending = s.pending := rfl
@[simp] theorem putHrc_out (die : Nat) (ls : List HrcLine) : (putHrc s die ls).out = s.out := rfl
@[simp] theorem putHrc_free (die : Nat) (ls : List HrcLine) : (putHrc s die ls).free = s.free := rfl
@[simp] theorem putHrc_ids (die : Nat) (ls : List HrcLine) : (putHrc s die ls).ids = s.ids := rfl
@[simp] theorem putHrc_clk (die : Nat) (ls : List HrcLine) : (putHrc s die ls).clk = s.clk := rfl
@[simp] theorem putHrc_time (die : Nat) (ls : List HrcLine) : (putHrc s die ls).time = s.time := rfl
@[simp] theorem putHrc_pwr (die : Nat) (ls : List HrcLine) : (putHrc s die ls).pwr = s.pwr := rfl
@[simp] theorem putHrc_opt (die : Nat) (ls : List HrcLine) : (putHrc s die ls).opt = s.opt := rfl
@[simp] theorem putHrc_boot (die : Nat) (ls : List HrcLine) : (putHrc s die ls).boot = s.boot := rfl
@[simp] theorem putHrc_flash (die : Nat) (ls : List HrcLine) : (putHrc s die ls).flash = s.flash := rfl
@[simp] theorem putHrc_dop (die : Nat) (ls : List HrcLine) : (putHrc s die ls).dop = s.dop := rfl
@[simp] theorem putHrc_pcie (die : Nat) (ls : List HrcLine) : (putHrc s die ls).pcie = s.pcie := rfl
@[simp] theorem putHrc_run (die : Nat) (ls : List HrcLine) : (putHrc s die ls).run = s.run := rfl
@[simp] theorem putHrc_fail (die : Nat) (ls : List HrcLine) : (putHrc s die ls).fail = s.fail := rfl
@[simp] theorem putHrc_grp (die : Nat) (ls : List HrcLine) : (putHrc s die ls).grp = s.grp := rfl
@[simp] theorem putHrc_cores (die : Nat) (ls : List HrcLine) : (putHrc s die ls).cores = s.cores := rfl
@[simp] theorem putHrc_map (die : Nat) (ls : List HrcLine) : (putHrc s die ls).map = s.map := rfl
@[simp] theorem putHrc_noc (die : Nat) (ls : List HrcLine) : (putHrc s die ls).noc = s.noc := rfl
@[simp] theorem putHrc_trapped (die : Nat) (ls : List HrcLine) : (putHrc s die ls).trapped = s.trapped := rfl
@[simp] theorem putHrc_intg (die : Nat) (ls : List HrcLine) : (putHrc s die ls).intg = s.intg := rfl
@[simp] theorem putHrc_coreStats (die : Nat) (ls : List HrcLine) : (putHrc s die ls).coreStats = s.coreStats := rfl
@[simp] theorem putHrc_dieStats (die : Nat) (ls : List HrcLine) : (putHrc s die ls).dieStats = s.dieStats := rfl
@[simp] theorem putHrc_fab (die : Nat) (ls : List HrcLine) : (putHrc s die ls).fab = s.fab := rfl
@[simp] theorem putHrc_life (die : Nat) (ls : List HrcLine) : (putHrc s die ls).life = s.life := rfl
@[simp] theorem putHrc_cages (die : Nat) (ls : List HrcLine) : (putHrc s die ls).cages = s.cages := rfl

/-! ### emit -/
@[simp] theorem emit_pending (o : Output) : (emit s o).pending = s.pending := rfl
@[simp] theorem emit_free (o : Output) : (emit s o).free = s.free := rfl
@[simp] theorem emit_ids (o : Output) : (emit s o).ids = s.ids := rfl
@[simp] theorem emit_clk (o : Output) : (emit s o).clk = s.clk := rfl
@[simp] theorem emit_time (o : Output) : (emit s o).time = s.time := rfl
@[simp] theorem emit_pwr (o : Output) : (emit s o).pwr = s.pwr := rfl
@[simp] theorem emit_opt (o : Output) : (emit s o).opt = s.opt := rfl
@[simp] theorem emit_boot (o : Output) : (emit s o).boot = s.boot := rfl
@[simp] theorem emit_flash (o : Output) : (emit s o).flash = s.flash := rfl
@[simp] theorem emit_dop (o : Output) : (emit s o).dop = s.dop := rfl
@[simp] theorem emit_pcie (o : Output) : (emit s o).pcie = s.pcie := rfl
@[simp] theorem emit_run (o : Output) : (emit s o).run = s.run := rfl
@[simp] theorem emit_fail (o : Output) : (emit s o).fail = s.fail := rfl
@[simp] theorem emit_grp (o : Output) : (emit s o).grp = s.grp := rfl
@[simp] theorem emit_cores (o : Output) : (emit s o).cores = s.cores := rfl
@[simp] theorem emit_map (o : Output) : (emit s o).map = s.map := rfl
@[simp] theorem emit_mem (o : Output) : (emit s o).mem = s.mem := rfl
@[simp] theorem emit_noc (o : Output) : (emit s o).noc = s.noc := rfl
@[simp] theorem emit_trapped (o : Output) : (emit s o).trapped = s.trapped := rfl
@[simp] theorem emit_intg (o : Output) : (emit s o).intg = s.intg := rfl
@[simp] theorem emit_coreStats (o : Output) : (emit s o).coreStats = s.coreStats := rfl
@[simp] theorem emit_dieStats (o : Output) : (emit s o).dieStats = s.dieStats := rfl
@[simp] theorem emit_fab (o : Output) : (emit s o).fab = s.fab := rfl
@[simp] theorem emit_life (o : Output) : (emit s o).life = s.life := rfl
@[simp] theorem emit_cages (o : Output) : (emit s o).cages = s.cages := rfl

/-! ### takeFree -/
@[simp] theorem takeFree_pending : ((takeFree s).2).pending = s.pending := rfl
@[simp] theorem takeFree_out : ((takeFree s).2).out = s.out := rfl
@[simp] theorem takeFree_ids : ((takeFree s).2).ids = s.ids := rfl
@[simp] theorem takeFree_clk : ((takeFree s).2).clk = s.clk := rfl
@[simp] theorem takeFree_time : ((takeFree s).2).time = s.time := rfl
@[simp] theorem takeFree_pwr : ((takeFree s).2).pwr = s.pwr := rfl
@[simp] theorem takeFree_opt : ((takeFree s).2).opt = s.opt := rfl
@[simp] theorem takeFree_boot : ((takeFree s).2).boot = s.boot := rfl
@[simp] theorem takeFree_flash : ((takeFree s).2).flash = s.flash := rfl
@[simp] theorem takeFree_dop : ((takeFree s).2).dop = s.dop := rfl
@[simp] theorem takeFree_pcie : ((takeFree s).2).pcie = s.pcie := rfl
@[simp] theorem takeFree_run : ((takeFree s).2).run = s.run := rfl
@[simp] theorem takeFree_fail : ((takeFree s).2).fail = s.fail := rfl
@[simp] theorem takeFree_grp : ((takeFree s).2).grp = s.grp := rfl
@[simp] theorem takeFree_cores : ((takeFree s).2).cores = s.cores := rfl
@[simp] theorem takeFree_map : ((takeFree s).2).map = s.map := rfl
@[simp] theorem takeFree_mem : ((takeFree s).2).mem = s.mem := rfl
@[simp] theorem takeFree_noc : ((takeFree s).2).noc = s.noc := rfl
@[simp] theorem takeFree_trapped : ((takeFree s).2).trapped = s.trapped := rfl
@[simp] theorem takeFree_intg : ((takeFree s).2).intg = s.intg := rfl
@[simp] theorem takeFree_coreStats : ((takeFree s).2).coreStats = s.coreStats := rfl
@[simp] theorem takeFree_dieStats : ((takeFree s).2).dieStats = s.dieStats := rfl
@[simp] theorem takeFree_fab : ((takeFree s).2).fab = s.fab := rfl
@[simp] theorem takeFree_life : ((takeFree s).2).life = s.life := rfl
@[simp] theorem takeFree_cages : ((takeFree s).2).cages = s.cages := rfl

/-! ### takeId -/
@[simp] theorem takeId_pending : ((takeId s).2).pending = s.pending := rfl
@[simp] theorem takeId_out : ((takeId s).2).out = s.out := rfl
@[simp] theorem takeId_free : ((takeId s).2).free = s.free := rfl
@[simp] theorem takeId_clk : ((takeId s).2).clk = s.clk := rfl
@[simp] theorem takeId_time : ((takeId s).2).time = s.time := rfl
@[simp] theorem takeId_pwr : ((takeId s).2).pwr = s.pwr := rfl
@[simp] theorem takeId_opt : ((takeId s).2).opt = s.opt := rfl
@[simp] theorem takeId_boot : ((takeId s).2).boot = s.boot := rfl
@[simp] theorem takeId_flash : ((takeId s).2).flash = s.flash := rfl
@[simp] theorem takeId_dop : ((takeId s).2).dop = s.dop := rfl
@[simp] theorem takeId_pcie : ((takeId s).2).pcie = s.pcie := rfl
@[simp] theorem takeId_run : ((takeId s).2).run = s.run := rfl
@[simp] theorem takeId_fail : ((takeId s).2).fail = s.fail := rfl
@[simp] theorem takeId_grp : ((takeId s).2).grp = s.grp := rfl
@[simp] theorem takeId_cores : ((takeId s).2).cores = s.cores := rfl
@[simp] theorem takeId_map : ((takeId s).2).map = s.map := rfl
@[simp] theorem takeId_mem : ((takeId s).2).mem = s.mem := rfl
@[simp] theorem takeId_noc : ((takeId s).2).noc = s.noc := rfl
@[simp] theorem takeId_trapped : ((takeId s).2).trapped = s.trapped := rfl
@[simp] theorem takeId_intg : ((takeId s).2).intg = s.intg := rfl
@[simp] theorem takeId_coreStats : ((takeId s).2).coreStats = s.coreStats := rfl
@[simp] theorem takeId_dieStats : ((takeId s).2).dieStats = s.dieStats := rfl
@[simp] theorem takeId_fab : ((takeId s).2).fab = s.fab := rfl
@[simp] theorem takeId_life : ((takeId s).2).life = s.life := rfl
@[simp] theorem takeId_cages : ((takeId s).2).cages = s.cages := rfl

/-! ### dieCount -/
@[simp] theorem dieCount_pending (die i : Nat) : (dieCount s die i).pending = s.pending := rfl
@[simp] theorem dieCount_out (die i : Nat) : (dieCount s die i).out = s.out := rfl
@[simp] theorem dieCount_free (die i : Nat) : (dieCount s die i).free = s.free := rfl
@[simp] theorem dieCount_ids (die i : Nat) : (dieCount s die i).ids = s.ids := rfl
@[simp] theorem dieCount_clk (die i : Nat) : (dieCount s die i).clk = s.clk := rfl
@[simp] theorem dieCount_time (die i : Nat) : (dieCount s die i).time = s.time := rfl
@[simp] theorem dieCount_pwr (die i : Nat) : (dieCount s die i).pwr = s.pwr := rfl
@[simp] theorem dieCount_opt (die i : Nat) : (dieCount s die i).opt = s.opt := rfl
@[simp] theorem dieCount_boot (die i : Nat) : (dieCount s die i).boot = s.boot := rfl
@[simp] theorem dieCount_flash (die i : Nat) : (dieCount s die i).flash = s.flash := rfl
@[simp] theorem dieCount_dop (die i : Nat) : (dieCount s die i).dop = s.dop := rfl
@[simp] theorem dieCount_pcie (die i : Nat) : (dieCount s die i).pcie = s.pcie := rfl
@[simp] theorem dieCount_run (die i : Nat) : (dieCount s die i).run = s.run := rfl
@[simp] theorem dieCount_fail (die i : Nat) : (dieCount s die i).fail = s.fail := rfl
@[simp] theorem dieCount_grp (die i : Nat) : (dieCount s die i).grp = s.grp := rfl
@[simp] theorem dieCount_cores (die i : Nat) : (dieCount s die i).cores = s.cores := rfl
@[simp] theorem dieCount_map (die i : Nat) : (dieCount s die i).map = s.map := rfl
@[simp] theorem dieCount_mem (die i : Nat) : (dieCount s die i).mem = s.mem := rfl
@[simp] theorem dieCount_noc (die i : Nat) : (dieCount s die i).noc = s.noc := rfl
@[simp] theorem dieCount_trapped (die i : Nat) : (dieCount s die i).trapped = s.trapped := rfl
@[simp] theorem dieCount_intg (die i : Nat) : (dieCount s die i).intg = s.intg := rfl
@[simp] theorem dieCount_coreStats (die i : Nat) : (dieCount s die i).coreStats = s.coreStats := rfl
@[simp] theorem dieCount_fab (die i : Nat) : (dieCount s die i).fab = s.fab := rfl
@[simp] theorem dieCount_life (die i : Nat) : (dieCount s die i).life = s.life := rfl
@[simp] theorem dieCount_cages (die i : Nat) : (dieCount s die i).cages = s.cages := rfl

/-! ### dopCount -/
@[simp] theorem dopCount_pending (i : Nat) : (dopCount s i).pending = s.pending := rfl
@[simp] theorem dopCount_out (i : Nat) : (dopCount s i).out = s.out := rfl
@[simp] theorem dopCount_free (i : Nat) : (dopCount s i).free = s.free := rfl
@[simp] theorem dopCount_ids (i : Nat) : (dopCount s i).ids = s.ids := rfl
@[simp] theorem dopCount_clk (i : Nat) : (dopCount s i).clk = s.clk := rfl
@[simp] theorem dopCount_time (i : Nat) : (dopCount s i).time = s.time := rfl
@[simp] theorem dopCount_pwr (i : Nat) : (dopCount s i).pwr = s.pwr := rfl
@[simp] theorem dopCount_opt (i : Nat) : (dopCount s i).opt = s.opt := rfl
@[simp] theorem dopCount_boot (i : Nat) : (dopCount s i).boot = s.boot := rfl
@[simp] theorem dopCount_flash (i : Nat) : (dopCount s i).flash = s.flash := rfl
@[simp] theorem dopCount_pcie (i : Nat) : (dopCount s i).pcie = s.pcie := rfl
@[simp] theorem dopCount_run (i : Nat) : (dopCount s i).run = s.run := rfl
@[simp] theorem dopCount_fail (i : Nat) : (dopCount s i).fail = s.fail := rfl
@[simp] theorem dopCount_grp (i : Nat) : (dopCount s i).grp = s.grp := rfl
@[simp] theorem dopCount_cores (i : Nat) : (dopCount s i).cores = s.cores := rfl
@[simp] theorem dopCount_map (i : Nat) : (dopCount s i).map = s.map := rfl
@[simp] theorem dopCount_mem (i : Nat) : (dopCount s i).mem = s.mem := rfl
@[simp] theorem dopCount_noc (i : Nat) : (dopCount s i).noc = s.noc := rfl
@[simp] theorem dopCount_trapped (i : Nat) : (dopCount s i).trapped = s.trapped := rfl
@[simp] theorem dopCount_intg (i : Nat) : (dopCount s i).intg = s.intg := rfl
@[simp] theorem dopCount_coreStats (i : Nat) : (dopCount s i).coreStats = s.coreStats := rfl
@[simp] theorem dopCount_dieStats (i : Nat) : (dopCount s i).dieStats = s.dieStats := rfl
@[simp] theorem dopCount_fab (i : Nat) : (dopCount s i).fab = s.fab := rfl
@[simp] theorem dopCount_life (i : Nat) : (dopCount s i).life = s.life := rfl
@[simp] theorem dopCount_cages (i : Nat) : (dopCount s i).cages = s.cages := rfl

/-! ### putRouter -/
@[simp] theorem putRouter_pending (die : Nat) (r : Router) : (putRouter s die r).pending = s.pending := rfl
@[simp] theorem putRouter_out (die : Nat) (r : Router) : (putRouter s die r).out = s.out := rfl
@[simp] theorem putRouter_free (die : Nat) (r : Router) : (putRouter s die r).free = s.free := rfl
@[simp] theorem putRouter_ids (die : Nat) (r : Router) : (putRouter s die r).ids = s.ids := rfl
@[simp] theorem putRouter_clk (die : Nat) (r : Router) : (putRouter s die r).clk = s.clk := rfl
@[simp] theorem putRouter_time (die : Nat) (r : Router) : (putRouter s die r).time = s.time := rfl
@[simp] theorem putRouter_pwr (die : Nat) (r : Router) : (putRouter s die r).pwr = s.pwr := rfl
@[simp] theorem putRouter_opt (die : Nat) (r : Router) : (putRouter s die r).opt = s.opt := rfl
@[simp] theorem putRouter_boot (die : Nat) (r : Router) : (putRouter s die r).boot = s.boot := rfl
@[simp] theorem putRouter_flash (die : Nat) (r : Router) : (putRouter s die r).flash = s.flash := rfl
@[simp] theorem putRouter_dop (die : Nat) (r : Router) : (putRouter s die r).dop = s.dop := rfl
@[simp] theorem putRouter_pcie (die : Nat) (r : Router) : (putRouter s die r).pcie = s.pcie := rfl
@[simp] theorem putRouter_run (die : Nat) (r : Router) : (putRouter s die r).run = s.run := rfl
@[simp] theorem putRouter_fail (die : Nat) (r : Router) : (putRouter s die r).fail = s.fail := rfl
@[simp] theorem putRouter_grp (die : Nat) (r : Router) : (putRouter s die r).grp = s.grp := rfl
@[simp] theorem putRouter_cores (die : Nat) (r : Router) : (putRouter s die r).cores = s.cores := rfl
@[simp] theorem putRouter_map (die : Nat) (r : Router) : (putRouter s die r).map = s.map := rfl
@[simp] theorem putRouter_mem (die : Nat) (r : Router) : (putRouter s die r).mem = s.mem := rfl
@[simp] theorem putRouter_noc (die : Nat) (r : Router) : (putRouter s die r).noc = s.noc := rfl
@[simp] theorem putRouter_trapped (die : Nat) (r : Router) : (putRouter s die r).trapped = s.trapped := rfl
@[simp] theorem putRouter_intg (die : Nat) (r : Router) : (putRouter s die r).intg = s.intg := rfl
@[simp] theorem putRouter_coreStats (die : Nat) (r : Router) : (putRouter s die r).coreStats = s.coreStats := rfl
@[simp] theorem putRouter_dieStats (die : Nat) (r : Router) : (putRouter s die r).dieStats = s.dieStats := rfl
@[simp] theorem putRouter_life (die : Nat) (r : Router) : (putRouter s die r).life = s.life := rfl
@[simp] theorem putRouter_cages (die : Nat) (r : Router) : (putRouter s die r).cages = s.cages := rfl

/-! ### putLink -/
@[simp] theorem putLink_pending (l : Nat) (x : Link) : (putLink s l x).pending = s.pending := rfl
@[simp] theorem putLink_out (l : Nat) (x : Link) : (putLink s l x).out = s.out := rfl
@[simp] theorem putLink_free (l : Nat) (x : Link) : (putLink s l x).free = s.free := rfl
@[simp] theorem putLink_ids (l : Nat) (x : Link) : (putLink s l x).ids = s.ids := rfl
@[simp] theorem putLink_clk (l : Nat) (x : Link) : (putLink s l x).clk = s.clk := rfl
@[simp] theorem putLink_time (l : Nat) (x : Link) : (putLink s l x).time = s.time := rfl
@[simp] theorem putLink_pwr (l : Nat) (x : Link) : (putLink s l x).pwr = s.pwr := rfl
@[simp] theorem putLink_opt (l : Nat) (x : Link) : (putLink s l x).opt = s.opt := rfl
@[simp] theorem putLink_boot (l : Nat) (x : Link) : (putLink s l x).boot = s.boot := rfl
@[simp] theorem putLink_flash (l : Nat) (x : Link) : (putLink s l x).flash = s.flash := rfl
@[simp] theorem putLink_dop (l : Nat) (x : Link) : (putLink s l x).dop = s.dop := rfl
@[simp] theorem putLink_pcie (l : Nat) (x : Link) : (putLink s l x).pcie = s.pcie := rfl
@[simp] theorem putLink_run (l : Nat) (x : Link) : (putLink s l x).run = s.run := rfl
@[simp] theorem putLink_fail (l : Nat) (x : Link) : (putLink s l x).fail = s.fail := rfl
@[simp] theorem putLink_grp (l : Nat) (x : Link) : (putLink s l x).grp = s.grp := rfl
@[simp] theorem putLink_cores (l : Nat) (x : Link) : (putLink s l x).cores = s.cores := rfl
@[simp] theorem putLink_map (l : Nat) (x : Link) : (putLink s l x).map = s.map := rfl
@[simp] theorem putLink_mem (l : Nat) (x : Link) : (putLink s l x).mem = s.mem := rfl
@[simp] theorem putLink_noc (l : Nat) (x : Link) : (putLink s l x).noc = s.noc := rfl
@[simp] theorem putLink_trapped (l : Nat) (x : Link) : (putLink s l x).trapped = s.trapped := rfl
@[simp] theorem putLink_intg (l : Nat) (x : Link) : (putLink s l x).intg = s.intg := rfl
@[simp] theorem putLink_coreStats (l : Nat) (x : Link) : (putLink s l x).coreStats = s.coreStats := rfl
@[simp] theorem putLink_dieStats (l : Nat) (x : Link) : (putLink s l x).dieStats = s.dieStats := rfl
@[simp] theorem putLink_life (l : Nat) (x : Link) : (putLink s l x).life = s.life := rfl
@[simp] theorem putLink_cages (l : Nat) (x : Link) : (putLink s l x).cages = s.cages := rfl

/-! ### setXfer -/
@[simp] theorem setXfer_pending (x n : Nat) : (setXfer s x n).pending = s.pending := rfl
@[simp] theorem setXfer_out (x n : Nat) : (setXfer s x n).out = s.out := rfl
@[simp] theorem setXfer_free (x n : Nat) : (setXfer s x n).free = s.free := rfl
@[simp] theorem setXfer_ids (x n : Nat) : (setXfer s x n).ids = s.ids := rfl
@[simp] theorem setXfer_clk (x n : Nat) : (setXfer s x n).clk = s.clk := rfl
@[simp] theorem setXfer_time (x n : Nat) : (setXfer s x n).time = s.time := rfl
@[simp] theorem setXfer_pwr (x n : Nat) : (setXfer s x n).pwr = s.pwr := rfl
@[simp] theorem setXfer_opt (x n : Nat) : (setXfer s x n).opt = s.opt := rfl
@[simp] theorem setXfer_boot (x n : Nat) : (setXfer s x n).boot = s.boot := rfl
@[simp] theorem setXfer_flash (x n : Nat) : (setXfer s x n).flash = s.flash := rfl
@[simp] theorem setXfer_dop (x n : Nat) : (setXfer s x n).dop = s.dop := rfl
@[simp] theorem setXfer_pcie (x n : Nat) : (setXfer s x n).pcie = s.pcie := rfl
@[simp] theorem setXfer_run (x n : Nat) : (setXfer s x n).run = s.run := rfl
@[simp] theorem setXfer_fail (x n : Nat) : (setXfer s x n).fail = s.fail := rfl
@[simp] theorem setXfer_grp (x n : Nat) : (setXfer s x n).grp = s.grp := rfl
@[simp] theorem setXfer_cores (x n : Nat) : (setXfer s x n).cores = s.cores := rfl
@[simp] theorem setXfer_map (x n : Nat) : (setXfer s x n).map = s.map := rfl
@[simp] theorem setXfer_mem (x n : Nat) : (setXfer s x n).mem = s.mem := rfl
@[simp] theorem setXfer_noc (x n : Nat) : (setXfer s x n).noc = s.noc := rfl
@[simp] theorem setXfer_trapped (x n : Nat) : (setXfer s x n).trapped = s.trapped := rfl
@[simp] theorem setXfer_intg (x n : Nat) : (setXfer s x n).intg = s.intg := rfl
@[simp] theorem setXfer_coreStats (x n : Nat) : (setXfer s x n).coreStats = s.coreStats := rfl
@[simp] theorem setXfer_dieStats (x n : Nat) : (setXfer s x n).dieStats = s.dieStats := rfl
@[simp] theorem setXfer_life (x n : Nat) : (setXfer s x n).life = s.life := rfl
@[simp] theorem setXfer_cages (x n : Nat) : (setXfer s x n).cages = s.cages := rfl

/-! ### setPhysState -/
@[simp] theorem setPhysState_pending (die phys : Nat) (x : PhysState) : (setPhysState s die phys x).pending = s.pending := rfl
@[simp] theorem setPhysState_out (die phys : Nat) (x : PhysState) : (setPhysState s die phys x).out = s.out := rfl
@[simp] theorem setPhysState_free (die phys : Nat) (x : PhysState) : (setPhysState s die phys x).free = s.free := rfl
@[simp] theorem setPhysState_ids (die phys : Nat) (x : PhysState) : (setPhysState s die phys x).ids = s.ids := rfl
@[simp] theorem setPhysState_clk (die phys : Nat) (x : PhysState) : (setPhysState s die phys x).clk = s.clk := rfl
@[simp] theorem setPhysState_time (die phys : Nat) (x : PhysState) : (setPhysState s die phys x).time = s.time := rfl
@[simp] theorem setPhysState_pwr (die phys : Nat) (x : PhysState) : (setPhysState s die phys x).pwr = s.pwr := rfl
@[simp] theorem setPhysState_opt (die phys : Nat) (x : PhysState) : (setPhysState s die phys x).opt = s.opt := rfl
@[simp] theorem setPhysState_boot (die phys : Nat) (x : PhysState) : (setPhysState s die phys x).boot = s.boot := rfl
@[simp] theorem setPhysState_flash (die phys : Nat) (x : PhysState) : (setPhysState s die phys x).flash = s.flash := rfl
@[simp] theorem setPhysState_dop (die phys : Nat) (x : PhysState) : (setPhysState s die phys x).dop = s.dop := rfl
@[simp] theorem setPhysState_pcie (die phys : Nat) (x : PhysState) : (setPhysState s die phys x).pcie = s.pcie := rfl
@[simp] theorem setPhysState_run (die phys : Nat) (x : PhysState) : (setPhysState s die phys x).run = s.run := rfl
@[simp] theorem setPhysState_fail (die phys : Nat) (x : PhysState) : (setPhysState s die phys x).fail = s.fail := rfl
@[simp] theorem setPhysState_grp (die phys : Nat) (x : PhysState) : (setPhysState s die phys x).grp = s.grp := rfl
@[simp] theorem setPhysState_cores (die phys : Nat) (x : PhysState) : (setPhysState s die phys x).cores = s.cores := rfl
@[simp] theorem setPhysState_mem (die phys : Nat) (x : PhysState) : (setPhysState s die phys x).mem = s.mem := rfl
@[simp] theorem setPhysState_noc (die phys : Nat) (x : PhysState) : (setPhysState s die phys x).noc = s.noc := rfl
@[simp] theorem setPhysState_trapped (die phys : Nat) (x : PhysState) : (setPhysState s die phys x).trapped = s.trapped := rfl
@[simp] theorem setPhysState_intg (die phys : Nat) (x : PhysState) : (setPhysState s die phys x).intg = s.intg := rfl
@[simp] theorem setPhysState_coreStats (die phys : Nat) (x : PhysState) : (setPhysState s die phys x).coreStats = s.coreStats := rfl
@[simp] theorem setPhysState_dieStats (die phys : Nat) (x : PhysState) : (setPhysState s die phys x).dieStats = s.dieStats := rfl
@[simp] theorem setPhysState_fab (die phys : Nat) (x : PhysState) : (setPhysState s die phys x).fab = s.fab := rfl
@[simp] theorem setPhysState_life (die phys : Nat) (x : PhysState) : (setPhysState s die phys x).life = s.life := rfl
@[simp] theorem setPhysState_cages (die phys : Nat) (x : PhysState) : (setPhysState s die phys x).cages = s.cages := rfl

/-! ### setPower -/
@[simp] theorem setPower_pending (p : PowerState) : (setPower p s).pending = s.pending := rfl
@[simp] theorem setPower_out (p : PowerState) : (setPower p s).out = s.out := rfl
@[simp] theorem setPower_free (p : PowerState) : (setPower p s).free = s.free := rfl
@[simp] theorem setPower_ids (p : PowerState) : (setPower p s).ids = s.ids := rfl
@[simp] theorem setPower_clk (p : PowerState) : (setPower p s).clk = s.clk := rfl
@[simp] theorem setPower_time (p : PowerState) : (setPower p s).time = s.time := rfl
@[simp] theorem setPower_opt (p : PowerState) : (setPower p s).opt = s.opt := rfl
@[simp] theorem setPower_boot (p : PowerState) : (setPower p s).boot = s.boot := rfl
@[simp] theorem setPower_flash (p : PowerState) : (setPower p s).flash = s.flash := rfl
@[simp] theorem setPower_dop (p : PowerState) : (setPower p s).dop = s.dop := rfl
@[simp] theorem setPower_pcie (p : PowerState) : (setPower p s).pcie = s.pcie := rfl
@[simp] theorem setPower_run (p : PowerState) : (setPower p s).run = s.run := rfl
@[simp] theorem setPower_fail (p : PowerState) : (setPower p s).fail = s.fail := rfl
@[simp] theorem setPower_grp (p : PowerState) : (setPower p s).grp = s.grp := rfl
@[simp] theorem setPower_cores (p : PowerState) : (setPower p s).cores = s.cores := rfl
@[simp] theorem setPower_map (p : PowerState) : (setPower p s).map = s.map := rfl
@[simp] theorem setPower_mem (p : PowerState) : (setPower p s).mem = s.mem := rfl
@[simp] theorem setPower_noc (p : PowerState) : (setPower p s).noc = s.noc := rfl
@[simp] theorem setPower_trapped (p : PowerState) : (setPower p s).trapped = s.trapped := rfl
@[simp] theorem setPower_intg (p : PowerState) : (setPower p s).intg = s.intg := rfl
@[simp] theorem setPower_coreStats (p : PowerState) : (setPower p s).coreStats = s.coreStats := rfl
@[simp] theorem setPower_dieStats (p : PowerState) : (setPower p s).dieStats = s.dieStats := rfl
@[simp] theorem setPower_fab (p : PowerState) : (setPower p s).fab = s.fab := rfl
@[simp] theorem setPower_life (p : PowerState) : (setPower p s).life = s.life := rfl
@[simp] theorem setPower_cages (p : PowerState) : (setPower p s).cages = s.cages := rfl

/-! ### putIcache -/
@[simp] theorem putIcache_pending (c : CoreRef) (base : Nat) (bs : List Byte) : (putIcache c base bs s).pending = s.pending := rfl
@[simp] theorem putIcache_out (c : CoreRef) (base : Nat) (bs : List Byte) : (putIcache c base bs s).out = s.out := rfl
@[simp] theorem putIcache_free (c : CoreRef) (base : Nat) (bs : List Byte) : (putIcache c base bs s).free = s.free := rfl
@[simp] theorem putIcache_ids (c : CoreRef) (base : Nat) (bs : List Byte) : (putIcache c base bs s).ids = s.ids := rfl
@[simp] theorem putIcache_clk (c : CoreRef) (base : Nat) (bs : List Byte) : (putIcache c base bs s).clk = s.clk := rfl
@[simp] theorem putIcache_time (c : CoreRef) (base : Nat) (bs : List Byte) : (putIcache c base bs s).time = s.time := rfl
@[simp] theorem putIcache_pwr (c : CoreRef) (base : Nat) (bs : List Byte) : (putIcache c base bs s).pwr = s.pwr := rfl
@[simp] theorem putIcache_opt (c : CoreRef) (base : Nat) (bs : List Byte) : (putIcache c base bs s).opt = s.opt := rfl
@[simp] theorem putIcache_boot (c : CoreRef) (base : Nat) (bs : List Byte) : (putIcache c base bs s).boot = s.boot := rfl
@[simp] theorem putIcache_flash (c : CoreRef) (base : Nat) (bs : List Byte) : (putIcache c base bs s).flash = s.flash := rfl
@[simp] theorem putIcache_dop (c : CoreRef) (base : Nat) (bs : List Byte) : (putIcache c base bs s).dop = s.dop := rfl
@[simp] theorem putIcache_pcie (c : CoreRef) (base : Nat) (bs : List Byte) : (putIcache c base bs s).pcie = s.pcie := rfl
@[simp] theorem putIcache_run (c : CoreRef) (base : Nat) (bs : List Byte) : (putIcache c base bs s).run = s.run := rfl
@[simp] theorem putIcache_fail (c : CoreRef) (base : Nat) (bs : List Byte) : (putIcache c base bs s).fail = s.fail := rfl
@[simp] theorem putIcache_grp (c : CoreRef) (base : Nat) (bs : List Byte) : (putIcache c base bs s).grp = s.grp := rfl
@[simp] theorem putIcache_map (c : CoreRef) (base : Nat) (bs : List Byte) : (putIcache c base bs s).map = s.map := rfl
@[simp] theorem putIcache_mem (c : CoreRef) (base : Nat) (bs : List Byte) : (putIcache c base bs s).mem = s.mem := rfl
@[simp] theorem putIcache_noc (c : CoreRef) (base : Nat) (bs : List Byte) : (putIcache c base bs s).noc = s.noc := rfl
@[simp] theorem putIcache_trapped (c : CoreRef) (base : Nat) (bs : List Byte) : (putIcache c base bs s).trapped = s.trapped := rfl
@[simp] theorem putIcache_intg (c : CoreRef) (base : Nat) (bs : List Byte) : (putIcache c base bs s).intg = s.intg := rfl
@[simp] theorem putIcache_coreStats (c : CoreRef) (base : Nat) (bs : List Byte) : (putIcache c base bs s).coreStats = s.coreStats := rfl
@[simp] theorem putIcache_dieStats (c : CoreRef) (base : Nat) (bs : List Byte) : (putIcache c base bs s).dieStats = s.dieStats := rfl
@[simp] theorem putIcache_fab (c : CoreRef) (base : Nat) (bs : List Byte) : (putIcache c base bs s).fab = s.fab := rfl
@[simp] theorem putIcache_life (c : CoreRef) (base : Nat) (bs : List Byte) : (putIcache c base bs s).life = s.life := rfl
@[simp] theorem putIcache_cages (c : CoreRef) (base : Nat) (bs : List Byte) : (putIcache c base bs s).cages = s.cages := rfl

/-! ### writeResult -/
@[simp] theorem writeResult_pending (th : ThreadRef) (r : BitVec 5) (v : Word) (latency : Nat) : (writeResult th r v latency s).pending = s.pending := rfl
@[simp] theorem writeResult_out (th : ThreadRef) (r : BitVec 5) (v : Word) (latency : Nat) : (writeResult th r v latency s).out = s.out := rfl
@[simp] theorem writeResult_free (th : ThreadRef) (r : BitVec 5) (v : Word) (latency : Nat) : (writeResult th r v latency s).free = s.free := rfl
@[simp] theorem writeResult_ids (th : ThreadRef) (r : BitVec 5) (v : Word) (latency : Nat) : (writeResult th r v latency s).ids = s.ids := rfl
@[simp] theorem writeResult_clk (th : ThreadRef) (r : BitVec 5) (v : Word) (latency : Nat) : (writeResult th r v latency s).clk = s.clk := rfl
@[simp] theorem writeResult_time (th : ThreadRef) (r : BitVec 5) (v : Word) (latency : Nat) : (writeResult th r v latency s).time = s.time := rfl
@[simp] theorem writeResult_pwr (th : ThreadRef) (r : BitVec 5) (v : Word) (latency : Nat) : (writeResult th r v latency s).pwr = s.pwr := rfl
@[simp] theorem writeResult_opt (th : ThreadRef) (r : BitVec 5) (v : Word) (latency : Nat) : (writeResult th r v latency s).opt = s.opt := rfl
@[simp] theorem writeResult_boot (th : ThreadRef) (r : BitVec 5) (v : Word) (latency : Nat) : (writeResult th r v latency s).boot = s.boot := rfl
@[simp] theorem writeResult_flash (th : ThreadRef) (r : BitVec 5) (v : Word) (latency : Nat) : (writeResult th r v latency s).flash = s.flash := rfl
@[simp] theorem writeResult_dop (th : ThreadRef) (r : BitVec 5) (v : Word) (latency : Nat) : (writeResult th r v latency s).dop = s.dop := rfl
@[simp] theorem writeResult_pcie (th : ThreadRef) (r : BitVec 5) (v : Word) (latency : Nat) : (writeResult th r v latency s).pcie = s.pcie := rfl
@[simp] theorem writeResult_run (th : ThreadRef) (r : BitVec 5) (v : Word) (latency : Nat) : (writeResult th r v latency s).run = s.run := rfl
@[simp] theorem writeResult_fail (th : ThreadRef) (r : BitVec 5) (v : Word) (latency : Nat) : (writeResult th r v latency s).fail = s.fail := rfl
@[simp] theorem writeResult_grp (th : ThreadRef) (r : BitVec 5) (v : Word) (latency : Nat) : (writeResult th r v latency s).grp = s.grp := rfl
@[simp] theorem writeResult_map (th : ThreadRef) (r : BitVec 5) (v : Word) (latency : Nat) : (writeResult th r v latency s).map = s.map := rfl
@[simp] theorem writeResult_mem (th : ThreadRef) (r : BitVec 5) (v : Word) (latency : Nat) : (writeResult th r v latency s).mem = s.mem := rfl
@[simp] theorem writeResult_noc (th : ThreadRef) (r : BitVec 5) (v : Word) (latency : Nat) : (writeResult th r v latency s).noc = s.noc := rfl
@[simp] theorem writeResult_trapped (th : ThreadRef) (r : BitVec 5) (v : Word) (latency : Nat) : (writeResult th r v latency s).trapped = s.trapped := rfl
@[simp] theorem writeResult_intg (th : ThreadRef) (r : BitVec 5) (v : Word) (latency : Nat) : (writeResult th r v latency s).intg = s.intg := rfl
@[simp] theorem writeResult_coreStats (th : ThreadRef) (r : BitVec 5) (v : Word) (latency : Nat) : (writeResult th r v latency s).coreStats = s.coreStats := rfl
@[simp] theorem writeResult_dieStats (th : ThreadRef) (r : BitVec 5) (v : Word) (latency : Nat) : (writeResult th r v latency s).dieStats = s.dieStats := rfl
@[simp] theorem writeResult_fab (th : ThreadRef) (r : BitVec 5) (v : Word) (latency : Nat) : (writeResult th r v latency s).fab = s.fab := rfl
@[simp] theorem writeResult_life (th : ThreadRef) (r : BitVec 5) (v : Word) (latency : Nat) : (writeResult th r v latency s).life = s.life := rfl
@[simp] theorem writeResult_cages (th : ThreadRef) (r : BitVec 5) (v : Word) (latency : Nat) : (writeResult th r v latency s).cages = s.cages := rfl

/-! ### jump -/
@[simp] theorem jump_pending (th : ThreadRef) (target : Word) : (jump th target s).pending = s.pending := rfl
@[simp] theorem jump_out (th : ThreadRef) (target : Word) : (jump th target s).out = s.out := rfl
@[simp] theorem jump_free (th : ThreadRef) (target : Word) : (jump th target s).free = s.free := rfl
@[simp] theorem jump_ids (th : ThreadRef) (target : Word) : (jump th target s).ids = s.ids := rfl
@[simp] theorem jump_clk (th : ThreadRef) (target : Word) : (jump th target s).clk = s.clk := rfl
@[simp] theorem jump_time (th : ThreadRef) (target : Word) : (jump th target s).time = s.time := rfl
@[simp] theorem jump_pwr (th : ThreadRef) (target : Word) : (jump th target s).pwr = s.pwr := rfl
@[simp] theorem jump_opt (th : ThreadRef) (target : Word) : (jump th target s).opt = s.opt := rfl
@[simp] theorem jump_boot (th : ThreadRef) (target : Word) : (jump th target s).boot = s.boot := rfl
@[simp] theorem jump_flash (th : ThreadRef) (target : Word) : (jump th target s).flash = s.flash := rfl
@[simp] theorem jump_dop (th : ThreadRef) (target : Word) : (jump th target s).dop = s.dop := rfl
@[simp] theorem jump_pcie (th : ThreadRef) (target : Word) : (jump th target s).pcie = s.pcie := rfl
@[simp] theorem jump_run (th : ThreadRef) (target : Word) : (jump th target s).run = s.run := rfl
@[simp] theorem jump_fail (th : ThreadRef) (target : Word) : (jump th target s).fail = s.fail := rfl
@[simp] theorem jump_grp (th : ThreadRef) (target : Word) : (jump th target s).grp = s.grp := rfl
@[simp] theorem jump_map (th : ThreadRef) (target : Word) : (jump th target s).map = s.map := rfl
@[simp] theorem jump_mem (th : ThreadRef) (target : Word) : (jump th target s).mem = s.mem := rfl
@[simp] theorem jump_noc (th : ThreadRef) (target : Word) : (jump th target s).noc = s.noc := rfl
@[simp] theorem jump_trapped (th : ThreadRef) (target : Word) : (jump th target s).trapped = s.trapped := rfl
@[simp] theorem jump_intg (th : ThreadRef) (target : Word) : (jump th target s).intg = s.intg := rfl
@[simp] theorem jump_coreStats (th : ThreadRef) (target : Word) : (jump th target s).coreStats = s.coreStats := rfl
@[simp] theorem jump_dieStats (th : ThreadRef) (target : Word) : (jump th target s).dieStats = s.dieStats := rfl
@[simp] theorem jump_fab (th : ThreadRef) (target : Word) : (jump th target s).fab = s.fab := rfl
@[simp] theorem jump_life (th : ThreadRef) (target : Word) : (jump th target s).life = s.life := rfl
@[simp] theorem jump_cages (th : ThreadRef) (target : Word) : (jump th target s).cages = s.cages := rfl

/-! ### Accessors after their own update -/

@[simp] theorem getCore_putCore (c : CoreRef) (k : Core) : getCore (putCore s c k) c = k := by simp [getCore, putCore]
theorem getCore_putCore_ne {c c' : CoreRef} (k : Core) (h : coreKey c' ≠ coreKey c) : getCore (putCore s c k) c' = getCore s c' := by
  simp [getCore, putCore, mget_mset_ne _ _ _ h]
@[simp] theorem getThread_putThread (k : Core) (t : Nat) (x : Thread) : getThread (putThread k t x) t = x := by simp [getThread, putThread]
theorem getThread_putThread_ne (k : Core) {t t' : Nat} (x : Thread) (h : t' ≠ t) : getThread (putThread k t x) t' = getThread k t' := by
  simp [getThread, putThread, mget_mset_ne _ _ _ h]
@[simp] theorem threadOf_putThreadOf (th : ThreadRef) (x : Thread) : threadOf (putThreadOf s th x) th = x := by
  simp [threadOf, putThreadOf]
@[simp] theorem putCore_putCore (c : CoreRef) (k k' : Core) : putCore (putCore s c k) c k' = putCore s c k' := by simp [putCore]
@[simp] theorem putThread_putThread (k : Core) (t : Nat) (x y : Thread) : putThread (putThread k t x) t y = putThread k t y := by simp [putThread]
@[simp] theorem putThreadOf_putThreadOf (th : ThreadRef) (x y : Thread) : putThreadOf (putThreadOf s th x) th y = putThreadOf s th y := by
  simp [putThreadOf]
@[simp] theorem getCore_putThreadOf (th : ThreadRef) (x : Thread) :
    getCore (putThreadOf s th x) (coreOf th) = putThread (getCore s (coreOf th)) th.thread x := by simp [putThreadOf]
@[simp] theorem takeFree_free : (takeFree s).2.free = s.free + 1 := rfl
@[simp] theorem takeId_ids : (takeId s).2.ids = s.ids + 1 := rfl
@[simp] theorem emit_out (o : Output) : (emit s o).out = s.out ++ [o] := rfl

/-! ### Registers (R54) -/

@[simp] theorem reg_zero (t : Thread) : reg t 0 = 0 := by simp [reg]
theorem setReg_of_ne (t : Thread) {r : BitVec 5} (v : Word) (h : r ≠ 0) : setReg t r v = { t with regs := vset t.regs r.toNat v } := by
  simp only [setReg, if_neg h]
@[simp] theorem setReg_zero (t : Thread) (v : Word) : setReg t 0 v = t := rfl
theorem reg_setReg (t : Thread) (r : BitVec 5) (v : Word) : reg (setReg t r v) r = if r = 0 then 0 else v := by
  by_cases h : r = 0
  · simp only [reg, if_pos h]
  · rw [setReg_of_ne t v h]
    simp only [reg, if_neg h, vget_vset_self _ _ _ r.isLt]
theorem reg_setReg_ne (t : Thread) {r q : BitVec 5} (v : Word) (h : q ≠ r) : reg (setReg t r v) q = reg t q := by
  have hn : q.toNat ≠ r.toNat := fun e => h (BitVec.eq_of_toNat_eq e)
  by_cases h0 : r = 0
  · subst h0; rfl
  · rw [setReg_of_ne t v h0]
    by_cases hq : q = 0
    · simp only [reg, if_pos hq]
    · simp only [reg, if_neg hq, vget_vset_ne _ _ _ hn]

end Sys2Proof.Machine
end

