-- ==== Sys2Proof/Laws/Issue.lean ====
section
/-! SUPPORT. What an issue does (R47 to R49, R192): the frame of every instruction's meaning, the thread after it, and results and jumps after it. -/
namespace Sys2Proof.Machine

variable {th : ThreadRef} {w : BitVec 64} {s : State}

/-- A thread that may issue the word acts in the state after the issue. -/
theorem issueThen_next (k : State → State) (ht : th.wf = true) (hi : issuable s th w = true) : issueThen th w s k = .next (k (issued s th)) := by
  simp [issueThen, whenUnit, ht, hi]

/-- A word of another thread or of another pc changes nothing. -/
theorem issueThen_idle (k : State → State) (ht : th.wf = true) (hi : slotFor s th w = false) : issueThen th w s k = .next s := by
  simp [issueThen, whenUnit, ht, issuable, hi]

/-- A word that cannot be trusted does not issue: its line is discarded (R192). -/
theorem issueThen_bad (k : State → State) (ht : th.wf = true) (hi : slotFor s th w = true) (hb : th.line = .bad) :
    issueThen th w s k = .next (dropLine th s) := by
  simp [issueThen, whenUnit, ht, issuable, hi, hb]

/-- A thread that the module does not have is no event. -/
theorem issueThen_fault (k : State → State) (ht : th.wf = false) : issueThen th w s k = .fault .noSuchUnit := by
  simp [issueThen, whenUnit, ht]

theorem getCore_of_reports {t : State} (h : ReportsOnly s t) (c : CoreRef) : getCore t c = getCore s c := by
  simp only [getCore, h.cores_eq]

/-- A line that leaves the cache changes nothing of its core but the cache. -/
theorem getCore_dropLine (th : ThreadRef) (s : State) :
    getCore (dropLine th s) (coreOf th) =
      { getCore s (coreOf th) with icache := mdel (getCore s (coreOf th)).icache (icacheBase (threadOf s th).pc) } :=
  (getCore_of_reports (correctable_reports _ _) _).trans (getCore_putCore _ _ _)

@[simp] theorem threadOf_fetched (s : State) (th : ThreadRef) : threadOf (fetched s th) th = threadOf s th := by
  unfold fetched; split
  · simp only [threadOf, getCore_dropLine]; rfl
  · rfl

@[simp] theorem aclkOf_fetched (s : State) (th : ThreadRef) (die : Nat) : aclkOf (fetched s th) die = aclkOf s die := by
  have h : (fetched s th).clk = s.clk := by
    unfold fetched; split
    · exact (correctable_reports _ _).clk_eq
    · rfl
  simp only [aclkOf, h]

/-- The state after an issue, the issuing thread aside, is the one the claims name. -/
theorem issued_eq_afterIssue (s : State) (th : ThreadRef) : issued s th = afterIssue s th (passed (threadOf s th)) := by
  have hx := threadOf_fetched s th
  have hc := aclkOf_fetched s th th.die
  simp only [afterIssue, ← hx, ← hc]; rfl

/-- The core of the issuing thread. -/
theorem getCore_issued (s : State) (th : ThreadRef) :
    getCore (issued s th) (coreOf th) =
      putThread { getCore (fetched s th) (coreOf th) with issuedAt := some (aclkOf s th.die), search := (th.thread + 1) % 64 } th.thread
        (passed (threadOf s th)) := by
  simp [issued_eq_afterIssue, afterIssue]

@[simp] theorem threadOf_issued : threadOf (issued s th) th = { threadOf s th with pc := (threadOf s th).pc + 8, allocWait := false } := by
  rw [threadOf, getCore_issued]; simp [passed]

@[simp] theorem readReg_issued (r : BitVec 5) : readReg (issued s th) th r = readReg s th r := by
  simp [readReg, reg]

@[simp] theorem issuedPc_issued : issuedPc (issued s th) th = (threadOf s th).pc := by
  simp only [issuedPc, threadOf_issued, BitVec.add_sub_cancel]

@[simp] theorem aclkOf_issued (die : Nat) : aclkOf (issued s th) die = aclkOf s die := aclkOf_fetched s th die

/-- The register of a result holds it, s0 aside, and every other register is as it was. -/
theorem readReg_writeResult (r q : BitVec 5) (v : Word) (n : Nat) :
    readReg (writeResult th r v n s) th q = if q = r ∧ q ≠ 0 then v else readReg s th q := by
  simp only [readReg, writeResult, threadOf_putThreadOf]
  by_cases h0 : r = 0
  · subst h0; by_cases hq : q = 0 <;> simp [hq]
  · rw [if_neg h0]
    by_cases hq : q = r
    · subst hq
      rw [if_pos ⟨rfl, h0⟩]
      exact (reg_setReg (threadOf s th) q v).trans (if_neg h0)
    · rw [if_neg (fun h => hq h.1)]
      exact reg_setReg_ne (threadOf s th) v hq

/-! ### An issue in the terms of the claims -/

theorem threadOf_issued_passed (s : State) (th : ThreadRef) : threadOf (issued s th) th = passed (threadOf s th) := by simp [passed]

/-- A new form of the issuing thread. -/
theorem putThreadOf_issued (s : State) (th : ThreadRef) (x : Thread) : putThreadOf (issued s th) th x = afterIssue s th x := by
  simp [putThreadOf, issued_eq_afterIssue, afterIssue]

/-- A result of the issuing thread. -/
theorem writeResult_issued (s : State) (th : ThreadRef) (d : BitVec 5) (v : Word) (n : Nat) :
    writeResult th d v n (issued s th) = afterIssue s th (withResult (passed (threadOf s th)) (aclkOf s th.die) d v n) := by
  simp only [writeResult, threadOf_issued_passed, putThreadOf_issued, withResult, aclkOf_issued]
  split
  · rfl
  · rw [setReg_of_ne _ _ (by assumption)]

theorem sext_eq (f : Fields) : sext f = BitVec.ofInt 64 f.imm.toInt := by simp [sext, BitVec.signExtend]

/-- The address of the issuing thread's access. -/
theorem effectiveAddr_issued (s : State) (th : ThreadRef) (f : Fields) : effectiveAddr (issued s th) th f = addrOf s th f := by
  simp [effectiveAddr, addrOf, sext_eq]

/-- A trap of the issuing thread reports the address of its instruction. -/
theorem trapIssued_issued (s : State) (th : ThreadRef) (c a : Nat) :
    trapIssued th c a (issued s th) =
      trap (coreOf th) th.thread c a (threadOf s th).pc.toNat (afterIssue s th { threadOf s th with allocWait := false }) := by
  simp only [trapIssued, issuedPc_issued, threadOf_issued_passed, putThreadOf_issued, passed]

/-- A new form of the issuing thread's core. -/
theorem putCore_issued (s : State) (th : ThreadRef) (g : Core → Core) :
    putCore (issued s th) (coreOf th) (g (getCore (issued s th) (coreOf th))) = afterIssue s th (passed (threadOf s th)) g := by
  rw [getCore_issued]; simp [issued_eq_afterIssue, afterIssue]

end Sys2Proof.Machine
end

