-- ==== Sys2Proof/Laws/Memory.lean ====
section
/-! SUPPORT. The store (log 4): every operation over it keeps its canonical form, and what a byte reads as after one write. -/
namespace Sys2Proof.Machine

/-! ### The canonical form, in terms of keys -/

theorem cellsRising_iff (cs : List Host.Cell) : cellsRising cs = true ↔ keysRise cs := by
  induction cs with
  | nil => simp [cellsRising, keysRise]
  | cons e cs ih =>
    cases cs with
    | nil => simp [cellsRising, keysRise]
    | cons f cs =>
      obtain ⟨a, x⟩ := e
      obtain ⟨b, y⟩ := f
      simp only [cellsRising, Bool.and_eq_true, decide_eq_true_eq, ih]
      constructor
      · rintro ⟨hab, hr⟩
        refine List.pairwise_cons.mpr ⟨?_, hr⟩
        intro z hz
        rcases List.mem_cons.mp hz with rfl | hz
        · exact hab
        · exact Nat.lt_trans hab ((List.pairwise_cons.mp hr).1 z hz)
      · intro h
        have h' := List.pairwise_cons.mp h
        exact ⟨h'.1 b (List.mem_cons_self ..), h'.2⟩

/-- The canonical form: rising addresses, and a listed 0 only inside an area of undefined contents. -/
theorem memory_wf_iff (m : Memory) :
    m.wf = true ↔ keysRise m.cells ∧ ∀ c ∈ m.cells, c.2 ≠ 0 ∨ inUndef m c.1 = true := by
  simp [Memory.wf, cellsRising_iff]

theorem mem_mset {β : Type} (m : SMap β) (k : Nat) (v : β) (e : Nat × β) (h : e ∈ mset m k v) : e = (k, v) ∨ e ∈ m := by
  induction m with
  | nil => simp [mset] at h; exact .inl h
  | cons f m ih =>
    obtain ⟨a, w⟩ := f
    simp only [mset] at h
    split at h
    · simpa using h
    · split at h
      · simp only [List.mem_cons] at h ⊢; grind
      · simp only [List.mem_cons] at h ⊢; grind

/-! ### Operations that keep the form -/

/-- Changing only what stands beside the cells and the undefined areas keeps the form. -/
theorem wf_of_same {m m' : Memory} (hc : m'.cells = m.cells) (hu : m'.undef = m.undef) (h : m.wf = true) : m'.wf = true := by
  rw [memory_wf_iff] at h ⊢
  have hi (a : Nat) : inUndef m' a = inUndef m a := by simp [inUndef, hu]
  simpa [hc, hi] using h

theorem cellPut_wf (m : Memory) (a : Nat) (b : Byte) (h : m.wf = true) : (cellPut m a b).wf = true := by
  rw [memory_wf_iff] at h ⊢
  have hi (x : Nat) : inUndef (cellPut m a b) x = inUndef m x := rfl
  simp only [hi]
  simp only [cellPut]
  split
  · exact ⟨mdel_rises _ _ h.1, fun c hc => h.2 c ((mdel_sub _ _).subset hc)⟩
  · next hn =>
    refine ⟨mset_rises _ _ _ h.1, fun c hc => ?_⟩
    rcases mem_mset _ _ _ _ hc with rfl | hc
    · by_cases hb : b = 0
      · exact .inr (by simpa [hb] using hn)
      · exact .inl hb
    · exact h.2 c hc

theorem cellPutAll_wf (bs : List Byte) (a : Nat) (m : Memory) (h : m.wf = true) : (cellPutAll bs a m).wf = true := by
  induction bs generalizing a m with
  | nil => exact h
  | cons b bs ih => exact ih _ _ (cellPut_wf m a b h)

theorem addUndef_wf (m : Memory) (u : UndefArea) (h : m.wf = true) : (addUndef m u).wf = true := by
  rw [memory_wf_iff] at h ⊢
  refine ⟨?_, fun c hc => ?_⟩
  · exact h.1.sublist (List.filter_sublist.map _)
  · have hm : c ∈ m.cells := (List.mem_filter.mp hc).1
    refine (h.2 c hm).imp id (fun hu => ?_)
    simp only [inUndef, addUndef, List.any_cons, Bool.or_eq_true] at hu ⊢
    exact .inr hu

theorem makeUndef_wf (m : Memory) (lo hi : Nat) (h : m.wf = true) : (makeUndef m lo hi).wf = true := addUndef_wf m _ h
theorem makeUndefUnit_wf (m : Memory) (lo hi c : Nat) (p : Bool) (h : m.wf = true) : (makeUndefUnit m lo hi c p).wf = true := addUndef_wf m _ h

theorem setMergeList_wf (m : Memory) (a : Nat) (es : List MergeEntry) (h : m.wf = true) : (setMergeList m a es).wf = true := by
  simp only [setMergeList]
  split <;> exact wf_of_same rfl rfl h

theorem mergeInto_wf (m : Memory) (e : MergeEntry) (h : m.wf = true) : (mergeInto m e).wf = true := by
  simp only [mergeInto]
  generalize e.bytes = bs
  induction bs generalizing m with
  | nil => exact h
  | cons b bs ih => exact ih _ (cellPut_wf m _ _ h)

theorem retireEntry_wf (m : Memory) (e : MergeEntry) (h : m.wf = true) : (retireEntry m e).1.wf = true := by
  have h' := setMergeList_wf m e.base ((mergeList m e.base).filter (fun x => decide (x.base ≠ e.base))) h
  simp only [retireEntry]
  split
  · exact h'
  · exact mergeInto_wf _ e h'

theorem landNarrow_wf (m : Memory) (tick a : Nat) (bs : List Byte) (h : m.wf = true) : (landNarrow m tick a bs).1.wf = true := by
  simp only [landNarrow]
  split
  · exact setMergeList_wf _ _ _ h
  · split
    · split
      · exact setMergeList_wf _ _ _ h
      · exact setMergeList_wf _ _ _ (retireEntry_wf _ _ h)
    · exact setMergeList_wf _ _ _ h

theorem landWord_wf (m : Memory) (a : Nat) (bs : List Byte) (h : m.wf = true) : (landWord m a bs).wf = true :=
  cellPutAll_wf bs a _ (wf_of_same rfl rfl (setMergeList_wf m a _ h))

theorem landFuel_wf (fuel : Nat) (m : Memory) (tick a : Nat) (bs : List Byte) (h : m.wf = true) : (landFuel fuel m tick a bs).1.wf = true := by
  induction fuel generalizing m a bs with
  | zero => exact h
  | succ n ih =>
    simp only [landFuel]
    split
    · exact h
    · apply ih
      split
      · exact landWord_wf _ _ _ h
      · exact landNarrow_wf _ _ _ _ h

theorem landMem_wf (m : Memory) (tick a : Nat) (bs : List Byte) (h : m.wf = true) : (landMem m tick a bs).1.wf = true := landFuel_wf _ _ _ _ _ h

/-! ### Cells after a write -/

theorem cellByte_cellPut (m : Memory) (a : Nat) (b : Byte) (x : Nat) : cellByte (cellPut m a b) x = if x = a then b else cellByte m x := by
  have he : emptyByte (cellPut m a b) x = emptyByte m x := rfl
  simp only [cellByte, he]
  simp only [cellPut]
  by_cases h : b = 0 ∧ inUndef m a = false
  · rw [if_pos h]
    rw [mfind_mdel]
    by_cases hx : x = a
    · subst hx
      have hf : m.undef.find? (fun u => areaHas u x) = none := by
        have := h.2
        simp only [inUndef, List.any_eq_false] at this
        exact List.find?_eq_none.mpr this
      simp [emptyByte, hf, h.1]
    · simp [hx]
  · rw [if_neg h, mfind_mset]
    by_cases hx : x = a <;> simp [hx]

theorem cellByte_cellPutAll (bs : List Byte) (a : Nat) (m : Memory) (x : Nat) :
    cellByte (cellPutAll bs a m) x = if a ≤ x ∧ x < a + bs.length then bs.getD (x - a) 0 else cellByte m x := by
  induction bs generalizing a m with
  | nil =>
    have h : ¬(a ≤ x ∧ x < a + ([] : List Byte).length) := by simp only [List.length_nil]; omega
    rw [if_neg h, cellPutAll]
  | cons b bs ih =>
    simp only [cellPutAll, ih, cellByte_cellPut, List.length_cons]
    by_cases h2 : a + 1 ≤ x ∧ x < a + 1 + bs.length
    · have h3 : a ≤ x ∧ x < a + (bs.length + 1) := by omega
      have h4 : x - a = (x - (a + 1)) + 1 := by omega
      rw [if_pos h2, if_pos h3, h4, List.getD_cons_succ]
    · rw [if_neg h2]
      by_cases h1 : x = a
      · have h3 : a ≤ x ∧ x < a + (bs.length + 1) := by omega
        have h4 : x - a = 0 := by omega
        rw [if_pos h1, if_pos h3, h4, List.getD_cons_zero]
      · have h3 : ¬(a ≤ x ∧ x < a + (bs.length + 1)) := by omega
        rw [if_neg h1, if_neg h3]

end Sys2Proof.Machine
end

