-- ==== Sys2Proof/Laws/Landing.lean ====
section
/-! SUPPORT. What the merge buffers show: after a write lands, what every byte reads as, and that a store without uncorrectable words loses nothing (R187, R188, R192). -/
namespace Sys2Proof.Machine

theorem mergeKey_setMergeList (m : Memory) (a : Nat) (es) (x : Nat) : mergeKey (setMergeList m a es) x = mergeKey m x := by
  unfold setMergeList; split <;> rfl

theorem cellByte_setMergeList (m : Memory) (a : Nat) (es) (x : Nat) : cellByte (setMergeList m a es) x = cellByte m x := by
  unfold setMergeList; split <;> rfl

theorem setMergeList_bad (m : Memory) (a : Nat) (es) : (setMergeList m a es).bad = m.bad := by
  unfold setMergeList; split <;> rfl

/-- Two addresses share a merge buffer. -/
def SameBuffer (m : Memory) (a x : Nat) : Prop := (spmBase ≤ a ↔ spmBase ≤ x) ∧ mergeKey m a = mergeKey m x
theorem mget_mset_or_mdel (t : SMap (List MergeEntry)) (k k' : Nat) (es) :
   mget [] (if es = [] then mdel t k else mset t k es) k' = if k' = k then es else mget [] t k' := by
  unfold mget
  by_cases h : es = [] <;> by_cases hk : k' = k <;> simp [h, hk, mfind_mset, mfind_mdel]

open Classical in
theorem mergeList_setMergeList (m : Memory) (a : Nat) (es) (x : Nat) :
    mergeList (setMergeList m a es) x = if SameBuffer m a x then es else mergeList m x := by
  unfold mergeList
  rw [mergeKey_setMergeList]
  unfold SameBuffer setMergeList
  by_cases h1 : spmBase ≤ a <;> by_cases h2 : spmBase ≤ x <;> simp [h1, h2, mget_mset_or_mdel, eq_comm]

theorem mfind_mset_or_mdel (t : SMap (List MergeEntry)) (k k' : Nat) (es l) 
   (h : mfind (if es = [] then mdel t k else mset t k es) k' = some l) : (k' = k ∧ l = es) ∨ (mfind t k' = some l) := by
  by_cases h0 : es = [] <;> by_cases hk : k' = k <;> simp [h0, hk, mfind_mset, mfind_mdel] at h ⊢ <;> simp_all

theorem entryOk_congr {m m' : Memory} {b k e} (h : ∀ x, mergeKey m' x = mergeKey m x) : entryOk m' b k e ↔ entryOk m b k e := by
  unfold entryOk; rw [h]

theorem mergeOk_setMergeList {m : Memory} {a : Nat} {es} (h : MergeOk m) (he : ∀ e ∈ es, entryOk m (decide (spmBase ≤ a)) (mergeKey m a) e) : MergeOk (setMergeList m a es) := by
  constructor
  · intro k l hl e hm
    rw [entryOk_congr (fun x => mergeKey_setMergeList m a es x)]
    unfold setMergeList at hl
    split at hl
    · rename_i hs
      rcases mfind_mset_or_mdel _ _ _ _ _ hl with ⟨rfl, rfl⟩ | hl
      · have := he e hm; simpa [hs] using this
      · exact h.1 k l hl e hm
    · exact h.1 k l hl e hm
  · intro k l hl e hm
    rw [entryOk_congr (fun x => mergeKey_setMergeList m a es x)]
    unfold setMergeList at hl
    split at hl
    · exact h.2 k l hl e hm
    · rename_i hs
      rcases mfind_mset_or_mdel _ _ _ _ _ hl with ⟨rfl, rfl⟩ | hl
      · have := he e hm; simpa [hs] using this
      · exact h.2 k l hl e hm

theorem mergeList_entryOk {m : Memory} (h : MergeOk m) (a : Nat) : ∀ e ∈ mergeList m a, entryOk m (decide (spmBase ≤ a)) (mergeKey m a) e := by
  intro e he
  unfold mergeList mget at he
  split at he
  · rename_i hs
    cases hf : mfind m.spmMerge (mergeKey m a) with
    | none => simp [hf] at he
    | some l => simp [hf] at he; simpa [hs] using h.1 _ _ hf e he
  · rename_i hs
    cases hf : mfind m.tierMerge (mergeKey m a) with
    | none => simp [hf] at he
    | some l => simp [hf] at he; simpa [hs] using h.2 _ _ hf e he

theorem mergeOk_of_same {m m' : Memory} (h : MergeOk m) (h1 : m'.spmMerge = m.spmMerge) (h2 : m'.tierMerge = m.tierMerge) (h3 : ∀ x, mergeKey m' x = mergeKey m x) : MergeOk m' := by
  constructor
  · intro k l hl e hm; rw [entryOk_congr h3]; exact h.1 k l (h1 ▸ hl) e hm
  · intro k l hl e hm; rw [entryOk_congr h3]; exact h.2 k l (h2 ▸ hl) e hm

/-! ### Words -/

theorem wordBase_wordBase (a : Nat) : wordBase (wordBase a) = wordBase a := by
  unfold wordBase wordBytes tier2Base; split <;> split <;> omega
theorem wordBytes_wordBase (a : Nat) : wordBytes (wordBase a) = wordBytes a := by
  unfold wordBase wordBytes tier2Base; split <;> split <;> omega
theorem word_of_offset (b o : Nat) (hb : wordBase b = b) (ho : o < wordBytes b) : wordBase (b + o) = b ∧ wordBytes (b+o) = wordBytes b := by
  unfold wordBase wordBytes tier2Base at *; split at hb <;> split at ho <;> first | omega | (split <;> omega)
theorem wordBase_le (a : Nat) : wordBase a ≤ a ∧ a < wordBase a + wordBytes a := by
  unfold wordBase wordBytes; split <;> omega

theorem sameBuffer_of_wordBase (m : Memory) (a x : Nat) (h : wordBase a = wordBase x) : SameBuffer m a x := by
  have key : ∀ a, SameBuffer m (wordBase a) a := by
    intro a
    unfold SameBuffer mergeKey
    constructor
    · unfold wordBase wordBytes spmBase tier2Base; split <;> omega
    · by_cases h1 : a < tier2Base
      · have hb : wordBase a = a - a % 32 := by simp [wordBase, wordBytes, h1]
        have e1 : ¬ spmBase ≤ a := by unfold spmBase; unfold tier2Base at h1; omega
        have e2 : ¬ spmBase ≤ a - a % 32 := by omega
        have e3 : a - a % 32 < tier2Base := by omega
        rw [hb, if_neg e2, if_neg e1, if_pos e3, if_pos h1]
        have e4 : (a - a % 32) / 4096 = a / 4096 := by omega
        have e5 : (a - a % 32 < Config.tier1Bytes / 2) ↔ (a < Config.tier1Bytes / 2) := by unfold Config.tier1Bytes; omega
        unfold stackOf interleave
        simp only [e4, e5]
      · have hb : wordBase a = a - a % 8 := by simp [wordBase, wordBytes, h1]
        by_cases h2 : spmBase ≤ a
        · have e1 : spmBase ≤ a - a % 8 := by unfold spmBase at *; omega
          rw [hb, if_pos e1, if_pos h2]
          unfold storeDie storePhys storeOff spmBase
          omega
        · have e1 : ¬ spmBase ≤ a - a % 8 := by omega
          have e3 : ¬ a - a % 8 < tier2Base := by unfold tier2Base at *; omega
          rw [hb, if_neg e1, if_neg h2, if_neg e3, if_neg h1]
          have e6 : (a - a % 8 - tier2Base) / 4096 = (a - tier2Base) / 4096 := by unfold tier2Base at *; omega
          have e5 : (a - a % 8 - tier2Base < Config.tier2Bytes / 2) ↔ (a - tier2Base < Config.tier2Bytes / 2) := by unfold tier2Base at *; unfold Config.tier2Bytes; omega
          unfold channelOf interleave
          simp only [e6, e5]
  have h1 := key a
  have h2 := key x
  rw [h] at h1
  unfold SameBuffer at *
  constructor
  · exact h1.1.symm.trans h2.1
  · exact h1.2.symm.trans h2.2

theorem sameBuffer_symm {m a b} (h : SameBuffer m a b) : SameBuffer m b a := ⟨h.1.symm, h.2.symm⟩

theorem mergeList_sameBuffer {m a b} (h : SameBuffer m a b) : mergeList m a = mergeList m b := by
  unfold mergeList; rw [h.2]; by_cases h1 : spmBase ≤ a
  · rw [if_pos h1, if_pos (h.1.mp h1)]
  · rw [if_neg h1, if_neg (fun h2 => h1 (h.1.mpr h2))]

/-- The byte at an address that a list of entries shows, the store behind it. -/
def shownAt (m : Memory) (es : List MergeEntry) (x : Nat) : Byte :=
  match es.find? (fun e => decide (e.base = wordBase x)) with
  | some e => (mfind e.bytes (x - e.base)).getD (cellByte m x)
  | none => cellByte m x

theorem readByte_eq_shownAt (m x) : readByte m x = shownAt m (mergeList m x) x := rfl

theorem cellByte_mergeInto (bs : List (Nat × Byte)) (base : Nat) (m : Memory) (hp : (bs.map (fun b => b.1)).Pairwise (· < ·)) (x : Nat) :
   cellByte (bs.foldl (fun m (o, b) => cellPut m (base + o) b) m) x = if base ≤ x then (mfind bs (x - base)).getD (cellByte m x) else cellByte m x := by
  induction bs generalizing m with
  | nil => simp [mfind]
  | cons b bs ih =>
    obtain ⟨o, v⟩ := b
    have hp' := List.pairwise_cons.mp hp
    simp only [List.foldl_cons]
    rw [ih _ hp'.2, cellByte_cellPut]
    by_cases hx : base ≤ x
    · simp only [hx, if_true, mfind]
      by_cases ho : x - base = o
      · have : mfind bs (x - base) = none := by
          rw [ho]
          have hlt := hp'.1
          clear ih hp hp'
          induction bs with
          | nil => rfl
          | cons c bs ih2 =>
            have h1 := hlt c.1 (by simp)
            simp only [mfind, if_neg (show ¬ o = c.1 from Nat.ne_of_lt h1)]
            exact ih2 (fun y hy => hlt y (by simp at hy ⊢; exact .inr hy))
        have hxe : x = base + o := by omega
        rw [ho] at this ⊢; simp [this, hxe]
      · have : x ≠ base + o := by omega
        simp [ho, this]
    · have : x ≠ base + o := by omega
      simp [hx, this]

theorem mergeInto_keeps (bs : List (Nat × Byte)) (base : Nat) (m : Memory) :
   let m' := bs.foldl (fun m (o, b) => cellPut m (base + o) b) m
   m'.spmMerge = m.spmMerge ∧ m'.tierMerge = m.tierMerge ∧ m'.bad = m.bad ∧ (∀ x, mergeKey m' x = mergeKey m x) := by
  induction bs generalizing m with
  | nil => simp
  | cons b bs ih =>
    have := ih (cellPut m (base + b.1) b.2)
    simp only [List.foldl_cons]
    exact this

theorem mergeList_congr {m m' : Memory} (h1 : m'.spmMerge = m.spmMerge) (h2 : m'.tierMerge = m.tierMerge) (h3 : ∀ x, mergeKey m' x = mergeKey m x) (x) : mergeList m' x = mergeList m x := by
  unfold mergeList; rw [h1, h2, h3]

theorem find_filter_base_ne {es : List MergeEntry} {b c : Nat} (h : b ≠ c) :
   (es.filter (fun x => decide (x.base ≠ b))).find? (fun e => decide (e.base = c)) = es.find? (fun e => decide (e.base = c)) := by
  induction es with
  | nil => rfl
  | cons e es ih => grind

theorem find_filter_base_eq {es : List MergeEntry} {b : Nat} :
   (es.filter (fun x => decide (x.base ≠ b))).find? (fun e => decide (e.base = b)) = none := by
  simp

theorem shownAt_congr {m m' : Memory} {es x} (h : cellByte m' x = cellByte m x) : shownAt m' es x = shownAt m es x := by
  unfold shownAt; rw [h]

theorem shownAt_find {m : Memory} {es es' x} (h : es'.find? (fun e => decide (e.base = wordBase x)) = es.find? (fun e => decide (e.base = wordBase x))) : shownAt m es' x = shownAt m es x := by
  unfold shownAt; rw [h]

/-- Retiring an entry changes no byte that a reader sees (R188). -/
theorem retireEntry_reads {m : Memory} {e : MergeEntry} (h : MergeOk m) (hb : m.bad = []) (he : entryOk m (decide (spmBase ≤ e.base)) (mergeKey m e.base) e)
   (hf : (mergeList m e.base).find? (fun x => decide (x.base = e.base)) = some e) :
   MergeOk (retireEntry m e).1 ∧ (retireEntry m e).1.bad = [] ∧ (retireEntry m e).2 = none ∧ (∀ x, readByte (retireEntry m e).1 x = readByte m x)
   ∧ (∀ x, mergeList (retireEntry m e).1 x = mergeList (setMergeList m e.base ((mergeList m e.base).filter (fun x => decide (x.base ≠ e.base)))) x)
   ∧ (∀ x, mergeKey (retireEntry m e).1 x = mergeKey m x) := by
  have hs := setMergeList_bad m e.base ((mergeList m e.base).filter (fun x => decide (x.base ≠ e.base)))
  unfold retireEntry
  simp only [hs, hb, List.contains_nil, Bool.false_eq_true, if_false]
  generalize hm1 : setMergeList m e.base ((mergeList m e.base).filter (fun x => decide (x.base ≠ e.base))) = m1 at *
  have ok1 : MergeOk m1 := by
    rw [← hm1]; exact mergeOk_setMergeList h (fun q hq => mergeList_entryOk h e.base q (List.mem_filter.mp hq).1)
  have mi := mergeInto_keeps e.bytes e.base m1
  refine ⟨mergeOk_of_same ok1 mi.1 mi.2.1 mi.2.2.2, mi.2.2.1.trans (hs.trans hb), trivial, ?_, ?_, ?_⟩
  · intro x
    have hl : mergeList (mergeInto m1 e) x = mergeList m1 x := mergeList_congr mi.1 mi.2.1 mi.2.2.2 x
    have hc : cellByte (mergeInto m1 e) x = if e.base ≤ x then (mfind e.bytes (x - e.base)).getD (cellByte m1 x) else cellByte m1 x :=
      cellByte_mergeInto e.bytes e.base m1 he.2.2.2.1 x
    have hc1 : cellByte m1 x = cellByte m x := by rw [← hm1]; exact cellByte_setMergeList _ _ _ _
    rw [readByte_eq_shownAt, readByte_eq_shownAt, hl]
    by_cases hx : wordBase x = e.base
    · have sb : SameBuffer m e.base x := sameBuffer_of_wordBase m e.base x (by rw [he.2.2.1, hx])
      have l1 : mergeList m1 x = (mergeList m e.base).filter (fun x => decide (x.base ≠ e.base)) := by
        rw [← hm1, mergeList_setMergeList, if_pos sb]
      unfold shownAt
      rw [l1, hx, find_filter_base_eq, ← mergeList_sameBuffer sb, hf, hc, if_pos (by have := wordBase_le x; omega), hc1]
    · have hcell : cellByte (mergeInto m1 e) x = cellByte m x := by
        rw [hc]
        split
        · have : mfind e.bytes (x - e.base) = none := by
            cases hm : mfind e.bytes (x - e.base) with
            | none => rfl
            | some v =>
              exfalso
              have hmem : ∃ b ∈ e.bytes, b.1 = x - e.base := by
                clear hc hf he mi
                generalize e.bytes = bs at *
                induction bs with
                | nil => simp [mfind] at hm
                | cons c bs ih =>
                  simp only [mfind] at hm
                  by_cases hc : x - e.base = c.1
                  · exact ⟨c, by simp, hc.symm⟩
                  · rw [if_neg hc] at hm
                    obtain ⟨b, hb, hbe⟩ := ih hm
                    exact ⟨b, by simp [hb], hbe⟩
              obtain ⟨b, hb, hbe⟩ := hmem
              have h1 := he.2.2.2.2 b hb
              have := (word_of_offset e.base b.1 he.2.2.1 h1).1
              apply hx
              rw [hbe] at this
              rw [← this]; congr 1; omega
          simp [this, hc1]
        · exact hc1
      rw [shownAt_congr hcell]
      apply shownAt_find
      rw [← hm1, mergeList_setMergeList]
      split
      · rename_i sb
        rw [find_filter_base_ne (Ne.symm hx), mergeList_sameBuffer sb]
      · rfl
  · intro x; exact mergeList_congr mi.1 mi.2.1 mi.2.2.2 x
  · intro x; rw [show mergeKey (mergeInto m1 e) x = mergeKey m1 x from mi.2.2.2 x, ← hm1, mergeKey_setMergeList]

theorem mapIdx_eq_zipIdx (bs : List Byte) (o : Nat) : (bs.mapIdx (fun i b => (o + i, b))) = (bs.zipIdx o).map (fun (b, i) => (i, b)) := by
  apply List.ext_getElem
  · simp
  · intro i h1 h2; simp

theorem foldl_mset_bytes (bs : List Byte) (o : Nat) (acc : List (Nat × Byte)) :
    let r := (bs.mapIdx (fun i b => (o + i, b))).foldl (fun acc (o, b) => mset acc o b) acc
    (∀ k, mfind r k = if o ≤ k ∧ k < o + bs.length then some (bs.getD (k - o) 0) else mfind acc k) ∧
    (keysRise acc → keysRise r) ∧ (∀ b ∈ r, (b ∈ acc) ∨ (o ≤ b.1 ∧ b.1 < o + bs.length)) := by
  simp only [mapIdx_eq_zipIdx]
  induction bs generalizing o acc with
  | nil =>
    refine ⟨fun k => ?_, id, fun b hb => .inl hb⟩
    rw [if_neg (by simp only [List.length_nil]; omega)]
    try rfl
  | cons b bs ih =>
    have := ih (o+1) (mset acc o b)
    simp only [List.zipIdx_cons, List.map_cons, List.foldl_cons]
    refine ⟨?_, ?_, ?_⟩
    · intro k
      rw [this.1 k, mfind_mset]
      by_cases h : k = o
      · subst h; rw [if_neg (by omega), if_pos rfl, if_pos (by simp)]; simp
      · by_cases h2 : o + 1 ≤ k ∧ k < o + 1 + bs.length
        · have h3 : k - o = (k - (o+1)) + 1 := by omega
          rw [if_pos h2, if_pos (by simp; omega), h3, List.getD_cons_succ]
        · rw [if_neg h2, if_neg h, if_neg]; simp only [List.length_cons]; omega
    · intro h; exact this.2.1 (mset_rises _ _ _ h)
    · intro x hx
      rcases this.2.2 x hx with h | h
      · rcases mem_mset _ _ _ _ h with rfl | h
        · right; simp
        · exact .inl h
      · right; simp; omega

/-- A write that lies in one word: afterwards its bytes read as written and every other byte as before (R187, R188). -/
theorem landNarrow_reads (m : Memory) (tick a : Nat) (bs : List Byte) (h : MergeOk m) (hb : m.bad = []) (hl : a + bs.length ≤ wordBase a + wordBytes a) :
   MergeOk (landNarrow m tick a bs).1 ∧ (landNarrow m tick a bs).1.bad = [] ∧ (landNarrow m tick a bs).2 = [] ∧
   ∀ x, readByte (landNarrow m tick a bs).1 x = if a ≤ x ∧ x < a + bs.length then bs.getD (x - a) 0 else readByte m x := by
  have wa := wordBase_le a
  have wi := wordBase_wordBase a
  have wy := wordBytes_wordBase a
  have hx : ∀ x, (a ≤ x ∧ x < a + bs.length) ↔ (wordBase x = wordBase a ∧ a - wordBase a ≤ x - wordBase a ∧ x - wordBase a < a - wordBase a + bs.length) := by
    intro x
    constructor
    · intro hx
      refine ⟨?_, by omega, by omega⟩
      have h2 : x - wordBase a < wordBytes (wordBase a) := by omega
      have := (word_of_offset (wordBase a) (x - wordBase a) wi h2).1
      rw [← this]; congr 1; omega
    · rintro ⟨h1, h2, h3⟩
      have := wordBase_le x
      omega
  unfold landNarrow
  simp only
  split
  · rename_i old hf
    -- the word has an entry
    refine ⟨?_, ?_, rfl, ?_⟩
    · apply mergeOk_setMergeList h
      intro e he
      simp only [List.mem_map] at he
      obtain ⟨e0, he0, rfl⟩ := he
      have ho := mergeList_entryOk h a e0 he0
      split
      · rename_i hbase
        have fn := foldl_mset_bytes bs (a - wordBase a) e0.bytes
        refine ⟨ho.1, ho.2.1, ho.2.2.1, fn.2.1 ho.2.2.2.1, ?_⟩
        intro b hb2
        rcases fn.2.2 b hb2 with h1 | h1
        · exact ho.2.2.2.2 b h1
        · show b.1 < wordBytes e0.base
          rw [hbase]; omega
      · exact ho
    · rw [setMergeList_bad]; exact hb
    · intro x
      rw [readByte_eq_shownAt, readByte_eq_shownAt, mergeList_setMergeList]
      rw [shownAt_congr (cellByte_setMergeList _ _ _ _)]
      by_cases hw : wordBase x = wordBase a
      · have sb : SameBuffer m a x := sameBuffer_of_wordBase m a x hw.symm
        rw [if_pos sb, ← mergeList_sameBuffer sb]
        unfold shownAt
        rw [hw, hf]
        have hf2 : ((mergeList m a).map (fun e => if e.base = wordBase a then { e with bytes := (bs.mapIdx (fun i b => (a - wordBase a + i, b))).foldl (fun acc (o, b) => mset acc o b) e.bytes } else e)).find? (fun e => decide (e.base = wordBase a))
           = some { old with bytes := (bs.mapIdx (fun i b => (a - wordBase a + i, b))).foldl (fun acc (o, b) => mset acc o b) old.bytes } := by
          clear h
          generalize mergeList m a = es at *
          induction es with
          | nil => simp at hf
          | cons e es ih =>
            by_cases hbase : e.base = wordBase a
            · simp [hbase] at hf ⊢; subst hf; simp [hbase]
            · simp [hbase] at hf ⊢; simpa using ih hf
        rw [hf2]
        have hob : old.base = wordBase a := by simpa using List.find?_some hf
        simp only [hob]
        rw [(foldl_mset_bytes bs (a - wordBase a) old.bytes).1]
        have hxx := hx x
        simp only [hw, true_and] at hxx
        by_cases hin : a ≤ x ∧ x < a + bs.length
        · rw [if_pos (hxx.mp hin), if_pos hin]
          have hsub : x - wordBase a - (a - wordBase a) = x - a := by omega
          simp [hsub]
        · rw [if_neg (fun h => hin (hxx.mpr h)), if_neg hin]
      · rw [if_neg (fun h => hw ((hx x).mp h).1)]
        apply shownAt_find
        split
        · rename_i sb
          rw [← mergeList_sameBuffer sb]
          clear hf h
          generalize mergeList m a = es
          induction es with
          | nil => rfl
          | cons e es ih => grind
        · rfl
  · rename_i hf
    -- a new entry; m2 is the memory after a possible retirement
    have main : ∀ m2 : Memory, MergeOk m2 → m2.bad = [] → (∀ x, readByte m2 x = readByte m x) → (∀ x, mergeKey m2 x = mergeKey m x) →
        (mergeList m2 a).find? (fun e => decide (e.base = wordBase a)) = none →
        let m3 := setMergeList m2 a (mergeList m2 a ++ [⟨wordBase a, (bs.mapIdx (fun i b => (a - wordBase a + i, b))).foldl (fun acc (o, b) => mset acc o b) [], tick⟩])
        MergeOk m3 ∧ m3.bad = [] ∧ ∀ x, readByte m3 x = if a ≤ x ∧ x < a + bs.length then bs.getD (x - a) 0 else readByte m x := by
      intro m2 ok2 bad2 rd2 key2 no2
      have fn := foldl_mset_bytes bs (a - wordBase a) []
      refine ⟨?_, by rw [setMergeList_bad]; exact bad2, ?_⟩
      · apply mergeOk_setMergeList ok2
        intro e he
        rcases List.mem_append.mp he with he | he
        · exact mergeList_entryOk ok2 a e he
        · simp only [List.mem_singleton] at he
          subst he
          have sb := sameBuffer_of_wordBase m2 (wordBase a) a wi
          refine ⟨?_, sb.2, wi, fn.2.1 (by simp [keysRise]), ?_⟩
          · simp only [sb.1]
          · intro b hb2
            rcases fn.2.2 b hb2 with h1 | h1
            · simp at h1
            · show b.1 < wordBytes (wordBase a); omega
      · intro x
        rw [← rd2 x, readByte_eq_shownAt, readByte_eq_shownAt, mergeList_setMergeList]
        rw [shownAt_congr (cellByte_setMergeList _ _ _ _)]
        by_cases hw : wordBase x = wordBase a
        · have sb : SameBuffer m2 a x := sameBuffer_of_wordBase m2 a x hw.symm
          rw [if_pos sb, ← mergeList_sameBuffer sb]
          unfold shownAt
          rw [hw, List.find?_append, no2]
          simp only [Option.none_or, List.find?_cons, decide_true]
          rw [fn.1]
          have hxx := hx x
          simp only [hw, true_and] at hxx
          by_cases hin : a ≤ x ∧ x < a + bs.length
          · rw [if_pos (hxx.mp hin), if_pos hin]
            have hsub : x - wordBase a - (a - wordBase a) = x - a := by omega
            simp [hsub]
          · rw [if_neg (fun h => hin (hxx.mpr h)), if_neg hin]; simp [mfind]
        · rw [if_neg (fun h => hw ((hx x).mp h).1)]
          apply shownAt_find
          split
          · rename_i sb
            rw [← mergeList_sameBuffer sb, List.find?_append]
            simp [Ne.symm hw]
          · rfl
    by_cases hd : mergeDepth a ≤ (mergeList m a).length
    · rw [if_pos hd]
      cases hes : mergeList m a with
      | nil =>
        simp only
        have := main m h hb (fun _ => rfl) (fun _ => rfl) hf
        simpa [hes] using this
      | cons e rest =>
        simp only
        have heo : entryOk m (decide (spmBase ≤ a)) (mergeKey m a) e := mergeList_entryOk h a e (by rw [hes]; simp)
        have sb : SameBuffer m a e.base := by
          refine ⟨?_, heo.2.1.symm⟩
          have := heo.1; simpa using this.symm
        have heo2 : entryOk m (decide (spmBase ≤ e.base)) (mergeKey m e.base) e := by
          rw [heo.1, heo.2.1]; exact heo
        have rt := retireEntry_reads h hb heo2 (by rw [← mergeList_sameBuffer sb, hes]; simp)
        have := main (retireEntry m e).1 rt.1 rt.2.1 rt.2.2.2.1 rt.2.2.2.2.2 (by
          rw [rt.2.2.2.2.1, mergeList_setMergeList, if_pos (sameBuffer_symm sb), ← mergeList_sameBuffer sb]
          by_cases hbb : e.base = wordBase a
          · rw [hes] at hf; simp [hbb] at hf
          · rw [find_filter_base_ne hbb]; exact hf)
        rw [rt.2.2.1]
        exact ⟨this.1, this.2.1, rfl, this.2.2⟩
    · rw [if_neg hd]
      have := main m h hb (fun _ => rfl) (fun _ => rfl) hf
      exact ⟨this.1, this.2.1, rfl, this.2.2⟩

theorem cellPutAll_keeps (bs : List Byte) (a : Nat) (m : Memory) :
   (cellPutAll bs a m).spmMerge = m.spmMerge ∧ (cellPutAll bs a m).tierMerge = m.tierMerge ∧ (cellPutAll bs a m).bad = m.bad ∧ ∀ x, mergeKey (cellPutAll bs a m) x = mergeKey m x := by
  induction bs generalizing a m with
  | nil => simp [cellPutAll]
  | cons b bs ih => exact ih (a+1) (cellPut m a b)

/-- A write of a whole word (R187). -/
theorem landWord_reads (m : Memory) (a : Nat) (bs : List Byte) (h : MergeOk m) (hb : m.bad = []) (ha : wordBase a = a) (hl : bs.length = wordBytes a) :
   MergeOk (landWord m a bs) ∧ (landWord m a bs).bad = [] ∧
   ∀ x, readByte (landWord m a bs) x = if a ≤ x ∧ x < a + bs.length then bs.getD (x - a) 0 else readByte m x := by
  unfold landWord
  simp only
  generalize hm1 : setMergeList m a ((mergeList m a).filter (fun e => decide (e.base ≠ a))) = m1
  have b1 : m1.bad = [] := by rw [← hm1, setMergeList_bad]; exact hb
  have ok1 : MergeOk m1 := by
    rw [← hm1]; exact mergeOk_setMergeList h (fun q hq => mergeList_entryOk h a q (List.mem_filter.mp hq).1)
  have pm := cellPutAll_keeps bs a { m1 with bad := m1.bad.filter (fun b => decide (b ≠ a)) }
  refine ⟨mergeOk_of_same ok1 pm.1 pm.2.1 pm.2.2.2, by rw [pm.2.2.1]; simp [b1], ?_⟩
  intro x
  have hl2 : mergeList (cellPutAll bs a { m1 with bad := m1.bad.filter (fun b => decide (b ≠ a)) }) x = mergeList m1 x := mergeList_congr pm.1 pm.2.1 pm.2.2.2 x
  have hc := cellByte_cellPutAll bs a { m1 with bad := m1.bad.filter (fun b => decide (b ≠ a)) } x
  have hc1 : cellByte { m1 with bad := m1.bad.filter (fun b => decide (b ≠ a)) } x = cellByte m x := by
    rw [← cellByte_setMergeList m a ((mergeList m a).filter (fun e => decide (e.base ≠ a))) x, hm1]; rfl
  rw [hc1] at hc
  rw [readByte_eq_shownAt, readByte_eq_shownAt, hl2]
  have wx := wordBase_le x
  by_cases hw : wordBase x = a
  · have sb : SameBuffer m a x := sameBuffer_of_wordBase m a x (by rw [ha, hw])
    have hbx : wordBytes x = wordBytes a := by rw [← wordBytes_wordBase x, hw]
    have l1 : mergeList m1 x = (mergeList m a).filter (fun e => decide (e.base ≠ a)) := by rw [← hm1, mergeList_setMergeList, if_pos sb]
    rw [if_pos (by omega)]
    unfold shownAt
    rw [l1, hw, find_filter_base_eq]
    simp only
    rw [hc, if_pos (by omega)]
  · have hn : ¬ (a ≤ x ∧ x < a + bs.length) := by
      intro hin
      apply hw
      have := (word_of_offset a (x - a) ha (by omega)).1
      rw [← this]; congr 1; omega
    rw [if_neg hn] at hc ⊢
    rw [shownAt_congr hc]
    apply shownAt_find
    rw [← hm1, mergeList_setMergeList]
    split
    · rename_i sb
      rw [find_filter_base_ne (Ne.symm hw), mergeList_sameBuffer sb]
    · rfl

theorem retireEntry_clean {m : Memory} {e} (hb : m.bad = []) : (retireEntry m e).1.bad = [] ∧ (retireEntry m e).2 = none := by
  unfold retireEntry
  simp only [setMergeList_bad, hb, List.contains_nil, Bool.false_eq_true, if_false]
  exact ⟨(mergeInto_keeps _ _ _).2.2.1.trans ((setMergeList_bad _ _ _).trans hb), trivial⟩

theorem landNarrow_clean {m : Memory} {t a bs} (hb : m.bad = []) : (landNarrow m t a bs).1.bad = [] ∧ (landNarrow m t a bs).2 = [] := by
  unfold landNarrow; simp only
  split
  · exact ⟨(setMergeList_bad _ _ _).trans hb, rfl⟩
  · split
    · split
      · exact ⟨(setMergeList_bad _ _ _).trans hb, rfl⟩
      · have := retireEntry_clean (m := m) (e := by assumption) hb
        simp [setMergeList_bad, this.1, this.2]
    · exact ⟨(setMergeList_bad _ _ _).trans hb, rfl⟩

theorem landFuel_clean (n : Nat) (m : Memory) (tick a : Nat) (bs : List Byte) (hb : m.bad = []) :
   (landFuel n m tick a bs).1.bad = [] ∧ (landFuel n m tick a bs).2 = [] := by
  induction n generalizing m a bs with
  | zero => exact ⟨hb, rfl⟩
  | succ n ih =>
    simp only [landFuel]
    split
    · exact ⟨hb, rfl⟩
    · split
      · have := ih (landWord m a (bs.take (Nat.min bs.length (wordBase a + wordBytes a - a)))) (a + Nat.min bs.length (wordBase a + wordBytes a - a)) (bs.drop (Nat.min bs.length (wordBase a + wordBytes a - a))) (by
          unfold landWord; simp only; rw [(cellPutAll_keeps _ _ _).2.2.1]; simp [setMergeList_bad, hb])
        simpa using this
      · have nb := landNarrow_clean (m := m) (t := tick) (a := a) (bs := bs.take (Nat.min bs.length (wordBase a + wordBytes a - a))) hb
        have := ih _ (a + Nat.min bs.length (wordBase a + wordBytes a - a)) (bs.drop (Nat.min bs.length (wordBase a + wordBytes a - a))) nb.1
        simp [this, nb.2]

/-- A write loses no bytes and makes no word uncorrectable in a store without uncorrectable words. -/
theorem landMem_clean (m : Memory) (tick a : Nat) (bs : List Byte) (hb : m.bad = []) : (landMem m tick a bs).1.bad = [] ∧ (landMem m tick a bs).2 = [] := landFuel_clean _ _ _ _ _ hb

/-- A landing write changes the memory, the flags that sleepers await, and nothing else, in a store without uncorrectable words. -/
theorem landQuiet_clean (a : Nat) (bs : List Byte) (s : State) (h : Clean s) :
   landQuiet a bs s = flagWrite a bs.length { s with mem := (landMem s.mem (landTime s a) a bs).1 } := by
  unfold landQuiet
  have e := (landMem_clean s.mem (landTime s a) a bs h).2
  rcases hm : landMem s.mem (landTime s a) a bs with ⟨m, l⟩
  rw [hm] at e
  subst e; rfl

@[simp] theorem flagWrite_mem (a n : Nat) (s : State) : (flagWrite a n s).mem = s.mem := by
  unfold flagWrite; split
  · rfl
  · split <;> rfl
@[simp] theorem flagWrite_intg (a n : Nat) (s : State) : (flagWrite a n s).intg = s.intg := by
  unfold flagWrite; split
  · rfl
  · split <;> rfl
/-- No thread awaits a word outside the SPMs: a write there reaches no sleeper. -/
theorem flagWrite_tier {a n : Nat} {s : State} (h : a < spmBase) : flagWrite a n s = s := by
  unfold flagWrite; rw [if_pos (.inl h)]

theorem settleLost_none {s : State} (hl : s.intg.lost = []) (hm : s.intg.missed = []) : settleLost s = s := by
  unfold settleLost; rw [if_pos ⟨hl, hm⟩]

/-- In a store without uncorrectable words, with no lost write waiting for its step fault, a landing write changes the memory and the awaited flags alone. -/
theorem land_clean (a : Nat) (bs : List Byte) (s : State) (h : Clean s) (hl : s.intg.lost = []) (hm : s.intg.missed = []) :
   land a bs s = flagWrite a bs.length { s with mem := (landMem s.mem (landTime s a) a bs).1 } := by
  unfold land; rw [landQuiet_clean a bs s h, settleLost_none] <;> simpa

/-- What a landing write leaves in memory. -/
theorem land_mem (a : Nat) (bs : List Byte) (s : State) (h : Clean s) (hl : s.intg.lost = []) (hm : s.intg.missed = []) :
   (land a bs s).mem = (landMem s.mem (landTime s a) a bs).1 := by
  rw [land_clean a bs s h hl hm, flagWrite_mem]

theorem clean_after_land {a bs s} (h : Clean s) (hl : s.intg.lost = []) (hm : s.intg.missed = []) : Clean (land a bs s) := by
  unfold Clean; rw [land_mem a bs s h hl hm]; exact (landMem_clean _ _ _ _ h).1

theorem badIn_none {m : Memory} (h : m.bad = []) (a n) : badIn m a n = none := by simp [badIn, h]
theorem firstBad_none {m : Memory} (h : m.bad = []) (rs) : firstBad m [] rs = none := by
  induction rs with
  | nil => rfl
  | cons r rs ih => obtain ⟨a, n⟩ := r; simp [firstBad, badIn_none h, ih]
/-- A read of a store without uncorrectable words finds nothing. -/
theorem checkRead_clean {s : State} (h : Clean s) (p d rs) : checkRead .ok p d rs s = (s, none) := by
  have e : s.mem.bad = [] := h
  simp [checkRead, findings, readParities, Chk.ok, firstBad_none e]

end Sys2Proof.Machine
end

