-- ==== Sys2Proof/Laws/PerInstr.lean ====
section
/-! SUPPORT. One lemma per command about its operands as syntax. -/

/-- The die that a command names: of its thread, of its core, or directly. -/
def Sys2Proof.Instr.dieNamed : Sys2Proof.Instr → Option Nat
  | .nop th _ => some th.die
  | .add th _ => some th.die
  | .sub th _ => some th.die
  | .and th _ => some th.die
  | .or th _ => some th.die
  | .xor th _ => some th.die
  | .shl th _ => some th.die
  | .shr th _ => some th.die
  | .sra th _ => some th.die
  | .mul th _ => some th.die
  | .mulhu th _ => some th.die
  | .mulh th _ => some th.die
  | .min th _ => some th.die
  | .max th _ => some th.die
  | .slt th _ => some th.die
  | .sltu th _ => some th.die
  | .addi th _ => some th.die
  | .andi th _ => some th.die
  | .ori th _ => some th.die
  | .xori th _ => some th.die
  | .shli th _ => some th.die
  | .shri th _ => some th.die
  | .srai th _ => some th.die
  | .li th _ => some th.die
  | .lui th _ => some th.die
  | .seq th _ => some th.die
  | .ld th _ => some th.die
  | .ldU th _ => some th.die
  | .st th _ _ => some th.die
  | .cacheDrop th _ => some th.die
  | .rdspec th _ => some th.die
  | .loadReturn c _ _ => some c.die
  | .br th _ => some th.die
  | .beq th _ => some th.die
  | .bne th _ => some th.die
  | .blt th _ => some th.die
  | .bge th _ => some th.die
  | .bltu th _ => some th.die
  | .bgeu th _ => some th.die
  | .call th _ => some th.die
  | .jr th _ => some th.die
  | .texit th _ => some th.die
  | .brk th _ => some th.die
  | .illegalInstruction th _ => some th.die
  | .mxaFill th _ _ => some th.die
  | .mxaRun th _ _ => some th.die
  | .mxaDrain th _ _ => some th.die
  | .acsAlloc th _ => some th.die
  | .acsAllocGrant th _ => some th.die
  | .acsFree th _ => some th.die
  | .acsRowsRelease c _ => some c.die
  | .mxaSync th _ => some th.die
  | .mxaSyncWake th => some th.die
  | .fillBegin c _ => some c.die
  | .fillComplete c => some c.die
  | .runBegin c _ => some c.die
  | .runComplete c => some c.die
  | .drainBegin c _ => some c.die
  | .drainComplete c => some c.die
  | .vadd th _ => some th.die
  | .vsub th _ => some th.die
  | .vmul th _ => some th.die
  | .vfma th _ => some th.die
  | .vmax th _ => some th.die
  | .vmin th _ => some th.die
  | .vabs th _ => some th.die
  | .vneg th _ => some th.die
  | .vcvt th _ => some th.die
  | .vexp th _ => some th.die
  | .vlog th _ => some th.die
  | .vrcp th _ => some th.die
  | .vrsqrt th _ => some th.die
  | .vtanh th _ => some th.die
  | .vsigmoid th _ => some th.die
  | .vectorBegin c _ => some c.die
  | .vectorComplete c => some c.die
  | .dmaPush th _ _ => some th.die
  | .dmaStat th _ => some th.die
  | .dmaDescriptorBegin c _ _ => some c.die
  | .dmaDescriptorComplete c _ => some c.die
  | .fenceLocal th _ => some th.die
  | .fenceLocalWake th => some th.die
  | .waitflag th _ _ => some th.die
  | .waitflagRetest th _ => some th.die
  | .waitflagTimeout th => some th.die
  | .ksel th _ => some th.die
  | .setep th _ => some th.die
  | .aadd th _ => some th.die
  | .amax th _ => some th.die
  | .amin th _ => some th.die
  | .axchg th _ => some th.die
  | .acas th _ => some th.die
  | .colStart th _ _ => some th.die
  | .bar th _ => some th.die
  | .sred th _ => some th.die
  | .colWait th _ => some th.die
  | .glideReleaseWake c _ _ => some c.die
  | .collectiveComplete c _ _ => some c.die
  | .kernelBoundary c => some c.die
  | .kernelDescriptorArrive c _ => some c.die
  | .gateRelease c => some c.die
  | .spmMergeRetire die _ _ _ => some die
  | .hrcMissFill c _ _ => some c.die
  | .cacheDropComplete c _ => some c.die
  | .controlPacketRoute die _ => some die
  | .dataPacketRoute die _ => some die
  | .multicastForward die => some die
  | .writePacket die _ => some die
  | .reducePacket die _ => some die
  | .combiningSlotFlush die _ => some die
  | .chainPacket die _ => some die
  | .finalWrite die _ => some die
  | .glideBarrier die => some die
  | .glideSred die => some die
  | .collCtrlSig die => some die
  | .collCtrlAbort die => some die
  | .collCtrlDone die => some die
  | .objReq die => some die
  | .objRsp die => some die
  | .pisteUpdateWriteEntry die => some die
  | .pisteUpdateSetEpoch die => some die
  | .pisteUpdateSetId die => some die
  | .timeSync die => some die
  | .unreachable die => some die
  | .pisteFault die => some die
  | .fieldTestEnd die _ => some die
  | .mgmtHandoverComplete die _ => some die
  | .instructionFetchReturn th _ => some th.die
  | _ => none

namespace Sys2Proof.Laws.WellFormedness
open Sys2Proof

/-- A well-formed command names no die but 0 and 1 (R14). -/
def Statement (i : Instr) : Prop := ∀ d, i.dieNamed = some d → i.wf = true → d < Config.dies

theorem first {a b : Bool} (h : (a && b) = true) : a = true := ((Bool.and_eq_true a b).mp h).1
theorem die_lt {die d : Nat} (h : some die = some d) (w : dieOk die = true) : d < Config.dies := by
  cases h
  exact of_decide_eq_true w
theorem thread_lt {th : ThreadRef} {d : Nat} (h : some th.die = some d) (w : th.wf = true) : d < Config.dies := die_lt h (first (first w))
theorem core_lt {c : CoreRef} {d : Nat} (h : some c.die = some d) (w : c.wf = true) : d < Config.dies := die_lt h (first w)

theorem nop (a0 : ThreadRef) (a1 : Fields) : Statement (.nop a0 a1) := fun _ h w => thread_lt h w
theorem add (a0 : ThreadRef) (a1 : Fields) : Statement (.add a0 a1) := fun _ h w => thread_lt h w
theorem sub (a0 : ThreadRef) (a1 : Fields) : Statement (.sub a0 a1) := fun _ h w => thread_lt h w
theorem and (a0 : ThreadRef) (a1 : Fields) : Statement (.and a0 a1) := fun _ h w => thread_lt h w
theorem or (a0 : ThreadRef) (a1 : Fields) : Statement (.or a0 a1) := fun _ h w => thread_lt h w
theorem xor (a0 : ThreadRef) (a1 : Fields) : Statement (.xor a0 a1) := fun _ h w => thread_lt h w
theorem shl (a0 : ThreadRef) (a1 : Fields) : Statement (.shl a0 a1) := fun _ h w => thread_lt h w
theorem shr (a0 : ThreadRef) (a1 : Fields) : Statement (.shr a0 a1) := fun _ h w => thread_lt h w
theorem sra (a0 : ThreadRef) (a1 : Fields) : Statement (.sra a0 a1) := fun _ h w => thread_lt h w
theorem mul (a0 : ThreadRef) (a1 : Fields) : Statement (.mul a0 a1) := fun _ h w => thread_lt h w
theorem mulhu (a0 : ThreadRef) (a1 : Fields) : Statement (.mulhu a0 a1) := fun _ h w => thread_lt h w
theorem mulh (a0 : ThreadRef) (a1 : Fields) : Statement (.mulh a0 a1) := fun _ h w => thread_lt h w
theorem min (a0 : ThreadRef) (a1 : Fields) : Statement (.min a0 a1) := fun _ h w => thread_lt h w
theorem max (a0 : ThreadRef) (a1 : Fields) : Statement (.max a0 a1) := fun _ h w => thread_lt h w
theorem slt (a0 : ThreadRef) (a1 : Fields) : Statement (.slt a0 a1) := fun _ h w => thread_lt h w
theorem sltu (a0 : ThreadRef) (a1 : Fields) : Statement (.sltu a0 a1) := fun _ h w => thread_lt h w
theorem addi (a0 : ThreadRef) (a1 : Fields) : Statement (.addi a0 a1) := fun _ h w => thread_lt h w
theorem andi (a0 : ThreadRef) (a1 : Fields) : Statement (.andi a0 a1) := fun _ h w => thread_lt h w
theorem ori (a0 : ThreadRef) (a1 : Fields) : Statement (.ori a0 a1) := fun _ h w => thread_lt h w
theorem xori (a0 : ThreadRef) (a1 : Fields) : Statement (.xori a0 a1) := fun _ h w => thread_lt h w
theorem shli (a0 : ThreadRef) (a1 : Fields) : Statement (.shli a0 a1) := fun _ h w => thread_lt h w
theorem shri (a0 : ThreadRef) (a1 : Fields) : Statement (.shri a0 a1) := fun _ h w => thread_lt h w
theorem srai (a0 : ThreadRef) (a1 : Fields) : Statement (.srai a0 a1) := fun _ h w => thread_lt h w
theorem li (a0 : ThreadRef) (a1 : Fields) : Statement (.li a0 a1) := fun _ h w => thread_lt h w
theorem lui (a0 : ThreadRef) (a1 : Fields) : Statement (.lui a0 a1) := fun _ h w => thread_lt h w
theorem seq (a0 : ThreadRef) (a1 : Fields) : Statement (.seq a0 a1) := fun _ h w => thread_lt h w
theorem ld (a0 : ThreadRef) (a1 : Fields) : Statement (.ld a0 a1) := fun _ h w => thread_lt h w
theorem ldU (a0 : ThreadRef) (a1 : Fields) : Statement (.ldU a0 a1) := fun _ h w => thread_lt h w
theorem st (a0 : ThreadRef) (a1 : Fields) (a2 : Chk) : Statement (.st a0 a1 a2) := fun _ h w => thread_lt h w
theorem cacheDrop (a0 : ThreadRef) (a1 : Fields) : Statement (.cacheDrop a0 a1) := fun _ h w => thread_lt h w
theorem rdspec (a0 : ThreadRef) (a1 : Fields) : Statement (.rdspec a0 a1) := fun _ h w => thread_lt h w
theorem loadReturn (a0 : CoreRef) (a1 : Nat) (a2 : Chk) : Statement (.loadReturn a0 a1 a2) := fun _ h w => core_lt h w
theorem br (a0 : ThreadRef) (a1 : Fields) : Statement (.br a0 a1) := fun _ h w => thread_lt h w
theorem beq (a0 : ThreadRef) (a1 : Fields) : Statement (.beq a0 a1) := fun _ h w => thread_lt h w
theorem bne (a0 : ThreadRef) (a1 : Fields) : Statement (.bne a0 a1) := fun _ h w => thread_lt h w
theorem blt (a0 : ThreadRef) (a1 : Fields) : Statement (.blt a0 a1) := fun _ h w => thread_lt h w
theorem bge (a0 : ThreadRef) (a1 : Fields) : Statement (.bge a0 a1) := fun _ h w => thread_lt h w
theorem bltu (a0 : ThreadRef) (a1 : Fields) : Statement (.bltu a0 a1) := fun _ h w => thread_lt h w
theorem bgeu (a0 : ThreadRef) (a1 : Fields) : Statement (.bgeu a0 a1) := fun _ h w => thread_lt h w
theorem call (a0 : ThreadRef) (a1 : Fields) : Statement (.call a0 a1) := fun _ h w => thread_lt h w
theorem jr (a0 : ThreadRef) (a1 : Fields) : Statement (.jr a0 a1) := fun _ h w => thread_lt h w
theorem texit (a0 : ThreadRef) (a1 : Fields) : Statement (.texit a0 a1) := fun _ h w => thread_lt h w
theorem brk (a0 : ThreadRef) (a1 : Fields) : Statement (.brk a0 a1) := fun _ h w => thread_lt h w
theorem illegalInstruction (a0 : ThreadRef) (a1 : BitVec 64) : Statement (.illegalInstruction a0 a1) := fun _ h w => thread_lt h w
theorem mxaFill (a0 : ThreadRef) (a1 : Fields) (a2 : Chk) : Statement (.mxaFill a0 a1 a2) := fun _ h w => thread_lt h w
theorem mxaRun (a0 : ThreadRef) (a1 : Fields) (a2 : Chk) : Statement (.mxaRun a0 a1 a2) := fun _ h w => thread_lt h w
theorem mxaDrain (a0 : ThreadRef) (a1 : Fields) (a2 : Chk) : Statement (.mxaDrain a0 a1 a2) := fun _ h w => thread_lt h w
theorem acsAlloc (a0 : ThreadRef) (a1 : Fields) : Statement (.acsAlloc a0 a1) := fun _ h w => thread_lt h w
theorem acsAllocGrant (a0 : ThreadRef) (a1 : Fields) : Statement (.acsAllocGrant a0 a1) := fun _ h w => thread_lt h w
theorem acsFree (a0 : ThreadRef) (a1 : Fields) : Statement (.acsFree a0 a1) := fun _ h w => thread_lt h w
theorem acsRowsRelease (a0 : CoreRef) (a1 : Nat) : Statement (.acsRowsRelease a0 a1) := fun _ h w => core_lt h w
theorem mxaSync (a0 : ThreadRef) (a1 : Fields) : Statement (.mxaSync a0 a1) := fun _ h w => thread_lt h w
theorem mxaSyncWake (a0 : ThreadRef) : Statement (.mxaSyncWake a0) := fun _ h w => thread_lt h w
theorem fillBegin (a0 : CoreRef) (a1 : Chk) : Statement (.fillBegin a0 a1) := fun _ h w => core_lt h w
theorem fillComplete (a0 : CoreRef) : Statement (.fillComplete a0) := fun _ h w => core_lt h w
theorem runBegin (a0 : CoreRef) (a1 : Chk) : Statement (.runBegin a0 a1) := fun _ h w => core_lt h w
theorem runComplete (a0 : CoreRef) : Statement (.runComplete a0) := fun _ h w => core_lt h w
theorem drainBegin (a0 : CoreRef) (a1 : Chk) : Statement (.drainBegin a0 a1) := fun _ h w => core_lt h w
theorem drainComplete (a0 : CoreRef) : Statement (.drainComplete a0) := fun _ h w => core_lt h w
theorem vadd (a0 : ThreadRef) (a1 : Fields) : Statement (.vadd a0 a1) := fun _ h w => thread_lt h w
theorem vsub (a0 : ThreadRef) (a1 : Fields) : Statement (.vsub a0 a1) := fun _ h w => thread_lt h w
theorem vmul (a0 : ThreadRef) (a1 : Fields) : Statement (.vmul a0 a1) := fun _ h w => thread_lt h w
theorem vfma (a0 : ThreadRef) (a1 : Fields) : Statement (.vfma a0 a1) := fun _ h w => thread_lt h w
theorem vmax (a0 : ThreadRef) (a1 : Fields) : Statement (.vmax a0 a1) := fun _ h w => thread_lt h w
theorem vmin (a0 : ThreadRef) (a1 : Fields) : Statement (.vmin a0 a1) := fun _ h w => thread_lt h w
theorem vabs (a0 : ThreadRef) (a1 : Fields) : Statement (.vabs a0 a1) := fun _ h w => thread_lt h w
theorem vneg (a0 : ThreadRef) (a1 : Fields) : Statement (.vneg a0 a1) := fun _ h w => thread_lt h w
theorem vcvt (a0 : ThreadRef) (a1 : Fields) : Statement (.vcvt a0 a1) := fun _ h w => thread_lt h w
theorem vexp (a0 : ThreadRef) (a1 : Fields) : Statement (.vexp a0 a1) := fun _ h w => thread_lt h w
theorem vlog (a0 : ThreadRef) (a1 : Fields) : Statement (.vlog a0 a1) := fun _ h w => thread_lt h w
theorem vrcp (a0 : ThreadRef) (a1 : Fields) : Statement (.vrcp a0 a1) := fun _ h w => thread_lt h w
theorem vrsqrt (a0 : ThreadRef) (a1 : Fields) : Statement (.vrsqrt a0 a1) := fun _ h w => thread_lt h w
theorem vtanh (a0 : ThreadRef) (a1 : Fields) : Statement (.vtanh a0 a1) := fun _ h w => thread_lt h w
theorem vsigmoid (a0 : ThreadRef) (a1 : Fields) : Statement (.vsigmoid a0 a1) := fun _ h w => thread_lt h w
theorem vectorBegin (a0 : CoreRef) (a1 : Chk) : Statement (.vectorBegin a0 a1) := fun _ h w => core_lt h w
theorem vectorComplete (a0 : CoreRef) : Statement (.vectorComplete a0) := fun _ h w => core_lt h w
theorem dmaPush (a0 : ThreadRef) (a1 : Fields) (a2 : Chk) : Statement (.dmaPush a0 a1 a2) := fun _ h w => thread_lt h w
theorem dmaStat (a0 : ThreadRef) (a1 : Fields) : Statement (.dmaStat a0 a1) := fun _ h w => thread_lt h w
theorem dmaDescriptorBegin (a0 : CoreRef) (a1 : Nat) (a2 : Chk) : Statement (.dmaDescriptorBegin a0 a1 a2) := fun _ h w => core_lt h (first w)
theorem dmaDescriptorComplete (a0 : CoreRef) (a1 : Nat) : Statement (.dmaDescriptorComplete a0 a1) := fun _ h w => core_lt h (first w)
theorem fenceLocal (a0 : ThreadRef) (a1 : Fields) : Statement (.fenceLocal a0 a1) := fun _ h w => thread_lt h w
theorem fenceLocalWake (a0 : ThreadRef) : Statement (.fenceLocalWake a0) := fun _ h w => thread_lt h w
theorem waitflag (a0 : ThreadRef) (a1 : Fields) (a2 : Chk) : Statement (.waitflag a0 a1 a2) := fun _ h w => thread_lt h w
theorem waitflagRetest (a0 : ThreadRef) (a1 : Chk) : Statement (.waitflagRetest a0 a1) := fun _ h w => thread_lt h w
theorem waitflagTimeout (a0 : ThreadRef) : Statement (.waitflagTimeout a0) := fun _ h w => thread_lt h w
theorem ksel (a0 : ThreadRef) (a1 : Fields) : Statement (.ksel a0 a1) := fun _ h w => thread_lt h w
theorem setep (a0 : ThreadRef) (a1 : Fields) : Statement (.setep a0 a1) := fun _ h w => thread_lt h w
theorem aadd (a0 : ThreadRef) (a1 : Fields) : Statement (.aadd a0 a1) := fun _ h w => thread_lt h w
theorem amax (a0 : ThreadRef) (a1 : Fields) : Statement (.amax a0 a1) := fun _ h w => thread_lt h w
theorem amin (a0 : ThreadRef) (a1 : Fields) : Statement (.amin a0 a1) := fun _ h w => thread_lt h w
theorem axchg (a0 : ThreadRef) (a1 : Fields) : Statement (.axchg a0 a1) := fun _ h w => thread_lt h w
theorem acas (a0 : ThreadRef) (a1 : Fields) : Statement (.acas a0 a1) := fun _ h w => thread_lt h w
theorem colStart (a0 : ThreadRef) (a1 : Fields) (a2 : Chk) : Statement (.colStart a0 a1 a2) := fun _ h w => thread_lt h w
theorem bar (a0 : ThreadRef) (a1 : Fields) : Statement (.bar a0 a1) := fun _ h w => thread_lt h w
theorem sred (a0 : ThreadRef) (a1 : Fields) : Statement (.sred a0 a1) := fun _ h w => thread_lt h w
theorem colWait (a0 : ThreadRef) (a1 : Fields) : Statement (.colWait a0 a1) := fun _ h w => thread_lt h w
theorem glideReleaseWake (a0 : CoreRef) (a1 : Nat) (a2 : Chk) : Statement (.glideReleaseWake a0 a1 a2) := fun _ h w => core_lt h w
theorem collectiveComplete (a0 : CoreRef) (a1 : Nat) (a2 : Chk) : Statement (.collectiveComplete a0 a1 a2) := fun _ h w => core_lt h w
theorem kernelBoundary (a0 : CoreRef) : Statement (.kernelBoundary a0) := fun _ h w => core_lt h w
theorem kernelDescriptorArrive (a0 : CoreRef) (a1 : Chk) : Statement (.kernelDescriptorArrive a0 a1) := fun _ h w => core_lt h w
theorem gateRelease (a0 : CoreRef) : Statement (.gateRelease a0) := fun _ h w => core_lt h w
theorem spmRemoteWriteArrive (a0 : Nat) (a1 : Chk) : Statement (.spmRemoteWriteArrive a0 a1) := fun _ h => nomatch h
theorem spmMergeRetire (a0 : Nat) (a1 : Nat) (a2 : Nat) (a3 : Chk) : Statement (.spmMergeRetire a0 a1 a2 a3) := fun _ h w => die_lt h (first (first w))
theorem tierMergeRetire (a0 : Nat) (a1 : Chk) : Statement (.tierMergeRetire a0 a1) := fun _ h => nomatch h
theorem hrcMissFill (a0 : CoreRef) (a1 : Nat) (a2 : Chk) : Statement (.hrcMissFill a0 a1 a2) := fun _ h w => core_lt h w
theorem cacheDropComplete (a0 : CoreRef) (a1 : Nat) : Statement (.cacheDropComplete a0 a1) := fun _ h w => core_lt h w
theorem resurfacerTierRead (a0 : Chk) : Statement (.resurfacerTierRead a0) := fun _ h => nomatch h
theorem resurfacerSpmRead (a0 : Chk) : Statement (.resurfacerSpmRead a0) := fun _ h => nomatch h
theorem bucketLeakTick : Statement (.bucketLeakTick) := fun _ h => nomatch h
theorem linkPeerSignal (a0 : Nat) : Statement (.linkPeerSignal a0) := fun _ h => nomatch h
theorem linkPeerSignalLost (a0 : Nat) : Statement (.linkPeerSignalLost a0) := fun _ h => nomatch h
theorem linkRxLock (a0 : Nat) (a1 : List (BitVec 31)) (a2 : List Nat) : Statement (.linkRxLock a0 a1 a2) := fun _ h => nomatch h
theorem frameReceive (a0 : Nat) (a1 : List (List Byte)) : Statement (.frameReceive a0 a1) := fun _ h => nomatch h
theorem frameTransmit (a0 : Nat) : Statement (.frameTransmit a0) := fun _ h => nomatch h
theorem scheduleWindowStart : Statement (.scheduleWindowStart) := fun _ h => nomatch h
theorem linkRetrain (a0 : Nat) : Statement (.linkRetrain a0) := fun _ h => nomatch h
theorem linkTrainingTimeout (a0 : Nat) : Statement (.linkTrainingTimeout a0) := fun _ h => nomatch h
theorem controlPacketRoute (a0 : Nat) (a1 : Chk) : Statement (.controlPacketRoute a0 a1) := fun _ h w => die_lt h w
theorem dataPacketRoute (a0 : Nat) (a1 : Chk) : Statement (.dataPacketRoute a0 a1) := fun _ h w => die_lt h w
theorem multicastForward (a0 : Nat) : Statement (.multicastForward a0) := fun _ h w => die_lt h w
theorem writePacket (a0 : Nat) (a1 : Chk) : Statement (.writePacket a0 a1) := fun _ h w => die_lt h w
theorem reducePacket (a0 : Nat) (a1 : Chk) : Statement (.reducePacket a0 a1) := fun _ h w => die_lt h w
theorem combiningSlotFlush (a0 : Nat) (a1 : Nat) : Statement (.combiningSlotFlush a0 a1) := fun _ h w => die_lt h (first w)
theorem chainPacket (a0 : Nat) (a1 : Chk) : Statement (.chainPacket a0 a1) := fun _ h w => die_lt h w
theorem finalWrite (a0 : Nat) (a1 : Chk) : Statement (.finalWrite a0 a1) := fun _ h w => die_lt h w
theorem finalWriteRelease (a0 : Nat) (a1 : Chk) : Statement (.finalWriteRelease a0 a1) := fun _ h => nomatch h
theorem glideBarrier (a0 : Nat) : Statement (.glideBarrier a0) := fun _ h w => die_lt h w
theorem glideSred (a0 : Nat) : Statement (.glideSred a0) := fun _ h w => die_lt h w
theorem collCtrlSig (a0 : Nat) : Statement (.collCtrlSig a0) := fun _ h w => die_lt h w
theorem collCtrlAbort (a0 : Nat) : Statement (.collCtrlAbort a0) := fun _ h w => die_lt h w
theorem collCtrlDone (a0 : Nat) : Statement (.collCtrlDone a0) := fun _ h w => die_lt h w
theorem objReq (a0 : Nat) : Statement (.objReq a0) := fun _ h w => die_lt h w
theorem objRsp (a0 : Nat) : Statement (.objRsp a0) := fun _ h w => die_lt h w
theorem pisteUpdateWriteEntry (a0 : Nat) : Statement (.pisteUpdateWriteEntry a0) := fun _ h w => die_lt h w
theorem pisteUpdateSetEpoch (a0 : Nat) : Statement (.pisteUpdateSetEpoch a0) := fun _ h w => die_lt h w
theorem pisteUpdateSetId (a0 : Nat) : Statement (.pisteUpdateSetId a0) := fun _ h w => die_lt h w
theorem timeSync (a0 : Nat) : Statement (.timeSync a0) := fun _ h w => die_lt h w
theorem timeSyncSend (a0 : Nat) : Statement (.timeSyncSend a0) := fun _ h => nomatch h
theorem unreachable (a0 : Nat) : Statement (.unreachable a0) := fun _ h w => die_lt h w
theorem pisteFault (a0 : Nat) : Statement (.pisteFault a0) := fun _ h w => die_lt h w
theorem runStateRun (a0 : ReqRef) (a1 : Chk) : Statement (.runStateRun a0 a1) := fun _ h => nomatch h
theorem runStateStop (a0 : ReqRef) : Statement (.runStateStop a0) := fun _ h => nomatch h
theorem imageMeasureComplete (a0 : Chk) : Statement (.imageMeasureComplete a0) := fun _ h => nomatch h
theorem openingLiftRelease : Statement (.openingLiftRelease) := fun _ h => nomatch h
theorem openingLiftTimeout : Statement (.openingLiftTimeout) := fun _ h => nomatch h
theorem liftArrival : Statement (.liftArrival) := fun _ h => nomatch h
theorem liftRelease : Statement (.liftRelease) := fun _ h => nomatch h
theorem liftTimeoutBeforeArrival : Statement (.liftTimeoutBeforeArrival) := fun _ h => nomatch h
theorem liftTimeoutAfterArrival : Statement (.liftTimeoutAfterArrival) := fun _ h => nomatch h
theorem variantReqWrite (a0 : ReqRef) : Statement (.variantReqWrite a0) := fun _ h => nomatch h
theorem roleEpochResync (a0 : ReqRef) : Statement (.roleEpochResync a0) := fun _ h => nomatch h
theorem snapshotCheckRelease : Statement (.snapshotCheckRelease) := fun _ h => nomatch h
theorem snapshotCopyDone (a0 : Chk) : Statement (.snapshotCopyDone a0) := fun _ h => nomatch h
theorem resumeLiftRelease : Statement (.resumeLiftRelease) := fun _ h => nomatch h
theorem buddyCopyComplete (a0 : Chk) : Statement (.buddyCopyComplete a0) := fun _ h => nomatch h
theorem hostDrainComplete (a0 : Chk) : Statement (.hostDrainComplete a0) := fun _ h => nomatch h
theorem triggerAtWrite (a0 : ReqRef) : Statement (.triggerAtWrite a0) := fun _ h => nomatch h
theorem restoreGo (a0 : ReqRef) : Statement (.restoreGo a0) := fun _ h => nomatch h
theorem restoreComplete (a0 : Chk) : Statement (.restoreComplete a0) := fun _ h => nomatch h
theorem portDownReportTimer (a0 : Nat) : Statement (.portDownReportTimer a0) := fun _ h => nomatch h
theorem portReport (a0 : ReqRef) : Statement (.portReport a0) := fun _ h => nomatch h
theorem livenessProbeTimeout (a0 : BitVec 16) : Statement (.livenessProbeTimeout a0) := fun _ h => nomatch h
theorem fieldTestStart (a0 : ReqRef) : Statement (.fieldTestStart a0) := fun _ h => nomatch h
theorem fieldTestEnd (a0 : Nat) (a1 : Bool) : Statement (.fieldTestEnd a0 a1) := fun _ h w => die_lt h w
theorem dopRead (a0 : ReqRef) : Statement (.dopRead a0) := fun _ h => nomatch h
theorem dopReadSnap (a0 : ReqRef) : Statement (.dopReadSnap a0) := fun _ h => nomatch h
theorem dopReadStaged (a0 : ReqRef) : Statement (.dopReadStaged a0) := fun _ h => nomatch h
theorem dopWrite (a0 : ReqRef) : Statement (.dopWrite a0) := fun _ h => nomatch h
theorem dopStage (a0 : ReqRef) : Statement (.dopStage a0) := fun _ h => nomatch h
theorem dopCommit (a0 : ReqRef) : Statement (.dopCommit a0) := fun _ h => nomatch h
theorem dopCommitDiscard (a0 : ReqRef) : Statement (.dopCommitDiscard a0) := fun _ h => nomatch h
theorem consistencyGroupApply (a0 : Nat) : Statement (.consistencyGroupApply a0) := fun _ h => nomatch h
theorem dopSubscribe (a0 : ReqRef) : Statement (.dopSubscribe a0) := fun _ h => nomatch h
theorem notifyAck (a0 : NetFrame) : Statement (.notifyAck a0) := fun _ h => nomatch h
theorem notifyResend (a0 : Nat) : Statement (.notifyResend a0) := fun _ h => nomatch h
theorem notifyValuePoll (a0 : Nat) : Statement (.notifyValuePoll a0) := fun _ h => nomatch h
theorem subscriptionExpire (a0 : Nat) : Statement (.subscriptionExpire a0) := fun _ h => nomatch h
theorem captureExpire (a0 : Nat) : Statement (.captureExpire a0) := fun _ h => nomatch h
theorem segmentWriteTimeout (a0 : Nat) : Statement (.segmentWriteTimeout a0) := fun _ h => nomatch h
theorem keptResponseExpire (a0 : Nat) : Statement (.keptResponseExpire a0) := fun _ h => nomatch h
theorem maintTokenWrite (a0 : ReqRef) : Statement (.maintTokenWrite a0) := fun _ h => nomatch h
theorem maintTokenExpire : Statement (.maintTokenExpire) := fun _ h => nomatch h
theorem maintKeyWrite (a0 : ReqRef) : Statement (.maintKeyWrite a0) := fun _ h => nomatch h
theorem neighbourSolicitation (a0 : BitVec 128) (a1 : BitVec 128) : Statement (.neighbourSolicitation a0 a1) := fun _ h => nomatch h
theorem echoRequest (a0 : BitVec 128) (a1 : List Byte) : Statement (.echoRequest a0 a1) := fun _ h => nomatch h
theorem dadComplete (a0 : Bool) : Statement (.dadComplete a0) := fun _ h => nomatch h
theorem winCtrlGo (a0 : BitVec 64) : Statement (.winCtrlGo a0) := fun _ h => nomatch h
theorem bar0RegisterWrite (a0 : Nat) (a1 : List Byte) (a2 : List Nat) : Statement (.bar0RegisterWrite a0 a1 a2) := fun _ h => nomatch h
theorem bar2BaseWrite (a0 : BitVec 64) : Statement (.bar2BaseWrite a0) := fun _ h => nomatch h
theorem signalWrite (a0 : BitVec 64) : Statement (.signalWrite a0) := fun _ h => nomatch h
theorem bar2Write (a0 : Nat) (a1 : List Byte) (a2 : Bool) (a3 : Chk) : Statement (.bar2Write a0 a1 a2 a3) := fun _ h => nomatch h
theorem bar2Read (a0 : Nat) (a1 : Nat) (a2 : Chk) : Statement (.bar2Read a0 a1 a2) := fun _ h => nomatch h
theorem configRequest (a0 : CfgReg) (a1 : Option (BitVec 32)) : Statement (.configRequest a0 a1) := fun _ h => nomatch h
theorem hostReadCompletion (a0 : Nat) (a1 : List Byte) (a2 : CplStatus) : Statement (.hostReadCompletion a0 a1 a2) := fun _ h => nomatch h
theorem pmeTurnOff : Statement (.pmeTurnOff) := fun _ h => nomatch h
theorem pcieLinkUp (a0 : Nat) (a1 : Nat) (a2 : Bool) : Statement (.pcieLinkUp a0 a1 a2) := fun _ h => nomatch h
theorem pcieLinkDown : Statement (.pcieLinkDown) := fun _ h => nomatch h
theorem perstN (a0 : Bool) : Statement (.perstN a0) := fun _ h => nomatch h
theorem hotReset : Statement (.hotReset) := fun _ h => nomatch h
theorem linkDisable : Statement (.linkDisable) := fun _ h => nomatch h
theorem flr : Statement (.flr) := fun _ h => nomatch h
theorem imageFetchGo (a0 : ReqRef) : Statement (.imageFetchGo a0) := fun _ h => nomatch h
theorem imageFetchComplete : Statement (.imageFetchComplete) := fun _ h => nomatch h
theorem resetRequestWarm (a0 : ReqRef) : Statement (.resetRequestWarm a0) := fun _ h => nomatch h
theorem resetRequestMgmt (a0 : ReqRef) : Statement (.resetRequestMgmt a0) := fun _ h => nomatch h
theorem resetRequestFabric (a0 : ReqRef) : Statement (.resetRequestFabric a0) := fun _ h => nomatch h
theorem blockResetQuad (a0 : ReqRef) : Statement (.blockResetQuad a0) := fun _ h => nomatch h
theorem blockResetLink (a0 : ReqRef) : Statement (.blockResetLink a0) := fun _ h => nomatch h
theorem blockResetChannel (a0 : ReqRef) : Statement (.blockResetChannel a0) := fun _ h => nomatch h
theorem counterClearCore (a0 : ReqRef) : Statement (.counterClearCore a0) := fun _ h => nomatch h
theorem counterClearDie (a0 : ReqRef) : Statement (.counterClearDie a0) := fun _ h => nomatch h
theorem telemetryClear (a0 : ReqRef) : Statement (.telemetryClear a0) := fun _ h => nomatch h
theorem saveNow (a0 : ReqRef) : Statement (.saveNow a0) := fun _ h => nomatch h
theorem lifetimeSaveTimer : Statement (.lifetimeSaveTimer) := fun _ h => nomatch h
theorem lifetimeSaveComplete : Statement (.lifetimeSaveComplete) := fun _ h => nomatch h
theorem poweredSecondTick : Statement (.poweredSecondTick) := fun _ h => nomatch h
theorem railDroopBegin (a0 : Rail) : Statement (.railDroopBegin a0) := fun _ h => nomatch h
theorem railDroopEnd (a0 : Rail) (a1 : Nat) : Statement (.railDroopEnd a0 a1) := fun _ h => nomatch h
theorem nonce (a0 : ReqRef) : Statement (.nonce a0) := fun _ h => nomatch h
theorem attestationReady : Statement (.attestationReady) := fun _ h => nomatch h
theorem raiseFloor (a0 : ReqRef) : Statement (.raiseFloor a0) := fun _ h => nomatch h
theorem revoke (a0 : ReqRef) : Statement (.revoke a0) := fun _ h => nomatch h
theorem updateComponent (a0 : ReqRef) : Statement (.updateComponent a0) := fun _ h => nomatch h
theorem updateChunk (a0 : ReqRef) : Statement (.updateChunk a0) := fun _ h => nomatch h
theorem updateVerify (a0 : ReqRef) : Statement (.updateVerify a0) := fun _ h => nomatch h
theorem updateVerifyComplete (a0 : Bool) : Statement (.updateVerifyComplete a0) := fun _ h => nomatch h
theorem activate (a0 : ReqRef) : Statement (.activate a0) := fun _ h => nomatch h
theorem mgmtHandoverComplete (a0 : Nat) (a1 : Bool) : Statement (.mgmtHandoverComplete a0 a1) := fun _ h w => die_lt h w
theorem vinOn : Statement (.vinOn) := fun _ h => nomatch h
theorem vinOff : Statement (.vinOff) := fun _ h => nomatch h
theorem vinOvervoltage : Statement (.vinOvervoltage) := fun _ h => nomatch h
theorem pwrEnHigh : Statement (.pwrEnHigh) := fun _ h => nomatch h
theorem pwrEnLow : Statement (.pwrEnLow) := fun _ h => nomatch h
theorem railStepValid : Statement (.railStepValid) := fun _ h => nomatch h
theorem railOutOfBand (a0 : Rail) : Statement (.railOutOfBand a0) := fun _ h => nomatch h
theorem powerSample (a0 : Nat) (a1 : Nat) (a2 : List (BitVec 16)) : Statement (.powerSample a0 a1 a2) := fun _ h => nomatch h
theorem thermalTrip : Statement (.thermalTrip) := fun _ h => nomatch h
theorem warmRstNAssert : Statement (.warmRstNAssert) := fun _ h => nomatch h
theorem warmResetRelease : Statement (.warmResetRelease) := fun _ h => nomatch h
theorem watchdogExpire : Statement (.watchdogExpire) := fun _ h => nomatch h
theorem pllLock (a0 : BitVec 6) (a1 : Bool) : Statement (.pllLock a0 a1) := fun _ h => nomatch h
theorem optionLoadComplete (a0 : List (List (BitVec 64 × BitVec 64 × BitVec 64))) : Statement (.optionLoadComplete a0) := fun _ h => nomatch h
theorem bootChainComplete (a0 : List Nat) : Statement (.bootChainComplete a0) := fun _ h => nomatch h
theorem refLost : Statement (.refLost) := fun _ h => nomatch h
theorem refReturn : Statement (.refReturn) := fun _ h => nomatch h
theorem refLostTimeout : Statement (.refLostTimeout) := fun _ h => nomatch h
theorem cageInsert (a0 : Nat) (a1 : Assembly) : Statement (.cageInsert a0 a1) := fun _ h => nomatch h
theorem cageRemove (a0 : Nat) : Statement (.cageRemove a0) := fun _ h => nomatch h
theorem cageOvercurrent (a0 : Nat) : Statement (.cageOvercurrent a0) := fun _ h => nomatch h
theorem ptpSync (a0 : PtpHead) (a1 : Bool) (a2 : Int) (a3 : Int) : Statement (.ptpSync a0 a1 a2 a3) := fun _ h => nomatch h
theorem ptpFollowUp (a0 : PtpHead) (a1 : Nat) (a2 : Int) : Statement (.ptpFollowUp a0 a1 a2) := fun _ h => nomatch h
theorem ptpDelayResp (a0 : PtpHead) (a1 : Bool) (a2 : Nat) (a3 : Int) (a4 : Int) : Statement (.ptpDelayResp a0 a1 a2 a3 a4) := fun _ h => nomatch h
theorem ptpAnnounce (a0 : PtpHead) (a1 : PtpMaster) (a2 : Int) : Statement (.ptpAnnounce a0 a1 a2) := fun _ h => nomatch h
theorem ptpDelayReqSend : Statement (.ptpDelayReqSend) := fun _ h => nomatch h
theorem ptpAnnounceTimeout : Statement (.ptpAnnounceTimeout) := fun _ h => nomatch h
theorem fabricMarkTimeout : Statement (.fabricMarkTimeout) := fun _ h => nomatch h
theorem vinOvervoltageClear : Statement (.vinOvervoltageClear) := fun _ h => nomatch h
theorem resetRequestDelayExpire : Statement (.resetRequestDelayExpire) := fun _ h => nomatch h
theorem instructionFetchReturn (a0 : ThreadRef) (a1 : Chk) : Statement (.instructionFetchReturn a0 a1) := fun _ h w => thread_lt h w
theorem hostReadCompletionTimeout (a0 : Nat) : Statement (.hostReadCompletionTimeout a0) := fun _ h => nomatch h
theorem linkControllerLoadComplete : Statement (.linkControllerLoadComplete) := fun _ h => nomatch h
theorem channelRetrainComplete (a0 : Nat) : Statement (.channelRetrainComplete a0) := fun _ h => nomatch h
theorem plcaBeaconReceived : Statement (.plcaBeaconReceived) := fun _ h => nomatch h
theorem plcaBeaconTimeout : Statement (.plcaBeaconTimeout) := fun _ h => nomatch h
theorem remoteObjectRetry (a0 : BitVec 16) : Statement (.remoteObjectRetry a0) := fun _ h => nomatch h

end Sys2Proof.Laws.WellFormedness
end

