-- ==== Sys2Proof/Tests/Slice0.lean ====
section
/-! SUPPORT. Tests: ill-formed commands for each check, states that meet the hypotheses of each statement, and results worked out by hand from the spec. -/
namespace Sys2Proof.Tests
open Sys2Proof Sys2Proof.Machine
set_option Elab.async false

/-! ### WellFormed: one ill-formed command for each check -/

theorem test_ill_formed_die : Instr.wf (.writePacket 2 .ok) = false := by decide
theorem test_ill_formed_core : Instr.wf (.kernelBoundary ⟨0, 144⟩) = false := by decide
theorem test_ill_formed_core_die : Instr.wf (.kernelBoundary ⟨2, 0⟩) = false := by decide
theorem test_ill_formed_thread : Instr.wf (.fenceLocalWake ⟨0, 0, 64, .good⟩) = false := by decide
theorem test_ill_formed_channel : Instr.wf (.dmaDescriptorComplete ⟨0, 0⟩ 4) = false := by decide
theorem test_ill_formed_phys : Instr.wf (.spmMergeRetire 0 160 0 .ok) = false := by decide
theorem test_ill_formed_bank : Instr.wf (.spmMergeRetire 0 0 32 .ok) = false := by decide
theorem test_ill_formed_controller : Instr.wf (.tierMergeRetire 12 .ok) = false ∧ Instr.wf (.tierMergeRetire 24 .ok) = false := by decide
theorem test_ill_formed_link : Instr.wf (.frameTransmit 24) = false := by decide
theorem test_ill_formed_port : Instr.wf (.portDownReportTimer 8) = false := by decide
theorem test_ill_formed_cage : Instr.wf (.cageRemove 12) = false := by decide
theorem test_ill_formed_slot : Instr.wf (.combiningSlotFlush 0 256) = false := by decide
theorem test_ill_formed_memory_channel : Instr.wf (.channelRetrainComplete 12) = false ∧ Instr.wf (.channelRetrainComplete 32) = false := by decide
theorem test_well_formed_last_units : Instr.wf (.spmMergeRetire 1 159 31 .ok) = true ∧ Instr.wf (.channelRetrainComplete 31) = true
    ∧ Instr.wf (.fenceLocalWake ⟨1, 143, 63, .good⟩) = true := by decide
/-- A command that names a unit the module lacks stops with the one fault. -/
theorem test_no_such_unit : exec (.kernelBoundary ⟨0, 144⟩) State.reset = .fault .noSuchUnit := rfl

/-! ### States -/

/-- A core that runs a kernel with thread 0 active at 0 and a word there in its instruction cache; `k` changes the core. -/
def coreAt (w : BitVec 64) (regs : List (Nat × Word) := []) (k : Core → Core := id) : Core :=
  k { threads := [(0, { mode := .active, regs := regs.foldl (fun v e => vset v e.1 e.2) (Vector.replicate 32 0) })]
      phase := .running, icache := [(0, toLE 8 w.toNat ++ List.replicate 56 0)] }

/-- The module with that core as core 0 of die 0. -/
def withCore (k : Core) : State := { State.reset with cores := [(coreKey ⟨0, 0⟩, k)] }
def t0 : ThreadRef := ⟨0, 0, 0, .good⟩
def c0 : CoreRef := ⟨0, 0⟩
/-- s1 from s2, s3. -/
def f123 : Fields := ⟨1, 2, 3, 0, 0⟩

def at_ (w : BitVec 64) (regs : List (Nat × Word) := []) : State := withCore (coreAt w regs)

theorem mergeOk_of_empty {m : Memory} (h : m.spmMerge = []) (h' : m.tierMerge = []) : MergeOk m := by
  constructor <;> intro k es hk <;> simp [h, h', mfind] at hk

theorem pair_of {α β : Type} {x : α × β} {b : β} (h : x.2 = b) : ∃ t, x = (t, b) := ⟨x.1, by rw [← h]⟩

/-! ### Queue, reset -/

theorem test_step_front_witness : ({ State.reset with pending := [.vinOff, .vinOn] } : State).pending = .vinOff :: [.vinOn] := rfl
theorem test_idle_witness : State.reset.pending = [] := rfl
theorem test_clock_witness : vget 0 State.reset.clk.pll 0 = 0 ∧ vget 0 ({ State.reset with clk := { pll := Vector.replicate 2 1 } } : State).clk.pll 0 ≠ 0
    ∧ State.reset.cores = [] := by decide
theorem test_idle_core_witness : Idle {} := ⟨rfl, rfl, rfl, rfl, fun _ h => nomatch h⟩
theorem test_memory_wf_witness : State.reset.mem.wf = true ∧ ∃ t, step State.reset = .next t := ⟨by decide, _, rfl⟩

/-! ### Scalar class, branches, traps -/

theorem test_scalar_witness : ∀ row ∈ scalarRows, MayIssue (at_ (encodeWord 0 row.op f123)) t0 (encodeWord 0 row.op f123) := by
  unfold MayIssue; decide +kernel
theorem test_branch_witness : ∀ row ∈ branchRows, MayIssue (at_ (encodeWord 1 row.op f123)) t0 (encodeWord 1 row.op f123) := by
  unfold MayIssue; decide +kernel
theorem test_call_jr_nop_texit_witness : ∀ e ∈ [(1, 0x08), (1, 0x09), (0, 0x00), (1, 0x10)],
    MayIssue (at_ (encodeWord e.1 e.2 f123)) t0 (encodeWord e.1 e.2 f123) ∧ (readReg (at_ (encodeWord e.1 e.2 f123)) t0 2).toNat % 8 = 0 := by
  unfold MayIssue; decide +kernel
/-- R51, by hand: ADD s1, s2, s3 has CLASS 0, OP 1, D 1, A 2, B 3. -/
theorem test_word_add : encodeWord 0 0x01 f123 = 0x0010886000000000 := by decide
/-- R56: 2^63 - 1 plus 1 wraps to -2^63. -/
theorem test_add_wraps : (match exec (.add t0 f123) (at_ (encodeWord 0 0x01 f123) [(2, 0x7FFFFFFFFFFFFFFF), (3, 1)]) with
    | .next t => readReg t t0 1
    | _ => 0) = 0x8000000000000000 := by decide +kernel
/-- R56: MULH of -1 and 1 is -1, MULHU of the same words is 0. -/
theorem test_mulh_sign : (match exec (.mulh t0 f123) (at_ (encodeWord 0 0x0B f123) [(2, 0xFFFFFFFFFFFFFFFF), (3, 1)]) with
    | .next t => readReg t t0 1
    | _ => 0) = 0xFFFFFFFFFFFFFFFF := by decide +kernel
theorem test_mulhu_zero : (match exec (.mulhu t0 f123) (at_ (encodeWord 0 0x0A f123) [(2, 0xFFFFFFFFFFFFFFFF), (3, 1)]) with
    | .next t => readReg t t0 1
    | _ => 1) = 0 := by decide +kernel
/-- R56: a shift by 64 + 1 shifts by 1. -/
theorem test_sra_amount : (match exec (.sra t0 f123) (at_ (encodeWord 0 0x08 f123) [(2, 0x8000000000000000), (3, 65)]) with
    | .next t => readReg t t0 1
    | _ => 0) = 0xC000000000000000 := by decide +kernel
/-- R57: BLTU compares without sign; the target counts words from the branch. -/
theorem test_bltu_target : (match exec (.bltu t0 ⟨0, 2, 3, 0, 3⟩) (at_ (encodeWord 1 0x05 ⟨0, 2, 3, 0, 3⟩) [(2, 1), (3, 0xFFFFFFFFFFFFFFFF)]) with
    | .next t => (threadOf t t0).pc
    | _ => 0) = 24 := by decide +kernel

/-! ### Traps -/

/-- Every instruction of a thread may meet a line that cannot be trusted. -/
theorem test_bad_line_witness : ∀ row ∈ issueRows, ({ t0 with line := .bad } : ThreadRef).wf = true
    ∧ slotFor (at_ (encodeWord row.cls row.op f123)) { t0 with line := .bad } (encodeWord row.cls row.op f123) = true := by decide +kernel
theorem test_break_illegal_witness : MayIssue (at_ (encodeWord 1 0x11 f123)) t0 (encodeWord 1 0x11 f123)
    ∧ MayIssue (at_ (encodeWord 0 0x1A f123)) t0 (encodeWord 0 0x1A f123) ∧ opListed (wordClass (encodeWord 0 0x1A f123)) (wordOp (encodeWord 0 0x1A f123)) = false := by
  unfold MayIssue; decide +kernel
theorem test_jr_misaligned_witness : MayIssue (at_ (encodeWord 1 0x09 f123) [(2, 4)]) t0 (encodeWord 1 0x09 f123)
    ∧ (readReg (at_ (encodeWord 1 0x09 f123) [(2, 4)]) t0 2).toNat % 8 ≠ 0 := by
  unfold MayIssue; decide +kernel
/-- FL 3: 8 bytes. -/
def f8 : Fields := ⟨1, 2, 3, 3, 0⟩
theorem test_access_align_witness : ∀ op ∈ [0x20, 0x21, 0x22], MayIssue (at_ (encodeWord 0 op f8) [(2, 4)]) t0 (encodeWord 0 op f8)
    ∧ addrOf (at_ (encodeWord 0 op f8) [(2, 4)]) t0 f8 % 8 ≠ 0 := by
  unfold MayIssue; decide +kernel
/-- The last word of the own SPM is reached, and the first one past it is not (R56, R143). -/
theorem test_access_reach_witness : ∀ op ∈ [0x20, 0x21, 0x22], MayIssue (at_ (encodeWord 0 op f8) [(2, 0x0FFFFFFFFFFFFFF8)]) t0 (encodeWord 0 op f8)
    ∧ addrOf (at_ (encodeWord 0 op f8) [(2, 0x0FFFFFFFFFFFFFF8)]) t0 f8 % 8 = 0
    ∧ scalarReach (addrOf (at_ (encodeWord 0 op f8) [(2, 0x0FFFFFFFFFFFFFF8)]) t0 f8) 8 = false := by
  unfold MayIssue; decide +kernel
theorem test_atomic_trap_witness : ∀ row ∈ atomicRows, MayIssue (at_ (encodeWord 5 row.op ⟨1, 2, 3, 1, 0⟩) [(2, 4)]) t0 (encodeWord 5 row.op ⟨1, 2, 3, 1, 0⟩)
    ∧ (readReg (at_ (encodeWord 5 row.op ⟨1, 2, 3, 1, 0⟩) [(2, 4)]) t0 2).toNat % 8 ≠ 0
    ∧ MayIssue (at_ (encodeWord 5 row.op ⟨1, 2, 3, 1, 0⟩) [(2, 0x0FFFFFFFFFFFFFF8)]) t0 (encodeWord 5 row.op ⟨1, 2, 3, 1, 0⟩)
    ∧ atomicReach (readReg (at_ (encodeWord 5 row.op ⟨1, 2, 3, 1, 0⟩) [(2, 0x0FFFFFFFFFFFFFF8)]) t0 2).toNat 8 = false := by
  unfold MayIssue; decide +kernel
theorem test_trap_witness : (getCore State.reset c0).phase ≠ .stopped := by decide
/-- R67: the cause stands in bits [127:120], the thread in [119:114], the pc in [47:0]. -/
theorem test_brk_record : (match exec (.brk t0 f123) (at_ (encodeWord 1 0x11 f123)) with
    | .next t => (getCore t c0).trap
    | _ => 0) = 0x08000000000000000000000000000000 := by decide +kernel

/-! ### Accesses -/

theorem test_load_witness : ∀ op ∈ [0x20, 0x21], MayIssue (at_ (encodeWord 0 op f8) [(2, 0x0000011FFFFFFFF8)]) t0 (encodeWord 0 op f8)
    ∧ addrOf (at_ (encodeWord 0 op f8) [(2, 0x0000011FFFFFFFF8)]) t0 f8 % 8 = 0
    ∧ scalarReach (addrOf (at_ (encodeWord 0 op f8) [(2, 0x0000011FFFFFFFF8)]) t0 f8) 8 = true := by
  unfold MayIssue; decide +kernel
theorem test_atomic_witness : ∀ row ∈ atomicRows, MayIssue (at_ (encodeWord 5 row.op f123) [(2, 0x100)]) t0 (encodeWord 5 row.op f123)
    ∧ (readReg (at_ (encodeWord 5 row.op f123) [(2, 0x100)]) t0 2).toNat % 4 = 0
    ∧ atomicReach (readReg (at_ (encodeWord 5 row.op f123) [(2, 0x100)]) t0 2).toNat 4 = true := by
  unfold MayIssue; decide +kernel
/-- A core with one uncached load out, its thread waiting. -/
def loading : State := { withCore (coreAt 0 [] (fun k => { k with requests := [⟨0, 0, 5, 0x1000, .load 8 false true, 0, 0, 0, some 0x1000, none, none⟩] })) with clk := { aclk := Vector.replicate 2 1000 } }
theorem test_load_return_witness : ∃ r : MemReq, (getCore loading c0).requests[0]? = some r ∧ (getCore loading c0).phase ≠ .stopped ∧ r.kind = .load 8 false true ∧ r.value = none
    ∧ r.bad = none ∧ r.store = some 0x1000 ∧ placeOf r.addr 8 = .tier1 ∧ Clean loading ∧ inOrder loading c0 0 r = true ∧ returnCycle c0 r ≤ aclkOf loading 0
    ∧ (getThread (getCore loading c0) r.thread).mode ≠ .inactive :=
  ⟨⟨0, 0, 5, 0x1000, .load 8 false true, 0, 0, 0, some 0x1000, none, none⟩, rfl, by decide, rfl, rfl, rfl, rfl, by decide +kernel, rfl, by decide +kernel, by decide +kernel, by decide +kernel⟩
def storing (a : Word) : State := at_ (encodeWord 0 0x22 f8) [(2, a), (3, 0x0123456789ABCDEF)]
theorem test_store_witness : ∀ n ∈ [0x0000011FFFFFFFF8, 0x040000000000, 0x080000000000, 0x0C0000000100], let a := BitVec.ofNat 64 n; MayIssue (storing a) t0 (encodeWord 0 0x22 f8)
    ∧ addrOf (storing a) t0 f8 % 8 = 0 ∧ (getCore (storing a) c0).requests = [] := by
  unfold MayIssue; decide +kernel
theorem test_store_places : placeOf 0x0000011FFFFFFFF8 8 = .tier1 ∧ placeOf 0x040000000000 8 = .tier2 ∧ placeOf 0x080000000000 8 = .spm 0 0 0
    ∧ placeOf 0x0C0000000100 8 = .control 0x100 := by decide +kernel
theorem test_store_clean_witness (a : Word) : Clean (storing a) ∧ MergeOk (storing a).mem := ⟨rfl, mergeOk_of_empty rfl rfl⟩
/-- R9, R56: a store of 8 bytes puts the lowest byte first. -/
theorem test_store_bytes : (match exec (.st t0 f8 .ok) (storing 0x1000) with
    | .next t => readBytes t.mem 0x1000 8
    | _ => []) = [0xEF, 0xCD, 0xAB, 0x89, 0x67, 0x45, 0x23, 0x01] := by decide +kernel
theorem test_parity_miss_witness : parityMiss ⟨[.writeParity 0x1007]⟩ 0x1000 8 = true ∧ parityMiss .ok 0x1000 8 = false
    ∧ parityMiss ⟨[.writeParity (spmAddr 0 0 3)]⟩ (spmAddr 0 0 0) 4 = true ∧ State.reset.intg.lost = [] ∧ State.reset.intg.missed = [] := by decide +kernel
theorem test_landed_witness : MergeOk State.reset.mem ∧ State.reset.mem.bad = [] := ⟨mergeOk_of_empty rfl rfl, rfl⟩
/-- A packet at the window 0 of core 0, with expected epoch `e` there. -/
def packetAt (e : BitVec 16) : State := { withCore {} with noc := [⟨0, 1, 3, 0, 0x080000000000, 0, [1, 2, 3, 4], e, none⟩] }
theorem test_remote_write_witness : ∀ n ∈ [0, 1, 32767, 32768, 65535], let s := packetAt (BitVec.ofNat 16 n)
    s.noc.map (fun p => (nocBehind s 0 p, placeOf p.addr p.data.length, (p.epoch - (vget ⟨0, 0, 0⟩ (getCore s c0).windows 0).a).toNat)) = [(false, .spm 0 0 0, n)] := by
  decide +kernel
theorem test_agrees_witness : Agrees (getCore State.reset c0).epoch ∧ Agrees State.reset.run.commit ∧ (∀ w, w < 8 → Agrees (vget ⟨0, 0, 0⟩ (getCore State.reset c0).windows w)) := by
  unfold Agrees; decide +kernel

/-! ### Special values, sync -/

theorem test_rdspec_witness : ∀ i ∈ [0x00, 0x05, 0x08, 0x0F, 0x14, 0x06, 0x15], let w := encodeWord 0 0x30 ⟨1, 0, 0, 0, BitVec.ofNat 32 i⟩; MayIssue (at_ w) t0 w := by
  unfold MayIssue; decide +kernel
theorem test_rdspec_list : (∀ i ∈ [0x00, 0x05, 0x08, 0x0F, 0x14], i ∈ (specialList State.reset t0).map (fun e => e.1))
    ∧ ∀ i ∈ [0x06, 0x15], i ∉ (specialList State.reset t0).map (fun e => e.1) := by decide +kernel
theorem test_sync_witness : ∀ op ∈ [0x01, 0x03, 0x04], MayIssue (at_ (encodeWord 5 op f123)) t0 (encodeWord 5 op f123) := by unfold MayIssue; decide +kernel
/-- WAITFLAG on the last word of the own SPM. -/
def waiting (imm : BitVec 32) (v : Word) : State := at_ (encodeWord 5 0x02 ⟨1, 2, 3, 0, imm⟩) [(2, 0x2FFFF8), (3, v)]
theorem test_waitflag_witness : ∀ e ∈ [(0, 0), (0, 1), (1, 1)], let imm := BitVec.ofNat 32 e.1; let s := waiting imm (BitVec.ofNat 64 e.2)
    MayIssue s t0 (encodeWord 5 0x02 ⟨1, 2, 3, 0, imm⟩) ∧ (readReg s t0 2).toNat % 8 = 0 ∧ (readReg s t0 2).toNat < Config.spmBytes ∧ ownWord s c0 0x2FFFF8 = 0 := by
  unfold MayIssue; decide +kernel
def asleep (why : Sleep) : State := withCore { threads := [(0, { mode := .sleeping why })], phase := .running }
theorem test_sleepers_witness : ∀ why ∈ [Sleep.fence, .arraySync, .waitflag 0 0 1 0 0, .waitflag 0 1 1 0 0], (threadOf (asleep why) t0).mode = .sleeping why
    ∧ (getCore (asleep why) c0).phase ≠ .stopped ∧ fenceHolds (asleep why) t0 = true ∧ arrayDone (getCore (asleep why) c0).mxa 0 = true
    ∧ ownWord (asleep why) c0 0 = 0 := by decide +kernel

/-- The record of a write to the granule that the thread waits on: one that brought the value, one that did not, none. -/
theorem test_waitflag_flag_witness : ∀ b ∈ [none, some true, some false],
    mfind (getCore (withCore { flags := (b.map (fun v => (0, v))).toList, threads := [(0, { mode := .sleeping (.waitflag 0 0 1 0 0) })] }) c0).flags 0 = b := by decide +kernel

/-! ### The matrix array -/

theorem test_array_enter_witness : ∀ op ∈ [0x01, 0x02, 0x03], MayIssue (at_ (encodeWord 2 op f123) [(2, 0x2FFFC0)]) t0 (encodeWord 2 op f123)
    ∧ (readReg (at_ (encodeWord 2 op f123) [(2, 0x2FFFC0)]) t0 2).toNat = 0x2FFFC0
    ∧ ownDescriptor (at_ (encodeWord 2 op f123) [(2, 0x2FFFC0)]) t0 0x2FFFC0 64 = 0 ∧ ownDescriptor (at_ (encodeWord 2 op f123) [(2, 0x2FFFC0)]) t0 0x2FFFC0 32 = 0 := by
  unfold MayIssue; decide +kernel
theorem test_array_descriptor_witness : fillOk 0 = true ∧ spanBeyond (fillSpans 0) = none ∧ runOk {} 0 = true ∧ spanBeyond (runSpans 0) = none
    ∧ drainOk 0 = true ∧ spanBeyond (drainReadSpans 0 ++ drainWriteSpans 0) = none := by decide +kernel
theorem test_copyable_witness : copyable 0x2FFFC0 32 ∧ copyable 0x2FFFC0 64 ∧ ¬copyable 0x2FFFE0 64 := by unfold copyable; decide
theorem test_acs_witness : ∀ n ∈ [0, 1, 128, 129], let w := encodeWord 2 0x04 ⟨1, 0, 0, 0, BitVec.ofNat 32 n⟩
    MayIssue (at_ w) t0 w ∧ canAlloc (getCore (at_ w) c0).mxa n = true ∧ (0 < n → n ≤ 128 → freeRun (getCore (at_ w) c0).mxa.taken n = some 0) := by
  unfold MayIssue; decide +kernel
theorem test_acs_free_sync_witness : ∀ op ∈ [0x05, 0x06], MayIssue (at_ (encodeWord 2 op f123)) t0 (encodeWord 2 op f123) := by unfold MayIssue; decide +kernel
theorem test_acs_grant_witness : (threadOf (withCore (coreAt 0 [] (fun k => { k with threads := [(0, { mode := .active, allocWait := true })] }))) t0).allocWait = true := by decide +kernel
/-- R109: the lowest run of the free rows. -/
theorem test_free_run : freeRun 0x37 2 = some 6 ∧ freeRun 0x37 1 = some 3 := by decide +kernel
def releasing : Core := { mxa := { taken := 3, reserved := 3, releasing := [(0, 0, 3)] } }
theorem test_acs_release_witness : releasing.mxa.releasing[0]? = some (0, 0, 3) ∧ (3 : BitVec 128) ≠ 0 ∧ rowDone releasing 0 1 = true
    ∧ earlierDone releasing.mxa 0 = true := by decide +kernel
/-- One array instruction at the head of the queue of core 0. -/
def queued (op : ArrayOp) : State := { withCore { phase := .running, mxa := { queue := [⟨0, 0, 0, op⟩] } } with clk := { aclk := Vector.replicate 2 100 } }
theorem test_fill_begin_witness : ∃ e, arrayHead (queued (.fill 0)) c0 = some e ∧ e.op = .fill 0 ∧ Clean (queued (.fill 0))
    ∧ fillEngineFree (getCore (queued (.fill 0)) c0).mxa (aclkOf (queued (.fill 0)) 0) = true ∧ drainsClear (getCore (queued (.fill 0)) c0).mxa (hull (fillSpans 0)) = true
    ∧ readyHolds (queued (.fill 0)) c0 (fillReadyEn 0) (fillReadyOff 0) (fillReadyVal 0) = true :=
  ⟨⟨0, 0, 0, .fill 0⟩, by decide +kernel, rfl, rfl, by decide +kernel, by decide +kernel, by decide +kernel⟩
theorem test_run_begin_witness : ∃ e, arrayHead (queued (.run 0)) c0 = some e ∧ e.op = .run 0
    ∧ feedAccepts (getCore (queued (.run 0)) c0).mxa (aclkOf (queued (.run 0)) 0) = true ∧ (getCore (queued (.run 0)) c0).mxa.flight = []
    ∧ drainsClear (getCore (queued (.run 0)) c0).mxa (hull (runSpans 0)) = true ∧ chainsClear (getCore (queued (.run 0)) c0) e = true
    ∧ readyHolds (queued (.run 0)) c0 (runReadyEn 0) (runReadyOff 0) (runReadyVal 0) = true :=
  ⟨⟨0, 0, 0, .run 0⟩, by decide +kernel, rfl, by decide +kernel, rfl, by decide +kernel, by decide +kernel, by decide +kernel⟩
theorem test_drain_begin_witness : ∃ e, arrayHead (queued (.drain 0)) c0 = some e ∧ e.op = .drain 0 ∧ (getCore (queued (.drain 0)) c0).mxa.flight = []
    ∧ (getCore (queued (.drain 0)) c0).mxa.drainReadEnd ≤ aclkOf (queued (.drain 0)) 0
    ∧ drainsClear (getCore (queued (.drain 0)) c0).mxa (hull (drainReadSpans 0)) = true ∧ chainsClear (getCore (queued (.drain 0)) c0) e = true :=
  ⟨⟨0, 0, 0, .drain 0⟩, by decide +kernel, rfl, rfl, by decide +kernel, by decide +kernel, by decide +kernel⟩
def flying (op : ArrayOp) : Core := { mxa := { flight := [{ e := ⟨0, 0, 0, op⟩, began := 0, due := 10 }] } }
theorem test_array_complete_witness : (dueFlight (flying (.fill 0)).mxa 0 10).isSome = true ∧ (dueFlight (flying (.run 0)).mxa 1 10).isSome = true
    ∧ (dueFlight (flying (.drain 0)).mxa 2 10).isSome = true ∧ dueFlight (flying (.drain 0)).mxa 2 9 = none := by decide +kernel

/-! ### Vector unit, DMA -/

theorem test_vector_witness : ∀ row ∈ vectorRows, let w := encodeWord 3 row.op ⟨1, 2, 3, 0, 0⟩
    MayIssue (at_ w) t0 w ∧ vecFormatsOk row.kind 0 = true ∧ spanBeyond (vectorSpans row.kind ⟨1, 2, 3, 0, 0⟩ 0 0 0) = none := by
  unfold MayIssue; decide +kernel
/-- 0 elements and 65, the first number that takes two groups of F32 (R136). -/
theorem test_vector_groups : vecN 0 = 0 ∧ vecGroups 65 = 2 ∧ vecGroups 64 = 1 := by decide
def vectorReady (imm : BitVec 32) : Core := { phase := .running, vecQueue := [⟨0, 0, 0, .add, 0, 0, 0, imm, false⟩] }
theorem test_vector_begin_witness : ∀ n ∈ [0, 65], (getCore (withCore (vectorReady (BitVec.ofNat 32 n))) c0).phase ≠ .stopped
    ∧ (getCore (withCore (vectorReady (BitVec.ofNat 32 n))) c0).vecFlight = [] ∧ (withCore (vectorReady (BitVec.ofNat 32 n))).mem.bad = []
    ∧ (getCore (withCore (vectorReady (BitVec.ofNat 32 n))) c0).vecQueue.map (fun e => vecN e.imm) = [n] := by decide +kernel
theorem test_vector_complete_witness : (getCore (withCore { vecFlight := [{ e := ⟨0, 0, 0, .add, 0, 0, 0, 1, false⟩, began := 0, due := 0 }] }) c0).vecFlight.map (fun f => f.due) = [0] ∧ aclkOf State.reset 0 = 0 := by decide +kernel
theorem test_dma_push_stat_witness : ∀ op ∈ [0x01, 0x02], let w := encodeWord 4 op ⟨1, 2, 0, 3, 0⟩
    MayIssue (at_ w [(2, 0x2FFFC0)]) t0 w ∧ (readReg (at_ w [(2, 0x2FFFC0)]) t0 2).toNat = 0x2FFFC0 := by unfold MayIssue; decide +kernel
/-- One row of 16 bytes from 0x1000 to 0x2000 of tier 1. -/
def moveDesc : BitVec 512 := BitVec.ofNat 512 (0x1000 * 2 ^ 464 + 0x2000 * 2 ^ 416 + 16 * 2 ^ 272 + 1 * 2 ^ 192)
/-- The same to a destination past tier 1. -/
def badDesc : BitVec 512 := BitVec.ofNat 512 (0x1000 * 2 ^ 464 + 0x12000000000 * 2 ^ 416 + 16 * 2 ^ 272 + 1 * 2 ^ 192)
theorem test_dma_begin_witness : dmaCode State.reset c0 moveDesc = 1 ∧ dmaHostSrc moveDesc = false ∧ dmaRemote moveDesc = false ∧ dmaExternal c0 moveDesc = false
    ∧ dmaCode State.reset c0 badDesc = 3 ∧ nocAhead State.reset c0 State.reset.ids (dmaSources moveDesc) = false ∧ (getRouter State.reset 0).pisteBad = []
    ∧ State.reset.intg.lost = [] ∧ State.reset.intg.missed = [] := by decide +kernel
/-- The module whose core 0 of die 0 has its channel 3 as `x`. -/
def channelAt (x : DmaChannel) : State := withCore { dma := vset (Vector.replicate 4 {}) 3 x }
theorem test_channel_at (x : DmaChannel) : vget {} (getCore (channelAt x) c0).dma 3 = x := rfl
theorem test_dma_failed_witness : dmaCode State.reset c0 badDesc ≠ 1 ∧ (3 : BitVec 8) ≠ 1 ∧ (3 : BitVec 8) ≠ 2
    ∧ (getCore (channelAt { queue := [⟨0, badDesc⟩] }) c0).phase ≠ .stopped := by decide +kernel
theorem test_dma_complete_witness : let e : DmaExec := { e := ⟨0, moveDesc⟩, id := 0, code := 1, doneBytes := 0, packets := 0, began := 0 }
    let s : State := { withCore { dma := vset (Vector.replicate 4 {}) 3 { exec := some e } } with clk := { aclk := Vector.replicate 2 100 } }
    (vget {} (getCore s c0).dma 3).exec = some e ∧ (vget {} (getCore s c0).dma 3).queue = [] ∧ e.chk = .ok ∧ dmaSettled s c0 e = true ∧ dmaRemote moveDesc = false ∧ dmaFlagEn moveDesc = false
    ∧ dmaRows moveDesc = 1 ∧ dmaLength moveDesc = 16 ∧ dmaSrc moveDesc + 16 ≤ dmaDst moveDesc ∧ dmaDst moveDesc + 16 ≤ Config.tier1Bytes := by decide +kernel

/-! ### Collectives -/

/-- A module whose handle 1 is a group of `members`; STEP_GROUP is 0. -/
def grouped (members : List (BitVec 32)) (s : State) : State :=
  { s with
    grp := { s.grp with count := 2, recs := [(1, { hdr := 0, members := members })] }
    fab := { s.fab with hasId := true } }
/-- Core 0 of die 0 of this module, and the same of endpoint 1. -/
def here : BitVec 32 := 0
def there : BitVec 32 := 0x00010000
/-- An all-reduce of COUNT 0 in F32 with TAG 7. -/
def reduceDesc : BitVec 512 := BitVec.ofNat 512 (7 * 2 ^ 304 + 1 * 2 ^ 264)
def starting (members : List (BitVec 32)) : State :=
  let s := grouped members (at_ (encodeWord 6 0x01 ⟨0, 2, 0, 0, 1⟩) [(2, 0x40)])
  { s with mem := (landMem s.mem 0 (ownSpm s c0 0x40) (toLE 64 reduceDesc.toNat)).1 }
theorem test_col_start_witness : ∀ members ∈ [[here], [here, there]], let s := starting members
    MayIssue s t0 (encodeWord 6 0x01 ⟨0, 2, 0, 0, 1⟩) ∧ s.mem.bad = [] ∧ (readReg s t0 2).toNat = 0x40 ∧ ownDescriptor s t0 0x40 64 = reduceDesc.toNat
    ∧ handleOk s 1 = true ∧ colOk s c0 1 reduceDesc = true ∧ epochFailed s 1 = false ∧ groupSize s 1 = members.length ∧ rankOf s c0 1 = some 0
    ∧ (getCore s c0).sigNotes = [] := by
  unfold MayIssue; decide +kernel
theorem test_col_next_member : memberAt (starting [here, there]) 1 ((0 + 1) % 2) = some there := by decide +kernel
def gliding (op : Nat) (fl : Nat) (failed : Bool) : State :=
  let s := grouped [here] (at_ (encodeWord 6 op ⟨1, 2, 3, BitVec.ofNat 5 fl, 1⟩))
  if failed then { s with grp := { s.grp with failedEpoch := [(1, 0)] } } else s
theorem test_bar_witness : ∀ failed ∈ [false, true], MayIssue (gliding 0x02 0 failed) t0 (encodeWord 6 0x02 ⟨1, 2, 3, 0, 1⟩) ∧ handleOk (gliding 0x02 0 failed) 1 = true
    ∧ epochFailed (gliding 0x02 0 failed) 1 = failed := by unfold MayIssue; decide +kernel
theorem test_sred_witness : ∀ fl ∈ [0, 5], MayIssue (gliding 0x03 fl false) t0 (encodeWord 6 0x03 ⟨1, 2, 3, BitVec.ofNat 5 fl, 1⟩) ∧ handleOk (gliding 0x03 fl false) 1 = true
    ∧ epochFailed (gliding 0x03 fl false) 1 = false := by unfold MayIssue; decide +kernel
theorem test_col_wait_witness : ∀ st ∈ [none, some (0 : BitVec 8)], let w := encodeWord 6 0x04 ⟨1, 2, 0, 0, 0⟩
    let s := withCore (coreAt w [] (fun k => { k with colRecords := [⟨0, 0, st⟩] }))
    MayIssue s t0 w ∧ waitStatus (getCore s c0) 0 = st.map (fun x => x.toNat) := by unfold MayIssue; decide +kernel
def arrivedEntry (kind : ColKind) (phase : ColPhase) : ColEntry :=
  { seq := 0, thread := 0, pc := 0, kind := kind, handle := 1, gepoch := 0, d := 1, fl := 0, hi := 0, lo := 0, phase := phase }
def releasedTo (kind : ColKind) : State :=
  let s := grouped [here, there] (withCore { colQueue := [arrivedEntry kind .arrived], phase := .running })
  { s with grp := { s.grp with releases := [⟨.core 0 0, 1, 0, 5⟩] } }
theorem test_release_witness : ∀ kind ∈ [ColKind.bar, .sred], (releasedTo kind).grp.releases[0]? = some ⟨.core 0 0, 1, 0, 5⟩
    ∧ (getCore (releasedTo kind) c0).colQueue.find? (fun e => decide (e.handle = 1) && decide (e.phase = .arrived)) = some (arrivedEntry kind .arrived)
    ∧ (getCore (releasedTo kind) c0).colQueue = [arrivedEntry kind .arrived] ∧ (getCore (releasedTo kind) c0).phase ≠ .stopped := by decide +kernel
/-- An operation that an abort has ended, and a reduction of no elements whose outputs have landed. -/
def completing (phase : ColPhase) : State :=
  grouped [here, there] (withCore { phase := .running, colQueue := [{ arrivedEntry (.bulk reduceDesc 0x40) phase with released := 1 }] })
theorem test_complete_witness : (∀ phase ∈ [ColPhase.ended 2, .data], (getCore (completing phase) c0).colQueue[0]? = some { arrivedEntry (.bulk reduceDesc 0x40) phase with released := 1 }
    ∧ isGateOp (completing phase) { arrivedEntry (.bulk reduceDesc 0x40) phase with released := 1 } = false)
    ∧ colDone (completing .data) c0 { arrivedEntry (.bulk reduceDesc 0x40) .data with released := 1 } reduceDesc = true ∧ colOp reduceDesc = 1 := by decide +kernel

/-! ### Kernels -/

/-- Role 0 with one kernel and no gate: role table at 0x100 of the image at 0x10000, KLIST 0x200. -/
def imaged (entry : Nat) (s : State) : State :=
  { s with
    run := { s.run with imageBase := 0x10000, hdr := BitVec.ofNat 512 (1 * 2 ^ 240), sections := [BitVec.ofNat 128 (2 * 2 ^ 112 + 0x100 * 2 ^ 48 + 16)] }
    mem := (landMem s.mem 0 0x10100 (toLE 16 entry)).1 }
/-- KLIST 0x200, KCOUNT 2, GATE none. -/
def plainRole : Nat := 0x200 * 2 ^ 80 + 2 * 2 ^ 64 + 0xFFFF * 2 ^ 32
/-- The same with its gate at kernel 1 and SKIP_INDEX 2, past the last kernel. -/
def gateRole : Nat := 0x200 * 2 ^ 80 + 2 * 2 ^ 64 + 1 * 2 ^ 32 + 2 * 2 ^ 16
def bounding (kick : Bool) : State := imaged plainRole (withCore { phase := .running, threads := [(0, {})], desc := BitVec.ofNat 256 ((if kick then 2 ^ 223 + 0x81 * 2 ^ 248 else 0) + 1 * 2 ^ 192) })
theorem test_boundary_witness : ∀ kick ∈ [false, true], boundaryReached (bounding kick) c0 = true ∧ kdKick (getCore (bounding kick) c0).desc = kick
    ∧ kdNext (getCore (bounding kick) c0).desc = 1 ∧ roleGate (roleEntry (bounding kick) 0) = 0xFFFF ∧ roleKcount (roleEntry (bounding kick) 0) = 2
    ∧ (bounding kick).map.pending = [] := by decide +kernel
/-- A descriptor at 0x2000 that starts threads 0 and 63 at the last word of tier 1. -/
def arriving : State :=
  let s : State := { withCore { phase := .fetching 0x2000 10 } with clk := { aclk := Vector.replicate 2 11 } }
  { s with mem := (landMem s.mem 0 0x2000 (toLE 32 (0x11FFFFFFFF8 * 2 ^ 64 + 2 ^ 63 + 1))).1 }
theorem test_descriptor_witness : (getCore arriving c0).phase = .fetching 0x2000 10 ∧ 10 + 1 ≤ aclkOf arriving 0 ∧ arriving.mem.bad = []
    ∧ kdEntry (BitVec.ofNat 256 (readNum arriving.mem 0x2000 32)) = 0x11FFFFFFFF8 ∧ kdKick (BitVec.ofNat 256 (readNum arriving.mem 0x2000 32)) = false
    ∧ kdMask (BitVec.ofNat 256 (readNum arriving.mem 0x2000 32)) = 0x8000000000000001 := by decide +kernel
def gated (g : Gate) : State := { imaged gateRole (withCore { phase := .gate }) with run := { (imaged gateRole State.reset).run with gate := g } }
theorem test_gate_witness : ∀ g ∈ [Gate.opened, .closed, .faulted], (getCore (gated g) c0).phase = .gate ∧ (gated g).run.gate ≠ .undecided
    ∧ roleGate (roleEntry (gated g) 0) = 1 ∧ roleSkip (roleEntry (gated g) 0) = 2 ∧ roleKcount (roleEntry (gated g) 0) = 2 := by decide +kernel

/-! ### Memories -/

def missing : State := withCore { requests := [⟨0, 0, 5, 0x1FF8, .load 8 false false, 0, 0, 0, some 0x1FF8, none, none⟩], threads := [(0, { mode := .active })] }
theorem test_fill_line_witness : fillRequest missing c0 (0x1FF8 / 256 * 256) = some (0, ⟨0, 0, 5, 0x1FF8, .load 8 false false, 0, 0, 0, some 0x1FF8, none, none⟩)
    ∧ (getCore missing c0).boundaryAt ≤ aclkOf missing 0 ∧ (getThread (getCore missing c0) 0).mode ≠ .inactive := by decide +kernel
def fetching (pc : Word) : State :=
  let s := withCore { phase := .running, threads := [(0, { mode := .active, pc := pc })] }
  { s with mem := { s.mem with hrc := [(0, [⟨0, List.replicate 256 0, 0⟩])] } }
theorem test_fetch_witness : needsFetch (fetching 0xF8) c0 0 = true ∧ placeOf 0xF8 8 = .tier1 ∧ hrcHit (fetching 0xF8) c0 0xF8 = some ⟨0, List.replicate 256 0, 0⟩
    ∧ needsFetch (fetching 0x12000000000) c0 0 = true ∧ placeOf 0x12000000000 8 ≠ .tier1 := by decide +kernel
theorem test_drop_witness : let w := encodeWord 0 0x23 ⟨0, 2, 3, 0, 0⟩
    MayIssue (at_ w [(2, 0x100), (3, 1)]) t0 w ∧ 0 < (readReg (at_ w [(2, 0x100), (3, 1)]) t0 3).toNat := by unfold MayIssue; decide +kernel
theorem test_drop_end_witness : (getCore (withCore { drops := [⟨0, 0x100, 0x101, 0⟩] }) c0).drops[0]? = some ⟨0, 0x100, 0x101, 0⟩ := by decide +kernel
/-- A store of one byte leaves an entry in the merge buffer of its bank; 64 root cycles later it may retire (R187). -/
def merging (a : Nat) (late : Nat) : State := { State.reset with mem := (landMem State.reset.mem 0 a [7]).1, clk := { tick := late, aclk := Vector.replicate 2 (late / 4) } }
theorem test_merge_witness : ((mget [] (merging (spmAddr 0 0 1) 64).mem.spmMerge 0).map (fun e => e.at_) = [0]) ∧ 0 + 16 ≤ aclkOf (merging (spmAddr 0 0 1) 64) 0 ∧ (merging (spmAddr 0 0 1) 64).mem.bad = []
    ∧ ((mget [] (merging 1 520).mem.tierMerge 0).map (fun e => e.at_) = [0]) := by decide +kernel
/-- Load-complete, with the time `t`. -/
def loadedAt (t : Nat) : State := { State.reset with opt := { loaded := true }, clk := { tick := t } }
theorem test_resurfacer_witness : (loadedAt 0).intg.rsEnable = true ∧ paceReached (loadedAt 0) 0 0 tierWords (loadedAt 0).intg.tierRate = true ∧ 0 + 1 < tierWords
    ∧ paceReached (loadedAt 0) 0 0 spmWords (loadedAt 0).intg.spmRate = true ∧ 0 + 1 < spmWords := by decide +kernel
/-- The last word of a pass of 86,400 s. -/
theorem test_resurfacer_end_witness : let s : State := { loadedAt (5200000000 * 86400) with intg := { tierPos := tierWords - 1 } }
    paceReached s s.intg.tierStart s.intg.tierPos tierWords s.intg.tierRate = true ∧ s.intg.tierPos + 1 = tierWords := by decide +kernel
theorem test_leak_witness : let s := loadedAt (5200000000 * 3600)
    s.intg.period.toNat ≠ 0 ∧ s.opt.loadedAt + 5200000000 * ((s.intg.leaks / s.intg.period.toNat + 1) * s.intg.period.toNat) ≤ s.clk.tick := by decide +kernel

/-! ### Links and frames -/

/-- Links 0 and 12 form port 0, which lies in the + direction of X. -/
def ported (x : Link) : State :=
  { State.reset with
    fab := { State.reset.fab with ports := vset (Vector.replicate 8 0) 0 0x1001, links := vset (Vector.replicate 24 {}) 0 x }
    boot := { linkLoaded := true } }
theorem test_peer_witness : ∀ st ∈ [LinkState.down, .disabled, .training, .up], (portOfLink (ported { state := st }) 0).isSome = true ∧ (getLink (ported { state := st }) 0).state = st
    ∧ (getLink (ported { state := st }) 0).permanent = false ∧ (ported { state := st }).boot.linkLoaded = true := by decide +kernel
theorem test_lock_witness : (List.replicate 8 (1 : BitVec 31)).length = 8 := by decide
theorem test_retrain_witness : mustRetrain (ported { state := .up, peer := true, lstateRx := 1 }) (getLink (ported { state := .up, peer := true, lstateRx := 1 }) 0) = true
    ∧ mustRetrain (ported { state := .up, peer := true, lstateRx := 2 }) (getLink (ported { state := .up, peer := true, lstateRx := 2 }) 0) = false := by decide +kernel
theorem test_training_timeout_witness : ∀ n ∈ [0, 1, 2], let s : State := { ported { state := .training, trainFails := n } with clk := { tick := 104000000 } }
    (getLink s 0).state = .training ∧ linkPaused s 0 = false ∧ (getLink s 0).trainStart + 104000000 ≤ s.clk.tick ∧ (getLink s 0).trainFails = n := by decide +kernel
theorem test_window_witness : ∀ w ∈ [none, some 0], let s : State := { State.reset with
      run := { phase := .inStep, origin := 0 }, fab := { State.reset.fab with window := w }, time := { counter := Vector.replicate 2 (4096#96 <<< 32) } }
    s.run.origin.toNat + 4096 * (match s.fab.window with
      | none => 0
      | some x => x + 1) ≤ (timeNs s 0).toNat := by decide +kernel
/-- A window goes on outside a step. -/
theorem test_window_outside_witness : let s : State := { State.reset with
      run := { phase := .snapCopy, origin := 0 }, fab := { State.reset.fab with window := some 0 }, time := { counter := Vector.replicate 2 (4096#96 <<< 32) } }
    s.fab.window.isSome = true ∧ s.run.origin.toNat + 4096 * (0 + 1) ≤ (timeNs s 0).toNat := by decide +kernel

/-- A frame of all-zero cells with a header's LSTATE, its lane blocks under the scrambler's first state. -/
def plainLanes (lstate : Nat) : List (List Byte) :=
  (laneBlocks 0 (BitVec.ofNat 192 (lstate * 2 ^ 96)) (List.replicate 25 ⟨0, List.replicate 32 0, false⟩)).map (fun b => (scramble b (BitVec.allOnes 31)).1)
theorem test_frame_witness : ∀ l ∈ [1, 2], let s := ported { state := .training, locked := true }
    let ins := (List.range 8).map (fun i => decodeLane (scramble (slice ((plainLanes l).getD i []) 0 112) (vget 0 (getLink s 0).rxScr i)).1)
    (getLink s 0).state = .training ∧ (getLink s 0).locked = true ∧ ins.all (fun i => !i.aBad) = true ∧ ((headerOf (ins.map (fun i => i.block))).extractLsb' 96 3).toNat = l := by
  decide +kernel

/-! ### Routing and packets -/

/-- A slice of two modules in X: this one has endpoint 0, endpoint 1 lies one to the + side; link 0 of port 0 is in the active set. -/
def inSlice : State :=
  let s := ported { state := .up, active := true, lstateRx := 2 }
  { s with fab := { s.fab with
    hasId := true
    torus := { s.fab.torus with extX := 4, extY := 1, extZ := 1, sx := 2, sy := 1, sz := 1 }
    routers := Vector.replicate 2 { piste := [(0, 0x80000000), (1, 0x80000400)] } } }
def withCtrl (p : CtrlPkt) : State := putRouter inSlice 0 { getRouter inSlice 0 with ctrlIn := [⟨none, p⟩] }
theorem test_route_witness : route inSlice 0 0 0 0 = .deliver ∧ route inSlice 0 1 0 0 = .send 0 ∧ portOfDir inSlice 0 = some 0 ∧ chooseLink inSlice 0 0 = some 0 := by decide +kernel
theorem test_ctrl_witness : ∀ dest ∈ [0, 1], let p := mkCtrl inSlice 0 dest 1 false 0 0 0 0 0
    nextCtrl (withCtrl p) 0 (getRouter (withCtrl p) 0).ctrlIn = some (0, ⟨none, p⟩) ∧ (ctrlCrc p).toNat = field p.hdr 31 0 ∧ ctrlHeaderOk p = true
    ∧ oneHop ⟨none, p⟩ = false ∧ ctrlDest p = dest ∧ ctrlType p = 1 ∧ (getRouter (withCtrl p) 0).pisteBad = [] := by decide +kernel
theorem test_ctrl_crc_witness : let p : CtrlPkt := { mkCtrl inSlice 0 0 1 false 0 0 0 0 0 with payload := 1 }
    nextCtrl (withCtrl p) 0 (getRouter (withCtrl p) 0).ctrlIn = some (0, ⟨none, p⟩) ∧ (ctrlCrc p).toNat ≠ field p.hdr 31 0 := by decide +kernel

def withData (p : DataPkt) : State := putRouter inSlice 0 { getRouter inSlice 0 with dataIn := [⟨none, p, none, false, false⟩] }
/-- A WRITE of 4 bytes at 0x1000 to endpoint 0, and to endpoint 1, sealed. -/
def writeTo0 : DataPkt := ⟨0x000000000000000000000000000000000008000a0000000000020001fef6c7d8#256, padUnits [1, 2, 3, 4], false⟩
def writeTo1 : DataPkt := ⟨0x000100000000000000000000000000000008000a0000000000020001f1fa46c4#256, padUnits [1, 2, 3, 4], false⟩
/-- A multicast WRITE with no coordinate set. -/
def mcastPkt : DataPkt := ⟨0x00000000000000000000000000000000000800000000000000000011a995ee49#256, padUnits [1, 2, 3, 4], false⟩
/-- A REDUCE packet of one contribution with TAG 9. -/
def reducePkt : DataPkt :=
  ⟨0x000000000000001200000000000000000030000a00000000000200028174c154#256, padUnits ([0, 0, 0, 0, 0, 0, 0, 0, 0, 0, 0, 0, 0, 1, 0, 0] ++ [1, 2, 3, 4, 5, 6, 7, 8]), false⟩
theorem test_data_crc_witness : (dataCrc writeTo0).toNat = field writeTo0.hdr 31 0 ∧ (dataCrc writeTo1).toNat = field writeTo1.hdr 31 0
    ∧ (dataCrc mcastPkt).toNat = field mcastPkt.hdr 31 0 ∧ (dataCrc reducePkt).toNat = field reducePkt.hdr 31 0 := by
  simp only [dataCrc_eq]; decide +kernel
theorem test_data_witness : ∀ e ∈ [(writeTo0, 0), (writeTo1, 1)],
    nextRouted (withData e.1) 0 false = some (0, ⟨none, e.1, none, false, false⟩) ∧ dataHeaderOk e.1 = true ∧ e.1.bad = false
    ∧ pktDest e.1 = e.2 ∧ pktTable e.1 = 0 ∧ pktHops e.1 = 0 := by decide +kernel
theorem test_mcast_witness : nextRouted (withData mcastPkt) 0 true = some (0, ⟨none, mcastPkt, none, false, false⟩)
    ∧ dataHeaderOk mcastPkt = true := by decide +kernel
/-- R224: TYPE 0 and 4, region 3, BYTES 0 and 4097, a multicast REDUCE. -/
def badHeader (bytes typ region mcast : Nat) : DataPkt := ⟨BitVec.ofNat 256 (bytes * 2 ^ 113 + region * 2 ^ 79 + mcast * 2 ^ 36 + typ * 2 ^ 32), [], false⟩
theorem test_bad_header_witness : ∀ e ∈ [(1, 0, 0, 0), (1, 4, 0, 0), (1, 1, 3, 0), (0, 1, 0, 0), (4097, 1, 0, 0), (1, 2, 0, 1)],
    let p := badHeader e.1 e.2.1 e.2.2.1 e.2.2.2
    nextRouted (withData p) 0 (decide (e.2.2.2 = 1)) = some (0, ⟨none, p, none, false, false⟩) ∧ dataHeaderOk p = false := by decide +kernel
theorem test_header_limits : dataHeaderOk (badHeader 4096 1 0 1) = true ∧ dataHeaderOk (badHeader 1 3 2 0) = true := by decide +kernel
def boxed (p : DataPkt) : State := putRouter inSlice 0 { getRouter inSlice 0 with dataBox := [p] }
/-- A data packet that a router has accepted: type, address, bytes. -/
def dataAt (typ a n : Nat) (tag : Nat := 0) : DataPkt := ⟨BitVec.ofNat 256 (tag * 2 ^ 193 + n * 2 ^ 113 + 5 * 2 ^ 97 + a % 2 ^ 44 * 2 ^ 37 + typ * 2 ^ 32), List.replicate 256 0, false⟩
theorem test_write_witness : ∀ a ∈ [0x1000, 0x040000000000, 0x080000000000],
    (takeData (boxed (dataAt 1 a 4)) 0 1 (fun _ => true)).map (fun x => (placeOf (pktAddr x.1) (pktBytes x.1).length, pktEpoch x.1, pktXfer x.1)) = some (placeOf a 4, 0, 5) := by decide +kernel
theorem test_write_places : placeOf 0x1000 4 = .tier1 ∧ placeOf 0x040000000000 4 = .tier2 ∧ placeOf 0x080000000000 4 = .spm 0 0 0 := by decide +kernel
def ctrlBoxed (p : CtrlPkt) : State := putRouter inSlice 0 { getRouter inSlice 0 with ctrlBox := [⟨some 0, p⟩] }
def ctrlOf (typ exp tag : Nat) (payload : Nat) : CtrlPkt := ⟨BitVec.ofNat 128 (typ * 2 ^ 84 + exp * 2 ^ 48 + tag * 2 ^ 32), BitVec.ofNat 128 payload⟩
/-- FINAL_WRITE of the word at 0x1000 with a COUNT. -/
def finalPkt (count : Nat) : CtrlPkt := ctrlOf 1 0 5 (count * 2 ^ 108 + 0x1000 * 2 ^ 64 + 9)
theorem test_final_witness : ∀ n ∈ [0, 1], (takeCtrl (ctrlBoxed (finalPkt n)) 0 1).map (fun x => (fwCount x.1.pkt, fwAddr x.1.pkt, ctrlTag x.1.pkt)) = some (n, 0x1000, 5) := by
  decide +kernel
theorem test_final_release_witness : let s : State := { State.reset with fab := { State.reset.fab with held := [finalPkt 1], xfer := [(5, 1)] } }
    s.fab.held[0]? = some (finalPkt 1) ∧ fwCount (finalPkt 1) ≤ xferCount s (ctrlTag (finalPkt 1)) ∧ placeOf (fwAddr (finalPkt 1)) 8 = .tier1 ∧ fwAddr (finalPkt 1) / 2 ^ 42 ≠ 3 := by decide +kernel
/-- Tag 9 has one slot, slot 0, and expects 2 contributions. -/
def combining : State := putRouter inSlice 0 { getRouter inSlice 0 with dataIn := [⟨none, reducePkt, none, false, false⟩], combine := [BitVec.ofNat 64 (9 * 2 ^ 48 + 1 * 2 ^ 32 + 2 * 2 ^ 8)] }
theorem test_slot_witness : wantsSlot (getRouter combining 0) ⟨none, reducePkt, none, false, false⟩ = true := by
  unfold wantsSlot; simp only [dataCrc_eq]; decide +kernel
theorem test_slot_first_witness : findAt (wantsSlot (getRouter combining 0)) (getRouter combining 0).dataIn = some (0, ⟨none, reducePkt, none, false, false⟩) := by
  show findAt _ [_] = _
  simp only [findAt, test_slot_witness, ite_true]
theorem test_slot_contrib_witness : takeData combining 0 2 (fun _ => true) = none ∧ (combineEntry (getRouter combining 0) (pktTag reducePkt)).isSome = true
    ∧ redContrib (pktBytes reducePkt) = 1 ∧ mfind (getRouter combining 0).slots 0 = none := by decide +kernel
theorem test_slot_flush_witness : let s : State := putRouter { State.reset with clk := { tick := 5200 } } 0 { slots := [(255, ⟨9, 0, 1, 0, [], 0⟩)] }
    mfind (getRouter s 0).slots 255 = some ⟨9, 0, 1, 0, [], 0⟩ ∧ 0 + 5200 ≤ s.clk.tick ∧ 255 < Config.combiningSlots := by decide +kernel

/-- A member of a group of two that receives the packets of an all-reduce with TAG 7, whose work area lies at 0x4000 of tier 1. -/
def reducing (op : Nat) : BitVec 512 := BitVec.ofNat 512 (0x1000 * 2 ^ 464 + 0x2000 * 2 ^ 416 + 0x4000 * 2 ^ 368 + 4 * 2 ^ 336 + 7 * 2 ^ 304 + op * 2 ^ 264)
def member (d : BitVec 512) (phase : ColPhase) (s : State) : State :=
  { grouped [there, here, there] s with cores := [(coreKey c0, { phase := .running, colQueue := [arrivedEntry (.bulk d 0) phase] })] }
theorem test_reduce_witness : let s := member (reducing 3) .data (boxed (dataAt 2 0x4000 24 7))
    (takeData s 0 2 (fun _ => true)).isSome = true ∧ (finisher s 7 0x4000).map (fun x => (x.1, x.2.1.phase)) = some (c0, .data) ∧ pktTag (dataAt 2 0x4000 24 7) = 7
    ∧ pktAddr (dataAt 2 0x4000 24 7) = 0x4000 := by decide +kernel
/-- The same at the middle rank of a chained reduction of 4 elements. -/
theorem test_chain_witness : let p := dataAt 3 0x080000000000 64 7
    let s := member (reducing 2) .data (boxed p)
    (takeData s 0 3 (chainReady s)).isSome = true ∧ chainCore p = some c0 ∧ pktEpoch p = (getCore s c0).epoch.a.toNat
    ∧ (chainOp s c0 7).map (fun x => (x.1.phase, x.1.finished)) = some (.data, 0) ∧ rankOf s c0 1 = some 1
    ∧ chainNext (chainPer (reducing 2)) 0 (chainIn (reducing 2) 3 1) = some (0, 4, false) := by decide +kernel

/-! ### Glide and collective control -/

/-- A glide packet of group 1, operation 2; DIR 0 up, 1 down. -/
def glidePkt (typ dir exp : Nat) : CtrlPkt := ctrlOf typ exp (dir * 32768 + 2 * 4096 + 1) 0
def glideState (p : CtrlPkt) : State :=
  let s := grouped [here, there] (ctrlBoxed p)
  { s with grp := { s.grp with glideOps := [(1, {})] } }
theorem test_glide_witness : ∀ e ∈ [(2, 0, 0), (2, 1, 0), (2, 0, 1), (3, 0, 0), (3, 1, 0), (3, 0, 1)], let s := glideState (glidePkt e.1 e.2.1 e.2.2)
    (takeCtrl s 0 e.1).map (fun x => (ctrlExp x.1.pkt, ctrlTag x.1.pkt / 32768, ctrlTag x.1.pkt / 4096 % 8, ctrlTag x.1.pkt % 4096)) = some (e.2.2, e.2.1, 2, 1)
    ∧ (groupEpoch s 1).toNat = 0 ∧ (mfind s.grp.glideOps 1).isSome = true := by decide +kernel
/-- COLL_CTRL of a kind for core 0 of die 0, group 1, with a group epoch and a reason. -/
def collPkt (kind epoch reason : Nat) : CtrlPkt := ctrlOf 4 0 1 (kind * 2 ^ 120 + epoch * 2 ^ 104 + 7 * 2 ^ 88 + reason * 2 ^ 84)
theorem test_coll_witness : (∀ kind ∈ [1, 2, 3], let s := grouped [here, there] (ctrlBoxed (collPkt kind 0 2))
    (takeColl s 0 kind).map (fun x => (ctrlDie x.1.pkt, ctrlCore x.1.pkt, ctrlExp x.1.pkt, collEpoch x.1.pkt, collReason x.1.pkt)) = some (0, 0, 0, 0, 2)
    ∧ ctrlTag (collPkt kind 0 2) = 1 ∧ (getCore s c0).colQueue = [] ∧ stepGroup s = 0)
    ∧ collEpoch (collPkt 2 1 2) ≠ (groupEpoch State.reset 1).toNat := by decide +kernel
theorem test_done_witness : let s := member (reducing 1) .data (ctrlBoxed (collPkt 3 0 0))
    (takeColl s 0 3).isSome = true ∧ (colFor s c0 1 7 (fun e => decide (e.phase = .arrived ∨ e.phase = .data))).isSome = true ∧ collTag (collPkt 3 0 0) = 7 := by decide +kernel

/-! ### PISTE, UNREACHABLE -/

/-- PISTE_UPDATE from endpoint 0 or 1 with an operation, for endpoint 5, entry epoch `e`. -/
def pistePkt (src op e : Nat) : CtrlPkt := ⟨BitVec.ofNat 128 (src * 2 ^ 96 + 7 * 2 ^ 84), BitVec.ofNat 128 (5 * 2 ^ 112 + (2 ^ 31 + e * 2 ^ 16) * 2 ^ 80 + 3 * 2 ^ 72 + op * 2 ^ 64)⟩
theorem test_piste_witness : ∀ src ∈ [0, 1], ∀ op ∈ [0, 1, 2], ∀ e ∈ [0, 1], (takePiste (ctrlBoxed (pistePkt src op e)) 0 op).map (fun x =>
    (ctrlSrc x.1.pkt, pisteId x.1.pkt, field (pisteWord x.1.pkt) 23 16)) = some (src, 5, e) := by decide +kernel
theorem test_master_witness : Agrees inSlice.fab.torus.master ∧ inSlice.fab.torus.master.a = 0 ∧ Agrees inSlice.fab.tableEpoch ∧ inSlice.fab.tableEpoch.a = 0
    ∧ isMaster inSlice = true := by unfold Agrees; decide +kernel
theorem test_piste_fault_witness : (takeCtrl (ctrlBoxed (ctrlOf 0xA 0 0 0)) 0 0xA).isSome = true := by decide +kernel
/-- A REMOTE descriptor to endpoint 1 with XFER 5. -/
def remoteDesc : BitVec 512 := BitVec.ofNat 512 (1 * 2 ^ 176 + 5 * 2 ^ 144 + 2 ^ 143)
theorem test_unreachable_witness : let k : Core := { dma := vset (Vector.replicate 4 {}) 3 { exec := some { e := ⟨0, remoteDesc⟩, id := 0, code := 1, doneBytes := 0, packets := 1, began := 0 } } }
    let s : State := { ctrlBoxed (ctrlOf 9 0 0 (1 * 2 ^ 112 + 5 * 2 ^ 96)) with cores := [(coreKey c0, k)] }
    (takeCtrl s 0 9).map (fun x => (field x.1.pkt.payload 127 112, field x.1.pkt.payload 111 96)) = some (dmaDestEp remoteDesc, dmaXfer remoteDesc)
    ∧ s.cores = [(coreKey c0, getCore s c0)] ∧ (∀ i ∈ [0, 1, 2], (vget {} (getCore s c0).dma i).exec = none) ∧ dmaRemote remoteDesc = true ∧ s.fail.background = 0 := by decide +kernel

/-! ### Requests -/

/-- A module whose server runs, the slice master with endpoint 0, with one request at the head of the server's queue. -/
def serving : State :=
  { State.reset with opt := { loaded := true }, boot := { serving := true, state := 1 }, dop := { dad := 1 }, fab := { State.reset.fab with hasId := true } }
def reqOf (op key typ : Nat) (value : List Byte) (path : DopPath := .window) : DopReq :=
  { path := path, hdr := dopHeader op 0 false false false false false (key / 256) (key % 256) typ value.length 0 1, payload := value }
def asking (q : DopReq) : State := { serving with dop := { serving.dop with queue := [q] } }
theorem test_head_witness (q : DopReq) : HeadRequest (asking q) q [] := ⟨rfl, rfl, rfl, by show (1#8 : BitVec 8) ≠ 3; decide, rfl⟩
/-- The request of a row with a value, from the slice master. -/
def rowReq (r : WriteRow) (v : Nat) : DopReq := reqOf 2 r.key r.typ (toLE (Nat.max r.bytes 1) v) (.remote 0)
theorem accepted_of (r : WriteRow) (v : Nat) (ha : Asks (rowReq r v) 2 r.key r.typ) (hl : (rowReq r v).payload.length = r.bytes) (hp : r.priv ≤ 1)
    (ho : r.ok (rowReq r v) (ofLE (rowReq r v).payload) (voteChapter (rowReq r v) (dequeued [] (asking (rowReq r v))))) :
    ∃ s u q, Accepted r s q [] u := ⟨asking (rowReq r v), _, rowReq r v, test_head_witness _, ha, hl, ⟨1, _, rfl, hp, rfl⟩, ho⟩

/-- Every WRITE row is accepted somewhere, at the highest value of its range. -/
theorem test_accepted_step : ∀ e ∈ stepWrites, ∃ s u q, Accepted e s q [] u := by
  simp only [stepWrites, List.forall_mem_cons]
  refine ⟨?_, ?_, ?_, ?_, ?_, ?_, ?_, ?_, ?_, ?_, ?_, fun _ h => nomatch h⟩
  · exact accepted_of _ 2 (by unfold Asks; decide +kernel) (by decide +kernel) (by decide) (by decide +kernel)
  · exact accepted_of _ 0 (by unfold Asks; decide +kernel) (by decide +kernel) (by decide) (by decide +kernel)
  · exact accepted_of _ 3 (by unfold Asks; decide +kernel) (by decide +kernel) (by decide) (by decide +kernel)
  · exact accepted_of _ 0 (by unfold Asks; decide +kernel) (by decide +kernel) (by decide) (by decide +kernel)
  · exact accepted_of _ 0 (by unfold Asks; decide +kernel) (by decide +kernel) (by decide) (by decide +kernel)
  · exact accepted_of _ 0 (by unfold Asks; decide +kernel) (by decide +kernel) (by decide) (by decide +kernel)
  · exact accepted_of _ 0 (by unfold Asks; decide +kernel) (by decide +kernel) (by decide) (by decide +kernel)
  · exact accepted_of _ 0 (by unfold Asks; decide +kernel) (by decide +kernel) (by decide) (by decide +kernel)
  · exact accepted_of _ 0 (by unfold Asks; decide +kernel) (by decide +kernel) (by decide) (by decide +kernel)
  · exact accepted_of _ 0 (by unfold Asks; decide +kernel) (by decide +kernel) (by decide) (by decide +kernel)
  · exact accepted_of _ 1 (by unfold Asks; decide +kernel) (by decide +kernel) (by decide) (by decide +kernel)
theorem test_accepted_module : ∀ e ∈ moduleWrites.take 18, ∃ s u q, Accepted e s q [] u := by
  simp only [moduleWrites, List.cons_append, List.take_succ_cons, List.take_zero, List.forall_mem_cons]
  refine ⟨?_, ?_, ?_, ?_, ?_, ?_, ?_, ?_, ?_, ?_, ?_, ?_, ?_, ?_, ?_, ?_, ?_, ?_, fun _ h => nomatch h⟩
  · exact accepted_of _ 1 (by unfold Asks; decide +kernel) (by decide +kernel) (by decide) (by decide +kernel)
  · exact accepted_of _ 2 (by unfold Asks; decide +kernel) (by decide +kernel) (by decide) (by decide +kernel)
  · exact accepted_of _ 3 (by unfold Asks; decide +kernel) (by decide +kernel) (by decide) (by decide +kernel)
  · exact accepted_of _ 39 (by unfold Asks; decide +kernel) (by decide +kernel) (by decide) (by decide +kernel)
  · exact accepted_of _ 23 (by unfold Asks; decide +kernel) (by decide +kernel) (by decide) (by decide +kernel)
  · exact accepted_of _ 31 (by unfold Asks; decide +kernel) (by decide +kernel) (by decide) (by decide +kernel)
  · exact accepted_of _ 3 (by unfold Asks; decide +kernel) (by decide +kernel) (by decide) (by decide +kernel)
  · exact accepted_of _ 2 (by unfold Asks; decide +kernel) (by decide +kernel) (by decide) (by decide +kernel)
  · exact accepted_of _ 1 (by unfold Asks; decide +kernel) (by decide +kernel) (by decide) (by decide +kernel)
  · exact accepted_of _ 1 (by unfold Asks; decide +kernel) (by decide +kernel) (by decide) (by decide +kernel)
  · exact accepted_of _ 1 (by unfold Asks; decide +kernel) (by decide +kernel) (by decide) (by decide +kernel)
  · exact accepted_of _ 0 (by unfold Asks; decide +kernel) (by decide +kernel) (by decide) (by decide +kernel)
  · exact accepted_of _ 1 (by unfold Asks; decide +kernel) (by decide +kernel) (by decide) (by decide +kernel)
  · exact accepted_of _ 0 (by unfold Asks; decide +kernel) (by decide +kernel) (by decide) (by decide +kernel)
  · exact accepted_of _ 0 (by unfold Asks; decide +kernel) (by decide +kernel) (by decide) (by decide +kernel)
  · exact accepted_of _ 2 (by unfold Asks; decide +kernel) (by decide +kernel) (by decide) (by decide +kernel)
  · exact accepted_of _ 256 (by unfold Asks; decide +kernel) (by decide +kernel) (by decide) (by decide +kernel)
  · exact accepted_of _ 159 (by unfold Asks; decide +kernel) (by decide +kernel) (by decide) (by decide +kernel)
theorem test_preset_asks : ∀ l, l < 24 → Asks (reqOf 2 (0x501301 + l) 1 (toLE 1 7) (.remote 0)) 2 (0x501301 + l) 1 := by unfold Asks; decide +kernel
theorem test_accepted_preset : ∀ e ∈ moduleWrites.drop 18, ∃ s u q, Accepted e s q [] u := by
  simp only [moduleWrites, List.cons_append, List.drop_succ_cons, List.drop_zero, List.nil_append, List.forall_mem_map, List.mem_range]
  intro l hl
  exact accepted_of _ 7 (test_preset_asks l hl) rfl (Nat.le_refl 1) (by show ofLE (toLE 1 7) ≤ 7; decide)
/-- The same with a maintenance token that names the request, its value's length and hash (R336). -/
def armed (b : Boot) (q : DopReq) : State :=
  { asking q with boot := b, dop := { (asking q).dop with token := some ⟨q.path, hKey q.hdr, hOp q.hdr, q.payload.length, sha256 q.payload, 0⟩ } }
def ready : Boot := { serving := true, state := 1 }
theorem armed_privilege (b : Boot) (q : DopReq) (ho : hOp q.hdr ≠ 4) (hm : hMore q.hdr = false) :
    privilege (dequeued [] (armed b q)) q = (2, dequeued [] { asking q with boot := b }) := by
  have h : openWrite (dequeued [] (armed b q)) q.path (hOp q.hdr) (hKey q.hdr) = none := rfl
  have ht : tokenNames (dequeued [] (armed b q)) q.path (hKey q.hdr) (hOp q.hdr) = some ⟨q.path, hKey q.hdr, hOp q.hdr, q.payload.length, sha256 q.payload, 0⟩ := by
    show (if q.path = q.path ∧ hKey q.hdr = hKey q.hdr ∧ hOp q.hdr = hOp q.hdr ∧ 0 < 0 + secTicks 10 then _ else none) = _
    rw [if_pos ⟨rfl, rfl, rfl, by decide⟩]
  have hw : wholeValue (dequeued [] (armed b q)) q = some q.payload := by simp [wholeValue, moreToCome, ho, hm, h]
  simp only [privilege, ht, hw, tokenFits, decide_true, Bool.and_self, if_true]
  rfl
theorem accepted_armed (r : WriteRow) (v : Nat) (b : Boot) (hs : b.silent = false) (hv : b.serving = true) (hb : b.state ≠ 3) (hu : b.upStatus ≠ 10)
    (ha : Asks (rowReq r v) 2 r.key r.typ) (hl : (rowReq r v).payload.length = r.bytes) (hm : hMore (rowReq r v).hdr = false) (h4 : hOp (rowReq r v).hdr ≠ 4) (hp : r.priv ≤ 2)
    (ho : r.ok (rowReq r v) (ofLE (rowReq r v).payload) (voteChapter (rowReq r v) (dequeued [] { asking (rowReq r v) with boot := b }))) : ∃ s u q, Accepted r s q [] u :=
  ⟨armed b (rowReq r v), _, rowReq r v, ⟨rfl, hs, hv, hb, decide_eq_false (fun h => hu h.1)⟩, ha, hl, ⟨2, _, armed_privilege b _ h4 hm, hp, rfl⟩, ho⟩
/-- Two key slots hold hashes, no running image uses them, and every floor may rise to 64 (R379). -/
def fused : Boot :=
  { ready with
    svn := Vector.replicate 3 64, active := Vector.replicate 3 255, upComponent := 1
    keyHash := vset (vset (Vector.replicate 4 ⟨0, 0, 0⟩) 3 ⟨1, 1, 1⟩) 2 ⟨2, 2, 2⟩ }
theorem test_accepted_firmware : ∀ e ∈ firmwareWrites, ∃ s u q, Accepted e s q [] u := by
  show ∀ e ∈ [_, _, _, _, _, _, _], _
  simp only [List.forall_mem_cons]
  refine ⟨?_, ?_, ?_, ?_, ?_, ?_, ?_, fun _ h => nomatch h⟩
  · exact accepted_armed _ 64 fused rfl rfl (by decide) (by decide) (by unfold Asks; decide +kernel) (by decide +kernel) (by decide +kernel) (by decide +kernel) (by decide) (by decide +kernel)
  · exact accepted_armed _ 64 fused rfl rfl (by decide) (by decide) (by unfold Asks; decide +kernel) (by decide +kernel) (by decide +kernel) (by decide +kernel) (by decide) (by decide +kernel)
  · exact accepted_armed _ 64 fused rfl rfl (by decide) (by decide) (by unfold Asks; decide +kernel) (by decide +kernel) (by decide +kernel) (by decide +kernel) (by decide) (by decide +kernel)
  · exact accepted_armed _ 3 fused rfl rfl (by decide) (by decide) (by unfold Asks; decide +kernel) (by decide +kernel) (by decide +kernel) (by decide +kernel) (by decide) (by decide +kernel)
  · exact accepted_armed _ 3 fused rfl rfl (by decide) (by decide) (by unfold Asks; decide +kernel) (by decide +kernel) (by decide +kernel) (by decide +kernel) (by decide) (by decide +kernel)
  · exact accepted_armed _ 1024 fused rfl rfl (by decide) (by decide) (by unfold Asks; decide +kernel) (by decide +kernel) (by decide +kernel) (by decide +kernel) (by decide) (by decide +kernel)
  · exact accepted_armed _ 1 fused rfl rfl (by decide) (by decide) (by unfold Asks; decide +kernel) (by decide +kernel) (by decide +kernel) (by decide +kernel) (by decide) (by decide +kernel)
theorem test_activate_witness : ∀ c ∈ [1, 2, 3], let q := reqOf 2 0x901205 0 [1]
    let b : Boot := { ready with upStatus := 3, upComponent := BitVec.ofNat 8 c }
    HeadRequest (armed b q) q [] ∧ Asks q 2 0x901205 0 ∧ q.payload = [1] ∧ (privilege (dequeued [] (armed b q)) q).1 = 2 ∧ (armed b q).boot.upStatus = 3
    ∧ (armed b q).boot.upComponent = BitVec.ofNat 8 c := by
  intro c _
  exact ⟨⟨rfl, rfl, rfl, by show (1#8 : BitVec 8) ≠ 3; decide, rfl⟩, by unfold Asks; decide +kernel, rfl, by rw [armed_privilege _ _ (by decide +kernel) (by decide +kernel)], rfl, rfl⟩
/-- A chunk of one byte at the last place of an image, and one segment of 32 bytes for NONCE. -/
theorem test_chunk_nonce_witness : gather serving .window (reqOf 2 0x901203 0xA [7]).hdr (domMax 3 WO 1024) [7] = .whole [7] ∧ upBusy serving = false
    ∧ imageLimit (upComp { serving with boot := { ready with upComponent := 3 } }) = 512 + bodyLimit 2 + 384
    ∧ gather serving .window (reqOf 2 0x903000 0xA (List.replicate 32 1)).hdr { dom 0 WO 32 with wpriv := 0 } (List.replicate 32 1) = .whole (List.replicate 32 1)
    ∧ serving.boot.reportState ≠ 1 ∧ Asks (reqOf 2 0x901203 0xA [7]) 2 0x901203 0xA ∧ Asks (reqOf 2 0x903000 0xA (List.replicate 32 1)) 2 0x903000 0xA := by
  unfold Asks; decide +kernel
/-- A maintenance key that hashes to the fuses' hash. -/
theorem test_key_witness (bs : List Byte) : let h := sha256 bs
    let s : State := { serving with boot := { ready with maintHash := ⟨h, h, h⟩ } }
    sha256 bs = s.boot.maintHash.value := by simp [Tri.value]
theorem test_key_gather_witness : gather serving .window (reqOf 2 0x122200 0xA (List.replicate 388 1)).hdr (dom 0 RW 388) (List.replicate 388 1) = .whole (List.replicate 388 1)
    ∧ Asks (reqOf 2 0x122200 0xA (List.replicate 388 1)) 2 0x122200 0xA := by unfold Asks; decide +kernel
/-- Without a maintenance key no token verifies. -/
theorem test_token_refused_witness : tokenOk serving (List.replicate 448 0) = false
    ∧ gather serving .window (reqOf 2 0x122100 0xA (List.replicate 448 0)).hdr { dom 0 WO 448 with wpriv := 0 } (List.replicate 448 0) = .whole (List.replicate 448 0)
    ∧ Asks (reqOf 2 0x122100 0xA (List.replicate 448 0)) 2 0x122100 0xA := by unfold Asks; decide +kernel
/-- READs of object 0x2002, 8 bytes: plain, staged, SNAP at segment 0 and at segment 1. -/
def readReq (snap stagedv : Bool) (seg key : Nat) : DopReq := ⟨.window, dopHeader 1 0 false false snap stagedv false (key / 256) (key % 256) 0 0 seg 1, [], false⟩
theorem test_read_witness : ∀ e ∈ [(false, false, 0), (false, true, 0), (true, false, 0), (true, false, 1)], let q := readReq e.1 e.2.1 e.2.2 0x200200
    hOp q.hdr = 1 ∧ hIndex q.hdr = 0x2002 ∧ hSnap q.hdr = e.1 ∧ hStagedv q.hdr = e.2.1 ∧ hSeg q.hdr = e.2.2
    ∧ (objRow serving (hKey q.hdr)).any (fun r => decide (r.access ≠ 2 ∧ r.rpriv ≤ pathPriv serving q.path)) = true := by decide +kernel
theorem test_capture_witness : let c : Capture := ⟨.window, 0x200200, List.replicate 8 0, false, 0⟩
    let s : State := { serving with dop := { serving.dop with captures := [c] } }
    s.dop.captures.find? (fun c => decide (c.path = .window) && decide (c.key = 0x200200) && decide (s.clk.tick < c.at_ + 52000000000)) = some c := by decide +kernel
/-- Four captures of other objects. -/
theorem test_captures_full_witness : let s : State := { serving with dop := { serving.dop with captures := List.replicate 4 ⟨.window, 0, [], false, 0⟩ } }
    4 ≤ (s.dop.captures.filter (fun c => decide (c.path ≠ .window ∨ c.key ≠ 0x200200))).length := by decide +kernel
/-- A host of the segment. -/
def client : BitVec 128 := BitVec.ofNat 128 (0xFE80 * 2 ^ 112 + 1)
/-- A STAGE of the thermal limit, 105 and 106; of an operator list in one segment of 16 bytes, and in the first of two (R341, R412). -/
def stageReq (key typ : Nat) (more : Bool) (v : List Byte) : DopReq := ⟨.window, dopHeader 3 0 false more false false false (key / 256) (key % 256) typ v.length 0 1, v, false⟩
theorem test_stage_witness : (objRow serving 0x310200).any (fun r => decide (r.access = 3 ∧ r.wpriv ≤ 1 ∧ typeBytes r.typ = some r.size)) = true
    ∧ stageOk serving 0x310200 (toLE 1 105) = true ∧ stageOk serving 0x310200 (toLE 1 106) = false ∧ hKey (stageReq 0x310200 1 false (toLE 1 105)).hdr = 0x310200 := by decide +kernel
theorem test_stage_domain_witness : (objRow serving 0x121000).any (fun r => decide (r.access = 3 ∧ typeBytes r.typ = none) &&
      decide (gather serving .window (stageReq 0x121000 10 false (toBE 16 client.toNat)).hdr r (toBE 16 client.toNat) = .whole (toBE 16 client.toNat))) = true
    ∧ stageOk serving 0x121000 (toBE 16 client.toNat) = true
    ∧ (objRow (grouped [here, there] serving) 0x600201).any (fun r => decide (r.access = 3 ∧ typeBytes r.typ = none) &&
      decide (gather (grouped [here, there] serving) .window (stageReq 0x600201 10 true (List.replicate 1024 0)).hdr r (List.replicate 1024 0) = .partial_ ⟨.window, 3, 0x600201, 1, List.replicate 1024 0, 0⟩)) = true := by decide +kernel
theorem test_commit_witness : (∀ q ∈ [false, true].map (fun d => (⟨.window, dopHeader 4 0 false false false false d 0x2100 6 0 0 0 1, [], false⟩ : DopReq)),
    hOp q.hdr = 4 ∧ hIndex q.hdr = 0x2100 ∧ hSub q.hdr = 6) ∧
    (∀ e ∈ [(0, true), (1, false)], let s : State := { serving with dop := { serving.dop with staged := [(0x501001, toLE 4 1), (0x501002, toLE 4 e.1)] } }
      groupState s 6 = 1 ∧ commitOk s 6 = e.2 ∧ groupPriv s 6 = 1) := by decide +kernel
theorem test_quiet_witness : ∀ st ∈ [0, 2], let s : State := { serving with run := { state := BitVec.ofNat 8 st }, dop := { serving.dop with pending := [6] } }
    s.dop.pending.contains 6 = true ∧ groupQuiet s 6 = decide (st = 0) := by decide +kernel
/-- SUBSCRIBE of object 0x2000 with a lease of 3600 s and MIN_MS 60,000, and with lease 0. -/
def subReq (lease gap : Nat) : DopReq := ⟨.net 0 1, dopHeader 6 0 false false false false false 0x2000 0 4 8 0 1, toLE 8 (lease * 2 ^ 48 + gap * 2 ^ 32), false⟩
theorem test_subscribe_witness : (∀ e ∈ [(3600, 60000), (1, 0), (0, 0)], (ofLE (subReq e.1 e.2).payload / 2 ^ 48, ofLE (subReq e.1 e.2).payload / 2 ^ 32 % 2 ^ 16,
    ofLE (subReq e.1 e.2).payload % 2 ^ 32) = (e.1, e.2, 0)) ∧ (objRow serving 0x200000).any (fun r => decide (r.access ≠ 2 ∧ r.rpriv ≤ 1)) = true
    ∧ pathPriv serving (.net 0 1) = 1 ∧ hOp (subReq 1 0).hdr = 6 ∧ (subReq 1 0).payload.length = 8 := by decide +kernel

/-! ### How requests reach the server -/

/-- Every row has a request that is its command. -/
theorem test_rows_witness : ∀ row ∈ objectRows.map (fun e => e.2), row ∈ ([
    readReq false false 0 0x200200, readReq true false 0 0x200200, readReq false true 0 0x200200, reqOf 2 0x200100 4 [], stageReq 0x500101 1 false [1],
    ⟨.window, dopHeader 4 0 false false false false false 0x2100 5 0 0 0 1, [], false⟩, ⟨.window, dopHeader 4 0 false false false false true 0x2100 5 0 0 0 1, [], false⟩,
    subReq 1 0, reqOf 2 0x200000 1 [2], reqOf 2 0x200000 1 [0], reqOf 2 0x200401 1 [0], reqOf 2 0x600800 2 [0, 0], reqOf 2 0x701101 4 [], reqOf 2 0x701203 0 [1],
    reqOf 2 0x700300 4 [], reqOf 2 0x704002 0 [1], reqOf 2 0x122100 10 [], reqOf 2 0x122200 10 [], reqOf 2 0x200703 0 [1], reqOf 2 0x201000 1 [1],
    reqOf 2 0x201000 1 [2], reqOf 2 0x201000 1 [3], reqOf 2 0x312001 2 [0, 0], reqOf 2 0x312002 1 [0], reqOf 2 0x312003 1 [0], reqOf 2 0x800200 1 [1],
    reqOf 2 0x800200 1 [2], reqOf 2 0x504300 0 [1], reqOf 2 0x803200 0 [1], reqOf 2 0x903000 10 [], reqOf 2 0x900304 1 [1], reqOf 2 0x900505 1 [1],
    reqOf 2 0x901201 1 [1], reqOf 2 0x901203 10 [], reqOf 2 0x901204 0 [1], reqOf 2 0x901205 0 [1]] : List DopReq).map rowOf := by decide +kernel
def frameOf (q : DopReq) (ok : Bool) : NetFrame := ⟨client, 7000, false, ok, toLE 16 q.hdr.toNat ++ q.payload⟩
theorem test_net_witness : hears serving client = true ∧ segmentOpen serving = true ∧ (frameOf (subReq 1 0) false).sumOk = false ∧ parseDop [] = none
    ∧ parseDop (frameOf (subReq 1 0) true).bytes = some ((subReq 1 0).hdr, (subReq 1 0).payload) ∧ isAck (subReq 1 0).hdr = false
    ∧ keptFor serving (.net client 7000) 1 = none ∧ inQueue serving (.net client 7000) 1 = false ∧ taken serving = 0 := by decide +kernel
theorem test_net_full_witness : taken { serving with dop := { serving.dop with queue := List.replicate 32 (subReq 1 0) } } = 32
    ∧ inQueue { serving with dop := { serving.dop with queue := List.replicate 32 (subReq 1 0) } } (.net client 7000) 1 = false := by decide +kernel
theorem test_kept_witness : let k : Kept := ⟨.net client 7000, 1, [], 0⟩
    keptFor { serving with dop := { serving.dop with kept := [k] } } (.net client 7000) (hReqId (subReq 1 0).hdr) = some k := by decide +kernel
/-- The port is ready and the host's requests are served; the window holds a request. -/
def hosted : State := { serving with pcie := { inL0 := true, memEnable := true }, dop := { serving.dop with winReq := toLE 16 (subReq 1 0).hdr.toNat ++ padTo 1024 (subReq 1 0).payload } }
theorem test_window_go_witness : hostAccess hosted = true ∧ hosted.dop.winBusy = false ∧ (parseDop hosted.dop.winReq).isSome = true
    ∧ (parseDop hosted.dop.winReq).all (fun x => !isAck x.1) = true ∧ taken hosted = 0 ∧ bit (1 : BitVec 64) 0 = true ∧ bit (1 : BitVec 64) 2 = false := by decide +kernel
/-- An OBJ_REQ of a READ, with the index given, from the slice master. -/
def objPkt (typ index : Nat) : CtrlPkt := ctrlOf typ 0 9 (1 * 2 ^ 124 + index * 2 ^ 96)
theorem test_obj_req_witness : ∀ e ∈ [(0x2000, true), (0x2001, false)], let s := ctrlBoxed (objPkt 5 e.1)
    (takeCtrl s 0 5).map (fun x => (isProbe x.2 x.1.pkt, taken x.2, inQueue x.2 (remoteReq x.1.pkt).path (hReqId (remoteReq x.1.pkt).hdr))) = some (e.2, 0, false) := by decide +kernel
theorem test_obj_rsp_witness : (takeCtrl (ctrlBoxed (objPkt 6 0)) 0 6).map (fun x => (x.2.fail.probes, x.2.dop.remote)) = some ([], []) := by decide +kernel
/-- The response to a probe, and to a READ that the module has sent, both of endpoint 0 under tag 9. -/
theorem test_obj_rsp_awaited_witness : let s : State := { ctrlBoxed (objPkt 6 0) with fail := { probes := [(0, 9, 0)] } }
    let t : State := { ctrlBoxed (objPkt 6 0) with dop := { remote := [⟨9, 0, 0, 0⟩] } }
    (takeCtrl s 0 6).map (fun x => (ctrlSrc x.1.pkt, ctrlTag x.1.pkt, x.2.fail.probes)) = some (0, 9, [(0, 9, 0)])
    ∧ (takeCtrl t 0 6).map (fun x => (x.2.fail.probes, x.2.dop.remote, field x.1.pkt.payload 127 124)) = some ([], [⟨9, 0, 0, 0⟩], 1) := by decide +kernel
theorem test_remote_retry_witness : let s : State := { serving with dop := { serving.dop with remote := [⟨3, 1, 0, 0⟩] }, clk := { tick := 10400000000 } }
    s.dop.remote.find? (fun r => decide (r.tag = 3)) = some ⟨3, 1, 0, 0⟩ ∧ 0 + 10400000000 ≤ s.clk.tick := by decide +kernel
/-- One subscription, with a notification out that has been sent `n` times. -/
def subbed (n : Nat) : Subscription := ⟨client, 7000, 0x200100, 0, 0, [], some (1, toLE 16 (dopHeader 5 0 false false false false false 0x2001 0 4 8 0 1).toNat, 0, n), 1, 0, []⟩
theorem test_ack_witness : let h := dopHeader 5 0 true false false false false 0x2001 0 0 0 0 1
    isAck h = true ∧ parseDop (toLE 16 h.toNat) = some (h, []) ∧ findAt (ackFits client 7000 h) [subbed 1] = some (0, subbed 1) := by decide +kernel
theorem test_resend_witness : ∀ n ∈ [4, 5], let s : State := { serving with dop := { serving.dop with subs := [subbed n] }, clk := { tick := 2600000000 } }
    s.dop.subs[0]? = some (subbed n) ∧ (subbed n).outstanding.map (fun x => (x.2.2.1 + 2600000000, x.2.2.2)) = some (s.clk.tick, n) := by decide +kernel
theorem test_poll_witness : (coveredRows serving 0x200100).length = 1 ∧ 0x200100 / 256 ∉ [0x4014, 0x7010, 0x8040] ∧ (subbed 1).expires ≤ serving.clk.tick := by decide +kernel
theorem test_expiry_witness : let s : State := { serving with clk := { tick := 52000000000 }, dop := { serving.dop with captures := [⟨.window, 0, [], false, 0⟩], segs := [⟨.window, 2, 0, 1, [], 0⟩], kept := [⟨.window, 0, [], 0⟩], token := some ⟨.window, 0, 2, 0, 0, 0⟩ } }
    s.dop.captures.map (fun x => x.at_ + 52000000000) = [s.clk.tick] ∧ s.dop.segs.map (fun x => x.at_ + 52000000000) = [s.clk.tick]
    ∧ s.dop.kept.map (fun x => x.at_ + 52000000000) = [s.clk.tick] ∧ s.dop.token.map (fun x => x.at_ + 52000000000) = some s.clk.tick := by decide +kernel
theorem test_dad_witness : serving.dop.dad ≠ 0 ∧ (loadedAt 0).opt.loaded = true ∧ (loadedAt 0).dop.dad = 0 := by decide +kernel

/-! ### The step program, failures -/

theorem test_measuring_witness : let s : State := { State.reset with run := { state := 1, phase := .measuring } }
    s.run.state = 1 ∧ s.run.phase = .measuring ∧ s.mem.bad = [] := by decide +kernel
/-- A release of the sequencer's group with a status and a payload, in a phase of the run. -/
def lifted (phase : StepPhase) (status : Nat) (payload : Nat) (r : Run := {}) : State :=
  { State.reset with run := { r with phase := phase }, grp := { releases := [⟨.sequencer, 0, BitVec.ofNat 8 status, BitVec.ofNat 128 payload⟩] } }
theorem test_opening_witness : ∀ e ∈ [(StepPhase.openMax, 0), (.openMax, 1), (.openMin, 0), (.openMin, 1)],
    (takeRelease (lifted e.1 e.2 7)).map (fun x => (x.1.status, x.1.payload)) = some (BitVec.ofNat 8 e.2, 7) ∧ (lifted e.1 e.2 7).run.phase = e.1 ∧ (lifted e.1 e.2 7).run.openBad = none := by decide +kernel
theorem test_opening_equal : (7#128).setWidth 64 = (lifted .openMin 0 7 { openMaxResult := 7 }).run.openMaxResult ∧ (7#128).setWidth 64 ≠ (lifted .openMin 0 7).run.openMaxResult := by decide
theorem test_timeout_witness : ∀ p ∈ [StepPhase.openMax, .openMin, .inStep, .arrived, .resume], (lifted p 0 0).run.phase = p
    ∧ (lifted p 0 0).run.phaseAt + 5200000 * imgTimeout (lifted p 0 0).run.hdr ≤ (lifted p 0 0).clk.tick := by decide +kernel
theorem test_arrival_witness : (lifted .inStep 0 0 { faulted := true }).run.faulted = true ∧ (lifted .inStep 0 0 { faulted := true }).run.carried = false := by decide +kernel
/-- Results 8 commit, 9 commit and stop, 4 skip, 0xA faulted, 0xC faulted gate (R281). -/
theorem test_lift_results : ∀ e ∈ [(8, false, false, true), (4, false, true, false), (0xA, true, false, true), (0xC, false, true, true)],
    let v := ((takeRelease (lifted .arrived 0 e.1)).map (fun x => x.1.payload)).getD 0
    (takeRelease (lifted .arrived 0 e.1)).isSome = true ∧ bit v 1 = e.2.1 ∧ bit v 2 = e.2.2.1 ∧ bit v 3 = e.2.2.2 := by decide +kernel
/-- Releases of a lift with a member's fault and with a failed group. -/
theorem test_lift_status_witness : ∀ st ∈ [1, 2], (takeRelease (lifted .arrived st 0)).map (fun x => x.1.status.toNat) = some st
    ∧ (lifted .arrived st 0).run.state ≠ 4 ∧ Agrees (lifted .arrived st 0).run.commit := by unfold Agrees; decide +kernel
theorem test_commit_lost_witness : ∀ st ∈ [2, 3], let s := lifted .arrived 0 8 { state := BitVec.ofNat 8 st, commit := ⟨0, 1, 2⟩ }
    (takeRelease s).isSome = true ∧ s.run.phase = .arrived ∧ s.run.state.toNat = st ∧ voteOf s.run.commit = .lost := by decide +kernel
theorem test_snapshot_selected : snapSelected State.reset = false ∧ snapSelected { State.reset with fail := { mapState := 1, cadence := 1 } } = true
    ∧ canReplay { State.reset with run := { attempt := 7 } } 2 = true ∧ canReplay { State.reset with run := { attempt := 8 } } 2 = false := by decide +kernel
theorem test_snap_phases_witness : ∀ e ∈ [(StepPhase.snapCheck, 0, 0), (.snapCheck, 0, 1), (.snapCheck, 2, 0), (.resume, 0, 0), (.resume, 2, 0)],
    (takeRelease (lifted e.1 e.2.1 e.2.2)).map (fun x => (x.1.status.toNat, bit x.1.payload 0, x.2.fail.copied, x.2.fail.awaiting)) = some (e.2.1, decide (e.2.2 = 1), false, []) := by decide +kernel
theorem test_copied_witness : let s : State := { lifted .resume 0 0 with fail := { copied := true } }
    (takeRelease s).map (fun x => (x.1.status, bit x.1.payload 0, x.2.fail.copied, x.2.fail.awaiting)) = some (0, false, true, []) := by decide +kernel
theorem test_copies_witness : ∀ b ∈ [2, 3], let s : State := { State.reset with fail := { background := b }, pcie := { busMaster := true, inL0 := true } }
    s.fail.background = b ∧ s.fail.copyRestart = false ∧ waitingData s s.fail.copyId = [] ∧ hostUsable s = true ∧ drainSlot s = 0 := by decide +kernel
/-- The copy meets an uncorrectable word of its area. -/
def copying : State := { State.reset with fail := { background := 2, mapHdr := 1#512 <<< 284 } }
theorem test_copy_restarts_witness : ∃ t, copyRead ⟨[.ue 0]⟩ copying = (t, false) := pair_of (by decide +kernel)
/-- A local area that serves a restore, and reset's, which does not. -/
theorem test_slot_serves_witness : let h : BitVec 512 := BitVec.ofNat 512 (0x534B5331 * 2 ^ 480 + 2 * 2 ^ 248)
    let s : State := { State.reset with mem := (landMem State.reset.mem 0 0 (toLE 64 h.toNat)).1, fail := { restoreResult := 1, restoreSource := 1 } }
    s.mem.bad = [] ∧ s.fail.restoreSource ≠ 2 ∧ slotServes s (slotAt s.mem (mapLocal s.fail.restoreHdr)) = true
    ∧ slotServes State.reset (slotAt State.reset.mem 0) = false := by decide +kernel
theorem test_drain_other_slot : drainSlot { State.reset with fail := { drainCommit := 5, drainBufs := (5, 4) } } = 1 := by decide +kernel
theorem test_restore_witness : let s : State := { State.reset with fail := { restoreResult := 1, restoreSource := 2, restoreStage := 2 }, pcie := { reads := [⟨0, .restore, 0, 0, 1, some [7], none⟩] } }
    s.fail.restoreResult = 1 ∧ s.fail.restoreSource = 2 ∧ s.fail.restoreStage = 2 ∧ (∀ x ∈ s.pcie.reads, x.reader = .restore → x.data.isSome = true) ∧ isMaster s = false := by decide +kernel
theorem test_port_report_witness : let s : State := { serving with fab := { serving.fab with portDownAt := vset (Vector.replicate 8 none) 7 (some 0) }, clk := { tick := 520000000 } }
    portOk 7 = true ∧ s.fab.hasId = true ∧ vget none s.fab.portDownAt 7 = some 0 ∧ vget false s.fab.portReported 7 = false ∧ 0 + 520000000 ≤ s.clk.tick := by decide +kernel
theorem test_probe_witness : let s : State := { serving with fail := { probes := [(5, 1, 0)] }, clk := { tick := 2600000000 } }
    s.fail.probes.find? (fun p => decide (p.1 = 5)) = some (5, 1, 0) ∧ 0 + 2600000000 ≤ s.clk.tick := by decide +kernel
theorem test_field_test_witness : let s : State := { serving with fail := { tests := [(1, (159, 0))] } }
    mfind s.fail.tests 1 = some (159, 0) ∧ s.flash.permanent.contains (.core 1 159) = false ∧ logicalOf s.map 1 159 = none ∧ testOn State.reset 1 = false ∧ physState State.reset 1 159 ≠ .retired := by decide +kernel

/-! ### Time -/

theorem test_time_sync_witness : (takeCtrl (ctrlBoxed (ctrlOf 8 0 0 (2 ^ 120))) 0 8).map (fun x => (x.1.src, x.1.pkt.payload.toNat / 2 ^ 120)) = some (some 0, 1) := by decide +kernel
theorem test_time_report_witness : let s : State := { ported { state := .up, markCount := 1 } with clk := { tick := 5200000 } }
    (getLink s 0).state = .up ∧ (getLink s 0).reportAt + 5200000 ≤ s.clk.tick ∧ 0 < (getLink s 0).markCount := by decide +kernel
/-- A follower whose master is endpoint 1. -/
def follower : State :=
  let s := ported { state := .up, active := true, lstateRx := 2, delayPs := 0 }
  { s with
    fab := { s.fab with
      hasId := true
      torus := { s.fab.torus with extX := 4, extY := 1, extZ := 1, sx := 2, sy := 1, sz := 1, master := ⟨1, 1, 1⟩ }
      routers := Vector.replicate 2 { piste := [(0, 0x80000000), (1, 0x80000400)] } }
    time := { source := 2, state := 2 }, clk := { tick := 52000000 } }
theorem test_mark_timeout_witness : follower.time.source = 2 ∧ wantedSource follower = 2 ∧ parentLink follower = some 0
    ∧ ((getLink follower 0).markAt.getD 0) + 52000000 ≤ follower.clk.tick := by decide +kernel
/-- A master's clock, and a better one. -/
def grandmaster : PtpMaster := ⟨1, 0, 0, 0, 0, 0, 0⟩
def better : PtpMaster := ⟨0, 0, 0, 0, 0, 0, 0⟩
/-- A slave whose master sends from clock 5; a Sync waits for its Follow_Up, and a Delay_Req of number 4 is out. -/
def slaved (sync : Option (BitVec 16)) (offset : Int) (run : Run := {}) : State :=
  { serving with
    run := run
    time := { source := 1, state := 2, ptp := { master := some grandmaster, parent := 5, syncSeq := sync, syncAt := offset, delaySentAt := some 0, delaySeq := 5, announceAt := some 0 } } }
/-- A message of that master, and one of another clock. -/
def ofMaster : PtpHead := ⟨client, 0, 5, 4⟩
def ofOther : PtpHead := ⟨client, 0, 6, 4⟩
theorem test_ptp_witness : ∀ b ∈ [false, true], let n := if b then some 4 else none; let s := slaved n 0; s.time.source = wantedSource s ∧ ptpHears s ofMaster = true ∧ ptpHears s ofOther = true
    ∧ fromMaster (refreshSource s) ofMaster = true ∧ fromMaster (refreshSource s) ofOther = false ∧ (refreshSource s).time.ptp.syncSeq = n
    ∧ s.time.ptp.delaySentAt = some 0 ∧ ofMaster.seq + 1 = s.time.ptp.delaySeq ∧ s.time.ptp.master.isSome = true
    ∧ segmentOpen s = true ∧ s.opt.loaded = true ∧ s.time.ptp.nextDelayReq ≤ s.clk.tick := by decide +kernel
/-- R368, R370: an offset of 1 ms is followed, one above it in STOPPED is stepped away, and followed while a program runs. -/
theorem test_ptp_offsets : ∀ e ∈ [(4294967296000000, false), (4294967296000001, true)], let s := slaved (some 4) (e.1 : Nat)
    decide (4294967296000000 < (s.time.ptp.syncAt - ((0 : Nat) * 4294967296 + 0 * 65536) - s.time.ptp.meanPath).natAbs) = e.2 := by decide +kernel
theorem test_ptp_states : (slaved none 0).run.state = 0 ∧ (slaved none 0 { state := 2 }).run.state ≠ 0 ∧ 1000000 * 2 ^ 32 = 4294967296000000 := by decide
theorem test_announce_witness : let s : State := { serving with time := { source := 1 } }
    ptpHears s ofOther = true ∧ s.time.source = wantedSource s ∧ s.time.ptp.master = none ∧ ofOther.domain = s.time.ptp.domain := by decide +kernel
/-- The selected master announces itself; another that is better, and another that is not. -/
theorem test_announce_again_witness : let u := refreshSource (slaved none 0)
    u.time.ptp.master = some grandmaster ∧ ofMaster.source = u.time.ptp.parent ∧ ofOther.source ≠ u.time.ptp.parent
    ∧ betterMaster better grandmaster = true ∧ betterMaster grandmaster grandmaster = false := by decide +kernel
theorem test_announce_timeout_witness : (slaved none 0).time.ptp.announceAt = some 0 ∧ 0 + 4 * (slaved none 0).time.ptp.announceTicks ≤ (slaved none 0).clk.tick
    ∧ (slaved none 0).time.source = 1 ∧ (slaved none 0).time.state = 2 := by decide +kernel

/-! ### PCI Express -/

theorem test_window_frame_witness : 0x100000 ≤ 0x10040F ∧ 0x10040F + 1 ≤ 0x100410 ∧ 1 ≤ hosted.pcie.maxPayload := by decide +kernel
theorem test_msix_table_witness : ∀ e ∈ [(0x4000, 4), (0x43F8, 8)], e.1 % e.2 = 0 ∧ 0x4000 ≤ e.1 ∧ e.1 < 0x4400 := by decide
/-- BAR2 at device address 0; the host with a warm reset in progress, and with BAR2 over nothing (R143). -/
def hostedAt (base : BitVec 64) (resetting : Bool) : State :=
  { hosted with pcie := { hosted.pcie with bar2Base := base }, boot := { ready with resetting := resetting } }
theorem test_bar2_witness : ∀ e ∈ [(0, false), (0, true), (0x020000000000, false)], let s := hostedAt (BitVec.ofNat 64 e.1) e.2
    hostAccess s = true ∧ s.boot.resetting = e.2 ∧ portFinds .ok s = s ∧ 128 ≤ s.pcie.maxPayload ∧ bar2Fits s 0xF80 128 = true ∧ bar2Fits s 0xF81 128 = false
    ∧ bar2Fits s 0xFFF 0 = true ∧ bar2Fits s (2 ^ 34) 1 = false
    ∧ toStore s.map (bar2Addr s 0xF80) 128 = (if e.1 = 0 then some 0xF80 else none) ∧ channelDown s 0xF80 = false := by decide +kernel
/-- A byte of the range that the path-parity check misses; a correctable error of the link, masked and not. -/
theorem test_bar2_read_bad_witness : ∃ v, checkRead ⟨[.ue 0xF80]⟩ 6 0 [(0xF80, 128)] (hostedAt 0 false) = (v, some 0xF80) := pair_of (by decide +kernel)
theorem test_bar2_read_ok_witness : ∃ v, checkRead .ok 6 0 [(0xF80, 128)] (hostedAt 0 false) = (v, none) := pair_of (by decide +kernel)
theorem test_port_finds : (portFinds ⟨[.port .replay]⟩ (hostedAt 0 false)).pcie.corErr = 1 := by decide +kernel
/-- R362: a request before the port is ready. -/
theorem test_not_ready_witness : let s : State := { State.reset with pcie := { inL0 := true } }
    s.pcie.inL0 = true ∧ s.opt.loaded = false := by decide
theorem test_bar0_disabled_witness : hostAccess hosted = true ∧ hosted.dop.winReq.length = 1040 ∧ 0x100000 ≤ 0x10040F ∧ 0x10040F + 1 ≤ 0x100410
    ∧ [0].contains (0x100000 + 1039 - 0x10040F) = true := by decide +kernel
theorem test_config_witness : hosted.pcie.inL0 = true ∧ hosted.opt.loaded = true ∧ ({ State.reset with pcie := { inL0 := true } } : State).opt.loaded = false
    ∧ 30 ≤ hosted.pcie.bar2Log ∧ hosted.pcie.bar2Log ≤ 42 ∧ hosted.pcie.memEnable = true ∧ ({ State.reset with pcie := { inL0 := true } } : State).pcie.memEnable = false := by decide +kernel
theorem test_link_up_witness : let s : State := { State.reset with pwr := { state := .on }, clk := { pll := Vector.replicate 2 1 } }
    s.pwr.state = .on ∧ vget 0 s.clk.pll 0 ≠ 0 ∧ s.pcie.perst = false ∧ s.pcie.inL0 = false := by decide +kernel
theorem test_link_down_witness : hosted.pcie.inL0 = true ∧ hosted.pcie.fetchResult ≠ 1 ∧ hosted.fail.restoreResult ≠ 1 ∧ hosted.fail.background ≠ 3 ∧ hostChannels hosted = [] := by decide +kernel
/-- A read of the image fetch is out under tag 3. -/
def reading : State := { hosted with clk := { tick := 5200000000 }, pcie := { hosted.pcie with fetchResult := 1, reads := [⟨3, .image, 0x1000, 0, 4, none, some 0⟩] } }
theorem test_completion_witness : outstandingRead reading 3 = some ⟨3, .image, 0x1000, 0, 4, none, some 0⟩ ∧ reading.pcie.fetchResult = 1 ∧ bit reading.pcie.devCtl2 4 = false
    ∧ 0 + timeoutTicks (field reading.pcie.devCtl2 3 0) ≤ reading.clk.tick ∧ outstandingRead reading 4 = none := by decide +kernel
theorem test_fetch_end_witness : let s : State := { hosted with pcie := { hosted.pcie with fetchResult := 1 } }
    s.pcie.fetchResult = 1 ∧ ∀ r ∈ s.pcie.reads, r.reader ≠ .image := by decide +kernel
theorem test_signal_witness : field (15 : BitVec 64) 5 0 < 16 ∧ 16 ≤ field (16 : BitVec 64) 5 0 ∧ field (0x40 + 15 : BitVec 64) 5 0 < 16 ∧ 16 ≤ field (0x7F : BitVec 64) 5 0 := by decide

/-! ### Resets, lifetime, power, boot -/

theorem test_reset_delay_witness : ∀ e ∈ [(51999999, false), (52000000, true)], let s : State := { serving with boot := { ready with resetReq := some (.warm, 0) }, clk := { tick := e.1 } }
    s.boot.resetReq = some (.warm, 0) ∧ decide (0 + 52000000 ≤ s.clk.tick) = e.2 := by decide +kernel
theorem test_reset_request_witness : ∀ v ∈ [0, 1, 2, 3, 4], let q := reqOf 2 0x201000 1 [BitVec.ofNat 8 v]
    Asks q 2 0x201000 1 ∧ q.payload.length = 1 ∧ (privilege (dequeued [] (asking q)) q).1 = 1 ∧ ofLE q.payload = v ∧ q.path ≠ .remote serving.fab.torus.master.a := by unfold Asks; decide +kernel
theorem test_reset_observer_witness : let q := reqOf 2 0x201000 1 [1] (.net client 7000)
    (privilege { dequeued [] (asking q) with dop := { (asking q).dop with operators := [0], queue := [] } } q).1 = 0 := by decide +kernel
theorem test_reset_master_witness : let q := reqOf 2 0x201000 1 [3] (.remote 0)
    q.path = .remote serving.fab.torus.master.a ∧ Agrees serving.fab.torus.master ∧ (privilege (dequeued [] (asking q)) q).1 = 1 := by unfold Agrees; decide +kernel
theorem quiet_default : Quiet ({} : Core) := ⟨rfl, rfl, rfl, rfl, by decide +kernel⟩
theorem test_warm_witness : let s : State := { loadedAt 0 with pwr := { state := .on } }
    s.pwr.state = .on ∧ s.opt.loaded = true ∧ s.mem.spmMerge = [] ∧ s.mem.tierMerge = [] ∧ (∀ c, Quiet (getCore s c)) ∧ s.fail.restoreResult ≠ 1 ∧ s.pcie.fetchResult ≠ 1
    ∧ s.dop.pending = [] ∧ s.intg.lost = [] ∧ s.intg.missed = [] ∧ s.boot.upStatus ≠ 10 :=
  ⟨rfl, rfl, rfl, rfl, fun _ => quiet_default, by decide, by decide, rfl, rfl, rfl, by decide⟩
theorem test_release_reset_witness : let s : State := { serving with boot := { ready with resetting := true } }
    s.boot.resetting = true ∧ s.pcie.heldWrites = [] := by decide +kernel
theorem test_watchdog_witness : let s : State := { serving with clk := { tick := 20800000000 } }
    s.boot.serving = true ∧ s.boot.state ≠ 3 ∧ s.boot.watchdogAt + 20800000000 ≤ s.clk.tick := by decide +kernel
theorem test_retrained_witness : ∀ ch ∈ [0, 11, 16, 31], let s : State := { serving with boot := { ready with retraining := [ch] } }
    channelCodeOk ch = true ∧ s.boot.retraining.contains ch = true := by decide +kernel
theorem test_update_witness : ∀ n ∈ [22, 23], let s : State := { serving with boot := { ready with upStatus := 10, upComponent := 3, linksLoaded := n } }
    s.boot.upStatus = 10 ∧ s.boot.upComponent = 3 ∧ s.boot.linksLoaded = n ∧ s.boot.state ≠ 2 ∧ (getLink s n).state ≠ .training ∧ linkPaused s n = true := by decide +kernel
theorem test_update_training_witness : let s : State := { ported { state := .training } with boot := { upStatus := 10, upComponent := 3, pauseAt := 5 }, clk := { tick := 9 } }
    (getLink s s.boot.linksLoaded).state = .training ∧ s.boot.pauseAt ≤ s.clk.tick ∧ (getLink s 0).trainStart ≤ s.boot.pauseAt ∧ s.boot.linksLoaded < 23 := by decide +kernel
theorem test_verify_report_witness : let s : State := { serving with boot := { ready with upStatus := 2, reportState := 1 } }
    s.boot.upStatus = 2 ∧ s.boot.reportState = 1 := by decide +kernel
theorem test_handover_witness : ∀ h ∈ [[], [1]], let s : State := { serving with boot := { ready with upStatus := 10, upComponent := 2, handed := h } }
    handingOver s = true ∧ s.boot.handed = h ∧ s.boot.activateReq = none := by decide +kernel
theorem test_save_witness : let s : State := { loadedAt 5200000000 with life := { seconds := 600, saving := none } }
    s.opt.loaded = true ∧ s.life.timerAt + 600 ≤ s.life.seconds ∧ s.life.saving = none ∧ handingOver s = false := by decide +kernel
theorem test_second_witness : (loadedAt 5200000000).opt.loadedAt + 5200000000 * ((loadedAt 5200000000).life.seconds + 1) ≤ (loadedAt 5200000000).clk.tick := by decide +kernel
theorem test_droop_witness : railNumber .vmain0 = some 0 ∧ railNumber .vhbm = some 5 ∧ (loadedAt 0).life.droops.contains .vmain0 = false
    ∧ ({ loadedAt 0 with life := { droops := [.vhbm] } } : State).life.droops.contains .vhbm = true := by decide +kernel
def railed (st : PowerState) (vin en : Bool) (low : Option Nat := none) : State :=
  { State.reset with pwr := { state := st, vin := vin, pwrEn := en, pwrEnLowAt := low }, clk := { tick := 5200000000 } }
theorem test_power_witness : powered (railed (.step 1) true true) = true ∧ powered (railed .on true true) = true ∧ powered (railed .off true true) = false
    ∧ (railed .on true true).boot.upStatus ≠ 10 ∧ (railed .tripped true false (some 0)).pwr.pwrEnLowAt = some 0 := by decide +kernel
theorem test_pll_witness : (railed .on true true).pwr.state = .on ∧ vget 0 (railed .on true true).clk.pll 0 = 0 := by decide +kernel
/-- Two option words whose first names their number; then one whose copies all differ. -/
def goodWords : List Copies := [⟨2 * 2 ^ 32, 2 * 2 ^ 32, 2 * 2 ^ 32⟩, ⟨0, 0, 0⟩]
theorem test_option_witness : attemptOk goodWords = true ∧ attemptFailed [⟨0, 1, 2⟩] = true ∧ attemptOk [⟨0, 1, 2⟩] = false := by decide +kernel
theorem factory_result (s : State) (c k : Nat) (h : slotFile s c k = none) (hr : s.boot.revoked.value = 0) (hf : floorOf s c = 0) : slotResult s c k = 1 := by
  simp [slotResult, h, hr, hf, bit]
theorem test_boot_witness : ∀ c ∈ [0, 1, 2], ∀ k ∈ [0, 1], slotResult (voteFuses (loadedAt 0)) c k = 1 := by
  intro c hc k hk
  exact factory_result _ c k (by revert c k; decide +kernel) (by decide +kernel) (by revert c; decide +kernel)
def revokedAll : State := { loadedAt 0 with boot := { revoked := ⟨0xF, 0xF, 0xF⟩ } }
theorem revoked_result (s : State) (c k : Nat) (h : slotFile s c k = none) (hr : ∀ n : Fin 4, bit s.boot.revoked.value n.val = true) : slotResult s c k ≠ 1 := by
  unfold slotResult
  rw [h]
  rw [if_pos (hr _)]
  exact (by decide : (4 : Nat) ≠ 1)
theorem revoked_bits : ∀ n : Fin 4, bit (voteFuses revokedAll).boot.revoked.value n.val = true := by decide +kernel
theorem revoked_files : ∀ k ∈ [0, 1], slotFile (voteFuses revokedAll) 0 k = none := by decide +kernel
theorem test_boot_recovery_witness : ∀ k ∈ [0, 1], slotResult (voteFuses revokedAll) 0 k ≠ 1 :=
  fun k hk => revoked_result _ 0 k (revoked_files k hk) revoked_bits
theorem test_reference_witness : let s : State := { State.reset with clk := { refPresent := true, refLostAt := some 0, tick := 52000000000 } }
    s.clk.refPresent = true ∧ s.dop.subs = [] ∧ s.clk.refLostAt = some 0 ∧ 0 + 52000000000 ≤ s.clk.tick := by decide +kernel
theorem test_cage_witness : ∀ x ∈ [0, 1, 2], let s : State := { State.reset with cages := vset (Vector.replicate 12 0) 11 (BitVec.ofNat 8 x) }
    vget 0 s.cages 11 = BitVec.ofNat 8 x ∧ s.dop.subs = [] := by decide +kernel

end Sys2Proof.Tests
end

section
/-! SUPPORT. The commands as a whole: a command that is not well formed may answer a next state. -/
namespace Sys2Proof.Machine

/-- Refutes O5: a boot chain that ends with flash slot 6 unreadable names a slot that the module does not have, for FSB, MGMT and LINK have slots A and B only (R378, R380),
so the command is not well formed; its meaning does not check the slot number and answers a next state. At reset no options are loaded, so that state is the one before.
A receive lock of link 0 with no lanes, `.linkRxLock 0 [] []`, is not well formed either and answers a next state as well. -/
theorem not_commandsAnswerNext : ¬ Obligations.CommandsAnswerNext := by
  unfold Obligations.CommandsAnswerNext
  intro h
  have hwf : Instr.wf (.bootChainComplete [6]) = false := by decide
  have hnext : exec (.bootChainComplete [6]) State.reset = .next State.reset := rfl
  have hfault : exec (.bootChainComplete [6]) State.reset = .fault .noSuchUnit := (h _ _).2 hwf
  exact nomatch hnext.symm.trans hfault

end Sys2Proof.Machine
end

section
/-! SUPPORT. The units of a core: what their updates leave of the rest of the module, and the state in which an array instruction at the queue head begins. -/
namespace Sys2Proof.Machine

/-! ### Updates of one core and of the counters -/

/-- A count changes the counters of cores alone. -/
theorem coreCount_eq (s : State) (c : CoreRef) (i n : Nat) : ∃ stats, coreCount s c i n = { s with coreStats := stats } := by
  unfold coreCount physCount
  split
  · exact ⟨s.coreStats, rfl⟩
  · exact ⟨_, rfl⟩

@[simp] theorem getCore_coreCount (s : State) (c c' : CoreRef) (i n : Nat) : getCore (coreCount s c' i n) c = getCore s c := by
  obtain ⟨stats, h⟩ := coreCount_eq s c' i n
  rw [h]; rfl

theorem onlyCoreAndCounts_putCore (s : State) (c : CoreRef) (k : Core) : OnlyCoreAndCounts s (putCore s c k) c := by
  unfold OnlyCoreAndCounts
  rw [getCore_putCore]

theorem OnlyCoreAndCounts.trans {s t u : State} {c : CoreRef} (h : OnlyCoreAndCounts s t c) (h' : OnlyCoreAndCounts t u c) :
    OnlyCoreAndCounts s u c := by
  unfold OnlyCoreAndCounts at h h' ⊢
  generalize getCore u c = k, u.coreStats = stats at h' ⊢
  rw [h', h]
  simp [putCore]

/-- A count keeps everything but the counters. -/
theorem OnlyCoreAndCounts.thenCoreCount {s t : State} {c : CoreRef} (h : OnlyCoreAndCounts s t c) (c' : CoreRef) (i n : Nat) :
    OnlyCoreAndCounts s (coreCount t c' i n) c := by
  obtain ⟨stats, hs⟩ := coreCount_eq t c' i n
  unfold OnlyCoreAndCounts at h ⊢
  rw [getCore_coreCount, hs]
  exact congrArg (fun x : State => { x with coreStats := stats }) h

/-- The core after an array instruction has begun. -/
@[simp] theorem getCore_beginFlight (c : CoreRef) (fl : ArrayFlight) (mark : Mxa → Mxa) (s : State) :
    getCore (beginFlight c fl mark s) c = { getCore s c with mxa := { mark (getCore s c).mxa with
      queue := (mark (getCore s c).mxa).queue.drop 1, flight := (mark (getCore s c).mxa).flight ++ [fl], lastBegin := some fl.began } } := by
  simp [beginFlight]

theorem beginFlight_onlyCoreAndCounts (c : CoreRef) (fl : ArrayFlight) (mark : Mxa → Mxa) (s : State) :
    OnlyCoreAndCounts s (beginFlight c fl mark s) c := onlyCoreAndCounts_putCore s c _

/-! ### Entering a begin -/

theorem mayTrap_of_not_stopped {s : State} {c : CoreRef} (act : State → State) (h : (getCore s c).phase ≠ .stopped) : mayTrap c act s = act s := by
  simp [mayTrap, h]

theorem not_stopped_of_arrayHead {s : State} {c : CoreRef} {e : ArrayEntry} (h : arrayHead s c = some e) : (getCore s c).phase ≠ .stopped := by
  intro hp
  simp [arrayHead, hp] at h

variable {c : CoreRef} {e : ArrayEntry} {s : State}

theorem exec_fillBegin_of_head {d : BitVec 256} (hc : c.wf = true) (hh : arrayHead s c = some e) (he : e.op = .fill d) (chk : Chk) :
    exec (.fillBegin c chk) s = .next (beginFill c chk e d s) := by
  change execFillBegin c chk s = _
  simp [execFillBegin, whenUnit, hc, mayTrap_of_not_stopped _ (not_stopped_of_arrayHead hh), hh, he]

theorem exec_runBegin_of_head {d : BitVec 512} (hc : c.wf = true) (hh : arrayHead s c = some e) (he : e.op = .run d) (chk : Chk) :
    exec (.runBegin c chk) s = .next (beginRun c chk e d s) := by
  change execRunBegin c chk s = _
  simp [execRunBegin, whenUnit, hc, mayTrap_of_not_stopped _ (not_stopped_of_arrayHead hh), hh, he]

theorem exec_drainBegin_of_head {d : BitVec 512} (hc : c.wf = true) (hh : arrayHead s c = some e) (he : e.op = .drain d) (chk : Chk) :
    exec (.drainBegin c chk) s = .next (beginDrain c chk e d s) := by
  change execDrainBegin c chk s = _
  simp [execDrainBegin, whenUnit, hc, mayTrap_of_not_stopped _ (not_stopped_of_arrayHead hh), hh, he]

theorem checkAcs_ok (keys : List Nat) (c : CoreRef) (s : State) : checkAcs .ok keys c s = (s, false) := rfl

end Sys2Proof.Machine
end

section
/-! SUPPORT. Array instructions that complete (R93 to R95). -/
namespace Sys2Proof.Machine

variable {c : CoreRef} {s : State}

theorem completeArray_of_due {engine i : Nat} {f : ArrayFlight} (h : dueFlight (getCore s c).mxa engine (aclkOf s c.die) = some (i, f)) :
    completeArray c engine s = landAll f.chk c f.writes (putCore s c { getCore s c with
      mxa := { (getCore s c).mxa with flight := dropAt (getCore s c).mxa.flight i } }) := by
  simp only [completeArray, h]

/-- Each completion of the array class completes on its own engine. -/
theorem exec_arrayComplete {make : CoreRef → Instr} {engine : Nat}
    (h : (make, engine) ∈ [(Instr.fillComplete, 0), (Instr.runComplete, 1), (Instr.drainComplete, 2)]) (hc : c.wf = true) (s : State) :
    exec (make c) s = .next (completeArray c engine s) := by
  have hunit : whenUnit c.wf (completeArray c engine s) = .next (completeArray c engine s) := by simp [whenUnit, hc]
  simp only [List.mem_cons, Prod.mk.injEq, List.not_mem_nil, or_false] at h
  obtain ⟨rfl, rfl⟩ | ⟨rfl, rfl⟩ | ⟨rfl, rfl⟩ := h
  · exact hunit
  · exact hunit
  · exact hunit

/-- Settles O22: the completion of an engine takes the oldest of its instructions that is due, and lands what is left of its writes. -/
theorem arrayInstructionsComplete : Obligations.ArrayInstructionsComplete := by
  unfold Obligations.ArrayInstructionsComplete
  intro make engine hmake c i f s hc hdue
  rw [exec_arrayComplete hmake hc, completeArray_of_due hdue]

end Sys2Proof.Machine
end

section
/-! SUPPORT. The begin of a fill (R81, R92 to R95). -/
namespace Sys2Proof.Machine

variable {c : CoreRef} {e : ArrayEntry} {s : State}

/-- A fill in flight that begins in cycle `now` (R94, R95). -/
def fillFlight (e : ArrayEntry) (d : BitVec 256) (now : Nat) : ArrayFlight :=
  { e := e, began := now, due := now + 6 + Nat.max (fillCount d) 1, empty := decide (fillCount d = 0) }

/-- The decoded tile of a fill, with its count of far elements (R81). -/
def filledTile (s : State) (c : CoreRef) (d : BitVec 256) : List (Nat × Elem) × Nat :=
  decodeTile (fillTile d) (fun o => readNum s.mem (ownSpm s c ((fillTile d).scaleBase + o)) 1) (fillElems d (spmBytesAt s c))

/-- The shadow plane of a fill stands, and its begin is kept for R92 and R93. -/
def takeFill (s : State) (c : CoreRef) (d : BitVec 256) (m : Mxa) : Mxa :=
  { m with shadow := some ⟨some (BitVec.ofNat 4 (fillTile d).fmt), (filledTile s c d).1⟩, fillBegan := some (aclkOf s c.die, fillCount d) }

/-- A fill that its engine accepts, with its ready word, begins. -/
theorem beginFill_ready {d : BitVec 256} (hs : Clean s) (hf : fillEngineFree (getCore s c).mxa (aclkOf s c.die) = true)
    (hd : drainsClear (getCore s c).mxa (hull (fillSpans d)) = true) (hr : readyHolds s c (fillReadyEn d) (fillReadyOff d) (fillReadyVal d) = true) :
    beginFill c .ok e d s =
      coreCount (beginFlight c (fillFlight e d (aclkOf s c.die)) (takeFill s c d) s) c 0 (filledTile s c d).2 := by
  simp only [beginFill, hf, hd, hr, checkRead_clean hs]
  rfl

/-- What a fill that begins changes: the shadow plane takes its tile, and it is in flight (R81, R94). -/
theorem fillBegin_effect {d : BitVec 256} (hc : c.wf = true) (hh : arrayHead s c = some e) (he : e.op = .fill d) (hs : Clean s)
    (hf : fillEngineFree (getCore s c).mxa (aclkOf s c.die) = true) (hd : drainsClear (getCore s c).mxa (hull (fillSpans d)) = true)
    (hr : readyHolds s c (fillReadyEn d) (fillReadyOff d) (fillReadyVal d) = true) :
    ∃ t, exec (.fillBegin c .ok) s = .next t ∧ OnlyCoreAndCounts s t c ∧
      (getCore t c).mxa.queue = (getCore s c).mxa.queue.drop 1 ∧
      (getCore t c).mxa.shadow = some ⟨some (BitVec.ofNat 4 (fillTile d).fmt), (filledTile s c d).1⟩ ∧
      (getCore t c).mxa.active = (getCore s c).mxa.active ∧ (getCore t c).mxa.acs = (getCore s c).mxa.acs ∧
      (getCore t c).mxa.flight = (getCore s c).mxa.flight ++ [fillFlight e d (aclkOf s c.die)] := by
  refine ⟨_, (exec_fillBegin_of_head hc hh he .ok).trans (congrArg _ (beginFill_ready hs hf hd hr)),
    (beginFlight_onlyCoreAndCounts ..).thenCoreCount .., ?_⟩
  simp [takeFill, fillFlight]

end Sys2Proof.Machine
end

section
/-! SUPPORT. The begin of a run: its sums in the ACS entries that it reaches (R85 to R87, R92). -/
namespace Sys2Proof.Machine

/-! ### Sparse tables after several writes -/

theorem mfind_foldl_mset_of_notMem {β : Type} (xs : List (Nat × β)) {k : Nat} (h : ∀ x ∈ xs, x.1 ≠ k) (m : SMap β) :
    mfind (xs.foldl (fun m x => mset m x.1 x.2) m) k = mfind m k := by
  induction xs generalizing m with
  | nil => rfl
  | cons x xs ih =>
    rw [List.foldl_cons, ih (fun y hy => h y (List.mem_cons_of_mem x hy)), mfind_mset, if_neg (h x List.mem_cons_self).symm]

/-- Several writes that agree on a key, one of them of that key, leave their value there. -/
theorem mfind_foldl_mset_of_mem {β : Type} (xs : List (Nat × β)) {k : Nat} {v : β} (h : ∀ x ∈ xs, x.1 = k → x.2 = v) (hk : ∃ x ∈ xs, x.1 = k)
    (m : SMap β) : mfind (xs.foldl (fun m x => mset m x.1 x.2) m) k = some v := by
  induction xs generalizing m with
  | nil => simp at hk
  | cons x xs ih =>
    rw [List.foldl_cons]
    by_cases hr : ∃ y ∈ xs, y.1 = k
    · exact ih (fun y hy => h y (List.mem_cons_of_mem x hy)) hr _
    · have hx : x.1 = k := by
        obtain ⟨y, hy, hyk⟩ := hk
        obtain rfl | hy := List.mem_cons.mp hy
        · exact hyk
        · exact absurd ⟨y, hy, hyk⟩ hr
      rw [mfind_foldl_mset_of_notMem xs (fun y hy hyk => hr ⟨y, hy, hyk⟩), mfind_mset, if_pos hx.symm, h x List.mem_cons_self hx]

/-! ### Runs -/

/-- The ACS entry of a fed row and a column (R85). -/
def runKey (d : BitVec 512) (r n : Nat) : Nat := 64 * (runRow d + r) + n

/-- What a run leaves in the entry of a fed row and a column: its slot sums, added to the entry or to zero (R86, R87). -/
def runEntry (d : BitVec 512) (p : Plane) (moving : List (Nat × Elem)) (entry : Nat → LA) (r n : Nat) : LA :=
  (columnSlots d p moving r n).foldl addSlot (if runAcc d then entry (runKey d r n) else {})

/-- The entries that a run writes, in its order. -/
def runWrites (d : BitVec 512) (p : Plane) (fed : List Nat) (moving : List (Nat × Elem)) (entry : Nat → LA) : List (Nat × LA) :=
  fed.flatMap (fun r => (planeCols p).map (fun n => (runKey d r n, runEntry d p moving entry r n)))

theorem runSums_fst (d : BitVec 512) (p : Plane) (fed : List Nat) (moving : List (Nat × Elem)) (entry : Nat → LA) (acs : SMap LA) :
    (runSums d p fed moving entry acs).1 = (runWrites d p fed moving entry).foldl (fun m x => mset m x.1 x.2) acs := by
  unfold runSums runWrites
  rw [List.foldl_flatMap]
  simp only [List.foldl_map]
  refine (List.foldl_hom Prod.fst fun acc r => ?_).symm
  exact List.foldl_hom Prod.fst fun _ _ => rfl

theorem mem_runWrites {d : BitVec 512} {p : Plane} {fed : List Nat} {moving : List (Nat × Elem)} {entry : Nat → LA} {x : Nat × LA} :
    x ∈ runWrites d p fed moving entry ↔ ∃ r ∈ fed, ∃ n ∈ planeCols p, x = (runKey d r n, runEntry d p moving entry r n) := by
  simp [runWrites, eq_comm]

theorem lt_of_mem_planeCols {p : Plane} {n : Nat} (h : n ∈ planeCols p) : n < 64 :=
  List.mem_range.mp (List.mem_filter.mp h).1

/-- Columns below 64 keep the entries of a run apart. -/
theorem runKey_inj {d : BitVec 512} {r r' n n' : Nat} (hn : n < 64) (hn' : n' < 64) (h : runKey d r n = runKey d r' n') : r = r' ∧ n = n' := by
  unfold runKey at h
  omega

/-- A run leaves its sums in every entry that it reaches (R86, R87). -/
theorem mfind_runSums_of_mem (d : BitVec 512) (p : Plane) (fed : List Nat) (moving : List (Nat × Elem)) (entry : Nat → LA) (acs : SMap LA)
    {r n : Nat} (hr : r ∈ fed) (hn : n ∈ planeCols p) :
    mfind (runSums d p fed moving entry acs).1 (runKey d r n) = some (runEntry d p moving entry r n) := by
  rw [runSums_fst]
  refine mfind_foldl_mset_of_mem _ (fun x hx hk => ?_) ⟨_, mem_runWrites.mpr ⟨r, hr, n, hn, rfl⟩, rfl⟩ _
  obtain ⟨r', -, n', hn', rfl⟩ := mem_runWrites.mp hx
  obtain ⟨rfl, rfl⟩ := runKey_inj (lt_of_mem_planeCols hn') (lt_of_mem_planeCols hn) hk
  rfl

/-- A run leaves every entry that it does not reach. -/
theorem mfind_runSums_of_notMem (d : BitVec 512) (p : Plane) (fed : List Nat) (moving : List (Nat × Elem)) (entry : Nat → LA) (acs : SMap LA)
    {key : Nat} (h : key ∉ runReach d p fed) : mfind (runSums d p fed moving entry acs).1 key = mfind acs key := by
  rw [runSums_fst]
  refine mfind_foldl_mset_of_notMem _ (fun x hx hk => h ?_) _
  obtain ⟨r, hr, n, hn, rfl⟩ := mem_runWrites.mp hx
  exact List.mem_flatMap.mpr ⟨r, hr, List.mem_map.mpr ⟨n, hn, hk⟩⟩

/-- The planes and the cycles of R92 and R93 after the begin of a run of `z` slots, the first in cycle `x`. -/
def feedRun (d : BitVec 512) (plane : Plane) (x z : Nat) (m : Mxa) : Mxa :=
  let m := if runCommit d then { m with active := plane, shadow := none, commitCycle := some (x - 1) } else m
  if 0 < z then { m with lastSlot := some (x + z - 1) } else if runCommit d then { m with lastSlot := some (x - 1) } else m

section
variable (d : BitVec 512) (plane : Plane) (x z : Nat) (m : Mxa)

@[simp] theorem feedRun_queue : (feedRun d plane x z m).queue = m.queue := by
  cases hcommit : runCommit d <;> by_cases hz : 0 < z <;> simp only [feedRun, hcommit, hz, if_true, if_false, Bool.false_eq_true]

@[simp] theorem feedRun_active : (feedRun d plane x z m).active = if runCommit d then plane else m.active := by
  cases hcommit : runCommit d <;> by_cases hz : 0 < z <;> simp only [feedRun, hcommit, hz, if_true, if_false, Bool.false_eq_true]

@[simp] theorem feedRun_shadow : (feedRun d plane x z m).shadow = if runCommit d then none else m.shadow := by
  cases hcommit : runCommit d <;> by_cases hz : 0 < z <;> simp only [feedRun, hcommit, hz, if_true, if_false, Bool.false_eq_true]

end

/-- The plane that a run uses: the shadow when it commits (R85). -/
def runPlane (m : Mxa) (d : BitVec 512) : Plane := if runCommit d then m.shadow.getD {} else m.active

/-- The rows that a run feeds, by its mask in the SPM (R85). -/
def runFed (s : State) (c : CoreRef) (d : BitVec 512) : List Nat := fedRows d (BitVec.ofNat 128 (readNum s.mem (ownSpm s c (runMmaskOff d)) 16))

/-- The decoded elements of the fed rows, with their count of far elements; masked K rows and K rows without elements are left out (R85). -/
def runMoving (s : State) (c : CoreRef) (d : BitVec 512) (p : Plane) : List (Nat × Elem) × Nat :=
  decodeTile (runTile d) (fun o => readNum s.mem (ownSpm s c ((runTile d).scaleBase + o)) 1)
    (runElems d (runFed s c d) (fun i => runKmask d i && planeRow p i && decide (i < Config.mxaK)) (spmBytesAt s c))

theorem contains_filter_range (n : Nat) (p : Nat → Bool) (i : Nat) : ((List.range n).filter p).contains i = (p i && decide (i < n)) := by
  rw [Bool.eq_iff_iff]
  simp [and_comm]

variable {c : CoreRef} {e : ArrayEntry} {s : State}

/-- A run that the feed engine accepts, with its ready word, begins: its sums are formed with the state before it. -/
theorem beginRun_ready {d : BitVec 512} (hs : Clean s) (hf : feedAccepts (getCore s c).mxa (aclkOf s c.die) = true)
    (hr : (getCore s c).mxa.flight.all (fun f => rowsRead e.op f (aclkOf s c.die)) = true)
    (hd : drainsClear (getCore s c).mxa (hull (runSpans d)) = true) (hch : chainsClear (getCore s c) e = true)
    (hw : readyHolds s c (runReadyEn d) (runReadyOff d) (runReadyVal d) = true) :
    let p := runPlane (getCore s c).mxa d
    let sums := runSums d p (runFed s c d) (runMoving s c d p).1 (acsEntry s c) (getCore s c).mxa.acs
    ∃ fl x z, beginRun c .ok e d s =
      coreCount (coreCount (beginFlight c fl (fun m => { feedRun d p x z m with acs := sums.1 }) s) c 0 (runMoving s c d p).2) c 1 sums.2 := by
  simp only [beginRun, hf, hr, hd, hch, hw, checkRead_clean hs, checkAcs_ok, contains_filter_range]
  exact ⟨_, _, _, rfl⟩

/-- What a run that begins changes: the planes when it commits, and the ACS entries that it reaches (R85 to R87). -/
theorem runBegin_effect {d : BitVec 512} (hc : c.wf = true) (hh : arrayHead s c = some e) (he : e.op = .run d) (hs : Clean s)
    (hf : feedAccepts (getCore s c).mxa (aclkOf s c.die) = true)
    (hr : (getCore s c).mxa.flight.all (fun f => rowsRead e.op f (aclkOf s c.die)) = true)
    (hd : drainsClear (getCore s c).mxa (hull (runSpans d)) = true) (hch : chainsClear (getCore s c) e = true)
    (hw : readyHolds s c (runReadyEn d) (runReadyOff d) (runReadyVal d) = true) :
    let p := runPlane (getCore s c).mxa d
    ∃ t, exec (.runBegin c .ok) s = .next t ∧ OnlyCoreAndCounts s t c ∧
      (getCore t c).mxa.queue = (getCore s c).mxa.queue.drop 1 ∧ (getCore t c).mxa.active = p ∧
      (getCore t c).mxa.shadow = (if runCommit d then none else (getCore s c).mxa.shadow) ∧
      (∀ r ∈ runFed s c d, ∀ n ∈ planeCols p,
        mfind (getCore t c).mxa.acs (runKey d r n) = some (runEntry d p (runMoving s c d p).1 (acsEntry s c) r n)) ∧
      (∀ key, key ∉ runReach d p (runFed s c d) → mfind (getCore t c).mxa.acs key = mfind (getCore s c).mxa.acs key) := by
  intro p
  obtain ⟨fl, x, z, hb⟩ := beginRun_ready hs hf hr hd hch hw
  refine ⟨_, (exec_runBegin_of_head hc hh he .ok).trans (congrArg _ hb),
    ((beginFlight_onlyCoreAndCounts ..).thenCoreCount ..).thenCoreCount .., ?_⟩
  simp only [getCore_coreCount, getCore_beginFlight, feedRun_queue, feedRun_active, feedRun_shadow, true_and]
  refine ⟨?_, fun r hr n hn => mfind_runSums_of_mem _ _ _ _ _ _ hr hn, fun key hk => mfind_runSums_of_notMem _ _ _ _ _ _ hk⟩
  cases hcommit : runCommit d <;> simp only [p, runPlane, hcommit, if_true, if_false, Bool.false_eq_true]

end Sys2Proof.Machine
end

section
/-! SUPPORT. The begin of a drain: its first read and the writes of the row that this ends (R89, R92, R94, R105). -/
namespace Sys2Proof.Machine

/-- The ACS entries of group `g` of a drained row (R94). -/
def drainKeys (d : BitVec 512) (row g : Nat) : List Nat := (groupCols d g).map (fun n => 64 * row + n)

/-- ACS entries with the pending carries of some keys resolved (R105). -/
def resolvedAcs (keys : List Nat) (acs : SMap LA) : SMap LA := acs.map (fun x => if keys.contains x.1 then (x.1, laResolved x.2) else x)

/-- Instructions in flight with the one of `f`'s number replaced by `f`. -/
def replaceFlight (f : ArrayFlight) (fs : List ArrayFlight) : List ArrayFlight := fs.map (fun x => if x.e.seq = f.e.seq then f else x)

@[simp] theorem getCore_resolveEntries (c : CoreRef) (keys : List Nat) (s : State) : getCore (resolveEntries c keys s) c =
    { getCore s c with mxa := { (getCore s c).mxa with acs := resolvedAcs keys (getCore s c).mxa.acs } } := by
  simp [resolveEntries, resolvedAcs]

@[simp] theorem getCore_putFlight (c : CoreRef) (f : ArrayFlight) (s : State) : getCore (putFlight c f s) c =
    { getCore s c with mxa := { (getCore s c).mxa with flight := replaceFlight f (getCore s c).mxa.flight } } := by
  simp [putFlight, replaceFlight]

/-- The last instruction, of a number that no other has, is the one replaced. -/
theorem replaceFlight_append {f f' : ArrayFlight} {fs : List ArrayFlight} (h : ∀ x ∈ fs, x.e.seq ≠ f.e.seq) (he : f'.e = f.e) :
    replaceFlight f' (fs ++ [f]) = fs ++ [f'] := by
  have hfs : fs.map (fun x => if x.e.seq = f.e.seq then f' else x) = fs :=
    (List.map_congr_left fun x hx => if_neg (h x hx)).trans (List.map_id' fs)
  simp [replaceFlight, he, hfs]

theorem pred_div_le_ceilDiv (n : Nat) : (n - 1) / 32 ≤ ceilDiv n 32 := by
  rw [ceilDiv, if_neg (by decide)]
  omega

/-- Nothing of a drained row is written later than its groups take (R94). -/
theorem rowWrites_le {d : BitVec 512} {r : Nat} {vs : List Val} {w : Nat × Nat × List Byte} (h : w ∈ (rowWrites d r vs).1) :
    w.1 ≤ drainGroups d := by
  unfold rowWrites at h
  split at h
  · obtain rfl := List.mem_singleton.mp h
    exact Nat.sub_le _ _
  · obtain h | h := List.mem_append.mp h
    · obtain ⟨g, hg, rfl⟩ := List.mem_map.mp h
      exact Nat.le_of_lt (List.mem_range.mp hg)
    · obtain ⟨⟨b, i⟩, -, rfl⟩ := List.mem_map.mp h
      calc (Nat.min ((i + 1) * blockSize (epiOblock d)) (drainN d) - 1) / 32
          ≤ (drainN d - 1) / 32 := Nat.div_le_div_right (Nat.sub_le_sub_right (Nat.min_le_right _ _) 1)
        _ ≤ drainGroups d := pred_div_le_ceilDiv _

variable {c : CoreRef} {e : ArrayEntry} {s : State} {d : BitVec 512}

/-- A drain that has read one more group, before the writes of a row that ends with it (R94, R142). -/
def readFlight (f : ArrayFlight) (chk : Chk) (inputs : List (BitVec 32 × BitVec 32)) : ArrayFlight :=
  { f with chk := chk, groups := f.groups + 1, inputs := inputs }

/-- A drain whose last row read is to be written. -/
def finishedFlight (f : ArrayFlight) (ws : List (Nat × Nat × List Byte)) : ArrayFlight := { f with inputs := [], writes := f.writes ++ ws }

/-- A row that has been read adds its writes to the drain, from 12 cycles after the row's first read on (R94). -/
theorem finishRow_eq (f : ArrayFlight) (s : State) : ∃ ws nf ovf,
    finishRow c f d s = coreCount (coreCount (putFlight c (finishedFlight f ws) s) c 4 nf) c 6 ovf ∧
    ∀ w ∈ ws, f.began + (f.groups - 1) / f.rowCycles * f.rowCycles + 12 ≤ w.1 ∧
      w.1 ≤ f.began + (f.groups - 1) / f.rowCycles * f.rowCycles + 12 + drainGroups d := by
  refine ⟨_, _, _, rfl, fun w hw => ?_⟩
  obtain ⟨v, hv, rfl⟩ := List.mem_map.mp hw
  exact ⟨Nat.le_add_right _ _, Nat.add_le_add_left (rowWrites_le hv) _⟩

/-- The state after the entries of a drain's next group are resolved, with its saturated entries counted (R105, R107). -/
def resolvedGroup (s : State) (c : CoreRef) (f : ArrayFlight) (d : BitVec 512) : State :=
  let keys := drainKeys d (f.rows.getD (f.groups / f.rowCycles) 0) (f.groups % f.rowCycles)
  coreCount (resolveEntries c keys s) c 2 (keys.filter (fun key => (laDrain (acsEntry (resolveEntries c keys s) c key)).2)).length

@[simp] theorem getCore_resolvedGroup (s : State) (c : CoreRef) (f : ArrayFlight) (d : BitVec 512) :
    getCore (resolvedGroup s c f d) c = { getCore s c with mxa := { (getCore s c).mxa with
      acs := resolvedAcs (drainKeys d (f.rows.getD (f.groups / f.rowCycles) 0) (f.groups % f.rowCycles)) (getCore s c).mxa.acs } } := by
  simp [resolvedGroup]

theorem resolvedGroup_onlyCoreAndCounts (s : State) (c : CoreRef) (f : ArrayFlight) (d : BitVec 512) :
    OnlyCoreAndCounts s (resolvedGroup s c f d) c := (onlyCoreAndCounts_putCore s c _).thenCoreCount ..

/-- The read of a drain's next group resolves its entries; the read of a row's last group brings the row's writes (R94, R105). -/
theorem readGroup_clean {f : ArrayFlight} (hs : Clean s) (hk : f.chk = .ok) : ∃ chk inputs,
    readGroup c f d s = if f.groups % f.rowCycles + 1 = f.rowCycles then finishRow c (readFlight f chk inputs) d (resolvedGroup s c f d)
      else putFlight c (readFlight f chk inputs) (resolvedGroup s c f d) := by
  simp only [readGroup, hk, checkRead_clean hs, checkAcs_ok]
  exact ⟨_, _, rfl⟩

/-- `f'` is the drain `f` after the read of its first group: what it has yet to write follows by 12 cycles, no later than the groups of a row take (R94). -/
structure FirstRead (d : BitVec 512) (f f' : ArrayFlight) : Prop where
  entry : f'.e = f.e
  began : f'.began = f.began
  due : f'.due = f.due
  rows : f'.rows = f.rows
  groups : f'.groups = 1
  writes : ∀ w ∈ f'.writes, f.began + 12 ≤ w.1 ∧ w.1 ≤ f.began + 12 + drainGroups d

theorem FirstRead.of_readFlight {f : ArrayFlight} (hg : f.groups = 0) (hw : f.writes = []) (chk : Chk) (inputs : List (BitVec 32 × BitVec 32)) :
    FirstRead d f (readFlight f chk inputs) where
  entry := rfl
  began := rfl
  due := rfl
  rows := rfl
  groups := congrArg (· + 1) hg
  writes := by simp [readFlight, hw]

theorem FirstRead.finished {f f' : ArrayFlight} (h : FirstRead d f f') {ws : List (Nat × Nat × List Byte)}
    (hws : ∀ w ∈ ws, f.began + 12 ≤ w.1 ∧ w.1 ≤ f.began + 12 + drainGroups d) : FirstRead d f (finishedFlight f' ws) where
  entry := h.entry
  began := h.began
  due := h.due
  rows := h.rows
  groups := h.groups
  writes := List.forall_mem_append.mpr ⟨h.writes, hws⟩

/-- The first read of a drain resolves the first group of its first row (R94, R105). -/
theorem readGroup_first {f : ArrayFlight} {row : Nat} {rows : List Nat} (hs : Clean s) (hk : f.chk = .ok) (hg : f.groups = 0)
    (hw : f.writes = []) (hr : f.rows = row :: rows) :
    ∃ f', FirstRead d f f' ∧ OnlyCoreAndCounts s (readGroup c f d s) c ∧
      getCore (readGroup c f d s) c = { getCore s c with mxa := { (getCore s c).mxa with
        acs := resolvedAcs (drainKeys d row 0) (getCore s c).mxa.acs
        flight := replaceFlight f' (getCore s c).mxa.flight } } := by
  obtain ⟨chk, inputs, hread⟩ := readGroup_clean (c := c) (d := d) hs hk
  have hfirst : FirstRead d f (readFlight f chk inputs) := .of_readFlight hg hw chk inputs
  have honly := resolvedGroup_onlyCoreAndCounts s c f d
  rw [hread]
  split
  · obtain ⟨ws, nf, ovf, hfin, hws⟩ := finishRow_eq (c := c) (d := d) (readFlight f chk inputs) (resolvedGroup s c f d)
    simp only [hfirst.groups, hfirst.began, Nat.sub_self, Nat.zero_div, Nat.zero_mul, Nat.add_zero] at hws
    rw [hfin]
    refine ⟨_, hfirst.finished hws, ((honly.trans (onlyCoreAndCounts_putCore ..)).thenCoreCount ..).thenCoreCount .., ?_⟩
    simp [hg, hr]
  · refine ⟨_, hfirst, honly.trans (onlyCoreAndCounts_putCore ..), ?_⟩
    simp [hg, hr]

theorem foldl_eq_self_of_mem {α β : Type} {f : α → β → α} {a : α} (xs : List β) (h : ∀ x ∈ xs, f a x = a) : xs.foldl f a = a := by
  induction xs with
  | nil => rfl
  | cons x xs ih =>
    rw [List.foldl_cons, h x List.mem_cons_self]
    exact ih fun y hy => h y (List.mem_cons_of_mem x hy)

/-- The number of an instruction that precedes the last names an instruction that precedes it. -/
theorem exists_getFlight_of_mem {k : Core} {fs : List ArrayFlight} {fl f : ArrayFlight} (hk : k.mxa.flight = fs ++ [fl])
    (hf : f ∈ fs) : ∃ x ∈ fs, getFlight k f.e.seq = some x := by
  have hsome : (fs.find? (fun x => decide (x.e.seq = f.e.seq))).isSome := List.find?_isSome.mpr ⟨f, hf, by simp⟩
  obtain ⟨x, hx⟩ := Option.isSome_iff_exists.mp hsome
  refine ⟨x, List.mem_of_find?_eq_some hx, ?_⟩
  rw [getFlight, hk, List.find?_append, hx, Option.some_or]

theorem getFlight_last {k : Core} {fs : List ArrayFlight} {fl : ArrayFlight} (hk : k.mxa.flight = fs ++ [fl])
    (hne : ∀ x ∈ fs, x.e.seq ≠ fl.e.seq) : getFlight k fl.e.seq = some fl := by
  have hnone : fs.find? (fun x => decide (x.e.seq = fl.e.seq)) = none := List.find?_eq_none.mpr fun x hx => by simpa using hne x hx
  simp [getFlight, hk, List.find?_append, hnone]

/-- Among drains that have read all their groups, only the last instruction reads in a cycle. -/
theorem drainCycle_append {fs : List ArrayFlight} {fl : ArrayFlight} (hk : (getCore s c).mxa.flight = fs ++ [fl]) (hop : fl.e.op = .drain d)
    (hdone : ∀ f ∈ fs, f.rows.length * f.rowCycles ≤ f.groups) (hne : ∀ f ∈ fs, f.e.seq ≠ fl.e.seq) :
    drainCycle c s = if fl.groups < fl.rows.length * fl.rowCycles ∧ fl.began + fl.groups ≤ aclkOf s c.die then readGroup c fl d s else s := by
  unfold drainCycle
  rw [hk, List.map_append, List.foldl_append, foldl_eq_self_of_mem (fs.map _)]
  · simp only [List.map_cons, List.map_nil, List.foldl_cons, List.foldl_nil, getFlight_last hk hne, hop]
  · intro seq hseq
    obtain ⟨f, hf, rfl⟩ := List.mem_map.mp hseq
    obtain ⟨x, hx, hget⟩ := exists_getFlight_of_mem hk hf
    simp only [hget]
    split
    · exact if_neg fun h => Nat.not_lt.mpr (hdone x hx) h.1
    · rfl

/-- The rows that a drain drains, by its mask in the SPM (R89). -/
def drainFed (s : State) (c : CoreRef) (d : BitVec 512) : List Nat :=
  drainedRows d (BitVec.ofNat 128 (readNum s.mem (ownSpm s c (drainMmaskOff d)) 16))

/-- A drain in flight that begins now, with its mask parameters, before its first read (R94, R95). -/
def drainFlight (s : State) (c : CoreRef) (e : ArrayEntry) (d : BitVec 512) (param : BitVec 128) : ArrayFlight :=
  { e := e, began := aclkOf s c.die, empty := (drainFed s c d).isEmpty
    due := if (drainFed s c d).isEmpty then aclkOf s c.die else aclkOf s c.die + (drainFed s c d).length * drainGroups d + 12
    rows := (drainFed s c d).map (fun r => drainRow d + r), rowCycles := drainGroups d, param := param }

/-- A drain that R92 lets begin is in flight, and reads in the same cycle. -/
theorem beginDrain_ready (hs : Clean s) (hruns : ∀ f ∈ (getCore s c).mxa.flight, ∀ x, f.e.op = .run x → shareRow e.op f.e.op = false)
    (hread : (getCore s c).mxa.drainReadEnd ≤ aclkOf s c.die) (hd : drainsClear (getCore s c).mxa (hull (drainReadSpans d)) = true)
    (hch : chainsClear (getCore s c) e = true) : ∃ param last,
    beginDrain c .ok e d s = drainCycle c (beginFlight c (drainFlight s c e d param) (fun m => { m with drainReadEnd := last }) s) := by
  unfold beginDrain
  rw [if_neg]
  · simp only [checkRead_clean hs]
    exact ⟨_, _, rfl⟩
  · simp only [hd, hch, Nat.not_lt.mpr hread, decide_false, Bool.not_true, Bool.or_false, Bool.not_eq_true, Bool.not_eq_false', List.all_eq_true]
    intro f hf
    split
    · next x hx => simp [hruns f hf x hx]
    · rfl

/-- A drain of rows has columns, and so groups (R89, R94). -/
theorem drainGroups_pos (h : drainFed s c d ≠ []) : 0 < drainGroups d := by
  have hn : drainN d ≠ 0 := fun hn => h (by simp [drainFed, drainedRows, hn])
  rw [drainGroups, ceilDiv, if_neg (by decide)]
  omega

theorem drainFlight_due_of_rows {param : BitVec 128} (h : drainFed s c d ≠ []) :
    (drainFlight s c e d param).due = aclkOf s c.die + (drainFed s c d).length * drainGroups d + 12 := by
  simp [drainFlight, h]

/-- The writes of the first row of a drain come before the drain is due (R94). -/
theorem FirstRead.le_due {param : BitVec 128} {fl : ArrayFlight} (h : FirstRead d (drainFlight s c e d param) fl) (hr : drainFed s c d ≠ []) :
    ∀ w ∈ fl.writes, w.1 ≤ fl.due := by
  intro w hw
  have hw' : w.1 ≤ aclkOf s c.die + 12 + drainGroups d := (h.writes w hw).2
  have hle : drainGroups d ≤ (drainFed s c d).length * drainGroups d := Nat.le_mul_of_pos_left _ (List.length_pos_iff.mpr hr)
  rw [h.due, drainFlight_due_of_rows hr]
  omega

/-- A drain of no rows reads nothing in a cycle. -/
theorem drainCycle_of_no_rows {fs : List ArrayFlight} {fl : ArrayFlight} (hk : (getCore s c).mxa.flight = fs ++ [fl]) (hop : fl.e.op = .drain d)
    (hdone : ∀ f ∈ fs, f.rows.length * f.rowCycles ≤ f.groups) (hne : ∀ f ∈ fs, f.e.seq ≠ fl.e.seq) (hr : fl.rows = []) : drainCycle c s = s := by
  rw [drainCycle_append hk hop hdone hne, if_neg]
  simp [hr]

section
variable (hc : c.wf = true) (hh : arrayHead s c = some e) (he : e.op = .drain d) (hs : Clean s)
  (hruns : ∀ f ∈ (getCore s c).mxa.flight, ∀ x, f.e.op = .run x → shareRow e.op f.e.op = false)
  (hread : (getCore s c).mxa.drainReadEnd ≤ aclkOf s c.die)
  (hdone : ∀ f ∈ (getCore s c).mxa.flight, f.rows.length * f.rowCycles ≤ f.groups ∧ f.e.seq ≠ e.seq)
  (hd : drainsClear (getCore s c).mxa (hull (drainReadSpans d)) = true) (hch : chainsClear (getCore s c) e = true)
include hc hh he hs hruns hread hdone hd hch

/-- A drain of no rows is in flight and has read nothing as it begins (R95). -/
theorem drainBegin_of_no_rows (hrows : drainFed s c d = []) : ∃ t param, exec (.drainBegin c .ok) s = .next t ∧ OnlyCoreAndCounts s t c ∧
    (getCore t c).mxa.queue = (getCore s c).mxa.queue.drop 1 ∧ (getCore t c).mxa.active = (getCore s c).mxa.active ∧
    (getCore t c).mxa.acs = (getCore s c).mxa.acs ∧
    (getCore t c).mxa.flight = (getCore s c).mxa.flight ++ [drainFlight s c e d param] := by
  obtain ⟨param, last, hb⟩ := beginDrain_ready hs hruns hread hd hch
  rw [drainCycle_of_no_rows (by rw [getCore_beginFlight]) he (fun f hf => (hdone f hf).1) (fun f hf => (hdone f hf).2)
    (by simp [drainFlight, hrows])] at hb
  refine ⟨_, param, (exec_drainBegin_of_head hc hh he .ok).trans (congrArg _ hb), beginFlight_onlyCoreAndCounts .., ?_⟩
  simp

/-- A drain of rows reads its first group as it begins (R94, R105). -/
theorem drainBegin_of_rows {r : Nat} {rs : List Nat} (hrows : drainFed s c d = r :: rs) : ∃ t fl param,
    exec (.drainBegin c .ok) s = .next t ∧ OnlyCoreAndCounts s t c ∧ FirstRead d (drainFlight s c e d param) fl ∧
    (getCore t c).mxa.queue = (getCore s c).mxa.queue.drop 1 ∧ (getCore t c).mxa.active = (getCore s c).mxa.active ∧
    (getCore t c).mxa.acs = resolvedAcs (drainKeys d (drainRow d + r) 0) (getCore s c).mxa.acs ∧
    (getCore t c).mxa.flight = (getCore s c).mxa.flight ++ [fl] := by
  obtain ⟨param, last, hb⟩ := beginDrain_ready hs hruns hread hd hch
  have hgroups : 0 < drainGroups d := drainGroups_pos (s := s) (c := c) (by simp [hrows])
  have hcond : (drainFlight s c e d param).groups < (drainFlight s c e d param).rows.length * (drainFlight s c e d param).rowCycles := by
    simpa [drainFlight, hrows] using hgroups
  rw [drainCycle_append (by rw [getCore_beginFlight]) he (fun f hf => (hdone f hf).1) (fun f hf => (hdone f hf).2),
    if_pos ⟨hcond, Nat.le_refl _⟩] at hb
  obtain ⟨fl, hfirst, honly, hcore⟩ := readGroup_first (c := c) (d := d) (f := drainFlight s c e d param) (row := drainRow d + r)
    (rows := rs.map (fun r => drainRow d + r)) (s := beginFlight c (drainFlight s c e d param) (fun m => { m with drainReadEnd := last }) s)
    hs rfl rfl rfl (by simp [drainFlight, hrows])
  refine ⟨_, fl, param, (exec_drainBegin_of_head hc hh he .ok).trans (congrArg _ hb),
    (beginFlight_onlyCoreAndCounts ..).trans honly, hfirst, ?_⟩
  rw [hcore]
  simp [replaceFlight_append (fun f hf => (hdone f hf).2) hfirst.entry]

end

end Sys2Proof.Machine
end

section
/-! SUPPORT. The begins of the array class. -/
namespace Sys2Proof.Machine

/-- Settles O21: each begin is carried out, the reads of a store without uncorrectable words finding nothing; a run's sums reach its entries alone, for a
plane's columns are below 64, and a drain reads its own first group alone, for the drains before it have read all theirs. -/
theorem arrayInstructionsBegin : Obligations.ArrayInstructionsBegin := by
  unfold Obligations.ArrayInstructionsBegin
  refine ⟨?fill, ?run, ?drain⟩
  case fill =>
    intro c e d s hc hh he hs hf hd hr
    exact fillBegin_effect hc hh he hs hf hd hr
  case run =>
    intro c e d s hc hh he hs hf hr hd hch hw
    exact runBegin_effect hc hh he hs hf hr hd hch hw
  case drain =>
    intro c e d s hc hh he hs hruns hread hdone hd hch rows first
    have hfed : drainFed s c d = rows := rfl
    cases hrows : rows with
    | nil =>
      obtain ⟨t, param, hexec, honly, hqueue, hactive, hacs, hflight⟩ :=
        drainBegin_of_no_rows hc hh he hs hruns hread hdone hd hch (hfed.trans hrows)
      exact ⟨t, _, hexec, honly, hqueue, hactive, hacs, hflight, by simp [drainFlight, hfed, hrows]⟩
    | cons r rs =>
      obtain ⟨t, fl, param, hexec, honly, hfirst, hqueue, hactive, hacs, hflight⟩ :=
        drainBegin_of_rows hc hh he hs hruns hread hdone hd hch (hfed.trans hrows)
      have hfirst' : first = drainKeys d (drainRow d + r) 0 := by simp [first, drainKeys, hrows]
      exact ⟨t, fl, hexec, honly, hqueue, hactive, by simp [hacs, hfirst', resolvedAcs], hflight, hfirst.entry, hfirst.began,
        hfirst.rows.trans (by simp [drainFlight, hfed, hrows]), by simp [hfirst.groups], hfirst.due.trans (by simp [drainFlight, hfed, hrows]),
        fun w hw => ⟨(hfirst.writes w hw).1, hfirst.le_due (by simp [hfed, hrows]) w hw⟩⟩

end Sys2Proof.Machine
end

section
/-! SUPPORT. The step and the queue of commands. -/
namespace Sys2Proof.Machine

/-- Settles O1: a step looks at nothing but the queue of commands to choose what runs (the model's choice, log 1), and a queue with a front takes the arm of `exec`. -/
theorem stepRunsFrontCommand : Obligations.StepRunsFrontCommand := by
  unfold Obligations.StepRunsFrontCommand
  intro c rest s hqueue
  unfold step
  rw [hqueue]

end Sys2Proof.Machine
end

section
/-! SUPPORT. A write over several code words: what its parts leave, taken together (R163, R187 to R189). -/
namespace Sys2Proof.Machine

/-- What a write of bytes leaves of a memory: sound merge buffers, no uncorrectable word, the bytes written and every other byte as before. -/
structure Landed (m m' : Memory) (a : Nat) (bs : List Byte) : Prop where
  sound : MergeOk m'
  clean : m'.bad = []
  reads : ∀ x, readByte m' x = if a ≤ x ∧ x < a + bs.length then bs.getD (x - a) 0 else readByte m x

theorem Landed.nil {m : Memory} (a : Nat) (hok : MergeOk m) (hbad : m.bad = []) : Landed m m a [] := by
  refine ⟨hok, hbad, fun x => ?_⟩
  rw [if_neg (by simp only [List.length_nil]; omega)]

/-- The first `n` bytes of a write, then the rest of it, are the write. -/
theorem Landed.append {m m₁ m₂ : Memory} {a n : Nat} {bs : List Byte} (hn : n ≤ bs.length)
    (h₁ : Landed m m₁ a (bs.take n)) (h₂ : Landed m₁ m₂ (a + n) (bs.drop n)) : Landed m m₂ a bs := by
  refine ⟨h₂.sound, h₂.clean, fun x => ?_⟩
  have hfirst : (bs.take n).length = n := by simp [hn]
  rw [h₂.reads x, h₁.reads x, hfirst, List.length_drop]
  by_cases hrest : a + n ≤ x ∧ x < a + n + (bs.length - n)
  · have hplace : n + (x - (a + n)) = x - a := by omega
    rw [if_pos hrest, if_pos (by omega), List.getD_eq_getElem?_getD, List.getElem?_drop, hplace, List.getD_eq_getElem?_getD]
  · rw [if_neg hrest]
    by_cases hpart : a ≤ x ∧ x < a + n
    · rw [if_pos hpart, if_pos (by omega), List.getD_eq_getElem?_getD, List.getElem?_take_of_lt (by omega), List.getD_eq_getElem?_getD]
    · rw [if_neg hpart, if_neg (by omega)]

/-- How many bytes of a write lie in the code word of its first byte. -/
def partBytes (a : Nat) (bs : List Byte) : Nat := Nat.min bs.length (wordBase a + wordBytes a - a)

/-- The memory after the first part of a write: its bytes in one code word. -/
def landPart (m : Memory) (tick a : Nat) (bs : List Byte) : Memory :=
  if partBytes a bs = wordBytes a then landWord m a (bs.take (partBytes a bs)) else (landNarrow m tick a (bs.take (partBytes a bs))).1

theorem partBytes_le (a : Nat) (bs : List Byte) : partBytes a bs ≤ bs.length := Nat.min_le_left ..

theorem partBytes_in_word (a : Nat) (bs : List Byte) : a + partBytes a bs ≤ wordBase a + wordBytes a := by
  have hword := wordBase_le a
  have hpart : partBytes a bs ≤ wordBase a + wordBytes a - a := Nat.min_le_right ..
  omega

theorem partBytes_pos (a : Nat) {bs : List Byte} (hbs : bs ≠ []) : 0 < partBytes a bs := by
  have hword := wordBase_le a
  exact Nat.lt_min.mpr ⟨List.length_pos_iff.mpr hbs, by omega⟩

/-- A write lands its first part, then what is left of it. -/
theorem landFuel_succ (fuel : Nat) (m : Memory) (tick a : Nat) {bs : List Byte} (hbs : bs ≠ []) :
    (landFuel (fuel + 1) m tick a bs).1 =
      (landFuel fuel (landPart m tick a bs) tick (a + partBytes a bs) (bs.drop (partBytes a bs))).1 := by
  simp only [landFuel, if_neg hbs]
  split
  · next hwhole => rw [landPart, if_pos (show partBytes a bs = wordBytes a from hwhole)]; rfl
  · next hpart => rw [landPart, if_neg (show ¬partBytes a bs = wordBytes a from hpart)]; rfl

/-- A part is a whole word only where it begins at its word's first address; else it enters the merge buffer. -/
theorem landPart_landed {m : Memory} (tick a : Nat) (bs : List Byte) (hok : MergeOk m) (hbad : m.bad = []) :
    Landed m (landPart m tick a bs) a (bs.take (partBytes a bs)) := by
  have hlen : (bs.take (partBytes a bs)).length = partBytes a bs := by simp [partBytes_le]
  have hin := partBytes_in_word a bs
  unfold landPart
  split
  · next hwhole =>
    have hbase : wordBase a = a := by have := wordBase_le a; omega
    obtain ⟨hsound, hclean, hreads⟩ := landWord_reads m a _ hok hbad hbase (hlen.trans hwhole)
    exact ⟨hsound, hclean, hreads⟩
  · obtain ⟨hsound, hclean, -, hreads⟩ := landNarrow_reads m tick a _ hok hbad (by rw [hlen]; exact hin)
    exact ⟨hsound, hclean, hreads⟩

theorem landFuel_landed {fuel : Nat} {m : Memory} (tick : Nat) {a : Nat} {bs : List Byte} (hfuel : bs.length ≤ fuel)
    (hok : MergeOk m) (hbad : m.bad = []) : Landed m (landFuel fuel m tick a bs).1 a bs := by
  induction fuel generalizing m a bs with
  | zero =>
    obtain rfl : bs = [] := List.eq_nil_of_length_eq_zero (Nat.le_zero.mp hfuel)
    exact .nil a hok hbad
  | succ fuel ih =>
    by_cases hbs : bs = []
    · subst hbs; exact .nil a hok hbad
    · have hpart := landPart_landed tick a bs hok hbad
      have hpos := partBytes_pos a hbs
      have hleft : (bs.drop (partBytes a bs)).length ≤ fuel := by rw [List.length_drop]; omega
      rw [landFuel_succ fuel m tick a hbs]
      exact hpart.append (partBytes_le a bs) (ih hleft hpart.sound hpart.clean)

/-- Settles O14: a write is the writes of its parts, one code word each, and every part shows its own bytes and keeps the others. -/
theorem landedBytesRead : Obligations.LandedBytesRead := by
  unfold Obligations.LandedBytesRead
  intro m tick a bs hok hbad
  have hlanded := landFuel_landed (fuel := bs.length) tick (a := a) (Nat.le_refl _) hok hbad
  exact ⟨hlanded.sound, hlanded.clean, (landMem_clean m tick a bs hbad).2, hlanded.reads⟩

end Sys2Proof.Machine
end

section
/-! SUPPORT. The upkeep of the memories: the entry of a merge buffer that retires, the words that the resurfacer reads, the leak of the buckets (R187 to R189, R195, R197). -/
namespace Sys2Proof.Machine

/-! ### Merge buffers that retire -/

/-- The entries of a merge buffer, by table and number. -/
def bufferAt (m : Memory) (spm : Bool) (k : Nat) : List MergeEntry := bif spm then mget [] m.spmMerge k else mget [] m.tierMerge k

/-- A table lists under a number what the table's rule says of that number. -/
theorem mem_mget_of_mfind {t : SMap (List MergeEntry)} {k : Nat} {P : MergeEntry → Prop}
    (h : ∀ es, mfind t k = some es → ∀ e ∈ es, P e) : ∀ e ∈ mget [] t k, P e := by
  unfold mget
  cases hf : mfind t k with
  | none => simp
  | some es => exact h es hf

theorem entryOk_of_mem_bufferAt {m : Memory} {spm : Bool} {k : Nat} {e : MergeEntry} (hok : MergeOk m) (he : e ∈ bufferAt m spm k) :
    entryOk m spm k e := by
  cases spm with
  | true => exact mem_mget_of_mfind (hok.1 k) e he
  | false => exact mem_mget_of_mfind (hok.2 k) e he

/-- The buffer of an address is the one of its region's table and its number. -/
theorem mergeList_eq_bufferAt (m : Memory) (a : Nat) : mergeList m a = bufferAt m (decide (spmBase ≤ a)) (mergeKey m a) := by
  unfold mergeList bufferAt
  by_cases h : spmBase ≤ a <;> simp [h]

/-- The oldest entry of a buffer retires: no byte that a read returns changes, and what stays is the rest of the buffer, without the entry's word. -/
theorem retireEntry_oldest {m : Memory} {spm : Bool} {k : Nat} {e : MergeEntry} {rest : List MergeEntry} (hok : MergeOk m) (hbad : m.bad = [])
    (hbuf : bufferAt m spm k = e :: rest) :
    (∀ a, readByte (retireEntry m e).1 a = readByte m a) ∧ ∀ q ∈ bufferAt (retireEntry m e).1 spm k, q ∈ rest ∧ q.base ≠ e.base := by
  have he : entryOk m spm k e := entryOk_of_mem_bufferAt hok (by simp [hbuf])
  have ⟨htable, hnumber, _⟩ := he
  subst htable hnumber
  rw [← mergeList_eq_bufferAt] at hbuf
  obtain ⟨-, -, -, hreads, hlist, hkey⟩ := retireEntry_reads hok hbad he (by simp [hbuf])
  refine ⟨hreads, fun q hq => ?_⟩
  rw [← hkey, ← mergeList_eq_bufferAt, hlist, mergeList_setMergeList, if_pos ⟨Iff.rfl, rfl⟩, hbuf] at hq
  obtain ⟨hmem, hne⟩ := List.mem_filter.mp hq
  have hbase : q.base ≠ e.base := of_decide_eq_true hne
  exact ⟨(List.mem_cons.mp hmem).resolve_left (fun heq => hbase (heq ▸ rfl)), hbase⟩

/-- In a store without uncorrectable words an entry that is due retires, and only memory changes. -/
theorem retireOldest_clean {s : State} (hc : Clean s) (point die : Nat) {e : MergeEntry} (rest : List MergeEntry) {due : MergeEntry → Bool}
    (hdue : due e = true) : retireOldest .ok point die (e :: rest) due s = { s with mem := (retireEntry s.mem e).1 } := by
  simp [retireOldest, hdue, checkRead_clean hc]

theorem spmMergeRetire_effect {die phys bank : Nat} {e : MergeEntry} {rest : List MergeEntry} {s : State} (hdie : die < 2)
    (hphys : phys < Config.physCores) (hbank : bank < 32) (hbuf : mget [] s.mem.spmMerge (32 * (256 * die + phys) + bank) = e :: rest)
    (hdue : e.at_ + 16 ≤ aclkOf s die) (hc : Clean s) :
    exec (.spmMergeRetire die phys bank .ok) s = .next { s with mem := (retireEntry s.mem e).1 } := by
  have hunit : (dieOk die && physOk phys && bankOk bank) = true := by simp [dieOk, physOk, bankOk, Config.dies, hdie, hphys, hbank]
  change execSpmMergeRetire die phys bank .ok s = _
  rw [execSpmMergeRetire, whenUnit, if_pos hunit, hbuf, retireOldest_clean hc 4 die rest (decide_eq_true hdue)]

theorem tierMergeRetire_effect {ctrl : Nat} {e : MergeEntry} {rest : List MergeEntry} {s : State} (hunit : controllerOk ctrl = true)
    (hbuf : mget [] s.mem.tierMerge ctrl = e :: rest) (hdue : e.at_ + 520 ≤ s.clk.tick) (hc : Clean s) :
    exec (.tierMergeRetire ctrl .ok) s = .next { s with mem := (retireEntry s.mem e).1 } := by
  have hns : nsTicks 100 = 520 := by decide
  change execTierMergeRetire ctrl .ok s = _
  rw [execTierMergeRetire, whenUnit, if_pos hunit, hbuf, retireOldest_clean hc 5 _ rest (by rw [hns]; exact decide_eq_true hdue)]

/-! ### The resurfacer -/

/-- A word that the resurfacer reads in a store without uncorrectable words leaves everything as it was. -/
theorem patrol_clean {s : State} (hc : Clean s) (a point : Nat) : patrol a point .ok s = s := by
  simp [patrol, checkRead_clean hc]

/-- Whether the word's channel trains or is read, the resurfacer goes on; at the last word the next pass begins. -/
theorem resurfacerTierRead_effect {s : State} (hl : s.opt.loaded = true) (hen : s.intg.rsEnable = true)
    (hpace : paceReached s s.intg.tierStart s.intg.tierPos tierWords s.intg.tierRate = true) (hc : Clean s) :
    exec (.resurfacerTierRead .ok) s = .next { s with intg :=
      if s.intg.tierPos + 1 < tierWords then { s.intg with tierPos := s.intg.tierPos + 1 }
      else { s.intg with
        tierPos := 0, tierStart := (nextPass s s.intg.tierStart s.intg.tierRate).1, tierRate := s.intg.tierPass
        tierPasses := satInc s.intg.tierPasses
        rsLate := if (nextPass s s.intg.tierStart s.intg.tierRate).2 then satInc s.intg.rsLate else s.intg.rsLate } } := by
  change execResurfacerTierRead .ok s = _
  simp only [execResurfacerTierRead, hl, hen, hpace, Bool.and_self, if_true, patrol_clean hc, ite_self]
  split <;> rfl

theorem resurfacerSpmRead_effect {s : State} (hl : s.opt.loaded = true) (hen : s.intg.rsEnable = true)
    (hpace : paceReached s s.intg.spmStart s.intg.spmPos spmWords s.intg.spmRate = true) (hc : Clean s) (hmore : s.intg.spmPos + 1 < spmWords) :
    exec (.resurfacerSpmRead .ok) s = .next { s with intg := { s.intg with spmPos := s.intg.spmPos + 1 } } := by
  change execResurfacerSpmRead .ok s = _
  simp only [execResurfacerSpmRead, hl, hen, hpace, Bool.and_self, if_true, patrol_clean hc, ite_self, if_pos hmore]

/-! ### The buckets -/

theorem bucketLeakTick_effect {s : State} (hl : s.opt.loaded = true) (hp : s.intg.period.toNat ≠ 0)
    (hdue : s.opt.loadedAt + 5200000000 * ((s.intg.leaks / s.intg.period.toNat + 1) * s.intg.period.toNat) ≤ s.clk.tick) :
    exec .bucketLeakTick s = .next { s with intg := { s.intg with
      leaks := (s.intg.leaks / s.intg.period.toNat + 1) * s.intg.period.toNat
      levels := s.intg.levels.map (fun e => (e.1, if e.2 = 0 then 0 else e.2 - 1)) } } := by
  change execBucketLeakTick s = _
  rw [execBucketLeakTick]
  exact congrArg _ (if_pos ⟨hl, hp, hdue⟩)

/-- Settles O30: an entry that retires is merged into its word, which shows the same bytes; the resurfacer finds nothing in a store without uncorrectable
words, so that only its place moves; a leak tick is its arm. -/
theorem memoryUpkeep : Obligations.MemoryUpkeep := by
  unfold Obligations.MemoryUpkeep
  refine ⟨⟨?spmRetire, ?tierRetire⟩, ?tierRead, ?spmRead, ?leak⟩
  case spmRetire =>
    intro die phys bank e rest s hdie hphys hbank hbuf hdue hc hok
    obtain ⟨hreads, hgone⟩ := retireEntry_oldest (spm := true) hok hc hbuf
    exact ⟨_, spmMergeRetire_effect hdie hphys hbank hbuf hdue hc, hreads, hgone⟩
  case tierRetire =>
    intro ctrl e rest s hunit hbuf hdue hc hok
    obtain ⟨hreads, hgone⟩ := retireEntry_oldest (spm := false) hok hc hbuf
    exact ⟨_, tierMergeRetire_effect hunit hbuf hdue hc, hreads, hgone⟩
  case tierRead =>
    intro s hl hen hpace hc
    have hexec := resurfacerTierRead_effect hl hen hpace hc
    refine ⟨fun hmore => ?_, fun hlast => ?_⟩
    · rw [hexec, if_pos hmore]
    · rw [if_neg (by omega)] at hexec
      exact ⟨_, hexec, rfl, rfl, rfl, rfl⟩
  case spmRead =>
    intro s hl hen hpace hc hmore
    exact resurfacerSpmRead_effect hl hen hpace hc hmore
  case leak =>
    intro s hl hp _ hdue
    exact bucketLeakTick_effect hl hp hdue

end Sys2Proof.Machine
end

section
/-! SUPPORT. Glide packets at the module's node (R246, R247, R267). -/
namespace Sys2Proof.Machine

variable {die : Nat} {p : CtrlPkt} {s : State}

/-- A packet of another epoch of its group is dropped and counted (R267). -/
theorem glidePacket_of_other_epoch (h : ctrlExp p ≠ (groupEpoch s (ctrlTag p % 4096)).toNat) : glidePacket die p s = collCount s die 3 1 := by
  simp only [glidePacket, if_pos h]

/-- A release on its way down ends the operation that its group has here (R246). -/
theorem glidePacket_of_release (h : ctrlExp p = (groupEpoch s (ctrlTag p % 4096)).toNat) (hdown : ctrlTag p / 32768 = 1)
    (hop : (mfind s.grp.glideOps (ctrlTag p % 4096)).isSome = true) :
    glidePacket die p s = releaseGlide (ctrlTag p % 4096) (ctrlTag p / 4096 % 8) p.payload s := by
  simp only [glidePacket, if_neg (not_not_intro h), if_pos hdown, if_pos hop]

/-- A packet up of any operation but FL 5, which comes in parts (R249), is an input of its child (R246). -/
theorem glidePacket_of_arrival (h : ctrlExp p = (groupEpoch s (ctrlTag p % 4096)).toNat) (hup : ctrlTag p / 32768 = 0)
    (hcode : ctrlTag p / 4096 % 8 ≠ 5) :
    glidePacket die p s = glideArrive (ctrlTag p % 4096) (.child (BitVec.ofNat 16 (ctrlSrc p)))
      { op := ctrlTag p / 4096 % 8, mark := decide (ctrlDie p = 1), value := p.payload } s := by
  have hnotDown : ctrlTag p / 32768 ≠ 1 := by omega
  simp only [glidePacket, if_neg (not_not_intro h), if_neg hnotDown, if_neg hcode]

/-- Each of the two commands takes the oldest packet of its type. -/
theorem exec_glidePacket {make : Nat → Instr} {typ : Nat} {q : RoutedCtrl} {u : State}
    (hmake : (make, typ) ∈ [(Instr.glideBarrier, 2), (Instr.glideSred, 3)]) (hdie : die < 2) (htake : takeCtrl s die typ = some (q, u)) :
    exec (make die) s = .next (glidePacket die q.pkt u) := by
  have hunit : dieOk die = true := decide_eq_true hdie
  simp only [List.mem_cons, Prod.mk.injEq, List.not_mem_nil, or_false] at hmake
  obtain ⟨rfl, rfl⟩ | ⟨rfl, rfl⟩ := hmake
  · change execGlideBarrier die s = _
    simp only [execGlideBarrier, whenUnit, if_pos hunit, htake]
  · change execGlideSred die s = _
    simp only [execGlideSred, whenUnit, if_pos hunit, htake]

/-- Settles O38: the packet that the command takes is dropped, a release or an arrival, by its epoch and its direction. -/
theorem glidePackets : Obligations.GlidePackets := by
  unfold Obligations.GlidePackets
  intro make typ hmake die p s u hdie htake h code
  rw [exec_glidePacket hmake hdie htake]
  refine ⟨?otherEpoch, ?release, ?arrival⟩
  case otherEpoch =>
    intro hexp
    rw [glidePacket_of_other_epoch hexp]
  case release =>
    intro hexp hdown hop
    rw [glidePacket_of_release hexp hdown hop]
  case arrival =>
    intro hexp hup hcode
    rw [glidePacket_of_arrival hexp hup hcode]

end Sys2Proof.Machine
end

section
/-! SUPPORT. An ended operation of the collective queue completes; what the next operation of its group may set off (R185, R186, R253, R265, R266). -/
namespace Sys2Proof.Machine

variable {c : CoreRef} {s : State}

/-- An ended operation completes with its status. -/
theorem exec_collectiveComplete_of_ended {i off : Nat} {e : ColEntry} {d : BitVec 512} {st : BitVec 8} (hc : c.wf = true)
    (hphase : (getCore s c).phase ≠ .stopped) (he : (getCore s c).colQueue[i]? = some e) (hkind : e.kind = .bulk d off) (hended : e.phase = .ended st)
    (chk : Chk) : exec (.collectiveComplete c i chk) s = .next (finishCol c e off st.toNat [] s) := by
  change execCollectiveComplete c i chk s = _
  simp only [execCollectiveComplete, whenUnit, if_pos hc, mayTrap_of_not_stopped _ hphase, he, hkind, hended]

namespace MasterLost

/-- An operation with its descriptor at 0 that has ended with MISMATCH. -/
def endedOp : ColEntry :=
  { seq := 0, thread := 0, pc := 0, kind := .bulk 0 0, handle := 1, gepoch := 0, d := 0, fl := 0, hi := 0, lo := 0, phase := .ended 1 }

/-- The next operation of its group, with its descriptor at 64 and its predecessor's signature seen: its arrival may go. -/
def nextOp : ColEntry :=
  { seq := 1, thread := 0, pc := 0, kind := .bulk 0 64, handle := 1, gepoch := 0, d := 0, fl := 0, hi := 0, lo := 0, phase := .signature, sigSeen := true }

/-- The member core of both operations. -/
def member : CoreRef := ⟨0, 0⟩

/-- The step program runs (RUN_STATE 2), one input makes the group's glide operation whole, and no two copies of the slice master's ID agree. -/
def start : State :=
  { State.reset with
    cores := [(coreKey member, { phase := .running, colQueue := [endedOp, nextOp] })]
    grp := { glideTable := [(1, 1)] }
    fab := { torus := { master := ⟨0, 1, 2⟩ } }
    run := { state := 2 } }

/-- The place of the status code [63:56] in STATUS of the next operation. -/
def nextCode : Nat := ownSpm start member (64 + 7)

theorem mergeOk_start : MergeOk start.mem := ⟨fun _ _ h => (nomatch h), fun _ _ h => (nomatch h)⟩

theorem nextCode_beyond_status : ownSpm start member 0 + 8 ≤ nextCode := by decide +kernel

theorem nextCode_before : readByte start.mem nextCode = 0 := by decide +kernel

/-- The arrival of the next operation asks whether this module is the slice master, whose ID is lost: the run stops, and the next operation ends with MEMBER_STOPPED. -/
theorem nextCode_after : readByte (finishCol member endedOp 0 1 [] start).mem nextCode = 3 := by decide +kernel

end MasterLost

open MasterLost

/-- Refutes O27: an operation that completes lets the next one of its group send its arrival, and a glide operation that this makes whole reads the slice master's ID, which votes.
Where its three copies differ the fatal path stops the run (R185, R186), and the operations in progress get their STATUS written: more of the memory changes than the
STATUS of the operation that completes. The statement has no premise on these copies. -/
theorem not_collectivesComplete : ¬ Obligations.CollectivesComplete := by
  unfold Obligations.CollectivesComplete
  intro h
  obtain ⟨-, hcomplete⟩ := h
  have hwf : member.wf = true := by decide
  have hphase : (getCore start member).phase ≠ .stopped := by decide
  have hhead : (getCore start member).colQueue[0]? = some endedOp := rfl
  have hgate : isGateOp start endedOp = false := by decide +kernel
  obtain ⟨t, hexec, -, hsame, -⟩ :=
    hcomplete member 0 0 endedOp 0 1 start hwf hphase hhead rfl rfl mergeOk_start rfl rfl hgate (.inl rfl)
  have ht : finishCol member endedOp 0 1 [] start = t :=
    Host.Outcome.next.inj ((exec_collectiveComplete_of_ended hwf hphase hhead rfl rfl .ok).symm.trans hexec)
  have hkept : readByte t.mem nextCode = readByte start.mem nextCode := hsame nextCode (.inr nextCode_beyond_status)
  rw [← ht, nextCode_after, nextCode_before] at hkept
  exact absurd hkept (by decide)

end Sys2Proof.Machine
end

section
/-! SUPPORT. Releases on STEP_GROUP as the sequencer takes them, and the opening lift of a start (R277, R280). -/
namespace Sys2Proof.Machine

variable {s u : State} {r : Release}

/-! ### The release that the sequencer takes -/

/-- Taking a release changes nothing but the group engine's record. -/
theorem takeRelease_eq (h : takeRelease s = some (r, u)) : u = { s with grp := u.grp } := by
  unfold takeRelease at h
  obtain ⟨⟨i, q⟩, -, hu⟩ := Option.map_eq_some_iff.mp h
  obtain ⟨-, rfl⟩ := Prod.mk.inj hu
  rfl

theorem takeRelease_run (h : takeRelease s = some (r, u)) : u.run = s.run := by rw [takeRelease_eq h]
theorem takeRelease_fail (h : takeRelease s = some (r, u)) : u.fail = s.fail := by rw [takeRelease_eq h]
theorem takeRelease_mem (h : takeRelease s = some (r, u)) : u.mem = s.mem := by rw [takeRelease_eq h]
theorem takeRelease_intg (h : takeRelease s = some (r, u)) : u.intg = s.intg := by rw [takeRelease_eq h]

/-- LIFT_TIMEOUT counts milliseconds of 5,200,000 root cycles from the begin of the phase (R271, R283, R390). -/
theorem liftLate_of_le (h : s.run.phaseAt + 5200000 * imgTimeout s.run.hdr ≤ s.clk.tick) : liftLate s = true := decide_eq_true h

/-- A read of an image finds nothing in a store without uncorrectable words. -/
theorem imageRead_clean (h : Clean s) (ranges : List (Nat × Nat)) : imageRead .ok ranges s = (s, none) := checkRead_clean h ..

/-! ### The opening lift -/

/-- Status OK leaves what an earlier release says against the start. -/
theorem openVerdict_zero (old : Option (BitVec 8)) : openVerdict 0 old = old := rfl

/-- MISMATCH comes before any other status (R280). -/
theorem openVerdict_mismatch (old : Option (BitVec 8)) : openVerdict 1 old = some 8 := rfl

theorem openVerdict_first (status : BitVec 8) :
    openVerdict status none = if status = 1 then some 8 else if status = 0 then none else some 0xC := by
  simp [openVerdict]

theorem exec_imageMeasureComplete_clean (hstate : s.run.state = 1) (hphase : s.run.phase = .measuring) (hc : Clean s) :
    exec (.imageMeasureComplete .ok) s = .next (startEffect s) := by
  change execImageMeasureComplete .ok s = _
  simp only [execImageMeasureComplete, hstate, hphase, imageRead_clean hc, and_self, if_true]

/-- The first release of the opening lift begins its second operation. -/
theorem exec_openingLiftRelease_first (htake : takeRelease s = some (r, u)) (hphase : s.run.phase = .openMax) :
    exec .openingLiftRelease s = .next (sequencerArrive 2 (startSignature u)
      { u with run := { u.run with phase := .openMin, openMaxResult := relResult r, openBad := openVerdict r.status none } }) := by
  change execOpeningLiftRelease s = _
  simp only [execOpeningLiftRelease, hphase, htake]

/-- What either release says against the start stops it at the second. -/
theorem exec_openingLiftRelease_against {code : BitVec 8} (htake : takeRelease s = some (r, u)) (hphase : s.run.phase = .openMin)
    (hverdict : openVerdict r.status s.run.openBad = some code) : exec .openingLiftRelease s = .next (stopRun code u) := by
  change execOpeningLiftRelease s = _
  simp only [execOpeningLiftRelease, hphase, htake, takeRelease_run htake, hverdict]

/-- With nothing against the start, the two results decide at the second release. -/
theorem exec_openingLiftRelease_decided (htake : takeRelease s = some (r, u)) (hphase : s.run.phase = .openMin)
    (hverdict : openVerdict r.status s.run.openBad = none) : exec .openingLiftRelease s = .next (
      if relResult r = s.run.openMaxResult then beginStep (relOrigin r) (joinLinks (setRunState 2 u)) else stopRun 8 u) := by
  change execOpeningLiftRelease s = _
  simp only [execOpeningLiftRelease, hphase, htake, takeRelease_run htake, hverdict]

theorem exec_openingLiftTimeout_late (hphase : s.run.phase = .openMax ∨ s.run.phase = .openMin) (hlate : liftLate s = true) :
    exec .openingLiftTimeout s = .next (stopRun 9 s) := by
  change execOpeningLiftTimeout s = _
  simp only [execOpeningLiftTimeout, if_pos (And.intro hphase hlate)]

/-- Settles O48: the first release begins the second operation and keeps what it says against the start; the second decides by that, by its own status and by
whether the two results are equal. That both operations run before a status is applied is log 72. -/
theorem openingLift : Obligations.OpeningLift := by
  unfold Obligations.OpeningLift
  refine ⟨fun s => exec_imageMeasureComplete_clean, fun r s u htake => ⟨?first, ?equal, ?different, ?mismatch⟩,
    fun s hphase hlate => exec_openingLiftTimeout_late hphase (liftLate_of_le hlate)⟩
  case first =>
    intro hphase
    rw [exec_openingLiftRelease_first htake hphase, openVerdict_first]
    rfl
  case equal =>
    intro hphase hstatus hbad hresult
    rw [exec_openingLiftRelease_decided htake hphase (by rw [hstatus, hbad, openVerdict_zero])]
    exact congrArg _ (if_pos hresult)
  case different =>
    intro hphase hstatus hbad hresult
    rw [exec_openingLiftRelease_decided htake hphase (by rw [hstatus, hbad, openVerdict_zero])]
    exact congrArg _ (if_neg hresult)
  case mismatch =>
    intro hphase hstatus
    exact exec_openingLiftRelease_against htake hphase (by rw [hstatus, openVerdict_mismatch])

end Sys2Proof.Machine
end

section
/-! SUPPORT. What stopping the cores, records and counted errors keep of the step program: its state and its counts, the commit counter as long as its copies all differ (R185, R186). -/
namespace Sys2Proof.Machine

/-- RUN_STATE and the count of skips are as before; so is a commit counter whose three copies differ, which no report repairs (R185). -/
structure CountsKept (s t : State) : Prop where
  state : t.run.state = s.run.state
  skipped : t.run.skipped = s.run.skipped
  commit : voteOf s.run.commit = .lost → t.run.commit = s.run.commit

namespace CountsKept

variable {s t u : State}

theorem of_run (h : t.run = s.run) : CountsKept s t := ⟨by rw [h], by rw [h], fun _ => by rw [h]⟩

theorem refl (s : State) : CountsKept s s := of_run rfl

theorem trans (h : CountsKept s t) (g : CountsKept t u) : CountsKept s u where
  state := g.state.trans h.state
  skipped := g.skipped.trans h.skipped
  commit hlost := (g.commit (by rw [h.commit hlost, hlost])).trans (h.commit hlost)

/-- What follows an update of other parts of the module. -/
theorem after (g : CountsKept t u) (h : t.run = s.run) : CountsKept s u := (of_run h).trans g

theorem foldl {α : Type} {f : State → α → State} (hf : ∀ s a, CountsKept s (f s a)) (xs : List α) (s : State) : CountsKept s (xs.foldl f s) := by
  induction xs generalizing s with
  | nil => exact refl s
  | cons a xs ih => exact (hf s a).trans (ih _)

end CountsKept

/-! ### Reports leave the step program's record -/

theorem msix_run (v : Nat) (s : State) : (msix v s).run = s.run := by
  unfold msix
  dsimp only
  split <;> rfl

theorem pumpAt_run (i : Nat) (s : State) : (pumpAt i s).run = s.run := by
  unfold pumpAt
  repeat' split
  all_goals rfl

theorem queueNotice_run (i : Nat) (n : Notice) (s : State) : (queueNotice i n s).run = s.run := by
  unfold queueNotice
  split
  · rfl
  · refine (pumpAt_run _ _).trans ?_
    split <;> rfl

theorem foldl_run {α : Type} {f : State → α → State} (hf : ∀ s a, (f s a).run = s.run) (xs : List α) (s : State) : (xs.foldl f s).run = s.run := by
  induction xs generalizing s with
  | nil => rfl
  | cons a xs ih => exact (ih _).trans (hf s a)

theorem notify_run (key typ : Nat) (v : List Byte) (s : State) : (notify key typ v s).run = s.run := by
  refine foldl_run (fun s i => ?_) _ s
  split
  · split
    · exact queueNotice_run _ _ s
    · rfl
  · rfl

theorem lifeAdd_run (off n : Nat) (s : State) : (lifeAdd off n s).run = s.run := by
  unfold lifeAdd
  split <;> rfl

theorem cperBare_run (g : Signature) (s : State) : (cperBare g s).run = s.run := (msix_run _ _).trans (notify_run _ _ _ _)

theorem setPhase_run (v : BitVec 8) (s : State) : (setPhase v s).run = s.run := by
  unfold setPhase
  split
  · rfl
  · exact (msix_run _ _).trans (notify_run _ _ _ _)

/-! ### Counted errors and records -/

theorem correctableWith_kept {out : Signature → State → State} (hout : ∀ g s, CountsKept s (out g s)) (r : Nat) (s : State) :
    CountsKept s (correctableWith out r s) := by
  unfold correctableWith
  refine .after ?_ (lifeAdd_run (9960 + 4 * r) 1 s)
  generalize lifeAdd (9960 + 4 * r) 1 s = t
  dsimp only
  split
  · exact .of_run rfl
  · exact .after (hout _ _) ((msix_run _ _).trans (notify_run _ _ _ _))

/-- A vote repairs a word of which two copies agree, and no other. -/
theorem repairWord_kept {α : Type} [DecidableEq α] {t : Tri α} {put : Tri α → State → State} {s : State} (die : Nat)
    (hput : voteOf t = .repaired → ∀ x, CountsKept s (put x s)) : CountsKept s (repairWord t die put s) := by
  unfold repairWord
  split
  · next hvote => exact (hput hvote _).trans (correctableWith_kept (fun g s => .of_run (cperBare_run g s)) _ _)
  · exact .refl s

/-- The vote of the commit counter changes it only where two copies agree. -/
theorem repairCommit_kept (s : State) :
    CountsKept s (repairWord s.run.commit 0 (fun t s => { s with run := { s.run with commit := t } }) s) :=
  repairWord_kept 0 fun hvote _ => ⟨rfl, rfl, fun hlost => nomatch hvote.symm.trans hlost⟩

theorem cper_kept (g : Signature) (s : State) : CountsKept s (cper g s) := (repairCommit_kept s).trans (.of_run (cperBare_run _ _))

theorem correctable_kept (r : Nat) (s : State) : CountsKept s (correctable r s) := correctableWith_kept cper_kept r s

theorem declarePermanent_kept (u : UnitId) (s : State) : CountsKept s (declarePermanent u s) := by
  unfold declarePermanent
  split
  · exact .refl s
  · cases u with
    | core d p =>
      dsimp only
      split
      · exact ⟨rfl, rfl, fun _ => rfl⟩
      · exact .after (cper_kept _ _) rfl
    | _ => exact .of_run rfl

theorem uncorrectable_kept (region : Nat) (s : State) : CountsKept s (uncorrectable region s) := by
  unfold uncorrectable
  refine .after ?_ (lifeAdd_run (13936 + 4 * region) 1 s)
  generalize lifeAdd (13936 + 4 * region) 1 s = t
  unfold addHistory
  dsimp only
  split
  · exact .after (declarePermanent_kept _ _) rfl
  · exact .of_run rfl

/-! ### Writes -/

theorem flagWrite_run (a n : Nat) (s : State) : (flagWrite a n s).run = s.run := by
  unfold flagWrite
  repeat' split
  all_goals rfl

theorem landQuiet_kept (a : Nat) (bs : List Byte) (s : State) : CountsKept s (landQuiet a bs s) := by
  unfold landQuiet
  dsimp only
  refine .trans ?_ (.of_run (flagWrite_run _ _ _))
  refine .after (.foldl (fun s b => ?_) _ _) rfl
  exact .after (uncorrectable_kept _ _) rfl

theorem physCount_run (s : State) (die phys i n : Nat) : (physCount s die phys i n).run = s.run := by
  unfold physCount
  split <;> rfl

theorem noteFind_kept (point die : Nat) (ranges : List (Nat × Nat)) (s : State) (x : Find) : CountsKept s (noteFind point die ranges s x) := by
  unfold noteFind
  repeat' split
  any_goals exact .of_run rfl
  exact correctable_kept _ s

theorem noteWrite_kept (m : Memory) (a n : Nat) (s : State) (x : Find) : CountsKept s (noteWrite m a n s x) := by
  unfold noteWrite
  repeat' split
  any_goals exact .of_run rfl
  · exact correctable_kept _ s
  · exact noteFind_kept _ _ _ _ _

theorem writeMissed_kept (a : Nat) (s : State) : CountsKept s (writeMissed a s) := by
  have hevent : CountsKept s (uncorrectableAt a { s with intg := { s.intg with missed := s.intg.missed ++ [a] } }) :=
    .after (uncorrectable_kept _ _) rfl
  unfold writeMissed
  dsimp only
  split
  · exact hevent.trans (.of_run (physCount_run _ _ _ _ _))
  · exact hevent.trans (.of_run rfl)

theorem arriveQuiet_kept (chk : Chk) (a : Nat) (bs : List Byte) (s : State) : CountsKept s (arriveQuiet chk a bs s) := by
  unfold arriveQuiet
  split
  · exact writeMissed_kept a s
  · exact (CountsKept.foldl (noteWrite_kept _ _ _) _ _).trans (landQuiet_kept _ _ _)

theorem writeHost_run (addr : Nat) (bs : List Byte) (s : State) : (writeHost addr bs s).run = s.run := by
  unfold writeHost
  refine foldl_run (fun s p => ?_) _ s
  rfl

theorem localWrite_kept (chk : Chk) (c : CoreRef) (thread epoch : Nat) (owner : Option Nat) (dst : Nat) (bs : List Byte) (s : State) :
    CountsKept s (localWrite chk c thread epoch owner dst bs s) := by
  unfold localWrite
  split
  · split
    · exact arriveQuiet_kept _ _ _ _
    · exact .of_run rfl
  · exact .of_run (writeHost_run _ _ _)
  · exact arriveQuiet_kept _ _ _ _
  · exact arriveQuiet_kept _ _ _ _
  · exact .refl s

/-! ### The units of a core that stops (R65) -/

theorem writeDmaStatus_kept (c : CoreRef) (off code done : Nat) (s : State) : CountsKept s (writeDmaStatus c off code done s) := landQuiet_kept _ _ s

theorem writeColStatus_kept (c : CoreRef) (off status : Nat) (s : State) : CountsKept s (writeColStatus c off status s) := landQuiet_kept _ _ s

theorem countDma_run (c : CoreRef) (ch code : Nat) (s : State) : (countDma c ch code s).run = s.run := rfl

theorem closeDma_kept (c : CoreRef) (ch code : Nat) (s : State) : CountsKept s (closeDma c ch code s) := by
  unfold closeDma
  refine .after (.foldl (fun s q => ?_) _ _) rfl
  exact (writeDmaStatus_kept _ _ _ _ s).trans (.of_run (countDma_run _ _ _ _))

theorem finishDma_kept (c : CoreRef) (ch : Nat) (e : DmaEntry) (code done : Nat) (s : State) : CountsKept s (finishDma c ch e code done s) := by
  have hstatus : CountsKept s (writeDmaStatus c e.off code done s) := writeDmaStatus_kept _ _ _ _ s
  unfold finishDma
  dsimp only
  split
  · split
    · exact .trans (hstatus.trans (localWrite_kept _ _ _ _ _ _ _ _)) (.of_run rfl)
    · exact .trans (hstatus.trans (localWrite_kept _ _ _ _ _ _ _ _)) (closeDma_kept _ _ _ _)
  · exact hstatus.trans (closeDma_kept _ _ _ _)

theorem dmaMove_kept (chk : Chk) (c : CoreRef) (id : Nat) (d : BitVec 512) (n : Nat) (s : State) : CountsKept s (dmaMove chk c id d n s) :=
  .foldl (fun s _ => localWrite_kept _ _ _ _ _ _ _ s) _ s

theorem haltDma_kept (c : CoreRef) (ch : Nat) (s : State) : CountsKept s (haltDma c ch s) := by
  unfold haltDma
  dsimp only
  split
  · split
    · exact .refl s
    · exact .after (finishDma_kept _ _ _ _ _ _) rfl
  · split
    · exact closeDma_kept _ _ _ s
    · split
      · exact .after (finishDma_kept _ _ _ _ _ _) rfl
      · split
        · exact .after (finishDma_kept _ _ _ _ _ _) rfl
        · split
          · exact .after (finishDma_kept _ _ _ _ _ _) rfl
          · exact .after ((dmaMove_kept _ _ _ _ _ _).trans (finishDma_kept _ _ _ _ _ _)) rfl

theorem atomicAct_kept (c : CoreRef) (r : MemReq) (op : AtomOp) (bytes : Nat) (operand compare : Word) (s : State) :
    CountsKept s (atomicAct c r op bytes operand compare s).1 := by
  unfold atomicAct
  dsimp only
  split
  · exact .of_run (physCount_run _ _ _ _ _)
  · split
    · exact .refl s
    · split
      · exact .refl s
      · exact landQuiet_kept _ _ s

theorem repairWindow_kept (c : CoreRef) (w : Nat) (s : State) : CountsKept s (repairWindow c w s) := by
  unfold repairWindow
  exact repairWord_kept _ fun _ _ => .of_run rfl

theorem dropRequests_kept (c : CoreRef) (s : State) : CountsKept s (dropRequests c s) := by
  unfold dropRequests
  refine CountsKept.trans (.foldl (fun s r => ?_) _ s) (.of_run (putCore_run ..))
  split
  · refine CountsKept.trans ?_ (atomicAct_kept _ _ _ _ _ _ _)
    split
    · exact repairWindow_kept _ _ s
    · exact .refl s
  · exact .refl s

theorem writeGate_kept (g : Gate) (r : BitVec 256) (s : State) : CountsKept s (writeGate g r s) := by
  have hgate : CountsKept s { s with run := { s.run with gate := g, lastGate := r } } := ⟨rfl, rfl, fun _ => rfl⟩
  unfold writeGate
  exact hgate.trans (landQuiet_kept _ _ _)

theorem gateFaulted_kept (s : State) : CountsKept s (gateFaulted s) := writeGate_kept ..

theorem dropCollectives_kept (c : CoreRef) (s : State) : CountsKept s (dropCollectives c s) := by
  have hgate (e : ColEntry) (s : State) : CountsKept s (if isGateOp s e then gateFaulted s else s) := by
    split
    · exact gateFaulted_kept s
    · exact .refl s
  unfold dropCollectives
  refine CountsKept.trans (.foldl (fun s e => ?_) _ s) (.of_run (putCore_run ..))
  split
  · exact .refl s
  · exact (hgate e s).trans (writeColStatus_kept _ _ _ _)
  · exact (hgate e s).trans (writeColStatus_kept _ _ _ _)
  · exact .refl s

theorem haltCore_kept (c : CoreRef) (s : State) : CountsKept s (haltCore c s) := by
  unfold haltCore
  split
  · exact .refl s
  · have hchannels : CountsKept s ((List.range Config.dmaChannels).foldl (fun s ch => haltDma c ch s) (dropCollectives c (dropRequests c s))) :=
      ((dropRequests_kept c s).trans (dropCollectives_kept c _)).trans (.foldl (fun s ch => haltDma_kept c ch s) _ _)
    exact hchannels.trans (.of_run (putCore_run ..))

theorem haltAll_kept (s : State) : CountsKept s (haltAll s) := .foldl (fun s _ => haltCore_kept _ s) _ s

/-! ### The fatal integrity path (R186) -/

theorem markLost_kept (s : State) : CountsKept s (markLost s) := by
  unfold markLost
  split
  · exact .refl s
  · have hmaster : CountsKept s (repairMaster { s with fail := { s.fail with reportedLost := true } }) :=
      .after (repairWord_kept 0 fun _ _ => .of_run rfl) rfl
    refine hmaster.trans ?_
    dsimp only
    split
    · exact .of_run rfl
    · exact .refl _

theorem setRunState_run (v : BitVec 8) (s : State) : (setRunState v s).run = { s.run with state := v } := by
  unfold setRunState
  split
  · next h => rw [← h]
  · exact msix_run _ _

/-- A program that fails is in FAILED; its counts stand. -/
theorem failRun_kept (status : BitVec 8) (s : State) : CountsKept { s with run := { s.run with state := 4 } } (failRun status s) := by
  have hfailed : CountsKept { s with run := { s.run with state := 4 } } (setRunState 4 { s with run := { s.run with status := status, phase := .idle } }) := by
    have hrun := setRunState_run 4 { s with run := { s.run with status := status, phase := .idle } }
    exact ⟨by rw [hrun], by rw [hrun], fun _ => by rw [hrun]⟩
  unfold failRun
  refine (hfailed.trans (haltAll_kept _)).trans ?_
  dsimp only
  split
  · exact .of_run (setPhase_run _ _)
  · exact .refl _

/-- The fatal path of a module that runs its program ends in FAILED; its counts stand (R186). -/
theorem fatalIntegrity_kept (w : CriticalWord) {s : State} (h : s.run.state = 2 ∨ s.run.state = 3) :
    CountsKept { s with run := { s.run with state := 4 } } (fatalIntegrity w s) := by
  have hstop : stopForGood 0x13 s = failRun 0x13 s := if_pos (h.elim .inl (fun h => .inr (.inl h)))
  unfold fatalIntegrity
  rw [hstop]
  exact (((failRun_kept _ s).trans (uncorrectable_kept _ _)).trans (cper_kept _ _)).trans (markLost_kept _)

end Sys2Proof.Machine
end

section
/-! SUPPORT. What follows the releases of a lift: the vote of the commit counter, the four ways of an ordinary release, the snapshot stop (R281, R282, R291, R300). -/
namespace Sys2Proof.Machine

variable {s u : State} {r : Release}

/-! ### The vote of the commit counter (R185, R186) -/

theorem voteOf_of_agrees {α : Type} [DecidableEq α] {t : Tri α} (h : Agrees t) : voteOf t = .agree := if_pos h

theorem value_of_agrees {α : Type} [DecidableEq α] {t : Tri α} (h : Agrees t) : t.value = t.a := by
  obtain ⟨hab, hbc⟩ := h
  rw [Tri.value, if_pos hbc, hab]

theorem voteCommit_of_agrees (h : Agrees s.run.commit) : voteCommit s = s := by
  simp only [voteCommit, vote, voteOf_of_agrees h]

theorem voteCommit_of_lost (h : voteOf s.run.commit = .lost) : voteCommit s = fatalIntegrity .commitCounter s := by
  simp only [voteCommit, vote, h]

/-! ### The release of an ordinary lift (R281, R282, R291) -/

/-- A release counts its lift and keeps its result (R281). -/
def liftCounted (r : Release) (s : State) : State :=
  { s with run := { s.run with lifts := satInc s.run.lifts, last := (relResult r).setWidth 8 } }

/-- What a lift without faults leaves before its commit or skip. -/
def liftPassed (r : Release) (s : State) : State :=
  let w := liftCounted r s
  { w with run := { w.run with attempt := 0, firstStep := false } }

/-- What a lift with a fault leaves of the fabric's transfers. -/
def liftFaulted (r : Release) (s : State) : State :=
  let w := liftCounted r s
  { w with fab := { w.fab with xfer := [], held := [] } }

/-- The release tells of a fault: a failed operation, a member's fault, or commit gates that differ (R281, R291). -/
def faultRelease (r : Release) : Prop := r.status ≠ 0 ∨ bit (relResult r) 1 = true ∨ (bit (relResult r) 3 = true ∧ bit (relResult r) 2 = true)

theorem faultRelease_iff (r : Release) :
    (bit (relResult r) 1 || (bit (relResult r) 3 && bit (relResult r) 2) || decide (r.status ≠ 0)) = true ↔ faultRelease r := by
  simp only [faultRelease, Bool.or_eq_true, Bool.and_eq_true, decide_eq_true_eq]
  exact or_comm

theorem not_faultRelease (hstatus : r.status = 0) (hfault : bit (relResult r) 1 = false)
    (hgate : bit (relResult r) 3 = false ∨ bit (relResult r) 2 = false) : ¬ faultRelease r := by
  rintro (hfailed | hbit | ⟨hopened, hclosed⟩)
  · exact hfailed hstatus
  · exact Bool.false_ne_true (hfault.symm.trans hbit)
  · exact hgate.elim (fun h => Bool.false_ne_true (h.symm.trans hopened)) (fun h => Bool.false_ne_true (h.symm.trans hclosed))

theorem exec_liftRelease_arrived (htake : takeRelease s = some (r, u)) (hphase : s.run.phase = .arrived) :
    exec .liftRelease s = .next (settleLost (liftReleased r u)) := by
  change execLiftRelease s = _
  simp only [execLiftRelease, hphase, htake]

/-- Where the copies of the commit counter agree, the vote of a lift changes nothing. -/
theorem voteCommit_liftCounted (hagree : Agrees s.run.commit) : voteCommit (liftCounted r s) = liftCounted r s := voteCommit_of_agrees hagree

/-- A commit counter whose copies all differ ends the run without a commit (R186). -/
theorem liftReleased_of_lost (hstate : s.run.state = 2 ∨ s.run.state = 3) (hlost : voteOf s.run.commit = .lost) :
    liftReleased r s = fatalIntegrity .commitCounter (liftCounted r s) := by
  have hvote : voteCommit (liftCounted r s) = fatalIntegrity .commitCounter (liftCounted r s) := voteCommit_of_lost hlost
  have hfailed : (fatalIntegrity .commitCounter (liftCounted r s)).run.state = 4 := (fatalIntegrity_kept .commitCounter (s := liftCounted r s) hstate).state
  rw [← hvote] at hfailed ⊢
  unfold liftCounted at hfailed ⊢
  simp only [liftReleased, if_pos hfailed]

section
variable (hstate : s.run.state ≠ 4) (hagree : Agrees s.run.commit)
include hstate hagree

theorem liftReleased_of_fault (hfault : faultRelease r) :
    liftReleased r s =
      if r.status ≠ 2 ∧ canReplay (liftFaulted r s) (relResult r) then
        beginStep (relOrigin r) (liftMiddle (relResult r) (rewindStep (liftFaulted r s)))
      else liftMiddle (relResult r) (failRun 0x12 (liftFaulted r s)) := by
  have hvote := voteCommit_liftCounted (r := r) hagree
  unfold liftCounted at hvote
  simp only [liftReleased, hvote]
  rw [if_neg hstate, if_pos ((faultRelease_iff r).mpr hfault)]
  rfl

theorem liftReleased_of_replay (hfault : faultRelease r) (hstatus : r.status ≠ 2) (hreplay : canReplay (liftFaulted r s) (relResult r) = true) :
    liftReleased r s = beginStep (relOrigin r) (liftMiddle (relResult r) (rewindStep (liftFaulted r s))) := by
  rw [liftReleased_of_fault hstate hagree hfault, if_pos ⟨hstatus, hreplay⟩]

theorem liftReleased_of_no_replay (hfault : faultRelease r) (hno : r.status = 2 ∨ canReplay (liftFaulted r s) (relResult r) = false) :
    liftReleased r s = liftMiddle (relResult r) (failRun 0x12 (liftFaulted r s)) := by
  have hnot : ¬ (r.status ≠ 2 ∧ canReplay (liftFaulted r s) (relResult r) = true) := fun ⟨hstatus, hreplay⟩ =>
    hno.elim hstatus fun h => Bool.false_ne_true (h.symm.trans hreplay)
  rw [liftReleased_of_fault hstate hagree hfault, if_neg hnot]

theorem liftReleased_of_skip (hfault : ¬ faultRelease r) (hskip : bit (relResult r) 2 = true) :
    liftReleased r s = stopOrNext (relResult r) (relOrigin r) (liftMiddle (relResult r) { liftPassed r s with
      run := { (liftPassed r s).run with skipped := satInc s.run.skipped } }) := by
  have hvote := voteCommit_liftCounted (r := r) hagree
  unfold liftCounted at hvote
  simp only [liftReleased, hvote]
  rw [if_neg hstate, if_neg (mt (faultRelease_iff r).mp hfault), if_pos hskip]
  rfl

/-- The state after the commit of a lift and effects 4 to 6 of R281. -/
def liftCommitted (r : Release) (s : State) : State :=
  liftMiddle (relResult r) { liftPassed r s with run := { (liftPassed r s).run with commit := triple (satInc s.run.commit.a) } }

theorem liftReleased_of_commit (hfault : ¬ faultRelease r) (hcommit : bit (relResult r) 2 = false) :
    liftReleased r s =
      if snapSelected (liftCommitted r s) then snapCheck (relResult r) (liftCommitted r s)
      else stopOrNext (relResult r) (relOrigin r) (liftCommitted r s) := by
  have hvote := voteCommit_liftCounted (r := r) hagree
  unfold liftCounted at hvote
  simp only [liftReleased, hvote]
  rw [if_neg hstate, if_neg (mt (faultRelease_iff r).mp hfault), if_neg (Bool.eq_false_iff.mp hcommit), value_of_agrees hagree]
  rfl

end

/-! ### Arrivals and timeouts (R280, R283) -/

theorem exec_liftArrival_of (hphase : s.run.phase = .inStep) (h : allEnded s = true ∨ (s.run.faulted = true ∧ s.run.carried = false)) :
    exec .liftArrival s = .next (arriveLift s) := by
  have hready : (s.run.faulted && !s.run.carried) = true ∨ allEnded s = true :=
    h.symm.imp_left fun ⟨hfaulted, hcarried⟩ => by rw [hfaulted, hcarried]; rfl
  change execLiftArrival s = _
  rw [execLiftArrival, if_pos ⟨hphase, hready⟩]

theorem exec_liftTimeoutBeforeArrival_late (hphase : s.run.phase = .inStep) (hlate : liftLate s = true) :
    exec .liftTimeoutBeforeArrival s = .next (arriveLift (stepFault { cls := 6, action := 2 } s)) := by
  change execLiftTimeoutBeforeArrival s = _
  rw [execLiftTimeoutBeforeArrival, if_pos ⟨hphase, hlate⟩]

theorem exec_liftTimeoutAfterArrival_late (hphase : s.run.phase = .arrived ∨ s.run.phase = .resume) (hlate : liftLate s = true) :
    exec .liftTimeoutAfterArrival s = .next (settleLost (failRun 0x11 s)) := by
  change execLiftTimeoutAfterArrival s = _
  rw [execLiftTimeoutAfterArrival, if_pos ⟨hphase, hlate⟩]

/-! ### The snapshot stop (R300 to R302) -/

/-- The lowest bit of a result is that of its payload. -/
theorem bit_relResult_zero (r : Release) : bit (relResult r) 0 = bit r.payload 0 := by
  simp [bit, relResult]

theorem exec_snapshotCheckRelease_of (htake : takeRelease s = some (r, u)) (hphase : s.run.phase = .snapCheck) :
    exec .snapshotCheckRelease s = .next (
      if r.status = 2 then settleLost (failRun 0x12 u)
      else if bit r.payload 0 then
        arriveResume false { u with fail := { u.fail with deferred := satInc u.fail.deferred, pendingSnap := true, copied := false } }
      else land (mapLocal u.fail.mapHdr) (slotHeader u 1)
        { u with run := { u.run with phase := .snapCopy, phaseAt := u.clk.tick }, fail := { u.fail with pendingSnap := false } }) := by
  change execSnapshotCheckRelease s = _
  simp only [execSnapshotCheckRelease, hphase, htake, bit_relResult_zero]

theorem exec_resumeLiftRelease_failed (htake : takeRelease s = some (r, u)) (hphase : s.run.phase = .resume) (hstatus : r.status = 2) :
    exec .resumeLiftRelease s = .next (settleLost (failRun 0x12 u)) := by
  change execResumeLiftRelease s = _
  simp only [execResumeLiftRelease, hphase, htake, if_pos hstatus]

/-- A resume lift without a copy leaves PHASE as the background copy has it (R303). -/
theorem exec_resumeLiftRelease_deferred (htake : takeRelease s = some (r, u)) (hphase : s.run.phase = .resume) (hstatus : r.status ≠ 2)
    (hcopied : s.fail.copied = false) :
    exec .resumeLiftRelease s = .next (stopOrNext u.run.liftResult (relOrigin r)
      (setPhase (if u.fail.background = 2 then 2 else if u.fail.background = 3 then 3 else 0) u)) := by
  have hnone : ¬ (u.fail.copied = true ∧ r.status = 0 ∧ bit (relResult r) 0 = false) := by simp [takeRelease_fail htake, hcopied]
  change execResumeLiftRelease s = _
  simp only [execResumeLiftRelease, hphase, htake, if_neg hstatus, if_neg hnone]

/-- The completed snapshot: its header of STATE 2, and its COMMIT as the newest of the group (R298, R303). -/
def snapCompleted (s : State) : State :=
  let t := land (mapLocal s.fail.mapHdr) (slotHeader s 2) s
  { t with fail := { t.fail with groupCommit := t.run.commit.value } }

theorem exec_resumeLiftRelease_copied (htake : takeRelease s = some (r, u)) (hphase : s.run.phase = .resume) (hstatus : r.status = 0)
    (hcopied : s.fail.copied = true) (hfail : bit r.payload 0 = false) (hnone : (startBackground (snapCompleted u)).fail.awaiting = []) :
    exec .resumeLiftRelease s = .next (stopOrNext u.run.liftResult (relOrigin r) (startBackground (snapCompleted u))) := by
  have hok : ¬ r.status = 2 := by simp [hstatus]
  have hdone : u.fail.copied = true ∧ r.status = 0 ∧ bit (relResult r) 0 = false := by
    simp [takeRelease_fail htake, hcopied, hstatus, bit_relResult_zero, hfail]
  unfold snapCompleted at hnone ⊢
  change execResumeLiftRelease s = _
  simp only [execResumeLiftRelease, hphase, htake, if_neg hok, if_pos hdone, if_pos hnone]

/-- What the begin of a background copy leaves: the step program's record, the newest COMMIT of the group, the units that wait for the removal of their module. -/
structure BackgroundOnly (s t : State) : Prop where
  run : t.run = s.run
  groupCommit : t.fail.groupCommit = s.fail.groupCommit
  awaiting : t.fail.awaiting = s.fail.awaiting

theorem BackgroundOnly.trans {t : State} (h : BackgroundOnly s t) (g : BackgroundOnly t u) : BackgroundOnly s u :=
  ⟨g.run.trans h.run, g.groupCommit.trans h.groupCommit, g.awaiting.trans h.awaiting⟩

/-- PHASE takes its value; all else is reports. -/
theorem setPhase_reports (v : BitVec 8) (s : State) : ReportsOnly { s with fail := { s.fail with phase := v } } (setPhase v s) := by
  unfold setPhase
  split
  · next h => rw [← h]; rfl
  · exact (notify_reports _ _ _ _).trans (msix_reports _ _)

theorem setPhase_fail (v : BitVec 8) (s : State) : (setPhase v s).fail = { s.fail with phase := v } := by rw [setPhase_reports v s]
theorem setPhase_mem (v : BitVec 8) (s : State) : (setPhase v s).mem = s.mem := (setPhase_reports v s).mem_eq

theorem setPhase_backgroundOnly (v : BitVec 8) (s : State) : BackgroundOnly s (setPhase v s) := by
  have hfail := setPhase_fail v s
  exact ⟨setPhase_run v s, by rw [hfail], by rw [hfail]⟩

theorem writeHost_reports (addr : Nat) (bs : List Byte) (s : State) : ReportsOnly s (writeHost addr bs s) := by
  unfold writeHost
  refine ReportsOnly.foldl _ (fun s p => ?_) _ s
  exact emit_reports s _

theorem writeHost_backgroundOnly (addr : Nat) (bs : List Byte) (s : State) : BackgroundOnly s (writeHost addr bs s) := by
  have hfail : (writeHost addr bs s).fail = s.fail := by rw [writeHost_reports addr bs s]
  exact ⟨writeHost_run addr bs s, by rw [hfail], by rw [hfail]⟩

theorem startHostDrain_backgroundOnly (s : State) : BackgroundOnly s (startHostDrain s) := by
  have hheader (addr : Nat) (bs : List Byte) :
      BackgroundOnly s (if hostUsable s then writeHost addr bs s else { s with fail := { s.fail with copyRestart := true } }) := by
    split
    · exact writeHost_backgroundOnly addr bs s
    · exact ⟨rfl, rfl, rfl⟩
  unfold startHostDrain
  refine .trans ?_ (setPhase_backgroundOnly _ _)
  exact .trans (hheader _ _) ⟨rfl, rfl, rfl⟩

theorem copyRead_clean (h : Clean s) : copyRead .ok s = (s, true) := by
  simp only [copyRead, imageRead_clean h]

/-- The state in which a buddy copy reads the local area. -/
def buddyBegun (s : State) : State :=
  setPhase 2 { (takeId s).2 with fail := { (takeId s).2.fail with background := 2, copyId := (takeId s).1 } }

theorem buddyBegun_backgroundOnly (s : State) : BackgroundOnly s (buddyBegun s) := by
  unfold buddyBegun
  refine .trans ?_ (setPhase_backgroundOnly _ _)
  exact ⟨rfl, rfl, rfl⟩

theorem buddyBegun_clean (h : Clean s) : Clean (buddyBegun s) := by
  unfold Clean buddyBegun
  rw [setPhase_mem]
  exact h

theorem startBuddy_backgroundOnly (h : Clean s) : BackgroundOnly s (startBuddy s) := by
  have hread := copyRead_clean (buddyBegun_clean h)
  have hbegun := buddyBegun_backgroundOnly s
  unfold buddyBegun at hread hbegun
  simp only [startBuddy, hread]
  exact hbegun.trans ⟨rfl, rfl, rfl⟩

theorem startBackground_backgroundOnly (h : Clean s) : BackgroundOnly s (startBackground s) := by
  unfold startBackground
  split
  · exact startBuddy_backgroundOnly h
  · exact startHostDrain_backgroundOnly s

theorem flagWrite_fail (a n : Nat) (s : State) : (flagWrite a n s).fail = s.fail := by
  unfold flagWrite
  repeat' split
  all_goals rfl

section
variable (h : Clean s) (hlost : s.intg.lost = []) (hmissed : s.intg.missed = [])
include h hlost hmissed

theorem land_clean_run (a : Nat) (bs : List Byte) : (land a bs s).run = s.run := by
  rw [land_clean a bs s h hlost hmissed, flagWrite_run]

theorem land_clean_fail (a : Nat) (bs : List Byte) : (land a bs s).fail = s.fail := by
  rw [land_clean a bs s h hlost hmissed, flagWrite_fail]

theorem snapCompleted_run : (snapCompleted s).run = s.run := by
  simp only [snapCompleted, land_clean_run h hlost hmissed]

theorem snapCompleted_fail : (snapCompleted s).fail = { s.fail with groupCommit := s.run.commit.value } := by
  simp only [snapCompleted, land_clean_fail h hlost hmissed, land_clean_run h hlost hmissed]

theorem snapCompleted_clean : Clean (snapCompleted s) := by
  have hmem : (snapCompleted s).mem = (land (mapLocal s.fail.mapHdr) (slotHeader s 2) s).mem := by simp only [snapCompleted]
  exact (congrArg Memory.bad hmem).trans (clean_after_land h hlost hmissed)

/-- In a store without uncorrectable words the completed snapshot and the begin of its background copies leave the step program's record, and no unit is added
to those that wait for the removal of their module. -/
theorem snapCompleted_background :
    (startBackground (snapCompleted s)).run = s.run ∧ (startBackground (snapCompleted s)).fail.groupCommit = s.run.commit.value ∧
      (startBackground (snapCompleted s)).fail.awaiting = s.fail.awaiting := by
  have hkept := startBackground_backgroundOnly (snapCompleted_clean h hlost hmissed)
  have hfail := snapCompleted_fail h hlost hmissed
  refine ⟨?_, ?_, ?_⟩
  · rw [hkept.run, snapCompleted_run h hlost hmissed]
  · rw [hkept.groupCommit, hfail]
  · rw [hkept.awaiting, hfail]

end

/-! ### The statement of the lifts -/

/-- Settles O49: an ordinary release is lost to the vote, faulted, skipped or committed; the snapshot stop and the timeouts are their arms.
Which status fails the run is log 44, effects 4 to 6 at every release log 74, the timeout of the resume lift log 73. -/
theorem lifts : Obligations.Lifts := by
  unfold Obligations.Lifts
  refine ⟨fun s hphase => exec_liftArrival_of hphase, fun r s u htake hphase => ?release,
    fun s hphase hlate => exec_liftTimeoutBeforeArrival_late hphase (liftLate_of_le hlate),
    fun s hphase hlate => exec_liftTimeoutAfterArrival_late hphase (liftLate_of_le hlate), fun r s u htake hphase => ?check,
    fun r s u htake hphase => ?resume⟩
  case release =>
    have hrun := takeRelease_run htake
    intro v origin w x
    have hw : w = liftCounted r u := rfl
    rw [exec_liftRelease_arrived htake hphase, ← hrun]
    refine ⟨fun hstate hlost => ?lost, fun hstate hagree => ?agreed⟩
    case lost =>
      have hkept := fatalIntegrity_kept .commitCounter (s := liftCounted r u) hstate
      rw [hw, liftReleased_of_lost hstate hlost]
      exact ⟨rfl, hkept.state, hkept.commit hlost, hkept.skipped⟩
    case agreed =>
      intro n y z d
      refine ⟨fun hstatus hfault hcommit => ?commit, fun hstatus hfault hskip hgate => ?skip, fun hfault => ?fault⟩
      case commit =>
        have hy : y = liftCommitted r u := rfl
        rw [liftReleased_of_commit hstate hagree (not_faultRelease hstatus hfault (.inr hcommit)) hcommit, ← hy]
        refine ⟨fun hsnap => ?_, fun hsnap => ?_⟩
        · rw [if_neg (Bool.eq_false_iff.mp hsnap)]
          rfl
        · rw [if_pos hsnap]
          rfl
      case skip =>
        rw [liftReleased_of_skip hstate hagree (not_faultRelease hstatus hfault (.inl hgate)) hskip]
        rfl
      case fault =>
        have hd : d = liftFaulted r u := rfl
        refine ⟨fun hstatus hreplay => ?_, fun hno => ?_⟩
        · rw [liftReleased_of_replay hstate hagree hfault hstatus hreplay, ← hd]
          rfl
        · rw [liftReleased_of_no_replay hstate hagree hfault hno, ← hd]
          rfl
  case check =>
    rw [exec_snapshotCheckRelease_of htake hphase]
    refine ⟨fun hstatus hgo => ?begun, fun hstatus hdefer => ?deferred, fun hstatus => ?failed⟩
    case begun => rw [if_neg hstatus, if_neg (Bool.eq_false_iff.mp hgo)]
    case deferred => rw [if_neg hstatus, if_pos hdefer]
    case failed => rw [if_pos hstatus]
  case resume =>
    refine ⟨fun hstatus hcopied => exec_resumeLiftRelease_deferred htake hphase hstatus hcopied,
      fun hstatus => exec_resumeLiftRelease_failed htake hphase hstatus,
      fun hstatus hcopied hfail hawaiting hc hlost hmissed => ?copied⟩
    case copied =>
      have hclean : Clean u := (congrArg Memory.bad (takeRelease_mem htake)).trans hc
      rw [← takeRelease_intg htake] at hlost hmissed
      obtain ⟨hrun, hgroup, hwait⟩ := snapCompleted_background hclean hlost hmissed
      exact ⟨_, exec_resumeLiftRelease_copied htake hphase hstatus hcopied hfail (hwait.trans hawaiting), hgroup, hrun⟩

end Sys2Proof.Machine
end

section
/-! SUPPORT. How requests reach the object server: the rows of the table, the arrival of a request (R328, R330), the window (R343), requests between modules (R345, R346). -/
namespace Sys2Proof.Machine

variable {s u : State}

/-! ### The rows of the table -/

/-- Every command that is a request handles its row. -/
theorem exec_objectRow {make : ReqRef → Instr} {row : Row} (h : (make, row) ∈ objectRows) (r : ReqRef) (s : State) :
    exec (make r) s = handleRow row r .ok s := by
  have hrows : ∀ e ∈ objectRows, ∀ r s, exec (e.1 r) s = handleRow e.2 r .ok s := by
    simp only [objectRows, List.forall_mem_cons, List.not_mem_nil, false_imp_iff, implies_true, and_true]
    and_intros
    all_goals exact fun _ _ => rfl
  exact hrows _ h r s

/-- The head of the queue is served, unless MGMT is silent or hands over (R328, R385). -/
theorem handleRow_of_head {row : Row} {q : DopReq} {rest : List DopReq} (chk : Chk) (hqueue : s.dop.queue = q :: rest) (hrow : rowOf q = row)
    (hhand : handingOver s = false) (hspeaks : s.boot.silent = false) : handleRow row .queue chk s = .next (serve q chk (dequeued rest s)) := by
  have hserved : ¬ (rowOf q ≠ row ∨ handingOver s = true ∨ s.boot.silent = true) := by simp [hrow, hhand, hspeaks]
  simp only [handleRow, hqueue, if_neg hserved, dequeued]

section
variable {f : NetFrame} (hhears : hears s f.addr = true) (hopen : segmentOpen s = true)
include hhears hopen

/-- A datagram with a wrong checksum or of a wrong form is discarded (R326). -/
theorem handleRow_of_bad (row : Row) (chk : Chk) (hbad : f.sumOk = false ∨ parseDop f.bytes = none) :
    handleRow row (.net f) chk s = .next (badFrame s) := by
  have hnone : (if f.sumOk then parseDop f.bytes else none) = none := by
    obtain hsum | hparse := hbad
    · rw [hsum]; rfl
    · rw [hparse, ite_self]
  simp [handleRow, hhears, hopen, hnone]

/-- A good datagram of the row's command is taken (R319, R326). -/
theorem handleRow_of_good {h : BitVec 128} {p : List Byte} (chk : Chk) (hsum : f.sumOk = true) (hparse : parseDop f.bytes = some (h, p))
    (hack : isAck h = false) (hall : f.toAll = false ∨ servedToAll h = true) :
    handleRow (rowOf (netReq f h p)) (.net f) chk s = .next (takeNet (netReq f h p) chk (dopCount s 0)) := by
  have hanswered : (f.toAll && !servedToAll h) = false := by
    obtain htoAll | hserved := hall
    · rw [htoAll]; rfl
    · rw [hserved, Bool.not_true, Bool.and_false]
  simp [handleRow, hhears, hopen, hsum, hparse, hack, hanswered]

end

/-! ### The arrival of a request (R328, R330) -/

/-- The request repeats none that is kept or waits; those of the window never repeat (R330, R344). -/
def NewRequest (s : State) (q : DopReq) : Prop :=
  q.path = .window ∨ (keptFor s q.path (hReqId q.hdr) = none ∧ inQueue s q.path (hReqId q.hdr) = false)

/-- A repeated request gets its kept response again; a BUSY counts again. -/
theorem arrive_of_kept {q : DopReq} {k : Kept} (go : State → State) (hpath : q.path ≠ .window) (hkept : keptFor s q.path (hReqId q.hdr) = some k) :
    arrive q go s = sendResponse q.path (hReqId q.hdr) k.resp
      (if responseCode k.resp = 7 then dopCount (dopCount s 3) 4 else dopCount s 3) := by
  simp only [arrive, if_neg hpath, hkept]
  rfl

/-- A new request is taken, or answered BUSY when 32 wait (R328). -/
theorem arrive_of_new {q : DopReq} (go : State → State) (hnew : NewRequest s q) :
    arrive q go s = if 32 ≤ taken s then respond q (refuse errBusy) false s else go s := by
  obtain hwindow | ⟨hkept, hqueue⟩ := hnew
  · simp [arrive, hwindow]
  · simp [arrive, hkept, hqueue]

theorem arrive_of_full {q : DopReq} (go : State → State) (hnew : NewRequest s q) (hfull : 32 ≤ taken s) :
    arrive q go s = respond q (refuse errBusy) false s := by
  rw [arrive_of_new go hnew, if_pos hfull]

theorem arrive_of_room {q : DopReq} (go : State → State) (hnew : NewRequest s q) (hroom : taken s < 32) : arrive q go s = go s := by
  rw [arrive_of_new go hnew, if_neg (Nat.not_le.mpr hroom)]

/-- With nothing before it a datagram's request is served at once (log 14). -/
theorem takeNet_of_first {q : DopReq} (chk : Chk) (hnew : NewRequest s q) (hroom : taken s < 32) (hnone : s.dop.queue = [])
    (hhand : handingOver s = false) : takeNet q chk s = serve q chk s := by
  rw [takeNet, arrive_of_room _ hnew hroom, if_neg (by simp [hnone, hhand])]

/-- A datagram's request waits behind others, and while MGMT hands over (R328, R385). -/
theorem takeNet_of_waiting {q : DopReq} (chk : Chk) (hnew : NewRequest s q) (hroom : taken s < 32)
    (hwait : s.dop.queue ≠ [] ∨ handingOver s = true) : takeNet q chk s = enqueue q s := by
  rw [takeNet, arrive_of_room _ hnew hroom, if_pos hwait.symm]

/-! ### The window (R343) -/

/-- A write to WIN_CTRL of a port that serves the host acts. -/
theorem exec_winCtrlGo_of_access (v : BitVec 64) (haccess : hostAccess s = true) :
    exec (.winCtrlGo v) s = .next (writeWinCtrl v.toNat s) := by
  have hserves := haccess
  simp only [hostAccess, Bool.and_eq_true] at hserves
  obtain ⟨⟨hready, -⟩, -⟩ := hserves
  obtain ⟨-, hlink⟩ := Bool.and_eq_true_iff.mp hready
  change execWinCtrlGo v s = _
  simp [execWinCtrlGo, bar0Request, hready, hlink, haccess]

/-- Without the bit that clears OVERRUN, GO submits the window's frame unless one is in progress. -/
theorem writeWinCtrl_of_keeping {v : BitVec 64} (hclear : bit v 2 = false) (s : State) :
    writeWinCtrl v.toNat s = if bit v 0 = false then s
      else if s.dop.winBusy then { s with dop := { s.dop with overrun := true } }
      else submitWindow { s with dop := { s.dop with winBusy := true } } := by
  have hkeep : v.toNat.testBit 2 = false := hclear
  have hgo : v.toNat.testBit 0 = bit v 0 := rfl
  simp [writeWinCtrl, hkeep, hgo]

/-- A good frame of the window joins the queue when there is room. -/
theorem submitWindow_of_room {h : BitVec 128} {p : List Byte} (hparse : parseDop s.dop.winReq = some (h, p)) (hack : isAck h = false)
    (hspeaks : s.boot.silent = false) (hroom : taken s < 32) :
    submitWindow s = enqueue { path := .window, hdr := h, payload := p } s := by
  have harrive := arrive_of_room (q := { path := .window, hdr := h, payload := p }) (enqueue { path := .window, hdr := h, payload := p }) (.inl rfl) hroom
  simp only [submitWindow, hparse, hack, hspeaks, Bool.false_eq_true, if_false, harrive]

/-! ### Requests between modules (R306, R345, R346) -/

/-- A packet that is taken leaves all but the routers as they were. -/
theorem takeCtrl_eq {die typ : Nat} {p : RoutedCtrl} (htake : takeCtrl s die typ = some (p, u)) :
    u = { s with fab := { s.fab with routers := u.fab.routers } } := by
  unfold takeCtrl at htake
  obtain ⟨x, -, hx⟩ := Option.map_eq_some_iff.mp htake
  obtain ⟨-, rfl⟩ := Prod.mk.inj hx
  rfl

theorem takeCtrl_boot {die typ : Nat} {p : RoutedCtrl} (htake : takeCtrl s die typ = some (p, u)) : u.boot = s.boot := by
  rw [takeCtrl_eq htake]

theorem takeCtrl_torus {die typ : Nat} {p : RoutedCtrl} (htake : takeCtrl s die typ = some (p, u)) : u.fab.torus = s.fab.torus := by
  rw [takeCtrl_eq htake]

/-- Where the copies of the slice master's ID agree, its vote changes nothing (R185). -/
theorem voteMaster_of_agrees (h : Agrees s.fab.torus.master) : voteMaster s = s := by
  simp only [voteMaster, vote, voteOf_of_agrees h]

/-- An OBJ_REQ is answered as a probe, or arrives and joins the queue. -/
theorem exec_objReq_taken {die : Nat} {p : RoutedCtrl} (hdie : die < 2) (htake : takeCtrl s die 5 = some (p, u)) (hspeaks : s.boot.silent = false)
    (hagree : Agrees s.fab.torus.master) :
    exec (.objReq die) s = .next (
      if isProbe u p.pkt then respond (remoteReq p.pkt) (process (remoteReq p.pkt) .ok u).1 false (process (remoteReq p.pkt) .ok u).2
      else arrive (remoteReq p.pkt) (enqueue (remoteReq p.pkt)) u) := by
  have hunit : decide (die < Config.dies) = true := decide_eq_true hdie
  have hvote : voteMaster u = u := voteMaster_of_agrees (by rw [takeCtrl_torus htake]; exact hagree)
  have hsilent : u.boot.silent = false := by rw [takeCtrl_boot htake, hspeaks]
  change execObjReq die s = _
  simp only [execObjReq, whenUnit, if_pos hunit, htake, hvote, hsilent, Bool.false_eq_true, if_false]

/-- The request that an OBJ_RSP of a module under a tag answers. -/
def answersTo (p : CtrlPkt) (x : RemoteReq) : Bool := decide (x.tag.toNat = ctrlTag p ∧ x.dest.toNat = ctrlSrc p)

/-- The requests to other modules without those that an OBJ_RSP answers. -/
def withoutAnswered (p : CtrlPkt) (s : State) : State :=
  { s with dop := { s.dop with remote := s.dop.remote.filter (fun x => !answersTo p x) } }

section
variable {die : Nat} {p : RoutedCtrl} (hdie : die < 2) (htake : takeCtrl s die 6 = some (p, u))
include hdie htake

/-- An OBJ_RSP of a probed member under its probe's tag answers the probe (R306). -/
theorem exec_objRsp_of_probe (hprobe : ∃ x ∈ u.fail.probes, x.1.toNat = ctrlSrc p.pkt ∧ x.2.1.toNat = ctrlTag p.pkt) :
    exec (.objRsp die) s = .next (probeAnswered (ctrlSrc p.pkt) u) := by
  have hunit : decide (die < Config.dies) = true := decide_eq_true hdie
  have hany : u.fail.probes.any (fun x => decide (x.1.toNat = ctrlSrc p.pkt ∧ x.2.1.toNat = ctrlTag p.pkt)) = true := by
    simpa only [List.any_eq_true, decide_eq_true_eq] using hprobe
  change execObjRsp die s = _
  simp only [execObjRsp, whenUnit, if_pos hunit, htake, if_pos hany]

/-- Any other OBJ_RSP ends the request it answers, and what a takeover or a restore waits for goes on (R305, R308). -/
theorem exec_objRsp_of_no_probe (hprobe : ∀ x ∈ u.fail.probes, ¬(x.1.toNat = ctrlSrc p.pkt ∧ x.2.1.toNat = ctrlTag p.pkt)) :
    exec (.objRsp die) s = .next (if u.dop.remote.any (answersTo p.pkt) then
      afterAnswer (if field p.pkt.payload 127 124 = 1 ∧ field p.pkt.payload 119 112 = 0 then
        takeoverAnswer (ctrlSrc p.pkt) (field p.pkt.payload 111 96) (field p.pkt.payload 95 88) (field p.pkt.payload 63 0) (withoutAnswered p.pkt u)
        else withoutAnswered p.pkt u)
      else u) := by
  have hunit : decide (die < Config.dies) = true := decide_eq_true hdie
  have hany : ¬ u.fail.probes.any (fun x => decide (x.1.toNat = ctrlSrc p.pkt ∧ x.2.1.toNat = ctrlTag p.pkt)) = true := by
    simpa only [List.any_eq_true, decide_eq_true_eq, not_exists, not_and] using hprobe
  change execObjRsp die s = _
  simp only [execObjRsp, whenUnit, if_pos hunit, htake, if_neg hany]
  rfl

end

/-- A request without a response for 2 s is sent again under its tag (R346). -/
theorem exec_remoteObjectRetry_late {tag : BitVec 16} {r : RemoteReq} (hfind : s.dop.remote.find? (fun r => decide (r.tag = tag)) = some r)
    (hlate : r.sentAt + 10400000000 ≤ s.clk.tick) (hserving : s.boot.serving = true) :
    exec (.remoteObjectRetry tag) s = .next (sendObjReq r.dest.toNat tag.toNat r.payload { s with dop := { s.dop with
      remote := s.dop.remote.map (fun x => if x.tag = tag then { x with sentAt := s.clk.tick } else x) } }) := by
  have hdue : r.sentAt + secTicks 2 ≤ s.clk.tick ∧ s.boot.serving = true := ⟨hlate, hserving⟩
  change execRemoteObjectRetry tag s = _
  simp only [execRemoteObjectRetry, hfind, if_pos hdue]

/-! ### The statement of the requests -/

/-- Settles O46: each row's command serves the head of the queue or takes a datagram, and every path comes down to the arrival of a request, which is repeated,
one too many or new. That a datagram is served at once where nothing waits, and others only join the queue, is log 14. -/
theorem requestsReachServer : Obligations.RequestsReachServer := by
  unfold Obligations.RequestsReachServer
  refine ⟨fun make row hmake => ⟨?head, ?datagram⟩, ?window, ?request, ?response, ?retry⟩
  case head =>
    intro s q rest hqueue hrow hhand hspeaks
    rw [exec_objectRow hmake, handleRow_of_head .ok hqueue hrow hhand hspeaks]
  case datagram =>
    intro f s hhears hopen
    refine ⟨fun hbad => ?bad, fun h p hsum hparse hack hall => ?good⟩
    case bad =>
      rw [exec_objectRow hmake, handleRow_of_bad hhears hopen row .ok hbad]
      rfl
    case good =>
      intro q t hrow
      have htaken : exec (make (.net f)) s = .next (takeNet q .ok t) := by
        rw [exec_objectRow hmake, ← hrow]
        exact handleRow_of_good hhears hopen .ok hsum hparse hack hall
      rw [htaken]
      refine ⟨fun k hkept => congrArg _ (arrive_of_kept _ nofun hkept), fun hkept hwaits => ?new⟩
      have hnew : NewRequest t q := .inr ⟨hkept, hwaits⟩
      exact ⟨fun hfull => congrArg _ (arrive_of_full _ hnew hfull),
        fun hroom hnone hhand => congrArg _ (takeNet_of_first .ok hnew hroom hnone hhand),
        fun hroom hwait => congrArg _ (takeNet_of_waiting .ok hnew hroom hwait)⟩
  case window =>
    intro v s haccess hclear
    rw [exec_winCtrlGo_of_access v haccess, writeWinCtrl_of_keeping hclear]
    refine ⟨fun hno => by rw [if_pos hno], fun hgo hbusy => by simp [hgo, hbusy], fun h p hgo hfree hparse hack hspeaks hroom => ?_⟩
    rw [if_neg (by simp [hgo]), if_neg (by simp [hfree])]
    exact congrArg _ (submitWindow_of_room (s := { s with dop := { s.dop with winBusy := true } }) hparse hack hspeaks hroom)
  case request =>
    intro die p s u hdie htake hspeaks hagree q
    rw [exec_objReq_taken hdie htake hspeaks hagree]
    refine ⟨fun hprobe => by rw [if_pos hprobe], fun hno hkept hwaits hroom => ?_⟩
    rw [if_neg (Bool.eq_false_iff.mp hno), arrive_of_room _ (.inr ⟨hkept, hwaits⟩) hroom]
    rfl
  case response =>
    intro die p s u hdie htake src v mine gone
    refine ⟨exec_objRsp_of_probe hdie htake, fun hprobe => ?_⟩
    rw [exec_objRsp_of_no_probe hdie htake hprobe]
    exact ⟨fun hnone => congrArg _ (if_neg (Bool.eq_false_iff.mp hnone)), fun hmine => congrArg _ (if_pos hmine)⟩
  case retry =>
    intro tag r s
    exact exec_remoteObjectRetry_late

end Sys2Proof.Machine
end

section
/-! SUPPORT. A field test that ends (R312) and the power of its core's quad (R411). -/
namespace Sys2Proof.Machine

variable {s : State} {die p since : Nat}

/-- A test that has passed on a core whose history is not permanent: its count, its end, and the core SPARE again; the quads have not settled yet. -/
def testPassed (die p : Nat) (s : State) : State :=
  let t := lifeTest (18872 + 4 * (160 * die + p)) false s
  setPhysState { t with fail := { t.fail with tests := mdel t.fail.tests die, testState := 3 } } die p .spare

theorem lifeTest_eq (off : Nat) (failed : Bool) (s : State) : ∃ life, lifeTest off failed s = { s with life := life } := by
  unfold lifeTest
  split
  · exact ⟨_, rfl⟩
  · exact ⟨s.life, rfl⟩

/-- A test that has passed raises its interrupt, and then the quads settle: one whose cores are all SPARE or RETIRED may be switched OFF (R312, R357, R411). -/
theorem exec_fieldTestEnd_passed (hdie : die < 2) (htest : mfind s.fail.tests die = some (p, since))
    (hkept : s.flash.permanent.contains (.core die p) = false) :
    exec (.fieldTestEnd die true) s = .next (settleQuads (msix 6 (testPassed die p s))) := by
  have hunit : dieOk die = true := decide_eq_true hdie
  obtain ⟨life, hlife⟩ := lifeTest_eq (18872 + 4 * (160 * die + p)) false s
  change execFieldTestEnd die true s = _
  simp only [execFieldTestEnd, whenUnit, if_pos hunit, htest, testPassed, Bool.not_true, hlife, if_true, hkept, Bool.false_eq_true, if_false]

namespace QuadGoesOff

/-- QUAD_OFF_EN is 1; core 0 of die 0 is under test, and the other three cores of its quad are SPARE. -/
def start : State :=
  { State.reset with
    opt := { State.reset.opt with loaded := true }
    pwr := { State.reset.pwr with quadOffEn := true }
    map := { State.reset.map with phys := [(0, .testing), (1, .spare), (2, .spare), (3, .spare)] }
    fail := { State.reset.fail with tests := [(0, (0, 0))] } }

/-- The first byte of the SPM of the core under test has contents before the end of the test. -/
theorem spm_before : inUndef start.mem (spmAddr 0 0 0) = false := by decide +kernel

/-- The quad is switched OFF, and the SPM of its cores takes undefined contents. -/
theorem spm_after : inUndef (settleQuads (msix 6 (testPassed 0 0 start))).mem (spmAddr 0 0 0) = true := by decide +kernel

end QuadGoesOff

open QuadGoesOff

/-- Refutes O50: a core that passes its test becomes SPARE, and when no core of its quad works any more and QUAD_OFF_EN is 1, the quad is switched OFF at once,
which loses the contents of its SPMs (R312, R411): the memory is not the one before, as the statement's last clause says without a premise on the quad.
Its claim on the step program has a gap of the same kind: a test that fails exports a record, whose vote may repair a copy of the commit counter (R185, R313, R315). -/
theorem not_copiesRestoresReports : ¬ Obligations.CopiesRestoresReports := by
  unfold Obligations.CopiesRestoresReports
  intro h
  obtain ⟨-, -, -, -, -, -, -, -, -, htests⟩ := h
  obtain ⟨t, hexec, -, -, -, -, hmem, -⟩ := htests 0 0 0 true start (by decide) rfl (by decide)
  have ht : settleQuads (msix 6 (testPassed 0 0 start)) = t :=
    Host.Outcome.next.inj ((exec_fieldTestEnd_passed (by decide) rfl rfl).symm.trans hexec)
  have hundef := spm_after
  rw [ht, hmem, spm_before] at hundef
  exact Bool.false_ne_true hundef

end Sys2Proof.Machine
end

section
/-! SUPPORT. How the server serves the head of its queue (R327 to R329): what the check of a privilege leaves, and what an operation comes down to once its conditions hold. -/
namespace Sys2Proof.Machine

variable {s t u : State} {q : DopReq} {rest : List DopReq} {o : ObjRow} {p : Nat} {chk : Chk} {v : List Byte}

/-! ### The answer to the head of the queue -/

/-- The head of the queue gets what its operation answers; an ACTIVATE that begins a handover of MGMT waits for the new image (R385). -/
theorem handleRow_of_serving {row : Row} {a : Answer} (h : HeadRequest s q rest) (hrow : rowOf q = row)
    (hprocess : process q .ok (dequeued rest s) = (a, t)) :
    handleRow row .queue .ok s = .next (if row = .activate ∧ a.code = errNone ∧ handingOver t then { t with boot := { t.boot with activateReq := some q } }
      else respond q a true t) := by
  obtain ⟨hqueue, hspeaks, hserving, hstate, hhand⟩ := h
  have hserves : (dequeued rest s).boot.serving = true := hserving
  have hrecovered : ¬ (dequeued rest s).boot.state = 3 := hstate
  have hacts : serverActs (dequeued rest s) q.hdr = true := by
    simp only [serverActs, hserves, Bool.not_true, Bool.false_eq_true, if_false, if_neg hrecovered]
  rw [handleRow_of_head .ok hqueue hrow hhand hspeaks]
  simp only [serve, hacts, if_true, hprocess, hrow]

theorem handleRow_of_process {row : Row} {a : Answer} (h : HeadRequest s q rest) (hrow : rowOf q = row) (hplain : row ≠ .activate)
    (hprocess : process q .ok (dequeued rest s) = (a, t)) : handleRow row .queue .ok s = .next (respond q a true t) := by
  rw [handleRow_of_serving h hrow hprocess, if_neg (fun hactivate => hplain hactivate.1)]

/-! ### Privileges (R324, R336) -/

/-- The check of a privilege consumes a token at most. -/
theorem privilege_state (h : privilege s q = (p, u)) : ∃ token, u = { s with dop := { s.dop with token := token } } := by
  have hstate : ∃ token, (privilege s q).2 = { s with dop := { s.dop with token := token } } := by
    unfold privilege
    repeat' split
    all_goals exact ⟨_, rfl⟩
  rwa [h] at hstate

/-! ### The operations, their conditions met (R327, R329) -/

section
variable (hindex : hIndex q.hdr < 0xF000)
include hindex

theorem process_read (hop : hOp q.hdr = 1) : process q chk s = serveRead q s := by
  simp [process, Nat.not_le.mpr hindex, hop]

theorem process_write (hop : hOp q.hdr = 2) (hpriv : privilege s q = (p, u)) : process q chk s = serveWrite q p chk (voteChapter q u) := by
  simp [process, Nat.not_le.mpr hindex, hop, hpriv]

theorem process_stage (hop : hOp q.hdr = 3) (hpriv : privilege s q = (p, u)) : process q chk s = serveStage q p u := by
  simp [process, Nat.not_le.mpr hindex, hop, hpriv]

theorem process_commit (hop : hOp q.hdr = 4) (hpriv : privilege s q = (p, u)) : process q chk s = serveCommit q p u := by
  simp [process, Nat.not_le.mpr hindex, hop, hpriv]

theorem process_subscribe (hop : hOp q.hdr = 6) : process q chk s = serveSubscribe q s := by
  simp [process, Nat.not_le.mpr hindex, hop]

end

section
variable (hobj : objRow s (hKey q.hdr) = some o)
include hobj

/-- A READ of a readable object. -/
theorem serveRead_of_allowed (hreads : o.access ≠ WO) (hpriv : o.rpriv ≤ pathPriv s q.path) : serveRead q s = readObject q.path q.hdr o s := by
  simp [serveRead, lookup, hobj, hreads, Nat.not_lt.mpr hpriv]

/-- A WRITE of an object that is written at once. -/
theorem serveWrite_of_allowed (hwrites : o.access = RW ∨ o.access = WO) (hgroups : hIndex q.hdr ≠ 0x2100) (hchapter : chapterDenies s q = false)
    (hpriv : o.wpriv ≤ p) (htype : typeDiffers o q = false) :
    serveWrite q p chk s = takeValue q.path q.hdr o q.payload (fun v s => writeValue q.path (hKey q.hdr) v chk s) s := by
  have hdenied : ¬ (o.access = RO ∨ hIndex q.hdr = 0x2100 ∨ (o.access ≠ RWS ∧ chapterDenies s q = true)) := by
    obtain hrw | hwo := hwrites
    · simp [hrw, RO, RW, hgroups, hchapter]
    · simp [hwo, RO, WO, hgroups, hchapter]
  have hstaged : o.access ≠ RWS := by
    obtain hrw | hwo := hwrites
    · simp [hrw, RW, RWS]
    · simp [hwo, WO, RWS]
  simp only [serveWrite, lookup, hobj, if_neg hdenied, if_neg hstaged, if_neg (Nat.not_lt.mpr hpriv), htype, Bool.false_eq_true, if_false]

/-- A STAGE of an object of a group that is not PENDING (R340, R342). -/
theorem serveStage_of_allowed (hstages : o.access = RWS) (hpriv : o.wpriv ≤ p) (htype : typeDiffers o q = false)
    (hpending : s.dop.pending.contains (groupOf (hKey q.hdr)) = false) :
    serveStage q p s = takeValue q.path q.hdr o q.payload (fun v s => stageValue (hKey q.hdr) v s) s := by
  simp only [serveStage, lookup, hobj, hstages, ne_eq, not_true, if_false, if_neg (Nat.not_lt.mpr hpriv), htype, hpending, Bool.false_eq_true]

end

/-- A request carries the type of its object: the code, and the bytes of a fixed size (R322, R329). -/
theorem typeDiffers_of_fixed {n : Nat} (htyp : hType q.hdr = o.typ) (hsize : typeBytes o.typ = some n) (hlength : q.payload.length = n) :
    typeDiffers o q = false := by
  simp [typeDiffers, htyp, hsize, hlength]

theorem typeDiffers_of_domain (htyp : hType q.hdr = o.typ) (hsize : typeBytes o.typ = none) : typeDiffers o q = false := by
  simp [typeDiffers, htyp, hsize]

/-! ### Values, whole and in segments (R329, R331) -/

section
variable {h : BitVec 128} {path : DopPath} {payload : List Byte} (act : List Byte → State → Nat × State)

/-- A value of a fixed size acts as it stands. -/
theorem takeValue_of_fixed {n : Nat} (hsize : typeBytes o.typ = some n) (hbool : o.typ = 0 → ofLE payload ≤ 1) :
    takeValue path h o payload act s = (refuse (act payload s).1, (act payload s).2) := by
  have hallowed : ¬ (o.typ = 0 ∧ 1 < ofLE payload) := fun ⟨htyp, hlarge⟩ => Nat.not_lt.mpr (hbool htyp) hlarge
  simp only [takeValue, hsize, if_neg hallowed]

/-- A whole value is no longer than its object. -/
theorem length_le_of_gather (hgather : gather s path h o payload = .whole v) : v.length ≤ o.size := by
  unfold gather at hgather
  extract_lets key op size fits next at hgather
  have hnext {w : List Byte} {n at_ : Nat} (hwhole : next w n at_ = .whole v) : v.length ≤ o.size := by
    simp only [next] at hwhole
    split at hwhole
    · exact nomatch hwhole
    · next hfits =>
      split at hwhole
      · exact nomatch hwhole
      · next hlast =>
        obtain rfl := Gather.whole.inj hwhole
        have hfit : fits w = true := (Bool.not_eq_false' _).mp (Bool.eq_false_iff.mpr (fun hbad => hfits (.inl hbad)))
        simp only [fits, if_neg hlast] at hfit
        split at hfit
        · exact Nat.le_of_eq (of_decide_eq_true hfit)
        · exact of_decide_eq_true hfit
  split at hgather
  · split at hgather
    · exact nomatch hgather
    · exact hnext hgather
  · split at hgather
    · split at hgather
      · exact hnext hgather
      · exact nomatch hgather
    · exact nomatch hgather

/-- The last segment of a STR or DOMAIN makes the value whole; the write in segments is closed, and the value acts. -/
theorem takeValue_of_whole (hsize : typeBytes o.typ = none) (hgather : gather s path h o payload = .whole v) :
    takeValue path h o payload act s = (refuse (act v (closeWrite path (hKey h) s)).1, (act v (closeWrite path (hKey h) s)).2) := by
  simp only [takeValue, hsize, hgather]

/-- A segment with more to come stands in for the open write it continues. -/
theorem takeValue_of_partial {w : SegWrite} (hsize : typeBytes o.typ = none) (hgather : gather s path h o payload = .partial_ w) :
    takeValue path h o payload act s = (okAnswer, { closeWrite path (hKey h) s with
      dop := { (closeWrite path (hKey h) s).dop with segs := (closeWrite path (hKey h) s).dop.segs ++ [w] } }) := by
  simp only [takeValue, hsize, hgather]

end

end Sys2Proof.Machine
end

section
/-! SUPPORT. WRITEs of fuses, of the update objects, of a nonce, a maintenance key and a maintenance token (R336, R337, R379, R383 to R387). -/
namespace Sys2Proof.Machine

variable {s t u : State} {q : DopReq} {rest : List DopReq} {o : ObjRow} {p : Nat} {bs : List Byte}

/-! ### WRITEs of a fixed size -/

/-- An object outside the factory's area that is no group's COMMIT, and whose chapter puts no condition on its WRITEs (R303, R307, R324, R341, R417). -/
abbrev PlainIndex (index : Nat) : Prop := index < 0xF000 ∧ index ≠ 0x2100 ∧ index ≠ 0x2010 ∧ index ≠ 0x7003 ∧ index ≠ 0x7011

theorem voteChapter_of_plain (h : PlainIndex (hIndex q.hdr)) (s : State) : voteChapter q s = s := by
  obtain ⟨-, -, h2010, h7003, h7011⟩ := h
  simp [voteChapter, h2010, h7003, h7011]

theorem chapterDenies_of_plain (h : PlainIndex (hIndex q.hdr)) (s : State) : chapterDenies s q = false := by
  obtain ⟨-, -, h2010, h7003, h7011⟩ := h
  unfold chapterDenies
  split
  · exact absurd ‹_› h2010
  · exact absurd ‹_› h7003
  · exact absurd ‹_› h7011
  · rfl

/-- A WRITE that its client may do and its object's chapter does not bind comes down to its value (R323, R324, R329). -/
theorem process_write_of_allowed (hop : hOp q.hdr = 2) (hplain : PlainIndex (hIndex q.hdr)) (hpriv : privilege s q = (p, u))
    (hobj : objRow u (hKey q.hdr) = some o) (hwrites : o.access = RW ∨ o.access = WO) (hwpriv : o.wpriv ≤ p) (htype : typeDiffers o q = false) :
    process q .ok s = takeValue q.path q.hdr o q.payload (fun v s => writeValue q.path (hKey q.hdr) v .ok s) u := by
  obtain ⟨hindex, hgroups, -⟩ := id hplain
  rw [process_write hindex hop hpriv, voteChapter_of_plain hplain,
    serveWrite_of_allowed hobj hwrites hgroups (chapterDenies_of_plain hplain u) hwpriv htype]

/-- A row of WRITEs says what its command does: the object that it names is written at once and has the row's type, size and privilege, and a value that the row
accepts has the row's effect. -/
structure DescribesWrite (r : WriteRow) (row : Row) : Prop where
  command (s : State) : exec (r.make .queue) s = handleRow row .queue .ok s
  notActivate : row ≠ .activate
  plain : PlainIndex (r.key / 256)
  named (payload : List Byte) : writeRow r.key payload = row
  object (s : State) : ∃ o, objRow s r.key = some o ∧ (o.access = RW ∨ o.access = WO) ∧ o.typ = r.typ ∧ o.wpriv = r.priv
  size : typeBytes r.typ = some r.bytes
  bool {q : DopReq} {v : Nat} {s : State} : r.typ = 0 → r.ok q v s → v ≤ 1
  acts {q : DopReq} {s : State} : r.ok q (ofLE q.payload) s →
    writeValue q.path r.key q.payload .ok s = (errNone, r.effect (ofLE q.payload) s)

/-- A WRITE that its row accepts is answered OK and has the row's effect. -/
theorem exec_of_accepted {r : WriteRow} {row : Row} (hr : DescribesWrite r row) (h : Accepted r s q rest u) :
    exec (r.make .queue) s = .next (respond q okAnswer true (r.effect (ofLE q.payload) u)) := by
  obtain ⟨hhead, ⟨hop, hkey, hidx, -, htyp⟩, hlength, ⟨p, t, hpriv, hp, rfl⟩, hok⟩ := h
  obtain ⟨o, hobj, hwrites, hotyp, howpriv⟩ := hr.object t
  have hplain : PlainIndex (hIndex q.hdr) := hidx ▸ hr.plain
  have hnamed : rowOf q = row := by simp only [rowOf, hop, hkey, hr.named]
  have hsize : typeBytes o.typ = some r.bytes := by rw [hotyp, hr.size]
  have htype : typeDiffers o q = false := typeDiffers_of_fixed (htyp.trans hotyp.symm) hsize hlength
  rw [voteChapter_of_plain hplain] at hok ⊢
  have hprocess : process q .ok (dequeued rest s) = (okAnswer, r.effect (ofLE q.payload) t) := by
    rw [process_write_of_allowed hop hplain hpriv (hkey ▸ hobj) hwrites (howpriv ▸ hp) htype,
      takeValue_of_fixed _ hsize (fun h0 => hr.bool (hotyp ▸ h0) hok), hkey, hr.acts hok]
    rfl
  rw [hr.command s]
  exact handleRow_of_process hhead hnamed hr.notActivate hprocess

/-! ### Fuses (R379, R383) -/

theorem raiseFloor_of_allowed {c v : Nat}
    (h : v = floorOf (voteFloor c s) c ∨ (floorOf (voteFloor c s) c ≤ v ∧ v ≤ 64 ∧ v ≤ (vget 0 (voteFloor c s).boot.svn c).toNat)) :
    raiseFloor c v s = (errNone, let t := voteFloor c s
      let x : BitVec 64 := BitVec.ofNat 64 (2 ^ v - 1)
      if v = floorOf t c then t
      else { t with flash := { t.flash with floors := vset t.flash.floors c (x, x) }, boot := { t.boot with floors := vset t.boot.floors c ⟨x, x, x⟩ } }) := by
  unfold raiseFloor
  dsimp only
  by_cases heq : v = floorOf (voteFloor c s) c
  · rw [if_pos heq, if_pos heq]
  · obtain ⟨hfloor, hmax, hsvn⟩ := h.resolve_left heq
    rw [if_neg heq, if_neg heq, if_neg (by omega)]
    rfl

theorem revokeKey_of_allowed {k : Nat} (h : k < 4 ∧ keyHashOf (voteFuses s) k ≠ 0 ∧ keyInUse (voteFuses s) k = false ∧
      (List.range 4).filter (fun i => keyValid (voteFuses s) i) ≠ [k]) :
    revokeKey k s = (errNone, let t := voteFuses s
      let r := t.boot.revoked.value ||| (1#4 <<< k)
      { t with flash := { t.flash with revoked := (r, r) }, boot := { t.boot with revoked := ⟨r, r, r⟩ } }) := by
  obtain ⟨hk, hhash, huse, hlast⟩ := h
  have hallowed : ¬ (4 ≤ k ∨ keyHashOf (voteFuses s) k = 0 ∨ keyInUse (voteFuses s) k = true ∨
      (List.range 4).filter (fun i => keyValid (voteFuses s) i) = [k]) := by
    simp only [not_or]
    exact ⟨Nat.not_le.mpr hk, hhash, Bool.eq_false_iff.mp huse, hlast⟩
  unfold revokeKey
  dsimp only
  rw [if_neg hallowed]
  rfl

/-! ### The update objects (R384) -/

theorem updateComponent_of_allowed {v : Nat} (h : upBusy s = false ∧ 1 ≤ v ∧ v ≤ 3) : updateComponent v s = (errNone, { s with
    flash := { s.flash with fw := mset s.flash.fw (2 * (v - 1) + inactiveSlot s (v - 1)) [] }
    boot := { s.boot with upComponent := BitVec.ofNat 8 v, upOffset := 0, upStatus := 1 } }) := by
  obtain ⟨hfree, hlow, hhigh⟩ := h
  rw [updateComponent, if_neg (Bool.eq_false_iff.mp hfree), if_neg (by omega)]

theorem updateOffset_of_allowed {v : Nat} (h : upBusy s = false ∧ v % 1024 = 0) :
    updateOffset v s = (errNone, { s with boot := { s.boot with upOffset := BitVec.ofNat 32 v } }) := by
  obtain ⟨hfree, hv⟩ := h
  rw [updateOffset, if_neg (Bool.eq_false_iff.mp hfree), if_neg (fun hodd => hodd hv)]

theorem updateVerify_of_allowed {v : Nat} (h : v = 1 ∧ upBusy s = false ∧ s.boot.upComponent ≠ 0) :
    updateVerify v s = (errNone, { s with boot := { s.boot with upStatus := 2 } }) := by
  obtain ⟨rfl, hfree, hcomponent⟩ := h
  rw [updateVerify, if_neg (not_or.mpr ⟨Bool.eq_false_iff.mp hfree, hcomponent⟩), if_neg Nat.one_ne_zero]
  rfl

/-- Every row of the fuses and the update objects says what its command does. -/
theorem firmwareWrites_described : ∀ r ∈ firmwareWrites, ∃ row, DescribesWrite r row := by
  intro r hr
  obtain hfloor | hrest := List.mem_append.mp hr
  · obtain ⟨c, hc, rfl⟩ := List.mem_map.mp hfloor
    have hc3 : c < 3 := List.mem_range.mp hc
    have hindex : (0x900304 + c) / 256 = 0x9003 := by omega
    have hsub : (0x900304 + c) % 256 - 4 = c := by omega
    refine ⟨.floor, fun _ => rfl, nofun, by simp [hindex, PlainIndex], fun _ => ?named, fun s => ?object, rfl, nofun, fun hok => ?acts⟩
    case named => simp only [writeRow, hindex]
    case object =>
      obtain rfl | rfl | rfl : c = 0 ∨ c = 1 ∨ c = 2 := by omega
      all_goals exact ⟨_, rfl, .inr rfl, rfl, rfl⟩
    case acts =>
      simp only [writeValue, hindex, hsub]
      exact raiseFloor_of_allowed hok
  · simp only [List.mem_cons, List.not_mem_nil, or_false] at hrest
    obtain rfl | rfl | rfl | rfl := hrest
    · exact ⟨.revoke, fun _ => rfl, nofun, by decide, fun _ => rfl, fun _ => ⟨_, rfl, .inr rfl, rfl, rfl⟩, rfl, nofun, revokeKey_of_allowed⟩
    · exact ⟨.component, fun _ => rfl, nofun, by decide, fun _ => rfl, fun _ => ⟨_, rfl, .inl rfl, rfl, rfl⟩, rfl, nofun, updateComponent_of_allowed⟩
    · exact ⟨.write, fun _ => rfl, nofun, by decide, fun _ => rfl, fun _ => ⟨_, rfl, .inl rfl, rfl, rfl⟩, rfl, nofun, updateOffset_of_allowed⟩
    · exact ⟨.verify, fun _ => rfl, nofun, by decide, fun _ => rfl, fun _ => ⟨_, rfl, .inr rfl, rfl, rfl⟩, rfl, fun _ hok => Nat.le_of_eq hok.1, updateVerify_of_allowed⟩

/-- A chunk lands at OFFSET in the slot of the component that does not run. -/
theorem updateChunk_of_allowed (hfree : upBusy s = false) (hcomponent : s.boot.upComponent ≠ 0) (hsome : bs ≠ []) (hlength : bs.length ≤ 1024)
    (hroom : s.boot.upOffset.toNat + bs.length ≤ imageLimit (upComp s)) :
    updateChunk bs s = (errNone, let k := 2 * upComp s + inactiveSlot s (upComp s)
      { s with
        flash := { s.flash with fw := mset s.flash.fw k (writeChunk ((mfind s.flash.fw k).getD []) s.boot.upOffset.toNat bs) }
        boot := { s.boot with upOffset := BitVec.ofNat 32 (s.boot.upOffset.toNat + bs.length), upStatus := 1 } }) := by
  have hpositive : bs.length ≠ 0 := fun h0 => hsome (List.length_eq_zero_iff.mp h0)
  unfold updateChunk
  dsimp only
  rw [if_neg (not_or.mpr ⟨Bool.eq_false_iff.mp hfree, hcomponent⟩), if_neg (by omega)]
  rfl

/-- ACTIVATE of MGMT begins its handover, and of no other component (R385). -/
theorem handingOver_beginActivate (hrecovered : s.boot.state ≠ 3) : handingOver (beginActivate s) = decide (s.boot.upComponent = 2) := by
  have hchain : ¬ decide (s.boot.state = 3) = true := by rw [decide_eq_true_eq]; exact hrecovered
  unfold beginActivate
  dsimp only
  rw [if_neg hchain]
  split
  · next hfsb =>
    have hcomponent : s.boot.upComponent ≠ 2 := fun h2 => by simp [upComp, h2] at hfsb
    simpa [handingOver, setUpStatus] using hcomponent
  · simp [handingOver, setUpStatus, preferSlot]

/-! ### Attestation and tokens (R336, R387) -/

theorem takeNonce_of_free (hfree : s.boot.reportState ≠ 1) : takeNonce bs s = (errNone, let t := voteCommit s
    { t with boot := { t.boot with report := BitVec.ofNat 5120 (reportBody t (ofLE bs)), reportState := 1 } }) := by
  rw [takeNonce, if_neg hfree]

theorem writeMaintKey_of_hashed (hhash : sha256 bs = (voteMaintHash s).boot.maintHash.value) :
    writeMaintKey bs s = (errNone, { voteMaintHash s with flash := { (voteMaintHash s).flash with maintKey := bs } }) := by
  unfold writeMaintKey
  dsimp only
  rw [if_pos hhash]

/-- A new challenge stands, whatever the token. -/
def challenged (s : State) : State := { s with free := s.free + 1, dop := { s.dop with challenge := Config.free s.free } }

/-- The token that a written value arms for its client. -/
def armed (path : DopPath) (bs : List Byte) (s : State) : Token :=
  ⟨path, field (tokenHdr bs) 351 328, field (tokenHdr bs) 327 324, field (tokenHdr bs) 319 288, BitVec.ofNat 256 (field (tokenHdr bs) 255 0), s.clk.tick⟩

section
variable {path : DopPath} (hlocal : ∀ ep, path ≠ .remote ep)
include hlocal

theorem writeToken_of_good (hok : tokenOk s bs = true) (hflags : field (tokenHdr bs) 323 320 = 0) (hreserved : field (tokenHdr bs) 287 256 = 0) :
    writeToken path bs s = (errNone, { challenged s with dop := { (challenged s).dop with token := some (armed path bs s) } }) := by
  cases path with
  | remote ep => exact absurd rfl (hlocal ep)
  | _ => simp [writeToken, takeFree, hok, hflags, hreserved, challenged, armed]

theorem writeToken_of_bad (hbad : tokenOk s bs = false) : writeToken path bs s = (errAuth, challenged s) := by
  cases path with
  | remote ep => exact absurd rfl (hlocal ep)
  | _ => simp [writeToken, takeFree, hbad, challenged]

end

/-! ### The statement of fuses, updates, attestation and maintenance -/

/-- A WRITE whose last segment makes its value whole is answered with what the value does. -/
theorem handleRow_of_wholeWrite {key typ code : Nat} {row : Row} (hhead : HeadRequest s q rest) (hasks : Asks q 2 key typ) (hotyp : o.typ = typ)
    (hplain : PlainIndex (key / 256)) (hrow : ∀ payload, writeRow key payload = row) (hact : row ≠ .activate) (hpriv : privilege (dequeued rest s) q = (p, u))
    (hobj : objRow u key = some o) (hwrites : o.access = RW ∨ o.access = WO) (hwpriv : o.wpriv ≤ p) (hdomain : typeBytes o.typ = none)
    (hgather : gather u q.path q.hdr o q.payload = .whole bs)
    (hwrite : writeValue q.path key bs .ok (closeWrite q.path (hKey q.hdr) u) = (code, t)) :
    handleRow row .queue .ok s = .next (respond q (refuse code) true t) := by
  obtain ⟨hop, hkey, hidx, -, htyp⟩ := hasks
  refine handleRow_of_process hhead (by simp only [rowOf, hop, hkey, hrow]) hact ?_
  rw [process_write_of_allowed hop (hidx ▸ hplain) hpriv (hkey ▸ hobj) hwrites hwpriv (typeDiffers_of_domain (htyp.trans hotyp.symm) hdomain),
    takeValue_of_whole _ hdomain hgather]
  rw [← hkey] at hwrite
  rw [hwrite]

/-- An ACTIVATE of a verified component begins. -/
theorem process_activate (hasks : Asks q 2 0x901205 0) (hpayload : q.payload = [1]) (hpriv : privilege s q = (2, u)) (hverified : u.boot.upStatus = 3) :
    process q .ok s = (okAnswer, beginActivate u) := by
  obtain ⟨hop, hkey, hidx, -, htyp⟩ := hasks
  have hwrite : writeValue q.path 0x901205 [1] .ok u = (errNone, beginActivate u) := by
    change writeUpdate 5 [1] u = _
    simp only [writeUpdate, hverified]
    rfl
  rw [process_write_of_allowed hop (by rw [hidx]; decide) hpriv (by rw [hkey]; rfl) (.inr rfl) (Nat.le_refl 2) (typeDiffers_of_fixed htyp rfl (by rw [hpayload]; rfl)),
    takeValue_of_fixed _ rfl (fun _ => by rw [hpayload]; decide), hkey, hpayload, hwrite]
  rfl

namespace ObjectServer

/-- Settles O43: a WRITE that its client may do comes down to its value, of a fixed size or whole at its last segment, and the value to the operation of its object;
of the ACTIVATEs only that of MGMT begins a handover, which its answer waits for. That the deferred answer is the handover's (log 89), the bytes between chunks (log 88)
and the free challenge (log 99) are the model's choices. -/
theorem firmwareWrites : Obligations.FirmwareWrites := by
  unfold Obligations.FirmwareWrites
  refine ⟨fun r hr s u q rest h => ?rows, fun s u q rest hhead hasks hpayload hpriv hstatus => ?activate, ?domains⟩
  case rows =>
    obtain ⟨row, hrow⟩ := firmwareWrites_described r hr
    exact exec_of_accepted hrow h
  case activate =>
    have hboot : u.boot = s.boot := by obtain ⟨token, rfl⟩ := privilege_state hpriv; rfl
    have hrow : rowOf q = .activate := by
      obtain ⟨hop, hkey, -⟩ := hasks
      simp only [rowOf, hop, hkey]
      rfl
    have hexec := handleRow_of_serving hhead hrow (process_activate hasks hpayload hpriv (hboot ▸ hstatus))
    obtain ⟨-, -, -, hstate, -⟩ := hhead
    rw [handingOver_beginActivate (hboot ▸ hstate), hboot] at hexec
    refine ⟨fun hmgmt => hexec.trans (congrArg _ (if_pos ⟨rfl, rfl, decide_eq_true hmgmt⟩)), fun hother => hexec.trans (congrArg _ (if_neg ?_))⟩
    rintro ⟨-, -, hmgmt⟩
    obtain h1 | h3 := hother
    · simp [h1] at hmgmt
    · simp [h3] at hmgmt
  case domains =>
    intro s u q rest p bs hhead _ _ hpriv hp x
    obtain ⟨token, rfl⟩ := privilege_state hpriv
    refine ⟨fun hasks hgather hsome hfree hcomponent hroom => ?chunk, fun hasks hgather hfree => ?nonce, fun hasks hgather hhash => ?key,
      fun hasks hgather hlocal => ?token⟩
    case chunk =>
      exact handleRow_of_wholeWrite hhead hasks rfl (by decide) (fun _ => rfl) nofun hpriv rfl (.inr rfl) hp rfl hgather
        (updateChunk_of_allowed (s := x) hfree hcomponent hsome (length_le_of_gather hgather) hroom)
    case nonce =>
      exact handleRow_of_wholeWrite hhead hasks rfl (by decide) (fun _ => rfl) nofun hpriv rfl (.inr rfl) (Nat.zero_le p) rfl hgather (takeNonce_of_free (s := x) hfree)
    case key =>
      have hvalue : writeValue q.path 0x122200 bs .ok x = writeMaintKey bs x := rfl
      have hwrite := hvalue.trans (writeMaintKey_of_hashed hhash)
      exact handleRow_of_wholeWrite hhead hasks rfl (by decide) (fun _ => rfl) nofun hpriv rfl (.inl rfl) hp rfl hgather hwrite
    case token =>
      have hanswer {code : Nat} {t : State} (hwrite : writeToken q.path bs x = (code, t)) :
          exec (.maintTokenWrite .queue) s = .next (respond q (refuse code) true t) :=
        handleRow_of_wholeWrite hhead hasks rfl (by decide) (fun _ => rfl) nofun hpriv rfl (.inr rfl) (Nat.zero_le p) rfl hgather hwrite
      exact ⟨fun hok hflags hreserved => hanswer (writeToken_of_good hlocal hok hflags hreserved), fun hbad => hanswer (writeToken_of_bad hlocal hbad)⟩

end ObjectServer

end Sys2Proof.Machine
end

section
/-! SUPPORT. READs (R327, R331, R340): the state that answers one, the segment that it takes, its captures. -/
namespace Sys2Proof.Machine

variable {s u : State} {q : DopReq} {rest : List DopReq} {r : ObjRow} {path : DopPath} {h : BitVec 128} {typ : Nat}

/-- The state that answers a READ: the words of its object are voted, and the ward's READ of WARD_COMMIT has set off the push of its area (R185, R305; log 131). -/
def readState (path : DopPath) (key : Nat) (s : State) : State :=
  let v := voteRead key s
  if key = 0x701005 ∧ path = .remote v.fail.wardEp then pushWard v else v

/-- The value of a READ is captured for its client (R340). -/
def captured (path : DopPath) (key : Nat) (v : List Byte × Bool) (s : State) : State :=
  { s with dop := { s.dop with captures := otherCaptures s path key ++ [⟨path, key, v.1, v.2, s.clk.tick⟩] } }

/-- A client's capture of an object that has not ended. -/
def liveCapture (s : State) (path : DopPath) (key : Nat) : Option Capture :=
  s.dop.captures.find? (fun c => decide (c.path = path) && decide (c.key = key) && decide (s.clk.tick < c.at_ + secTicks 10))

/-- A READ without SNAP takes its segment from the value as it stands. -/
theorem readObject_of_plain (hready : ¬ (hIndex h = 0x9031 ∧ (readState path (hKey h) s).boot.reportState = 1)) (hsnap : hSnap h = false) :
    readObject path h r s = (segmentOf (segSize path) r.typ (valueAsked (readState path (hKey h) s) h).1 (hSeg h)
      (valueAsked (readState path (hKey h) s) h).2, readState path (hKey h) s) := by
  change (if hIndex h = 0x9031 ∧ (readState path (hKey h) s).boot.reportState = 1 then _ else _) = _
  rw [if_neg hready, hsnap]
  rfl

theorem readObject_of_snap (hready : ¬ (hIndex h = 0x9031 ∧ (readState path (hKey h) s).boot.reportState = 1)) (hsnap : hSnap h = true) :
    readObject path h r s = readSnap path h r.typ (readState path (hKey h) s) := by
  change (if hIndex h = 0x9031 ∧ (readState path (hKey h) s).boot.reportState = 1 then _ else _) = _
  rw [if_neg hready, hsnap]
  rfl

theorem valueAsked_of_effective (hstaged : hStagedv h = false) : valueAsked s h = (readValue s (hKey h), false) := by
  simp [valueAsked, hstaged]

/-! ### Captures (R331) -/

/-- Segment 0 captures the value. -/
theorem readSnap_of_first (hseg : hSeg h = 0) (hroom : (otherCaptures s path (hKey h)).length < 4) (hsize : (valueAsked s h).1.length ≤ 2 ^ 20) :
    readSnap path h typ s = (segmentOf (segSize path) typ (valueAsked s h).1 (hSeg h) (valueAsked s h).2, captured path (hKey h) (valueAsked s h) s) := by
  simp only [readSnap, if_neg (Nat.not_le.mpr hroom), if_neg (Nat.not_lt.mpr hsize), hseg]
  rfl

/-- Four captures of others leave none for this READ. -/
theorem readSnap_of_full (hseg : hSeg h = 0) (hfull : 4 ≤ (otherCaptures s path (hKey h)).length) : readSnap path h typ s = (refuse errBusy, s) := by
  simp only [readSnap, if_pos hseg, if_pos hfull]

/-- Later segments come from the capture, which starts its time again. -/
theorem readSnap_of_later {c : Capture} (hseg : hSeg h ≠ 0) (hlive : liveCapture s path (hKey h) = some c) :
    readSnap path h typ s = (segmentOf (segSize path) typ c.value (hSeg h) c.stagedv, captured path (hKey h) (c.value, c.stagedv) s) := by
  unfold liveCapture at hlive
  simp only [readSnap, if_neg hseg, hlive]
  rfl

/-! ### The statement of READs -/

/-- The row of a READ. -/
theorem rowOf_read (hop : hOp q.hdr = 1) : rowOf q = if hSnap q.hdr then .readSnap else if hStagedv q.hdr then .readStaged else .read := by
  simp [rowOf, hop]

namespace ObjectServer

/-- Settles O44: a READ of a readable object comes down to the value that it asks for, as it stands or captured, and its segment of it.
That the ward's READ of WARD_COMMIT sets off the push is the model's choice (log 131). -/
theorem objectsRead : Obligations.ObjectsRead := by
  unfold Obligations.ObjectsRead
  intro s q rest r hhead hop hindex hobj hreads hpriv v u hready seg asked others capture
  have hanswer {row : Row} {a : Answer} {t : State} (hrow : rowOf q = row) (hplain : row ≠ .activate)
      (hread : readObject q.path q.hdr r (dequeued rest s) = (a, t)) : handleRow row .queue .ok s = .next (respond q a true t) := by
    have hserved : serveRead q (dequeued rest s) = readObject q.path q.hdr r (dequeued rest s) := serveRead_of_allowed hobj hreads hpriv
    exact handleRow_of_process hhead hrow hplain ((process_read hindex hop).trans (hserved.trans hread))
  have hrow := rowOf_read hop
  refine ⟨fun hsnap hstaged => ?plain, fun hsnap hstaged => ?staged, fun hsnap hseg => ⟨fun hroom hsize => ?first, fun hfull => ?full⟩,
    fun c hsnap hseg hlive => ?later⟩
  case plain =>
    rw [hsnap, hstaged] at hrow
    have hread := readObject_of_plain (r := r) hready hsnap
    rw [valueAsked_of_effective hstaged] at hread
    exact hanswer hrow nofun hread
  case staged =>
    rw [hsnap, hstaged] at hrow
    exact hanswer hrow nofun (readObject_of_plain hready hsnap)
  case first =>
    rw [hsnap] at hrow
    exact hanswer hrow nofun ((readObject_of_snap hready hsnap).trans (readSnap_of_first hseg hroom hsize))
  case full =>
    rw [hsnap] at hrow
    exact hanswer hrow nofun ((readObject_of_snap hready hsnap).trans (readSnap_of_full hseg hfull))
  case later =>
    rw [hsnap] at hrow
    exact hanswer hrow nofun ((readObject_of_snap hready hsnap).trans (readSnap_of_later hseg hlive))

end ObjectServer

end Sys2Proof.Machine
end

section
/-! SUPPORT. STAGE, COMMIT, DISCARD and SUBSCRIBE (R333, R340 to R342). -/
namespace Sys2Proof.Machine

variable {s u : State} {q : DopReq} {rest : List DopReq} {o : ObjRow} {p g : Nat} {v : List Byte}

/-! ### STAGE (R340) -/

/-- A value stands staged beside the effective one. -/
def withStaged (key : Nat) (v : List Byte) (s : State) : State := { s with dop := { s.dop with staged := mset s.dop.staged key v } }

theorem stageValue_of_ok {key : Nat} (h : stageOk s key v = true) : stageValue key v s = (errNone, withStaged key v s) := by
  rw [stageValue, if_pos h]
  rfl

theorem stageValue_of_not_ok {key : Nat} (h : stageOk s key v = false) : stageValue key v s = (errRange, s) := by
  rw [stageValue, if_neg (Bool.eq_false_iff.mp h)]

/-! ### Groups (R341) -/

/-- The key of an object is its index and its subindex. -/
theorem hKey_eq (h : BitVec 128) : hKey h = 256 * hIndex h + hSub h := by
  simp only [hKey, hIndex, hSub, field, Nat.shiftRight_eq_div_pow]
  omega

/-- COMMIT has a subindex for each of the 12 groups. -/
theorem find_commitRow : ∀ g, g < 13 → 1 ≤ g →
    (subs (span 1 12 (fun g => val g 1 WO 0))).find? (fun r => decide (r.sub = g)) = some (val g 1 WO 0) := by decide

theorem objRow_commit (s : State) (hlow : 1 ≤ g) (hhigh : g ≤ 12) : objRow s (256 * 0x2100 + g) = some (val g 1 WO 0) := by
  have hindex : (256 * 0x2100 + g) / 256 = 0x2100 := by omega
  have hsub : (256 * 0x2100 + g) % 256 = g := by omega
  rw [objRow, hindex, hsub]
  exact find_commitRow g (by omega) hlow

theorem groupState_of_pending (h : s.dop.pending.contains g = true) : groupState s g = 2 := by
  rw [groupState, if_pos h]

/-- A group whose staged values are gone is CLEAN. -/
theorem groupState_of_emptied (hstate : groupState s g ≠ 2) : groupState { s with dop := { s.dop with
    staged := s.dop.staged.filter (fun e => !(groupKeys g).contains e.1) } } g = 0 := by
  have hpending : ¬ s.dop.pending.contains g = true := fun h => hstate (groupState_of_pending h)
  have hnone : (s.dop.staged.filter (fun e => !(groupKeys g).contains e.1)).filter (fun e => (groupKeys g).contains e.1) = [] := by
    rw [List.filter_filter, List.filter_eq_nil_iff]
    intro e _
    rw [Bool.and_not_self]
    exact Bool.false_ne_true
  simp only [groupState, if_neg hpending, stagedOf, hnone, if_true]

/-- A group that passes its checks is PENDING, its last check passed. -/
def madePending (g : Nat) (s : State) : State := setCheck g errNone { s with dop := { s.dop with pending := s.dop.pending ++ [g] } }

section
variable (hstaged : groupState s g = 1)
include hstaged

/-- A quiet group takes effect at once. -/
theorem commitGroup_of_quiet (hok : commitOk s g = true) (hquiet : groupQuiet (madePending g s) g = true) :
    commitGroup g s = (groupAnswer errNone g (applyGroup g (madePending g s)), applyGroup g (madePending g s)) := by
  unfold madePending at hquiet ⊢
  simp only [commitGroup, hstaged, ne_eq, not_true, if_false, if_pos hok, if_pos hquiet]

/-- A group that is not quiet stays PENDING. -/
theorem commitGroup_of_busy (hok : commitOk s g = true) (hquiet : groupQuiet (madePending g s) g = false) :
    commitGroup g s = ({ code := errNone, typ := 1, value := [2] }, madePending g s) := by
  have hpending : groupState (madePending g s) g = 2 := groupState_of_pending (by simp [madePending, setCheck])
  unfold madePending at hquiet hpending ⊢
  simp only [commitGroup, hstaged, ne_eq, not_true, if_false, if_pos hok, hquiet, Bool.false_eq_true, groupAnswer, hpending]
  rfl

/-- A group that fails its checks stays STAGED. -/
theorem commitGroup_of_failed (hok : commitOk s g = false) : commitGroup g s = ({ code := errRange, typ := 1, value := [1] }, setCheck g errRange s) := by
  have hkept : groupState (setCheck g errRange s) g = 1 := hstaged
  simp only [commitGroup, hstaged, ne_eq, not_true, if_false, hok, Bool.false_eq_true, groupAnswer, hkept]
  rfl

end

/-- DISCARD of a group that is not PENDING leaves it CLEAN. -/
theorem discardGroup_of_not_pending (hstate : groupState s g ≠ 2) : discardGroup g s = ({ code := errNone, typ := 1, value := [0] },
    { s with dop := { s.dop with staged := s.dop.staged.filter (fun e => !(groupKeys g).contains e.1) } }) := by
  simp only [discardGroup, if_neg hstate, groupAnswer, groupState_of_emptied hstate]
  rfl

/-- A COMMIT of a group by a client who may write its objects. -/
theorem serveCommit_of_allowed (hkey : hKey q.hdr = 256 * 0x2100 + g) (hindex : hIndex q.hdr = 0x2100) (hsub : hSub q.hdr = g) (hlow : 1 ≤ g) (hhigh : g ≤ 12)
    (hpriv : groupPriv s g ≤ p) : serveCommit q p s = if hDiscard q.hdr then discardGroup g s else commitGroup g s := by
  have hobj : objRow s (hKey q.hdr) = some (val g 1 WO 0) := by rw [hkey]; exact objRow_commit s hlow hhigh
  have hgroup : ¬ (hIndex q.hdr ≠ 0x2100 ∨ g = 0) := by omega
  simp only [serveCommit, lookup, hobj, hsub, if_neg hgroup, if_neg (Nat.not_lt.mpr hpriv)]

/-! ### SUBSCRIBE (R333) -/

/-- A subscription of a client on an object. -/
def subscribes (addr : BitVec 128) (port key : Nat) (x : Subscription) : Bool := decide (x.addr = addr ∧ x.port = port ∧ x.key = key)

theorem ofLE_lt (v : List Byte) : ofLE v < 256 ^ v.length := by
  induction v with
  | nil => exact Nat.one_pos
  | cons b bs ih =>
    have hb : b.toNat < 256 := b.isLt
    simp only [ofLE, List.length_cons, Nat.pow_succ]
    omega

/-- The fields of a SUBSCRIBE's value. -/
theorem field_of_lease (hlength : v.length = 8) :
    field (BitVec.ofNat 64 (ofLE v)) 63 48 = ofLE v / 2 ^ 48 ∧ field (BitVec.ofNat 64 (ofLE v)) 47 32 = ofLE v / 2 ^ 32 % 2 ^ 16 ∧
      field (BitVec.ofNat 64 (ofLE v)) 31 0 = ofLE v % 2 ^ 32 := by
  have hbound : ofLE v < 256 ^ 8 := hlength ▸ ofLE_lt v
  simp only [field, BitVec.toNat_ofNat, Nat.shiftRight_eq_div_pow]
  omega

section
variable {addr : BitVec 128} {port key lease gap : Nat}

/-- A lease of 0 ends the subscription. -/
theorem subscribe_of_ended (s : State) : subscribe addr port key 0 gap s =
    (errNone, { s with dop := { s.dop with subs := s.dop.subs.filter (fun x => !subscribes addr port key x) } }) := rfl

/-- A subscription that stands is renewed and keeps its queue (log 104). -/
theorem subscribe_of_renewed (hlease : lease ≠ 0) (hmine : s.dop.subs.any (subscribes addr port key) = true) : subscribe addr port key lease gap s =
    (errNone, { s with dop := { s.dop with subs := s.dop.subs.map (fun x =>
      if subscribes addr port key x then { x with expires := s.clk.tick + secTicks lease, minMs := gap } else x) } }) :=
  (if_neg hlease).trans (if_pos hmine)

/-- A new subscription starts from the current values (log 104). -/
theorem subscribe_of_new (hlease : lease ≠ 0) (hnone : s.dop.subs.any (subscribes addr port key) = false) : subscribe addr port key lease gap s =
    (errNone, { s with dop := { s.dop with subs := s.dop.subs ++
      [{ addr := addr, port := port, key := key, expires := s.clk.tick + secTicks lease, minMs := gap, queue := [], outstanding := none, sent := 0
         firstSend := 0, last := startValues s key }] } }) :=
  (if_neg hlease).trans (if_neg (Bool.eq_false_iff.mp hnone))

/-- A SUBSCRIBE of a readable object with a value in range fails for want of room alone. -/
theorem serveSubscribe_of_allowed (hpath : q.path = .net addr port) (hobj : objRow s (hKey q.hdr) = some o) (hreads : o.access ≠ WO)
    (hpriv : o.rpriv ≤ pathPriv s q.path) (hlength : q.payload.length = 8) (hlease : ofLE q.payload / 2 ^ 48 ≤ 3600)
    (hgap : ofLE q.payload / 2 ^ 32 % 2 ^ 16 ≤ 60000) (hzero : ofLE q.payload % 2 ^ 32 = 0) :
    serveSubscribe q s =
      if s.dop.subs.any (subscribes addr port (hKey q.hdr)) = false ∧ ofLE q.payload / 2 ^ 48 ≠ 0 ∧ 32 ≤ s.dop.subs.length then (refuse errBusy, s)
      else (refuse (subscribe addr port (hKey q.hdr) (ofLE q.payload / 2 ^ 48) (ofLE q.payload / 2 ^ 32 % 2 ^ 16) s).1,
        (subscribe addr port (hKey q.hdr) (ofLE q.payload / 2 ^ 48) (ofLE q.payload / 2 ^ 32 % 2 ^ 16) s).2) := by
  obtain ⟨hfield48, hfield32, hfield0⟩ := field_of_lease hlength
  have hrange : ¬ (q.payload.length ≠ 8 ∨ 3600 < ofLE q.payload / 2 ^ 48 ∨ 60000 < ofLE q.payload / 2 ^ 32 % 2 ^ 16 ∨ ofLE q.payload % 2 ^ 32 ≠ 0) := by omega
  unfold subscribes
  rw [hpath] at hpriv
  simp only [serveSubscribe, lookup, hobj, hpath, if_neg hreads, if_neg (Nat.not_lt.mpr hpriv), hfield48, hfield32, hfield0, if_neg hrange, Bool.not_eq_true']

end

/-! ### The statement of STAGE, COMMIT and SUBSCRIBE -/

namespace ObjectServer

/-- Settles O45: a STAGE comes down to the range of its value, a COMMIT to the state and the checks of its group, a SUBSCRIBE to the subscription of its client.
That a renewed subscription keeps its queue and a new one starts from the current values is log 104; the privilege of a COMMIT and the group's state in its answers
are log 102. -/
theorem stagesCommitsSubscribes : Obligations.StagesCommitsSubscribes := by
  unfold Obligations.StagesCommitsSubscribes
  refine ⟨?stage, ?commit, ?apply, ?subscribe⟩
  case stage =>
    intro s u q rest r p hhead hop hindex hobj hstages hpriv hwpriv htyp hpending staged
    obtain ⟨hkept, hopen⟩ : objRow u (hKey q.hdr) = some r ∧ u.dop.pending.contains (groupOf (hKey q.hdr)) = false := by
      obtain ⟨token, rfl⟩ := privilege_state hpriv
      exact ⟨hobj, hpending⟩
    have hanswer {a : Answer} {t : State} (htype : typeDiffers r q = false)
        (htake : takeValue q.path q.hdr r q.payload (fun v s => stageValue (hKey q.hdr) v s) u = (a, t)) :
        exec (.dopStage .queue) s = .next (respond q a true t) := by
      refine handleRow_of_process hhead (by simp [rowOf, hop]) nofun ?_
      rw [process_stage hindex hop hpriv, serveStage_of_allowed hkept hstages hwpriv htype hopen, htake]
    refine ⟨fun n hsize hlength hbool => ?fixed, fun hdomain => ?segments⟩
    case fixed =>
      have htype := typeDiffers_of_fixed htyp hsize hlength
      refine ⟨fun hok => hanswer htype ?_, fun hbad => hanswer htype ?_⟩
      · rw [takeValue_of_fixed _ hsize hbool, stageValue_of_ok hok]
        rfl
      · rw [takeValue_of_fixed _ hsize hbool, stageValue_of_not_ok hbad]
        rfl
    case segments =>
      intro x
      have htype := typeDiffers_of_domain htyp hdomain
      refine ⟨fun v hgather hok => hanswer htype ?_, fun w hgather => hanswer htype (takeValue_of_partial _ hdomain hgather)⟩
      have hstage : stageValue (hKey q.hdr) v x = (errNone, withStaged (hKey q.hdr) v x) := stageValue_of_ok hok
      rw [takeValue_of_whole _ hdomain hgather, hstage]
      rfl
  case commit =>
    intro s u q rest p g hhead hop hindex hsub hlow hhigh hpriv hgroup mark wait
    have hkey : hKey q.hdr = 256 * 0x2100 + g := by rw [hKey_eq, hindex, hsub]
    have hprocess : process q .ok (dequeued rest s) = if hDiscard q.hdr then discardGroup g u else commitGroup g u := by
      rw [process_commit (by omega) hop hpriv, serveCommit_of_allowed hkey hindex hsub hlow hhigh hgroup]
    have hrow : rowOf q = if hDiscard q.hdr then .discard else .commit := by simp [rowOf, hop]
    have hcommit {a : Answer} {t : State} (hdiscard : hDiscard q.hdr = false) (hdone : commitGroup g u = (a, t)) :
        exec (.dopCommit .queue) s = .next (respond q a true t) := by
      rw [hdiscard] at hrow hprocess
      exact handleRow_of_process hhead hrow nofun (hprocess.trans hdone)
    refine ⟨fun hdiscard hstaged hok => ⟨fun hquiet => ?quiet, fun hquiet => ?busy⟩, fun hdiscard hstaged hbad => ?failed, fun hdiscard hstate => ?discard⟩
    case quiet => exact hcommit hdiscard (commitGroup_of_quiet hstaged hok hquiet)
    case busy => exact hcommit hdiscard (commitGroup_of_busy hstaged hok hquiet)
    case failed => exact hcommit hdiscard (commitGroup_of_failed hstaged hbad)
    case discard =>
      rw [hdiscard] at hrow hprocess
      exact handleRow_of_process hhead hrow nofun (hprocess.trans (discardGroup_of_not_pending hstate))
  case apply =>
    intro g s hpending hquiet
    exact congrArg _ (if_pos (Bool.and_eq_true_iff.mpr ⟨hpending, hquiet⟩))
  case subscribe =>
    intro s q rest r addr port hhead hop hindex hpath hobj hreads hpriv hlength lease gap hlease hgap hzero u mine done
    have hserved := serveSubscribe_of_allowed (s := u) hpath hobj hreads hpriv hlength hlease hgap hzero
    have hanswer {a : Answer} {t : State} (hdone : serveSubscribe q u = (a, t)) : exec (.dopSubscribe .queue) s = .next (respond q a true t) :=
      handleRow_of_process hhead (by simp [rowOf, hop]) nofun ((process_subscribe hindex hop).trans hdone)
    have hroomed (hroom : ¬ (s.dop.subs.any mine = false ∧ lease ≠ 0 ∧ 32 ≤ s.dop.subs.length)) {t : State}
        (hdone : subscribe addr port (hKey q.hdr) lease gap u = (errNone, t)) : exec (.dopSubscribe .queue) s = .next (respond q okAnswer true t) := by
      refine hanswer ((hserved.trans (if_neg hroom)).trans ?_)
      change (refuse (subscribe addr port (hKey q.hdr) lease gap u).1, (subscribe addr port (hKey q.hdr) lease gap u).2) = _
      rw [hdone]
      rfl
    refine ⟨fun hended => ?ended, fun hheld hmine => ?renewed, fun hheld hnone hroom => ?new, fun hheld hnone hfull => ?full⟩
    case ended =>
      have hdone := subscribe_of_ended (addr := addr) (port := port) (key := hKey q.hdr) (gap := gap) u
      rw [← hended] at hdone
      exact hroomed (fun h => h.2.1 hended) hdone
    case renewed => exact hroomed (fun h => Bool.eq_false_iff.mp h.1 hmine) (subscribe_of_renewed hheld hmine)
    case new => exact hroomed (fun h => Nat.not_lt.mpr h.2.2 hroom) (subscribe_of_new hheld hnone)
    case full =>
      rw [if_pos ⟨hnone, hheld, hfull⟩] at hserved
      exact hanswer hserved

end ObjectServer

end Sys2Proof.Machine
end

section
/-! SUPPORT. Notifications and the server's timers (R330, R331, R333 to R336), and what the module answers on its segment (R317, R318, R320). -/
namespace Sys2Proof.Machine

variable {s : State} {i : Nat} {u : Subscription}

/-! ### Notifications (R333 to R335) -/

/-- An acknowledgement of an outstanding notification frees its subscription, which sends its next (R335). -/
theorem exec_notifyAck_of_fits {f : NetFrame} {h : BitVec 128} {p : List Byte} (hhears : hears s f.addr = true) (hopen : segmentOpen s = true)
    (hsum : f.sumOk = true) (hparse : parseDop f.bytes = some (h, p)) (hack : isAck h = true) (hfits : findAt (ackFits f.addr f.port h) s.dop.subs = some (i, u)) :
    exec (.notifyAck f) s = .next (pumpAt i (putSub i { u with outstanding := none } (dopCount s 0))) := by
  have hcounted : findAt (ackFits f.addr f.port h) (dopCount s 0).dop.subs = some (i, u) := hfits
  change execNotifyAck f s = _
  simp [execNotifyAck, hhears, hopen, hsum, hparse, hack, hcounted]

section
variable {id : BitVec 32} {frame : List Byte} {since sends : Nat} (hsub : s.dop.subs[i]? = some u) (hsent : u.outstanding = some (id, frame, since, sends))
  (hopen : segmentOpen s = true) (hspeaks : s.boot.silent = false) (hlate : since + 2600000000 ≤ s.clk.tick)
include hsub hsent hopen hspeaks hlate

/-- A notification without an acknowledgement for 500 ms is sent again, five times in all. -/
theorem exec_notifyResend_of_some (hmore : sends < 5) :
    exec (.notifyResend i) s = .next (dopCount (dopCount (emit (putSub i { u with outstanding := some (id, frame, s.clk.tick, sends + 1) } s)
      (.datagram u.addr u.port frame)) 6) 1) := by
  have hwait : ¬ s.clk.tick < since + msTicks 500 := Nat.not_lt.mpr hlate
  change execNotifyResend i s = _
  simp [execNotifyResend, hsub, hsent, hopen, hspeaks, hwait, hmore]

/-- After the last it is lost, and the subscription sends its next. -/
theorem exec_notifyResend_of_last (hlast : 5 ≤ sends) :
    exec (.notifyResend i) s = .next (pumpAt i (dopCount (putSub i { u with outstanding := none } s) 7)) := by
  have hwait : ¬ s.clk.tick < since + msTicks 500 := Nat.not_lt.mpr hlate
  change execNotifyResend i s = _
  simp [execNotifyResend, hsub, hsent, hopen, hspeaks, hwait, Nat.not_lt.mpr hlast]

end

/-- A poll of one value notifies it where it differs from the last one sent (R334). -/
theorem exec_notifyValuePoll_of_single {r : ObjRow} (hsub : s.dop.subs[i]? = some u) (hserving : s.boot.serving = true) (hspeaks : s.boot.silent = false)
    (hpolled : u.key / 256 ∉ eventObjects) (hcovered : coveredRows s u.key = [r]) :
    exec (.notifyValuePoll i) s = .next (pumpAt i (
      if mfind u.last (objKey (u.key / 256) r.sub) = some (readValue s (objKey (u.key / 256) r.sub)) then s
      else queueNotice i ⟨objKey (u.key / 256) r.sub, r.typ, readValue s (objKey (u.key / 256) r.sub)⟩ s)) := by
  change execNotifyValuePoll i s = _
  simp [execNotifyValuePoll, hsub, hserving, hspeaks, hpolled, hcovered, pollValue]

/-! ### The statement of the timers -/

namespace ObjectServer

/-- Settles O47: each command finds its subscription, its entry or its request, and acts when its time has come. -/
theorem serverTimers : Obligations.ServerTimers := by
  unfold Obligations.ServerTimers
  refine ⟨?ack, ?resend, ?poll, ?lease, ?capture, ?segments, ?kept, ?token, ?neighbour, ?echo, ?address, ?beacon, ?silence⟩
  case ack =>
    intro f h p i u s hhears hopen hsum hparse hack hfits
    exact exec_notifyAck_of_fits hhears hopen hsum hparse hack hfits
  case resend =>
    intro i u id frame since sends s hsub hsent hopen hspeaks hlate
    exact ⟨fun hmore => ⟨_, exec_notifyResend_of_some hsub hsent hopen hspeaks hlate hmore, rfl, rfl, rfl⟩,
      exec_notifyResend_of_last hsub hsent hopen hspeaks hlate⟩
  case poll =>
    intro i u r s hsub hserving hspeaks hpolled hcovered k
    have hexec := exec_notifyValuePoll_of_single hsub hserving hspeaks hpolled hcovered
    exact ⟨fun hsame => hexec.trans (congrArg _ (congrArg (pumpAt i) (if_pos hsame))),
      fun hother => hexec.trans (congrArg _ (congrArg (pumpAt i) (if_neg hother)))⟩
  case lease =>
    intro i u s hfound hdue
    change execSubscriptionExpire i s = _
    simp only [execSubscriptionExpire, hfound]
    exact congrArg _ (if_pos hdue)
  case capture =>
    intro i x s hfound hdue
    change execCaptureExpire i s = _
    simp only [execCaptureExpire, hfound]
    exact congrArg _ (if_pos hdue)
  case segments =>
    intro i x s hfound hdue
    change execSegmentWriteTimeout i s = _
    simp only [execSegmentWriteTimeout, hfound]
    exact congrArg _ (if_pos hdue)
  case kept =>
    intro i x s hfound hdue
    change execKeptResponseExpire i s = _
    simp only [execKeptResponseExpire, hfound]
    exact congrArg _ (if_pos hdue)
  case token =>
    intro x s hfound hdue
    change execMaintTokenExpire s = _
    simp only [execMaintTokenExpire, hfound]
    exact congrArg _ (if_pos hdue)
  case neighbour =>
    intro src s hhears hdad
    exact congrArg _ (if_pos (Bool.and_eq_true_iff.mpr ⟨hhears, decide_eq_true ⟨hdad, rfl⟩⟩))
  case echo =>
    intro src bs s hhears hopen
    exact congrArg _ (if_pos (Bool.and_eq_true_iff.mpr ⟨hhears, hopen⟩))
  case address =>
    intro dup s hloaded hdad
    exact congrArg _ (if_pos ⟨hloaded, hdad⟩)
  case beacon =>
    intro s hloaded
    exact congrArg _ (if_pos hloaded)
  case silence =>
    intro s
    rfl

end ObjectServer

end Sys2Proof.Machine
end

section
/-! SUPPORT. The host's requests (R343, R348 to R358, R362): the registers of BAR0 and the window's request frame, BAR2, configuration space. -/
namespace Sys2Proof.Machine

variable {s : State} {off n : Nat} {bs : List Byte} {chk : Chk}

/-! ### The port's answer to BAR0 (R349, R362) -/

/-- A request to BAR0 of a port that serves the host acts. -/
theorem bar0Request_of_access (haccess : hostAccess s = true) (f : State → State) : bar0Request f s = f s := by
  have hserves := haccess
  simp only [hostAccess, Bool.and_eq_true] at hserves
  obtain ⟨⟨hready, -⟩, -⟩ := hserves
  obtain ⟨-, hlink⟩ := Bool.and_eq_true_iff.mp hready
  simp [bar0Request, hready, hlink, haccess]

/-- Before the option words are loaded it is to be tried again. -/
theorem bar0Request_of_unready (hlink : s.pcie.inL0 = true) (hunready : s.opt.loaded = false) (f : State → State) :
    bar0Request f s = { s with out := s.out ++ [.configReply none] } := by
  simp [bar0Request, pcieReady, hlink, hunready, emit]

/-! ### Bytes written into a frame or a register (R352) -/

theorem splice_of_fits {old new : List Byte} (hfit : off + new.length ≤ old.length) :
    splice old off new = old.take off ++ new ++ old.drop (off + new.length) := by
  have hlength : (old.take off ++ new ++ old.drop (off + new.length)).length ≤ old.length := by
    simp only [List.length_append, List.length_take, List.length_drop]
    omega
  rw [splice, List.take_of_length_le hlength]

/-- Bytes that fit stand in their place; every other byte is as before. -/
theorem splice_getD {old new : List Byte} {i : Nat} (hfit : off + new.length ≤ old.length) :
    (splice old off new).getD i 0 = if off ≤ i ∧ i < off + new.length then new.getD (i - off) 0 else old.getD i 0 := by
  have htake : (old.take off).length = off := List.length_take_of_le (by omega)
  rw [splice_of_fits hfit, List.append_assoc]
  simp only [List.getD_eq_getElem?_getD]
  by_cases hlow : i < off
  · rw [List.getElem?_append_left (by omega), List.getElem?_take_of_lt hlow, if_neg (by omega)]
  · rw [List.getElem?_append_right (by omega), htake]
    by_cases hhigh : i < off + new.length
    · rw [List.getElem?_append_left (by omega), if_pos ⟨by omega, hhigh⟩]
    · have hplace : off + new.length + (i - off - new.length) = i := by omega
      rw [List.getElem?_append_right (by omega), List.getElem?_drop, hplace, if_neg (by omega)]

/-- Bytes of disabled byte enables stay as they were. -/
theorem spliceEnabled_getD {old data : List Byte} {disabled : List Nat} {i : Nat} (hfit : off + data.length ≤ old.length) :
    (spliceEnabled old off data disabled).getD i 0 =
      if off ≤ i ∧ i < off + data.length ∧ disabled.contains (i - off) = false then data.getD (i - off) 0 else old.getD i 0 := by
  rw [spliceEnabled, splice_getD (by simpa using hfit), List.length_map, List.length_range]
  by_cases hinside : off ≤ i ∧ i < off + data.length
  · obtain ⟨hlow, hhigh⟩ := hinside
    have hplace : i - off < data.length := by omega
    have hback : off + (i - off) = i := by omega
    rw [if_pos ⟨hlow, hhigh⟩]
    simp only [List.getD_eq_getElem?_getD, List.getElem?_map, List.getElem?_range hplace, Option.map_some, Option.getD_some, hback]
    cases hdisabled : disabled.contains (i - off) <;> simp [hlow, hhigh]
  · rw [if_neg hinside, if_neg (fun h => hinside ⟨h.1, h.2.1⟩)]

/-! ### The registers of BAR0 (R343, R352, R353, R357) -/

/-- A whole aligned write of a register. -/
theorem exec_bar0RegisterWrite_of_register (haccess : hostAccess s = true) (hoff : off < 0x100000 ∨ 0x100410 < off + bs.length)
    (hlength : bs.length = 4 ∨ bs.length = 8) (haligned : off % bs.length = 0) : exec (.bar0RegisterWrite off bs []) s = .next (writeBar0 off bs s) := by
  have hframe : ¬ (0x100000 ≤ off ∧ off + bs.length ≤ 0x100410) := by omega
  change execBar0RegisterWrite off bs [] s = _
  simp only [execBar0RegisterWrite, bar0Request_of_access haccess, if_neg hframe, if_pos (⟨hlength, haligned, trivial⟩ : _ ∧ _ ∧ True)]

/-- Any other write outside the request frame changes nothing. -/
theorem exec_bar0RegisterWrite_of_none {disabled : List Nat} (haccess : hostAccess s = true) (hoff : off < 0x100000 ∨ 0x100410 < off + bs.length)
    (hform : (bs.length ≠ 4 ∧ bs.length ≠ 8) ∨ off % bs.length ≠ 0 ∨ disabled ≠ []) : exec (.bar0RegisterWrite off bs disabled) s = .next s := by
  have hframe : ¬ (0x100000 ≤ off ∧ off + bs.length ≤ 0x100410) := by omega
  have hregister : ¬ ((bs.length = 4 ∨ bs.length = 8) ∧ off % bs.length = 0 ∧ disabled = []) := by
    rintro ⟨hlength, haligned, hall⟩
    obtain hother | hother | hother := hform
    · omega
    · exact hother haligned
    · exact hother hall
  change execBar0RegisterWrite off bs disabled s = _
  simp only [execBar0RegisterWrite, bar0Request_of_access haccess, if_neg hframe, if_neg hregister]

/-- A whole write of BAR2_BASE. -/
theorem writeBar0_of_base (hlength : bs.length = 8) : writeBar0 0 bs s = setBar2Base (ofLE bs) s := by
  have hwhole : splice (toLE 8 s.pcie.bar2Base.toNat) 0 bs = bs := by
    rw [splice_of_fits (by simp [hlength])]
    simp [hlength]
  rw [writeBar0, if_pos (by omega), withBytes, hwhole]

/-- A write to the MSI-X table. -/
theorem writeBar0_of_msix (hlow : 0x4000 ≤ off) (hhigh : off < 0x4400) : writeBar0 off bs s = writeMsixTable (off - 0x4000) bs s := by
  rw [writeBar0, if_neg (by omega), if_neg (by omega), if_pos ⟨hlow, hhigh⟩]

/-- BAR2_BASE keeps the low 48 bits. -/
theorem setBar2Base_toNat (v : BitVec 64) : setBar2Base v.toNat s = { s with pcie := { s.pcie with bar2Base := v &&& 0xFFFFFFFFFFFF } } := by
  have hmask : BitVec.ofNat 64 (v.toNat % 2 ^ 48) = v &&& 0xFFFFFFFFFFFF := by
    apply BitVec.eq_of_toNat_eq
    have hlow : v.toNat &&& 0xFFFFFFFFFFFF = v.toNat % 2 ^ 48 := Nat.and_two_pow_sub_one_eq_mod v.toNat 48
    rw [BitVec.toNat_ofNat, BitVec.toNat_and]
    change v.toNat % 2 ^ 48 % 2 ^ 64 = v.toNat &&& 0xFFFFFFFFFFFF
    rw [hlow]
    omega
  rw [setBar2Base, hmask]

/-- An aligned read of 8 bytes returns the register whose bytes stand there. -/
theorem bar0Read_of_register {base v : Nat} (hframe : base < 0x100800 ∨ 0x100C10 < base + 8) (haligned : base % 8 = 0)
    (hbytes : ∀ i, i < 8 → bar0Byte s (base + i) = (toLE 8 v).getD i 0) : bar0Read s base 8 = toLE 8 v := by
  rw [bar0Read, if_neg (by omega), if_pos ⟨.inr rfl, haligned⟩]
  apply List.ext_getElem (by simp)
  intro i hi hi'
  have hi8 : i < 8 := by simpa using hi
  simp [hbytes i hi8, hi8]

/-- The bytes of WIN_CTRL (R343). -/
theorem bar0Byte_winCtrl {i : Nat} (hi : i < 8) (s : State) : bar0Byte s (0x101000 + i) = (toLE 8 (winCtrl s)).getD i 0 := by
  have hplace : 0x101000 + i - 0x101000 = i := by omega
  simp only [bar0Byte, if_neg (by omega : ¬ 0x101000 + i < 8), if_neg (by omega : ¬ 0x101000 + i < 16), if_neg (by omega : ¬ 0x101000 + i < 24),
    if_neg (by omega : ¬ (0x4000 ≤ 0x101000 + i ∧ 0x101000 + i < 0x4400)), if_neg (by omega : ¬ (0x5000 ≤ 0x101000 + i ∧ 0x101000 + i < 0x5008)),
    if_pos (by omega : 0x101000 ≤ 0x101000 + i ∧ 0x101000 + i < 0x101008), hplace]

/-! ### Errors of the link (R362, R363) -/

/-- A message of an error leaves, or nothing happens. -/
theorem sendError_state (kind : Nat) (s : State) : ∃ out, sendError kind s = { s with out := out } := by
  unfold sendError
  split
  · exact ⟨_, rfl⟩
  · exact ⟨s.out, rfl⟩

/-- A correctable error counts in COR_ERR and takes its status bit; a message may leave. -/
theorem corError_state (e : PortError) (s : State) : ∃ out, corError e s =
    { s with out := out, pcie := { s.pcie with corErr := satInc s.pcie.corErr, aerCor := s.pcie.aerCor ||| (1#32 <<< portBit e) } } := by
  unfold corError
  dsimp only
  split
  · exact ⟨s.out, rfl⟩
  · obtain ⟨out, hsent⟩ := sendError_state 0 { s with pcie := { s.pcie with corErr := satInc s.pcie.corErr, aerCor := s.pcie.aerCor ||| (1#32 <<< portBit e) } }
    exact ⟨out, hsent⟩

/-- No message leaves of an error that is masked. -/
theorem corError_out_of_masked {e : PortError} (hmasked : bit s.pcie.aerCorMask (portBit e) = true) : (corError e s).out = s.out := by
  unfold corError
  dsimp only
  rw [if_pos hmasked]

/-! ### BAR2 (R354, R355) -/

/-- A write to BAR2 that fits: poisoned data are dropped, a warm reset holds the write, else it goes to its device address (R354, R419). -/
theorem exec_bar2Write_of_fits (pois : Bool) (haccess : hostAccess s = true) (hfits : bar2Fits (portFinds chk s) off bs.length = true)
    (hsize : bs.length ≤ (portFinds chk s).pcie.maxPayload) :
    exec (.bar2Write off bs pois chk) s = .next (
      let u := portFinds chk s
      if pois then aerUncorrectable 12 { u with pcie := { u.pcie with poisonRx := satInc u.pcie.poisonRx } }
      else if u.boot.resetting then { u with pcie := { u.pcie with heldWrites := u.pcie.heldWrites ++ [(bar2Addr u off, bs)] } }
      else landHost chk (bar2Addr u off) bs u) := by
  have hgood : ¬ ((!bar2Fits (portFinds chk s) off bs.length) = true ∨ (portFinds chk s).pcie.maxPayload < bs.length) := by
    simp [hfits, hsize]
  change execBar2Write off bs pois chk s = _
  simp only [execBar2Write, haccess, Bool.not_true, Bool.false_eq_true, if_false, if_neg hgood]

theorem exec_bar2Write_of_malformed (pois : Bool) (haccess : hostAccess s = true)
    (hbad : bar2Fits (portFinds chk s) off bs.length = false ∨ (portFinds chk s).pcie.maxPayload < bs.length) :
    exec (.bar2Write off bs pois chk) s = .next (uncorError 18 (portFinds chk s)) := by
  have hmalformed : (!bar2Fits (portFinds chk s) off bs.length) = true ∨ (portFinds chk s).pcie.maxPayload < bs.length := by
    simpa using hbad
  change execBar2Write off bs pois chk s = _
  simp only [execBar2Write, haccess, Bool.not_true, Bool.false_eq_true, if_false, if_pos hmalformed]

theorem landHost_of_store {addr a : Nat} (hsome : bs ≠ []) (hstore : toStore s.map addr bs.length = some a) (hup : channelDown s a = false) :
    landHost chk addr bs s = landFrom chk a bs s := by
  simp only [landHost, if_neg hsome, hstore, hup, Bool.false_eq_true, if_false]

theorem landHost_of_none {addr : Nat} (hsome : bs ≠ []) (hnone : toStore s.map addr bs.length = none) : landHost chk addr bs s = countUnmapped s := by
  simp only [landHost, if_neg hsome, hnone]

theorem exec_bar2Read_of_access (haccess : hostAccess s = true) (hrunning : s.boot.resetting = false) :
    exec (.bar2Read off n chk) s = .next (if bar2Fits (portFinds chk s) off n then readBar2 (bar2Addr (portFinds chk s) off) n chk (portFinds chk s)
      else uncorError 18 (portFinds chk s)) := by
  change execBar2Read off n chk s = _
  simp only [execBar2Read, haccess, hrunning, Bool.not_true, Bool.or_self, Bool.false_eq_true, if_false]
  cases bar2Fits (portFinds chk s) off n <;> rfl

section
variable {addr : Nat} (hsome : 0 < n)
include hsome

/-- A read of memory that can be trusted returns its bytes (R354). -/
theorem readBar2_of_trusted {a : Nat} {v : State} (hstore : toStore s.map addr n = some a) (hup : channelDown s a = false)
    (hread : checkRead chk 6 0 [(a, n)] s = (v, none)) : readBar2 addr n chk s = emit v (.completion (readBytes v.mem a n) false) := by
  simp only [readBar2, if_neg (Nat.ne_of_gt hsome), hstore, hup, Bool.false_eq_true, if_false, hread]

/-- A read that finds an untrusted address completes poisoned (R355). -/
theorem readBar2_of_poisoned {a b : Nat} {v : State} (hstore : toStore s.map addr n = some a) (hup : channelDown s a = false)
    (hread : checkRead chk 6 0 [(a, n)] s = (v, some b)) : readBar2 addr n chk s = poisonedRead a n b v := by
  simp only [readBar2, if_neg (Nat.ne_of_gt hsome), hstore, hup, Bool.false_eq_true, if_false, hread]

theorem readBar2_of_none (hnone : toStore s.map addr n = none) :
    readBar2 addr n chk s = countUnmapped (emit s (.completion (List.replicate n 0xFF) false)) := by
  simp only [readBar2, if_neg (Nat.ne_of_gt hsome), hnone]

end

/-! ### Configuration space (R349) -/

theorem exec_configRequest_of_unready (reg : CfgReg) (write : Option (BitVec 32)) (hlink : s.pcie.inL0 = true) (hunready : s.opt.loaded = false) :
    exec (.configRequest reg write) s = .next { s with out := s.out ++ [.configReply none] } := by
  change execConfigRequest reg write s = _
  simp [execConfigRequest, pcieReady, hlink, hunready, emit]

theorem pcieReady_of_loaded (hlink : s.pcie.inL0 = true) (hready : s.opt.loaded = true) : pcieReady s = true := by
  rw [pcieReady, hlink, hready]
  rfl

theorem exec_configRequest_read (reg : CfgReg) (hlink : s.pcie.inL0 = true) (hready : s.opt.loaded = true) :
    exec (.configRequest reg none) s = .next (emit s (.configReply (some (configRead s reg)))) := by
  change execConfigRequest reg none s = _
  simp only [execConfigRequest, pcieReady_of_loaded hlink hready, hlink, Bool.not_true, Bool.false_eq_true, if_false]

theorem exec_configRequest_write (reg : CfgReg) (v : BitVec 32) (hlink : s.pcie.inL0 = true) (hready : s.opt.loaded = true) :
    exec (.configRequest reg (some v)) s = .next (emit (configWrite reg v s) (.configReply (some 0))) := by
  change execConfigRequest reg (some v) s = _
  simp only [execConfigRequest, pcieReady_of_loaded hlink hready, hlink, Bool.not_true, Bool.false_eq_true, if_false]

/-! ### The statement of the host's requests -/

namespace HostPort

/-- Settles O52: a request of the host is answered by the port's state first, then by where it lies, and only then by its data. The layout of the registers and of
AER is the model's choice (logs 16 and 18), what counts in COR_ERR and UNCOR_ERR log 92, readiness log 82; what a read of BAR0 returns has no command (log 132). -/
theorem hostRequests : Obligations.HostRequests := by
  unfold Obligations.HostRequests
  refine ⟨?frame, ?base, ?table, ?whole, ?retry, ?reads, ?write, ?read, ?malformed, ?correctable, ?config, ?turnOff⟩
  case frame =>
    intro off bs disabled s haccess
    refine ⟨fun hlow hhigh hsize hlength => ?_, exec_bar0RegisterWrite_of_none haccess⟩
    have hexec : exec (.bar0RegisterWrite off bs disabled) s =
        .next { s with dop := { s.dop with winReq := spliceEnabled s.dop.winReq (off - 0x100000) bs disabled } } := by
      change execBar0RegisterWrite off bs disabled s = _
      simp only [execBar0RegisterWrite, bar0Request_of_access haccess, if_pos (And.intro hlow hhigh), if_pos hsize]
    refine ⟨_, hexec, rfl, fun i hi => (spliceEnabled_getD (by omega)).trans ?_⟩
    have hplace : i - (off - 0x100000) = 0x100000 + i - off := by omega
    have hinside : (off - 0x100000 ≤ i ∧ i < off - 0x100000 + bs.length) ↔ (off ≤ 0x100000 + i ∧ 0x100000 + i < off + bs.length) := by omega
    simp only [hplace, ← and_assoc, hinside]
  case base =>
    intro bs s haccess hlength
    rw [exec_bar0RegisterWrite_of_register haccess (by omega) (.inr hlength) (Nat.zero_mod _), writeBar0_of_base hlength]
    rfl
  case table =>
    intro off bs s haccess hlength haligned hlow hhigh e
    rw [exec_bar0RegisterWrite_of_register haccess (by omega) hlength haligned, writeBar0_of_msix hlow hhigh]
    rfl
  case whole =>
    intro v s haccess
    exact ⟨congrArg _ ((bar0Request_of_access haccess _).trans (setBar2Base_toNat v)), congrArg _ (bar0Request_of_access haccess _)⟩
  case retry =>
    intro off bs v disabled s hlink hunready retry
    exact ⟨congrArg _ (bar0Request_of_unready hlink hunready _), congrArg _ (bar0Request_of_unready hlink hunready _),
      congrArg _ (bar0Request_of_unready hlink hunready _), congrArg _ (bar0Request_of_unready hlink hunready _)⟩
  case reads =>
    intro off n s
    exact ⟨fun hlow hhigh => if_pos ⟨hlow, hhigh⟩, bar0Read_of_register (by omega) rfl fun i hi => by simp [bar0Byte, hi], rfl,
      bar0Read_of_register (by omega) rfl fun i hi => bar0Byte_winCtrl hi s⟩
  case write =>
    intro off bs chk s haccess u hfits hsize
    have hexec (pois : Bool) := exec_bar2Write_of_fits pois haccess hfits hsize
    refine ⟨hexec true, fun hreset => (hexec false).trans (congrArg _ (if_pos hreset)), fun hrunning hempty => ?empty,
      fun hrunning hsome => ⟨fun a hstore hup => ?stored, fun hnone => ?unmapped⟩⟩
    all_goals
      refine (hexec false).trans (congrArg _ ((if_neg (Bool.eq_false_iff.mp hrunning)).trans ?_))
    · exact if_pos hempty
    · exact landHost_of_store hsome hstore hup
    · exact landHost_of_none hsome hnone
  case read =>
    intro off n chk s haccess hrunning u hfits
    have hexec : exec (.bar2Read off n chk) s = .next (readBar2 (bar2Addr u off) n chk u) :=
      (exec_bar2Read_of_access haccess hrunning).trans (congrArg _ (if_pos hfits))
    refine ⟨fun hempty => hexec.trans (congrArg _ (if_pos hempty)), fun a v hsome hstore hup => ⟨fun hread => ?trusted, fun b hread => ?poisoned⟩,
      fun hsome hnone => hexec.trans (congrArg _ (readBar2_of_none hsome hnone))⟩
    · exact hexec.trans (congrArg _ (readBar2_of_trusted hsome hstore hup hread))
    · exact hexec.trans (congrArg _ (readBar2_of_poisoned hsome hstore hup hread))
  case malformed =>
    intro off n bs pois chk s haccess u
    exact ⟨exec_bar2Write_of_malformed pois haccess,
      fun hrunning hbad => (exec_bar2Read_of_access haccess hrunning).trans (congrArg _ (if_neg (Bool.eq_false_iff.mp hbad)))⟩
  case correctable =>
    intro e s t
    obtain ⟨out, hstate⟩ := corError_state e s
    have ht : t = corError e s := rfl
    refine ⟨by rw [ht, hstate], by rw [ht, hstate], by rw [ht, hstate], fun hmasked => corError_out_of_masked ?_⟩
    cases e <;> exact hmasked
  case config =>
    intro reg s hlink
    exact ⟨fun hunready w => exec_configRequest_of_unready reg w hlink hunready,
      fun hready => ⟨exec_configRequest_read reg hlink hready, fun v => exec_configRequest_write reg v hlink hready⟩⟩
  case turnOff =>
    intro s hlink
    exact congrArg _ (if_pos hlink)

end HostPort

end Sys2Proof.Machine
end

section
/-! SUPPORT. The BARs of the function (R351): their halves as configuration space shows them. -/
namespace Sys2Proof.Machine

variable {x : BitVec 64} {log : Nat}

/-! ### The halves of a BAR -/

/-- A bit of a BAR below its size reads 0, every other one stands. -/
theorem getLsbD_barAligned (i : Nat) : (barAligned log x).getLsbD i = (decide (log ≤ i) && x.getLsbD i) := by
  by_cases hlow : i < log
  · simp [barAligned, hlow, Nat.not_le.mpr hlow]
  · by_cases hwide : i < 64
    · simp [barAligned, hlow, hwide, Nat.not_lt.mp hlow, Nat.add_sub_cancel' (Nat.not_lt.mp hlow)]
    · simp [barAligned, hwide, BitVec.getLsbD_of_ge x i (Nat.not_lt.mp hwide)]

/-- A bit of the high half of BAR0 stands, whatever its size of 64 MiB clears. -/
theorem high_barAligned : (barAligned 26 x).extractLsb' 32 32 = x.extractLsb' 32 32 := by
  apply BitVec.eq_of_getLsbD_eq
  intro i hi
  have hhigh : 26 ≤ 32 + i := by omega
  simp only [BitVec.getLsbD_extractLsb', getLsbD_barAligned, hhigh, decide_true, Bool.true_and]

/-- The low half of BAR0 shows its six high bits. -/
theorem low_barAligned : (barAligned 26 x).extractLsb' 0 32 = x.extractLsb' 0 32 &&& 0xFC000000 := by
  have hmask : (0xFC000000 : BitVec 32) = BitVec.allOnes 32 <<< 26 := by decide
  apply BitVec.eq_of_getLsbD_eq
  intro i hi
  have hallOnes : i - 26 < 32 := by omega
  simp only [hmask, BitVec.getLsbD_and, BitVec.getLsbD_extractLsb', BitVec.getLsbD_shiftLeft, BitVec.getLsbD_allOnes, getLsbD_barAligned, Nat.zero_add,
    hi, hallOnes, decide_true, Bool.true_and, Bool.and_true]
  by_cases hlow : i < 26
  · simp only [hlow, Nat.not_le.mpr hlow, decide_true, decide_false, Bool.not_true, Bool.false_and, Bool.and_false]
  · simp only [hlow, Nat.not_lt.mp hlow, decide_true, decide_false, Bool.not_false, Bool.true_and, Bool.and_true]

/-- A BAR of 16 bytes or more shows its kind in its low four bits: 64-bit and prefetchable. -/
theorem kind_of_barAligned (hsize : 4 ≤ log) : field ((barAligned log x).extractLsb' 0 32 ||| 0xC) 3 0 = 0xC := by
  have hbits : ((barAligned log x).extractLsb' 0 32 ||| 0xC).extractLsb' 0 4 = (0xC#32).extractLsb' 0 4 := by
    apply BitVec.eq_of_getLsbD_eq
    intro i hi
    have hbelow : ¬ log ≤ i := by omega
    simp only [BitVec.getLsbD_extractLsb', BitVec.getLsbD_or, getLsbD_barAligned, hbelow, Nat.zero_add, decide_false, Bool.false_and, Bool.and_false, Bool.false_or]
    rfl
  have hnat := congrArg BitVec.toNat hbits
  rwa [BitVec.extractLsb'_toNat] at hnat

/-! ### The statement of the BARs -/

namespace HostPort

/-- Settles O58: a write of half a BAR joins it with the other half and clears what lies below the BAR's size. The size field of the Resizable BAR control register
and the low bits of the BARs are those of the PCI Express standard (log 18). -/
theorem barsOfTheFunction : Obligations.BarsOfTheFunction := by
  unfold Obligations.BarsOfTheFunction
  refine ⟨rfl, fun s => ⟨rfl, rfl, rfl⟩, ?writes⟩
  intro v s hlink hloaded hsmallest _
  have hexec (reg : CfgReg) := exec_configRequest_write reg v hlink hloaded
  refine ⟨⟨_, hexec .bar0Lo, ?low, ?kept⟩, ⟨_, hexec .bar0Hi, ?high⟩, ⟨_, hexec .bar2Lo, ?kind, rfl⟩, ⟨_, hexec .bar2Hi, rfl⟩,
    ⟨_, hexec .rebarControl, fun henabled => ?ignored, fun hdisabled hleast hmost => ?resized⟩⟩
  case low =>
    have hlow : (barWrite 26 false s.pcie.bar0 v).extractLsb' 0 32 = v &&& 0xFC000000 :=
      low_barAligned.trans (congrArg (· &&& _) BitVec.extractLsb'_append_eq_right)
    exact congrArg (· ||| 4) hlow
  case kept => exact high_barAligned.trans BitVec.extractLsb'_append_eq_left
  case high => exact high_barAligned.trans BitVec.extractLsb'_append_eq_left
  case kind => exact kind_of_barAligned (by omega)
  case ignored => simp only [configWrite, henabled, true_or, if_true, emit]
  case resized =>
    have hsize : ¬ (s.pcie.memEnable = true ∨ field v 13 8 < 10 ∨ 22 < field v 13 8) := by
      simp only [hdisabled, Bool.false_eq_true, false_or]
      omega
    simp only [configWrite, if_neg hsize, emit]

end HostPort

end Sys2Proof.Machine
end

section
/-! SUPPORT. SIGNAL (R358), from the host and from a core. -/
namespace Sys2Proof.Machine

variable {s : State} {v : BitVec 64}

/-- Values 0 to 15 of bits [5:0] are ignored. -/
theorem signal_of_ignored (hlow : field v 5 0 < 16) : signal v.toNat s = s := if_neg (Nat.not_le.mpr hlow)

theorem signal_of_vector (hvector : 16 ≤ field v 5 0) : signal v.toNat s = msix (field v 5 0) s := if_pos hvector

/-- A write of the host to SIGNAL, while its accesses are served. -/
theorem exec_signalWrite_of_access (haccess : hostAccess s = true) : exec (.signalWrite v) s = .next (signal v.toNat s) :=
  congrArg _ (bar0Request_of_access haccess (signal v.toNat))

/-- An aligned store of a core to SIGNAL. -/
theorem exec_st_of_signal {th : ThreadRef} {f : Fields} (chk : Chk) (hissue : MayIssue s th (encodeWord 0 0x22 f))
    (haligned : addrOf s th f % 2 ^ (f.fl.toNat % 4) = 0) (hplace : placeOf (addrOf s th f) (2 ^ (f.fl.toNat % 4)) = .control 0x100) :
    exec (.st th f chk) s = .next (signal (readReg s th f.b).toNat (afterIssue s th (passed (threadOf s th)))) := by
  obtain ⟨hth, hissuable⟩ := hissue
  have hexec : exec (.st th f chk) s = .next (startStore th f chk (issued s th)) := issueThen_next (startStore th f chk) hth hissuable
  rw [hexec, ← issued_eq_afterIssue]
  simp [startStore, accessBytes, effectiveAddr_issued, readReg_issued, scalarReach, haligned, hplace]

namespace HostPort

/-- Settles O59: the host's write reaches SIGNAL through BAR0, a core's store through control space; both take the low six bits. -/
theorem signalRaisesVector : Obligations.SignalRaisesVector := by
  unfold Obligations.SignalRaisesVector
  refine ⟨?host, ?core⟩
  case host =>
    intro v s haccess
    have hexec := exec_signalWrite_of_access (v := v) haccess
    exact ⟨fun hlow => hexec.trans (congrArg _ (signal_of_ignored hlow)), fun hvector => hexec.trans (congrArg _ (signal_of_vector hvector))⟩
  case core =>
    intro th f s hissue haligned hplace u chk
    have hexec := exec_st_of_signal chk hissue haligned hplace
    exact ⟨fun hlow => hexec.trans (congrArg _ (signal_of_ignored hlow)), fun hvector => hexec.trans (congrArg _ (signal_of_vector hvector))⟩

end HostPort

end Sys2Proof.Machine
end

section
/-! SUPPORT. Time over the fabric (R371 to R374): TIME_SYNC reports as they arrive and as they leave, the marks that stay away. -/
namespace Sys2Proof.Machine

variable {s u : State} {die l : Nat} {p : RoutedCtrl}

/-! ### Links and their queues -/

theorem getLink_putLink (hl : l < 24) (s : State) (x : Link) : getLink (putLink s l x) l = x := vget_vset_self ({} : Link) s.fab.links x hl

theorem getLink_putLink_ne {k : Nat} (hk : k ≠ l) (s : State) (x : Link) : getLink (putLink s l x) k = getLink s k := vget_vset_ne ({} : Link) s.fab.links x hk

theorem putLink_putLink (s : State) (x y : Link) : putLink (putLink s l x) l y = putLink s l y := by
  simp [putLink, vset]

/-- A high-water mark stands in the counters of its port. -/
theorem portHigh_eq (s : State) (port : Option Nat) (i n : Nat) :
    portHigh s port i n = { s with fab := { s.fab with portStats := (portHigh s port i n).fab.portStats } } := by
  unfold portHigh
  split
  · rfl
  · dsimp only
    split <;> rfl

/-! ### The header of a packet under its CRC (R220, R225) -/

/-- The CRC stands in the low 32 bits of a header and leaves every higher one. -/
theorem setField_crc_high (h : BitVec 128) (crc : Nat) : (setField h 31 0 crc).toNat >>> 32 = h.toNat >>> 32 := by
  have hmask (i : Nat) : (BitVec.ofNat 128 ((2 ^ (31 + 1 - 0) - 1) * 2 ^ 0)).getLsbD (32 + i) = false := by
    rw [BitVec.getLsbD_ofNat]
    have hshort : ((2 ^ (31 + 1 - 0) - 1) * 2 ^ 0).testBit (32 + i) = false := by
      refine Nat.testBit_lt_two_pow (Nat.lt_of_lt_of_le (by decide : _ < 2 ^ 32) (Nat.pow_le_pow_right (by decide) (Nat.le_add_right 32 i)))
    rw [hshort, Bool.and_false]
  apply Nat.eq_of_testBit_eq
  intro i
  simp only [Nat.testBit_shiftRight, BitVec.testBit_toNat, setField, BitVec.getLsbD_or, BitVec.getLsbD_and, BitVec.getLsbD_not, hmask, Bool.not_false,
    Bool.and_true, Bool.and_false, Bool.or_false]
  by_cases hwide : 32 + i < 128
  · simp [hwide]
  · simp [hwide, BitVec.getLsbD_of_ge h (32 + i) (Nat.not_lt.mp hwide)]

theorem field_setField_crc (h : BitVec 128) (crc hi lo : Nat) : field (setField h 31 0 crc) hi (32 + lo) = field h hi (32 + lo) := by
  simp only [field, Nat.shiftRight_add, setField_crc_high]

theorem bit_setField_crc (h : BitVec 128) (crc i : Nat) : bit (setField h 31 0 crc) (32 + i) = bit h (32 + i) := by
  have hbit (x : BitVec 128) : bit x (32 + i) = (x.toNat >>> 32).testBit i := by
    rw [Nat.testBit_shiftRight, BitVec.testBit_toNat, bit]
  rw [hbit, hbit, setField_crc_high]

/-! ### TIME_SYNC (R371, R372) -/

/-- A report that arrives on a link gives the link its peer's average and its delay. -/
theorem exec_timeSync_taken (hdie : die < 2) (htake : takeCtrl s die 8 = some (p, u)) (hsrc : p.src = some l) (hversion : p.pkt.payload.toNat / 2 ^ 120 = 1) :
    exec (.timeSync die) s = .next (
      let peer : Int := (p.pkt.payload.setWidth 96 : BitVec 96).toInt
      let x := getLink u l
      putLink u l { x with dPeer := some peer, delayPs := match x.dOwn with
        | some own => BitVec.ofInt 32 (divEven ((own + peer - 2 * Config.linkLatency l) * 1000) (2 ^ 33))
        | none => x.delayPs }) := by
  have hunit : dieOk die = true := decide_eq_true hdie
  have hfield : field p.pkt.payload 127 120 = 1 := by
    rw [field, Nat.shiftRight_eq_div_pow]
    exact congrArg (· % 2 ^ 8) hversion
  change execTimeSync die s = _
  simp only [execTimeSync, hunit, whenUnit, if_true, htake, hsrc, hfield, ne_eq, not_true, if_false] <;> rfl

/-- The packet of a link's report: straight to its peer, of type 8 and without a destination. -/
def reportPacket (l : Nat) (s : State) : CtrlPkt :=
  let x := getLink s l
  let h : BitVec 128 := BitVec.ofNat 128 (s.fab.ownId.toNat * 2 ^ 96 + 8 * 2 ^ 84)
  let payload : BitVec 128 := BitVec.ofNat 128
    (2 ^ 120 + l * 2 ^ 112 + x.reports.toNat * 2 ^ 96 + (BitVec.ofInt 96 (divEven x.markSum x.markCount)).toNat)
  ⟨setField h 31 0 (ctrlCrc ⟨h, payload⟩).toNat, payload⟩

theorem reportPacket_type (l : Nat) (s : State) : ctrlType (reportPacket l s) = 8 := by
  have hid := s.fab.ownId.isLt
  simp only [ctrlType, reportPacket, field_setField_crc _ _ 87 52]
  simp only [field, BitVec.toNat_ofNat, Nat.shiftRight_eq_div_pow]
  omega

theorem reportPacket_src (l : Nat) (s : State) : ctrlSrc (reportPacket l s) = s.fab.ownId.toNat := by
  have hid := s.fab.ownId.isLt
  simp only [ctrlSrc, reportPacket, field_setField_crc _ _ 111 64]
  simp only [field, BitVec.toNat_ofNat, Nat.shiftRight_eq_div_pow]
  omega

/-- It is no glide packet. -/
theorem reportPacket_glide (l : Nat) (s : State) : bit (reportPacket l s).hdr 83 = false := by
  have hid := s.fab.ownId.isLt
  simp only [reportPacket, bit_setField_crc _ _ 51]
  rw [bit, BitVec.getLsbD_ofNat, Nat.testBit_eq_decide_div_mod_eq]
  have heven : (s.fab.ownId.toNat * 2 ^ 96 + 8 * 2 ^ 84) / 2 ^ (32 + 51) % 2 = 0 := by omega
  rw [heven]
  simp

/-- The link that has reported. -/
def reportedLink (l : Nat) (s : State) : Link :=
  let x := getLink s l
  { x with outCtrl := x.outCtrl ++ [reportPacket l s], dOwn := some (divEven x.markSum x.markCount), markSum := 0, markCount := 0
           reports := x.reports + 1, reportAt := s.clk.tick }

/-- The state after it: the packet waits in the link's queue, whose high-water mark may rise. -/
def reportedState (l : Nat) (s : State) : State :=
  portHigh (putLink s l (reportedLink l s)) (portOfLink s l) 13 ((getLink s l).outCtrl.length + 1)

theorem reportedState_links (l : Nat) (s : State) : (reportedState l s).fab.links = (putLink s l (reportedLink l s)).fab.links := by
  rw [reportedState, portHigh_eq]

/-- An UP link with marks sends its average once a millisecond. -/
theorem exec_timeSyncSend_due (hl : l < 24) (hup : (getLink s l).state = .up) (hdue : (getLink s l).reportAt + 5200000 ≤ s.clk.tick)
    (hmarks : 0 < (getLink s l).markCount) : exec (.timeSyncSend l) s = .next (reportedState l s) := by
  have hunit : linkOk l = true := decide_eq_true hl
  have hsends : (getLink s l).state = .up ∧ (getLink s l).reportAt + msTicks 1 ≤ s.clk.tick ∧ 0 < (getLink s l).markCount := ⟨hup, hdue, hmarks⟩
  have hglide := reportPacket_glide l s
  change execTimeSyncSend l s = _
  simp only [reportPacket] at hglide
  simp only [execTimeSyncSend, hunit, whenUnit, if_true, if_pos hsends, pushCtrl, hglide, getLink_putLink hl, putLink_putLink, Bool.false_eq_true, if_false]
  rfl

/-! ### Marks that stay away (R374) -/

/-- A disciplined follower without a mark of its parent for 10 ms enters holdover. -/
theorem exec_fabricMarkTimeout_late (hsource : (refreshSource s).time.source = 2) (hlocked : (refreshSource s).time.state = 2)
    (hparent : parentLink (refreshSource s) = some l)
    (hlate : ((getLink (refreshSource s) l).markAt.getD 0) + 52000000 ≤ (refreshSource s).clk.tick) :
    exec .fabricMarkTimeout s = .next (let u := refreshSource s
      { u with time := { u.time with state := 3, holdoverStart := some u.clk.tick, stepped := false, servoReady := false } }) := by
  have hexpired : (getLink (refreshSource s) l).markAt.getD 0 + msTicks 10 ≤ (refreshSource s).clk.tick := hlate
  change execFabricMarkTimeout s = _
  simp only [execFabricMarkTimeout, hparent, hsource, hexpired, and_self, if_true, enterHoldover, hlocked]

end Sys2Proof.Machine
end

section
/-! SUPPORT. The PTP slave (R368 to R370, R374): its messages, and the servo's correction. -/
namespace Sys2Proof.Machine

variable {s : State} {h : PtpHead}

/-! ### Messages that are heard (R318, R368) -/

theorem logSeconds_of_nonneg {n : Int} (hn : 0 ≤ n) : logSeconds n = 5200000000 * 2 ^ n.toNat := if_pos hn

section
variable (hhears : ptpHears s h = true)
include hhears

/-- A two-step Sync of the selected master at an interval of R368 is noted, with the time at which it arrived. -/
theorem exec_ptpSync_taken {interval corr : Int} (hmaster : fromMaster (refreshSource s) h = true) (hlow : -4 ≤ interval) (hhigh : interval ≤ 1)
    (hnone : (refreshSource s).time.ptp.syncSeq = none) :
    exec (.ptpSync h true interval corr) s = .next (let u := refreshSource s
      { u with time := { u.time with ptp := { u.time.ptp with
        counters := vset u.time.ptp.counters 0 (satInc (vget 0 u.time.ptp.counters 0)), syncSeq := some h.seq, syncAt := rxTime u - corr * 2 ^ 16 } } }) := by
  have hinterval : ¬ (interval < -4 ∨ 1 < interval) := by omega
  change execPtpSync h true interval corr s = _
  simp only [execPtpSync, hhears, hmaster, hnone, hinterval, Option.isSome_none, decide_false, Bool.not_true, Bool.or_self, Bool.false_eq_true, if_false]
  rfl

/-- Every other Sync is discarded. -/
theorem exec_ptpSync_discarded {two : Bool} {interval corr : Int}
    (hother : fromMaster (refreshSource s) h = false ∨ two = false ∨ interval < -4 ∨ 1 < interval) :
    exec (.ptpSync h two interval corr) s = .next (ptpCount 2 (refreshSource s)) := by
  have hdiscards : (!fromMaster (refreshSource s) h || !two || decide (interval < -4 ∨ 1 < interval)) = true := by
    simpa [or_assoc] using hother
  change execPtpSync h two interval corr s = _
  simp only [execPtpSync, hhears, hdiscards, Bool.not_true, Bool.false_eq_true, if_false, if_true]

/-- What a Follow_Up of the last Sync says: the offset, which the servo takes where the source is PTP. -/
theorem exec_ptpFollowUp_taken {origin : Nat} {corr : Int} (hmaster : fromMaster (refreshSource s) h = true)
    (hsync : (refreshSource s).time.ptp.syncSeq = some h.seq) :
    exec (.ptpFollowUp h origin corr) s = .next (
      let v := refreshSource s
      let ms := v.time.ptp.syncAt - (origin * 2 ^ 32 + corr * 2 ^ 16)
      let offset := ms - v.time.ptp.meanPath
      let u := { v with time := { v.time with ptp := { v.time.ptp with syncSeq := none, msDiff := ms, offset := offset } } }
      if v.time.source = 1 then ptpServo offset u else u) := by
  change execPtpFollowUp h origin corr s = _
  simp only [execPtpFollowUp, hhears, hmaster, hsync, Bool.not_true, Bool.false_eq_true, if_false, ne_eq, not_true, decide_false, Bool.or_self]
  rfl

/-- A Delay_Resp to the port's last Delay_Req gives the mean path delay. -/
theorem exec_ptpDelayResp_mine {receive : Nat} {corr log t : Int} (hsent : s.time.ptp.delaySentAt = some t) (hmaster : fromMaster s h = true)
    (hseq : h.seq + 1 = s.time.ptp.delaySeq) :
    exec (.ptpDelayResp h true receive corr log) s = .next { s with time := { s.time with ptp := { s.time.ptp with
      delaySentAt := none, delayInterval := log, pathKnown := true
      meanPath := divEven (s.time.ptp.msDiff + (receive * 2 ^ 32 - corr * 2 ^ 16 - t)) 2 } } } := by
  change execPtpDelayResp h true receive corr log s = _
  simp only [execPtpDelayResp, hhears, hsent, hmaster, hseq, Bool.not_true, Bool.false_eq_true, if_false, decide_true, Bool.and_self, if_true]
  rfl

theorem exec_ptpDelayResp_others {receive : Nat} {corr log t : Int} (hsent : s.time.ptp.delaySentAt = some t) :
    exec (.ptpDelayResp h false receive corr log) s = .next (ptpCount 2 s) := by
  change execPtpDelayResp h false receive corr log s = _
  simp only [execPtpDelayResp, hhears, hsent, Bool.not_true, Bool.and_false, Bool.false_and, Bool.false_eq_true, if_false]

/-! ### The selected master (R368) -/

/-- The port as it follows a master that has announced itself. -/
def following (h : PtpHead) (m : PtpMaster) (log : Int) (u : State) : Ptp :=
  { u.time.ptp with master := some m, parent := h.source, gm := m.identity, announceAt := some u.clk.tick, announceTicks := 5200000000 * 2 ^ log.toNat }

section
variable {m : PtpMaster} {log : Int} (hdomain : h.domain = (refreshSource s).time.ptp.domain) (hlow : 0 ≤ log) (hhigh : log ≤ 4)
include hdomain hlow hhigh

/-- An Announce of the port's domain: from the selected master it renews, from a better one it selects, else it changes nothing. -/
theorem exec_ptpAnnounce_heard : exec (.ptpAnnounce h m log) s = .next (
    let u := refreshSource s
    let same := u.time.ptp.master.isSome && decide (h.source = u.time.ptp.parent)
    if (!(match u.time.ptp.master with
      | none => true
      | some old => same || betterMaster m old)) = true then u
    else if same = true then { u with time := { u.time with ptp := following h m log u } }
    else { u with time := { u.time with
      servoReady := false, ptp := { following h m log u with syncSeq := none, delaySentAt := none, pathKnown := false } } }) := by
  have haccepts : ¬ (h.domain ≠ (refreshSource s).time.ptp.domain ∨ log < 0 ∨ 4 < log) := not_or.mpr ⟨fun hother => hother hdomain, by omega⟩
  change execPtpAnnounce h m log s = _
  simp only [execPtpAnnounce, hhears, if_neg haccepts, logSeconds_of_nonneg hlow, Bool.not_true, Bool.false_eq_true, if_false]
  rfl

theorem exec_ptpAnnounce_again {old : PtpMaster} (hmaster : (refreshSource s).time.ptp.master = some old)
    (hsame : h.source = (refreshSource s).time.ptp.parent) :
    exec (.ptpAnnounce h m log) s = .next (let u := refreshSource s
      { u with time := { u.time with ptp := following h m log u } }) := by
  rw [exec_ptpAnnounce_heard hhears hdomain hlow hhigh]
  simp [hmaster, hsame]

theorem exec_ptpAnnounce_better (hbetter : (refreshSource s).time.ptp.master = none ∨ (∃ old, (refreshSource s).time.ptp.master = some old ∧
      h.source ≠ (refreshSource s).time.ptp.parent ∧ betterMaster m old = true)) :
    exec (.ptpAnnounce h m log) s = .next (let u := refreshSource s
      { u with time := { u.time with
        servoReady := false, ptp := { following h m log u with syncSeq := none, delaySentAt := none, pathKnown := false } } }) := by
  rw [exec_ptpAnnounce_heard hhears hdomain hlow hhigh]
  obtain hnone | ⟨old, hmaster, hother, hbetter⟩ := hbetter
  · simp [hnone]
  · simp [hmaster, hother, hbetter]

theorem exec_ptpAnnounce_worse {old : PtpMaster} (hmaster : (refreshSource s).time.ptp.master = some old)
    (hother : h.source ≠ (refreshSource s).time.ptp.parent) (hworse : betterMaster m old = false) :
    exec (.ptpAnnounce h m log) s = .next (refreshSource s) := by
  rw [exec_ptpAnnounce_heard hhears hdomain hlow hhigh]
  simp [hmaster, hother, hworse]

end

end

/-! ### The servo (R370) -/

/-- A clamped number lies between its bounds. -/
theorem clampInt_bounds {lo hi : Int} (hbounds : lo ≤ hi) (x : Int) : lo ≤ clampInt lo hi x ∧ clampInt lo hi x ≤ hi := by
  unfold clampInt
  omega

/-- What the correction of a PTP slave may change by since the last one: 0.1 ppm of NOMINAL for each second, at most two. -/
def slewRoom (u : State) : Nat := u.time.nominal.toNat * Nat.min (u.clk.tick - u.time.servoAt) 10400000000 / 52000000000000000

/-- The largest correction under PTP: 50 ppm of NOMINAL. -/
def slewLimit (u : State) : Int := (u.time.nominal.toNat : Int) * 50 / 1000000

/-- The correction that a PTP slave takes for an offset: the servo's, within the limit and the room; the old one where the servo has just begun. -/
def slewed (offset : Int) (u : State) : Int :=
  let old := vget 0 u.time.correction 0
  if u.time.servoReady then
    clampInt (old - slewRoom u) (old + slewRoom u) (clampInt (-slewLimit u) (slewLimit u) (Config.servoCorrection offset old))
  else old

theorem correct_of_ptp {offset : Int} {u : State} (hsource : u.time.source = 1) :
    correct offset u = { u with time := { u.time with correction := Vector.replicate 2 (slewed offset u), servoAt := u.clk.tick, servoReady := true } } := by
  simp only [correct, slewed, mostCorrection, hsource, ne_eq, not_true, if_false, if_true]
  rfl

theorem slewed_near (offset : Int) (u : State) : (slewed offset u - vget 0 u.time.correction 0).natAbs ≤ slewRoom u := by
  unfold slewed
  dsimp only
  split
  · have hbounds := clampInt_bounds (lo := vget 0 u.time.correction 0 - slewRoom u) (hi := vget 0 u.time.correction 0 + slewRoom u) (by omega)
      (clampInt (-slewLimit u) (slewLimit u) (Config.servoCorrection offset (vget 0 u.time.correction 0)))
    omega
  · omega

theorem slewed_within {offset : Int} {u : State} (hlow : -slewLimit u ≤ vget 0 u.time.correction 0) (hhigh : vget 0 u.time.correction 0 ≤ slewLimit u) :
    -slewLimit u ≤ slewed offset u ∧ slewed offset u ≤ slewLimit u := by
  have hservo := clampInt_bounds (lo := -slewLimit u) (hi := slewLimit u) (by omega) (Config.servoCorrection offset (vget 0 u.time.correction 0))
  unfold slewed
  dsimp only
  split
  · generalize clampInt (-slewLimit u) (slewLimit u) (Config.servoCorrection offset (vget 0 u.time.correction 0)) = x at hservo
    unfold clampInt
    omega
  · exact ⟨hlow, hhigh⟩

theorem ptpServo_of_step {offset : Int} {u : State} (hstopped : u.run.state = 0) (hfar : 1000000 * 2 ^ 32 < offset.natAbs) :
    ptpServo offset u = stepCounters offset u := by
  have hsteps : (isStopped u && decide (1000000 * 2 ^ 32 < offset.natAbs)) = true :=
    Bool.and_eq_true_iff.mpr ⟨decide_eq_true hstopped, decide_eq_true hfar⟩
  rw [ptpServo, if_pos hsteps]

theorem ptpServo_of_slew {offset : Int} {u : State} (hslews : u.run.state ≠ 0 ∨ offset.natAbs ≤ 1000000 * 2 ^ 32) :
    ptpServo offset u = judgeLock offset 100 u.time.ptp.pathKnown (correct offset u) := by
  have hsteps : ¬ (isStopped u && decide (1000000 * 2 ^ 32 < offset.natAbs)) = true := by
    rw [Bool.and_eq_true_iff, isStopped, decide_eq_true_eq, decide_eq_true_eq]
    rintro ⟨hstopped, hfar⟩
    obtain hruns | hnear := hslews
    · exact hruns hstopped
    · exact absurd hfar (Nat.not_lt.mpr hnear)
  rw [ptpServo, if_neg hsteps]

theorem judgeLock_state (offset bound : Int) (known : Bool) (u : State) :
    (judgeLock offset bound known u).time.state = if known = true ∧ -(bound * 2 ^ 32) ≤ offset ∧ offset ≤ bound * 2 ^ 32 then 2 else 1 := by
  simp only [judgeLock, Bool.and_eq_true, decide_eq_true_eq]

/-- A step moves both counters back by the offset. -/
theorem vget_stepCounters (offset : Int) (u : State) {d : Nat} (hd : d < 2) :
    vget 0 (stepCounters offset u).time.counter d = BitVec.ofInt 96 ((vget 0 u.time.counter d).toInt - offset) := by
  simp [stepCounters, vget, hd]

/-- A Delay_Req leaves at the interval of Delay_Resp (R368). -/
theorem exec_ptpDelayReqSend_due (hmaster : s.time.ptp.master.isSome = true) (hloaded : s.opt.loaded = true) (hopen : segmentOpen s = true)
    (hdue : s.time.ptp.nextDelayReq ≤ s.clk.tick) : exec .ptpDelayReqSend s = .next { s with
      out := s.out ++ [.delayReq ptpGroup 319 s.time.ptp.domain s.time.ptp.delaySeq]
      time := { s.time with ptp := { s.time.ptp with
        delaySeq := s.time.ptp.delaySeq + 1, delaySentAt := some (txTime s), nextDelayReq := s.clk.tick + logSeconds s.time.ptp.delayInterval } } } := by
  change execPtpDelayReqSend s = _
  simp only [execPtpDelayReqSend, hmaster, hloaded, hopen, hdue, decide_true, Bool.and_self, if_true]
  rfl

/-- Four Announce intervals without one: the master is given up, and a disciplined slave enters holdover (R374). -/
theorem exec_ptpAnnounceTimeout_late {t : Nat} (hannounced : s.time.ptp.announceAt = some t) (hlate : t + 4 * s.time.ptp.announceTicks ≤ s.clk.tick)
    (hsource : s.time.source = 1) (hlocked : s.time.state = 2) : exec .ptpAnnounceTimeout s = .next { s with time := { s.time with
      ptp := { s.time.ptp with
        counters := vset s.time.ptp.counters 3 (satInc (vget 0 s.time.ptp.counters 3)), master := none, announceAt := none, syncSeq := none, delaySentAt := none }
      state := 3, holdoverStart := some s.clk.tick, stepped := false, servoReady := false } } := by
  change execPtpAnnounceTimeout s = _
  simp only [execPtpAnnounceTimeout, hannounced, if_pos hlate, ptpCount, setPtp, enterHoldover, hsource, hlocked, if_true]

/-! ### The statement of the time base -/

namespace TimeBase

/-- Settles O51: each message and each timer finds its condition met; the servo's own law is free within the limits of R370 (logs 21 and 130). The bound of 100 ns is
inclusive and needs a known path (log 39), and which master is better is decided field by field (log 114). -/
theorem timeBaseDiscipline : Obligations.TimeBaseDiscipline := by
  unfold Obligations.TimeBaseDiscipline
  refine ⟨?report, ?send, ?silent, ?sync, ?followUp, ?delayResp, ?announce, ?delayReq, ?announceTimeout⟩
  case report =>
    intro die l p s u hdie htake hsrc _ hversion peer x
    exact exec_timeSync_taken hdie htake hsrc hversion
  case send =>
    intro l s hl hup hdue hmarks x d
    have hlinks := reportedState_links l s
    refine ⟨reportedState l s, reportPacket l s, exec_timeSyncSend_due hl hup hdue hmarks, ?state, ?link, ?others, reportPacket_type l s, reportPacket_src l s, rfl⟩
    case state => rw [reportedState, portHigh_eq]; rfl
    case link => exact (congrArg (fun links => vget ({} : Link) links l) hlinks).trans (getLink_putLink hl s _)
    case others => exact fun k hk => (congrArg (fun links => vget ({} : Link) links k) hlinks).trans (getLink_putLink_ne hk s _)
  case silent =>
    intro s u hsource hlocked l hparent hlate
    exact exec_fabricMarkTimeout_late hsource hlocked hparent hlate
  case sync =>
    intro h interval corr s hhears u discarded
    exact ⟨exec_ptpSync_taken hhears, fun two => exec_ptpSync_discarded hhears⟩
  case followUp =>
    intro h origin corr s hhears v hmaster hsync ms offset u
    have hexec := exec_ptpFollowUp_taken (origin := origin) (corr := corr) hhears hmaster hsync
    refine ⟨fun hother => hexec.trans (congrArg _ (if_neg hother)), fun hsource hstopped hfar => ?step, fun hsource hslews => ?slew⟩
    case step =>
      have hstep : exec (.ptpFollowUp h origin corr) s = .next (stepCounters offset u) :=
        (hexec.trans (congrArg _ (if_pos hsource))).trans (congrArg _ (ptpServo_of_step (u := u) hstopped hfar))
      exact ⟨_, hstep, rfl, rfl, rfl, rfl, rfl, fun d hd => vget_stepCounters offset u hd⟩
    case slew =>
      have hslew : exec (.ptpFollowUp h origin corr) s = .next (judgeLock offset 100 u.time.ptp.pathKnown (correct offset u)) :=
        (hexec.trans (congrArg _ (if_pos hsource))).trans (congrArg _ (ptpServo_of_slew (u := u) hslews))
      rw [correct_of_ptp (u := u) hsource] at hslew
      refine ⟨_, hslew, rfl, rfl, ?locked, rfl, fun hold => ?within, ?near⟩
      case locked => exact judgeLock_state offset 100 u.time.ptp.pathKnown _
      case within => exact slewed_within (u := u) hold.1 hold.2
      case near => exact slewed_near offset u
  case delayResp =>
    intro h receive corr log t s hhears hsent hmaster hseq
    exact ⟨exec_ptpDelayResp_mine hhears hsent hmaster hseq, exec_ptpDelayResp_others hhears hsent⟩
  case announce =>
    intro h m log s hhears u chosen hdomain hlow hhigh
    exact ⟨fun old => exec_ptpAnnounce_again hhears hdomain hlow hhigh, exec_ptpAnnounce_better hhears hdomain hlow hhigh,
      fun old => exec_ptpAnnounce_worse hhears hdomain hlow hhigh⟩
  case delayReq =>
    intro s hmaster hloaded hopen hdue
    exact exec_ptpDelayReqSend_due hmaster hloaded hopen hdue
  case announceTimeout =>
    intro t s hannounced hlate hsource hlocked
    exact exec_ptpAnnounceTimeout_late hannounced hlate hsource hlocked

end TimeBase

end Sys2Proof.Machine
end

section
/-! SUPPORT. The lifetime record (R445 to R449): what a powered second changes besides its count, one event of an accumulator, the timer of the saves. -/
namespace Sys2Proof.Machine

variable {s t u : State}

/-- A counter advanced by one event is the counter's next value (R10). -/
theorem satAdd_one {w : Nat} (c : BitVec w) : satAdd c 1 = satInc c := by
  unfold satAdd satInc
  by_cases hmax : c = BitVec.allOnes w
  · have hfull : ¬ c.toNat + 1 < 2 ^ w := by
      rw [hmax, BitVec.toNat_allOnes]
      omega
    rw [if_neg hfull, if_pos hmax, hmax]
  · have hroom : c.toNat + 1 < 2 ^ w := by
      have hbelow : c.toNat ≠ 2 ^ w - 1 := fun h => hmax (BitVec.eq_of_toNat_eq (h.trans BitVec.toNat_allOnes.symm))
      omega
    rw [if_pos hroom, if_neg hmax, BitVec.ofNat_add, BitVec.ofNat_toNat, BitVec.setWidth_eq]
    rfl

/-! ### The powered second (R449) -/

/-- Nothing but accumulators, the periods of the links and the marks of throttled dies differs. -/
def HistogramsOnly (s t : State) : Prop := t = { s with life := { s.life with acc := t.life.acc }, fab := t.fab, pwr := t.pwr }

namespace HistogramsOnly

theorem refl (s : State) : HistogramsOnly s s := rfl

theorem trans (h : HistogramsOnly s t) (g : HistogramsOnly t u) : HistogramsOnly s u := by
  unfold HistogramsOnly at *
  rw [g, h]

theorem seconds_eq (h : HistogramsOnly s t) : t.life.seconds = s.life.seconds := by rw [h]
theorem poweredS_eq (h : HistogramsOnly s t) : t.life.poweredS = s.life.poweredS := by rw [h]
theorem mem_eq (h : HistogramsOnly s t) : t.mem = s.mem := by rw [h]
theorem run_eq (h : HistogramsOnly s t) : t.run = s.run := by rw [h]
theorem cores_eq (h : HistogramsOnly s t) : t.cores = s.cores := by rw [h]
theorem dop_eq (h : HistogramsOnly s t) : t.dop = s.dop := by rw [h]

theorem foldl {α : Type} {f : State → α → State} (hf : ∀ s a, HistogramsOnly s (f s a)) (xs : List α) : ∀ s, HistogramsOnly s (xs.foldl f s) := by
  induction xs with
  | nil => exact refl
  | cons a as ih => exact fun s => (hf s a).trans (ih _)

theorem of_lifeAdd (off n : Nat) (s : State) : HistogramsOnly s (lifeAdd off n s) := by
  unfold lifeAdd
  split <;> rfl

theorem of_histSecond (s : State) : HistogramsOnly s (histSecond s) :=
  (foldl (fun s _ => of_lifeAdd _ 1 s) _ s).trans (foldl (fun s _ => of_lifeAdd _ 1 s) _ _)

theorem of_stateSecond (s : State) : HistogramsOnly s (stateSecond s) := foldl (fun s _ => of_lifeAdd _ 1 s) _ s

theorem of_throttleSecond (s : State) : HistogramsOnly s (throttleSecond s) := by
  refine (foldl (fun s d => ?_) _ s).trans rfl
  split
  · exact of_lifeAdd _ 1 s
  · exact refl s

theorem of_berPeriod (l : Nat) (s : State) : HistogramsOnly s (berPeriod l s) := by
  unfold berPeriod
  dsimp only
  split
  · exact (of_lifeAdd _ 1 s).trans rfl
  · rfl

/-- A powered second counts, and changes the histograms. -/
theorem of_poweredSecond (s : State) : HistogramsOnly (countSecond s) (poweredSecond s) := by
  have hsecond : HistogramsOnly (countSecond s) (throttleSecond (stateSecond (histSecond (countSecond s)))) :=
    ((of_histSecond _).trans (of_stateSecond _)).trans (of_throttleSecond _)
  unfold poweredSecond
  dsimp only
  split
  · exact hsecond.trans (foldl (fun s l => of_berPeriod l s) _ _)
  · exact hsecond

end HistogramsOnly

/-! ### The statement of the lifetime records -/

namespace Lifetime

/-- Settles O55: each command finds its condition met; a powered second leaves the histograms to their own rules and counts once. -/
theorem lifetimeRecords : Obligations.LifetimeRecords := by
  unfold Obligations.LifetimeRecords
  refine ⟨?timer, ?complete, ?second, ?begins, ?ends⟩
  case timer =>
    intro s hloaded hdue hidle hhand u
    have hready : (s.opt.loaded && decide (s.life.timerAt + 600 ≤ s.life.seconds) && s.life.saving.isNone && !handingOver s) = true := by
      simp only [hloaded, hdue, hidle, hhand, Option.isNone_none, decide_true, Bool.not_false, Bool.and_true]
    change execLifetimeSaveTimer s = _
    rw [execLifetimeSaveTimer, if_pos hready, startSave]
  case complete =>
    intro slot bs s hsaving r
    change execLifetimeSaveComplete s = _
    simp only [execLifetimeSaveComplete, hsaving]
    rfl
  case second =>
    intro s hloaded hdue
    have hsame := HistogramsOnly.of_poweredSecond s
    have hpassed : s.opt.loaded = true ∧ s.opt.loadedAt + secTicks (s.life.seconds + 1) ≤ s.clk.tick := ⟨hloaded, hdue⟩
    have hexec : exec .poweredSecondTick s = .next (poweredSecond s) := by
      change execPoweredSecondTick s = _
      rw [execPoweredSecondTick, if_pos hpassed]
    exact ⟨poweredSecond s, hexec, hsame.seconds_eq, hsame.poweredS_eq, hsame.mem_eq, hsame.run_eq, hsame.cores_eq, hsame.dop_eq⟩
  case begins =>
    intro r n s hloaded hrail hnew
    change execRailDroopBegin r s = _
    simp only [execRailDroopBegin, hloaded, hrail, hnew, Option.isSome_some, Bool.not_false, Bool.and_true, if_true]
  case ends =>
    intro r n depth s hloaded hrail hbegun i
    have hadd (s : State) (h : s.opt.loaded = true) :
        lifeAdd i 1 s = { s with life := { s.life with acc := mset s.life.acc i (satInc (mget 0 s.life.acc i)) } } := by
      rw [lifeAdd, if_pos h, satAdd_one]
    change execRailDroopEnd r depth s = _
    simp only [execRailDroopEnd, hrail, if_pos hbegun]
    exact congrArg _ (hadd _ hloaded)

end Lifetime

end Sys2Proof.Machine
end

section
/-! SUPPORT. RESET_REQUEST (R417): the checks of a WRITE in their order, and the request that is accepted. -/
namespace Sys2Proof.Machine

variable {s u : State} {q : DopReq} {rest : List DopReq} {o : ObjRow} {p : Nat} {chk : Chk}

/-! ### A WRITE that is refused before its value is looked at (R329) -/

theorem serveWrite_of_denied (hobj : objRow s (hKey q.hdr) = some o) (hstaged : o.access ≠ RWS) (hdenied : chapterDenies s q = true) :
    serveWrite q p chk s = (refuse errAccess, s) := by
  simp only [serveWrite, lookup, hobj]
  exact if_pos (.inr (.inr ⟨hstaged, hdenied⟩))

theorem serveWrite_of_unprivileged (hobj : objRow s (hKey q.hdr) = some o) (hwrites : o.access = WO) (hgroups : hIndex q.hdr ≠ 0x2100)
    (hchapter : chapterDenies s q = false) (hpriv : p < o.wpriv) : serveWrite q p chk s = (refuse errAuth, s) := by
  have hallowed : ¬ (o.access = RO ∨ hIndex q.hdr = 0x2100 ∨ (o.access ≠ RWS ∧ chapterDenies s q = true)) := by
    simp [hwrites, RO, WO, hgroups, hchapter]
  have hstaged : o.access ≠ RWS := by simp [hwrites, WO, RWS]
  simp only [serveWrite, lookup, hobj, if_neg hallowed, if_neg hstaged, if_pos hpriv]

namespace ResetRequest

/-! ### The object (R417) -/

/-- Row of the table of a WRITE of RESET_REQUEST, by its value. -/
def resetRow (v : Nat) : Row := if v = 1 then .warm else if v = 2 then .mgmt else .fabric

/-- Its command. -/
def resetCommand (v : Nat) : Instr := if v = 1 then .resetRequestWarm .queue else if v = 2 then .resetRequestMgmt .queue else .resetRequestFabric .queue

theorem exec_resetCommand (v : Nat) (s : State) : exec (resetCommand v) s = handleRow (resetRow v) .queue .ok s := by
  unfold resetCommand resetRow
  repeat' split
  all_goals rfl

theorem resetRow_ne_activate (v : Nat) : resetRow v ≠ .activate := by
  unfold resetRow
  repeat' split
  all_goals nofun

/-- The object in the dictionary: an operator may write it. -/
def resetObject : ObjRow := val 0 1 WO 0

theorem objRow_reset (s : State) : objRow s 0x201000 = some resetObject := rfl

theorem chapterDenies_reset (hindex : hIndex q.hdr = 0x2010) (hagree : Agrees s.fab.torus.master) :
    chapterDenies s q = (decide (ofLE q.payload = 3) && !decide (q.path = .remote s.fab.torus.master.a)) := by
  simp only [chapterDenies, hindex, masterEp, value_of_agrees hagree]

theorem torus_of_privilege (hpriv : privilege (dequeued rest s) q = (p, u)) : u.fab.torus = s.fab.torus := by
  obtain ⟨token, rfl⟩ := privilege_state hpriv
  rfl

section
variable (hhead : HeadRequest s q rest) (hasks : Asks q 2 0x201000 1) (hpriv : privilege (dequeued rest s) q = (p, u)) (hagree : Agrees s.fab.torus.master)
include hhead hasks hpriv hagree

/-- The server answers with what its WRITE comes down to: the vote of the slice master's ID changes nothing. -/
theorem exec_of_serveWrite {a : Answer} {t : State} (hserved : serveWrite q p .ok u = (a, t)) :
    exec (resetCommand (ofLE q.payload)) s = .next (respond q a true t) := by
  obtain ⟨hop, hkey, hindex, -, -⟩ := hasks
  have hrow : rowOf q = resetRow (ofLE q.payload) := by simp only [rowOf, hop, hkey, writeRow, resetRow]
  have hvote : voteChapter q u = u := by
    rw [voteChapter, voteMaster_of_agrees (by rwa [torus_of_privilege hpriv]), ite_self]
  rw [exec_resetCommand]
  exact handleRow_of_process hhead hrow (resetRow_ne_activate _) (by rw [process_write (by rw [hindex]; decide) hop hpriv, hvote, hserved])

/-- 3 on any path but remote object access from the slice master is refused with ACCESS. -/
theorem exec_of_denied (hvalue : ofLE q.payload = 3) (hpath : q.path ≠ .remote s.fab.torus.master.a) :
    exec (resetCommand (ofLE q.payload)) s = .next (respond q (refuse errAccess) true u) := by
  obtain ⟨-, hkey, hindex, -, -⟩ := id hasks
  have hdenied : chapterDenies u q = true := by
    rw [chapterDenies_reset hindex (by rwa [torus_of_privilege hpriv]), torus_of_privilege hpriv]
    simp [hvalue, hpath]
  exact exec_of_serveWrite hhead hasks hpriv hagree (serveWrite_of_denied (hkey ▸ objRow_reset u) (by decide) hdenied)

section
variable (hpermitted : ofLE q.payload ≠ 3 ∨ q.path = .remote s.fab.torus.master.a)
include hpermitted

omit hhead in
theorem chapterDenies_of_permitted : chapterDenies u q = false := by
  obtain ⟨-, -, hindex, -, -⟩ := hasks
  rw [chapterDenies_reset hindex (by rwa [torus_of_privilege hpriv]), torus_of_privilege hpriv]
  obtain hvalue | hpath := hpermitted
  · simp [hvalue]
  · simp [hpath]

/-- An observer is refused with AUTH. -/
theorem exec_of_observer (hobserver : p = 0) : exec (resetCommand (ofLE q.payload)) s = .next (respond q (refuse errAuth) true u) := by
  have hallows := chapterDenies_of_permitted hasks hpriv hagree hpermitted
  obtain ⟨-, hkey, hindex, -, -⟩ := id hasks
  exact exec_of_serveWrite hhead hasks hpriv hagree
    (serveWrite_of_unprivileged (hkey ▸ objRow_reset u) rfl (by rw [hindex]; decide) hallows (hobserver ▸ Nat.one_pos))

/-- An operator's value acts. -/
theorem exec_of_operator (hlength : q.payload.length = 1) (hoperator : 1 ≤ p) : exec (resetCommand (ofLE q.payload)) s =
    .next (respond q (refuse (writeReset (ofLE q.payload) u).1) true (writeReset (ofLE q.payload) u).2) := by
  have hallows := chapterDenies_of_permitted hasks hpriv hagree hpermitted
  obtain ⟨-, hkey, hindex, -, htyp⟩ := id hasks
  have htype : typeDiffers resetObject q = false := typeDiffers_of_fixed htyp rfl hlength
  refine exec_of_serveWrite hhead hasks hpriv hagree ?_
  rw [serveWrite_of_allowed (hkey ▸ objRow_reset u) (.inr rfl) (by rw [hindex]; decide) hallows hoperator htype,
    takeValue_of_fixed _ (rfl : typeBytes resetObject.typ = some 1) nofun, hkey]
  rfl

end

end

/-! ### The statement of RESET_REQUEST -/

/-- Settles O60: ACCESS is checked by the path, AUTH by the privilege and RANGE by the value, in this order (R329); the response leaves with the request noted, and
the reset begins at the tick that is 10 ms later. Before it the command changes nothing (log 2). -/
theorem resetRequestObject : Obligations.ResetRequestObject := by
  unfold Obligations.ResetRequestObject
  refine ⟨?request, ?expire⟩
  case request =>
    intro s u q rest p hhead hasks hlength hpriv hagree v c request
    have hoperator (hpermitted : v ≠ 3 ∨ q.path = .remote s.fab.torus.master.a) (hp : 1 ≤ p) {a : Answer} {t : State}
        (hwrite : writeReset v u = (a.code, t)) (hrefuse : refuse a.code = a) : exec c s = .next (respond q a true t) := by
      have hexec := exec_of_operator hhead hasks hpriv hagree hpermitted hlength hp
      rwa [show writeReset (ofLE q.payload) u = (a.code, t) from hwrite, hrefuse] at hexec
    refine ⟨fun hv hp => hoperator (.inl (by omega)) hp (if_pos hv) rfl, fun hv hp => hoperator (.inl (by omega)) hp ?_ rfl,
      fun hv hp => exec_of_observer hhead hasks hpriv hagree (.inl hv) hp, fun hv hp hpath => hoperator (.inr hpath) hp ?_ rfl,
      fun hv hpath => exec_of_denied hhead hasks hpriv hagree hv hpath, fun hv hp => hoperator (.inl (by grind)) hp ?_ rfl⟩
    · simp only [writeReset, hv]
      rfl
    · simp only [writeReset, hv]
      rfl
    · simp only [List.mem_cons, List.not_mem_nil, or_false, not_or] at hv
      obtain ⟨h1, h2, h3⟩ := hv
      simp only [writeReset, if_neg h1, if_neg h2, if_neg h3]
      rfl
  case expire =>
    intro kind t s hrequest
    refine ⟨fun hearly => ?early, fun hdue => ?due⟩
    case early =>
      have hwait : ¬ t + msTicks 10 ≤ s.clk.tick := Nat.not_le.mpr hearly
      change execResetRequestDelayExpire s = _
      simp only [execResetRequestDelayExpire, hrequest, if_neg hwait]
    case due =>
      intro u
      have hbegin : t + msTicks 10 ≤ s.clk.tick := hdue
      change execResetRequestDelayExpire s = _
      simp only [execResetRequestDelayExpire, hrequest, if_pos hbegin]
      rfl

end ResetRequest

end Sys2Proof.Machine
end

section
/-! SUPPORT. A cycle of the root clock with a core that has stopped on a trap (R66). -/
namespace Sys2Proof.Machine

namespace StoppedCore

/-- Core 0 of die 0, stopped on a trap of a thread; no unit of it has work. -/
def stoppedBy (thread : Nat) : Core := { phase := .stopped, trappedBy := some (thread, 0) }

/-- A module with locked PLLs before its first ACLK slot, in which core 0 has stopped on a trap of thread 1; the record of the traps of a cycle holds the core as
it stood before, with a trap of thread 0. -/
def start : State :=
  { State.reset with
    clk := { tick := 3, pll := Vector.replicate 2 1 }, cores := [(0, stoppedBy 1)], trapped := [(0, (1, stoppedBy 0))] }

theorem start_idle : ∀ e ∈ start.cores, Idle e.2 := by
  simp only [start, List.mem_singleton, forall_eq]
  exact ⟨rfl, rfl, rfl, rfl, fun _ h => nomatch h⟩

theorem trappedBy_start : (getCore start ⟨0, 0⟩).trappedBy = some (1, 0) := rfl

/-- In the slot the core's trap becomes that of thread 0. -/
theorem trappedBy_tick : (getCore (tick start) ⟨0, 0⟩).trappedBy = some (0, 0) := by decide

/-- Refutes O2: the statement takes any state, and asks of a core that is idle now only. The record of the traps of a cycle (R66) holds a core as it stood before its
trap; where it carries the number of the cycle that begins, the slot tries the units on that core, and of the two traps the lower thread's is kept. The core of this
state has no work in its units, and its trap record changes with the clock. A trap of the model notes the cycle it
happens in, so the hypothesis that is missing here is that no record is of a cycle to come. -/
theorem not_emptyQueueAdvancesClock : ¬ Obligations.EmptyQueueAdvancesClock := by
  unfold Obligations.EmptyQueueAdvancesClock
  intro h
  obtain ⟨t, hstep, -, -, -, hidle⟩ := h start rfl
  obtain ⟨hsame, -, -⟩ := hidle start_idle (by decide)
  have ht : tick start = t := Host.Outcome.next.inj hstep
  have hcores : t.cores = start.cores := by rw [hsame]
  have htrap : (getCore t ⟨0, 0⟩).trappedBy = (getCore start ⟨0, 0⟩).trappedBy := by rw [getCore, hcores, getCore]
  rw [trappedBy_start, ← ht, trappedBy_tick] at htrap
  exact absurd htrap (by decide)

end StoppedCore

end Sys2Proof.Machine
end

section
/-! SUPPORT. What errors, stops of the cores and links that leave UP keep of the option words and of the object server: the words, the node ID, and that nobody subscribes. -/
namespace Sys2Proof.Machine

variable {s : State}

/-- The option load's record, the node ID, and whether no client subscribes. -/
def serverView (s : State) : OptionLoad × BitVec 8 × Bool := (s.opt, s.dop.nodeId, s.dop.subs.isEmpty)

theorem view_of_eq {t : State} (hopt : t.opt = s.opt) (hdop : t.dop = s.dop) : serverView t = serverView s := by
  rw [serverView, hopt, hdop, serverView]

theorem putCore_view (s : State) (c : CoreRef) (k : Core) : serverView (putCore s c k) = serverView s := rfl

theorem foldl_view {α : Type} {f : State → α → State} (hf : ∀ s a, serverView (f s a) = serverView s) (xs : List α) (s : State) :
    serverView (xs.foldl f s) = serverView s := by
  induction xs generalizing s with
  | nil => rfl
  | cons a xs ih => exact (ih _).trans (hf s a)

theorem ite_view {c : Prop} [Decidable c] {t u : State} (ht : serverView t = serverView s) (hu : serverView u = serverView s) :
    serverView (if c then t else u) = serverView s := by
  split
  · exact ht
  · exact hu

/-! ### Reports (R314, R334, R357) -/

theorem putAt_isEmpty {α : Type} (xs : List α) (i : Nat) (x : α) : (putAt xs i x).isEmpty = xs.isEmpty := by
  cases xs with
  | nil => rfl
  | cons y ys => cases i <;> rfl

/-- A subscription in another form. -/
theorem putSubs_view (s : State) (i : Nat) (u : Subscription) :
    serverView { s with dop := { s.dop with subs := putAt s.dop.subs i u } } = serverView s := by
  simp only [serverView, putAt_isEmpty]

theorem msix_view (v : Nat) (s : State) : serverView (msix v s) = serverView s := by
  unfold msix
  exact ite_view rfl rfl

theorem pumpAt_view (i : Nat) (s : State) : serverView (pumpAt i s) = serverView s := by
  unfold pumpAt
  repeat' split
  any_goals rfl
  exact putSubs_view s i _

theorem queueNotice_view (i : Nat) (n : Notice) (s : State) : serverView (queueNotice i n s) = serverView s := by
  unfold queueNotice
  split
  · rfl
  · exact (pumpAt_view _ _).trans (ite_view (putSubs_view s i _) (putSubs_view s i _))

theorem notify_view (key typ : Nat) (v : List Byte) (s : State) : serverView (notify key typ v s) = serverView s := by
  refine foldl_view (fun s i => ?_) _ s
  split
  · exact ite_view (queueNotice_view _ _ s) rfl
  · rfl

theorem lifeAdd_view (off n : Nat) (s : State) : serverView (lifeAdd off n s) = serverView s := ite_view rfl rfl

theorem cperBare_view (g : Signature) (s : State) : serverView (cperBare g s) = serverView s := by
  rw [cperBare, msix_view, notify_view]
  exact view_of_eq rfl rfl

theorem setPhase_view (v : BitVec 8) (s : State) : serverView (setPhase v s) = serverView s :=
  ite_view rfl (((msix_view _ _).trans (notify_view _ _ _ _)).trans rfl)

theorem setRunState_view (v : BitVec 8) (s : State) : serverView (setRunState v s) = serverView s := ite_view rfl (msix_view _ _)

/-! ### Counted errors and records (R184, R185, R192, R313) -/

theorem correctableWith_view {out : Signature → State → State} (hout : ∀ g s, serverView (out g s) = serverView s) (r : Nat) (s : State) :
    serverView (correctableWith out r s) = serverView s := by
  unfold correctableWith
  refine Eq.trans ?_ (lifeAdd_view (9960 + 4 * r) 1 s)
  generalize lifeAdd (9960 + 4 * r) 1 s = t
  exact ite_view rfl ((hout _ _).trans ((msix_view _ _).trans (notify_view _ _ _ _)))

theorem repairWord_view {α : Type} [DecidableEq α] {t : Tri α} {put : Tri α → State → State} {s : State} (die : Nat)
    (hput : ∀ x, serverView (put x s) = serverView s) : serverView (repairWord t die put s) = serverView s := by
  unfold repairWord
  split
  · exact (correctableWith_view cperBare_view _ _).trans (hput _)
  · rfl

theorem cper_view (g : Signature) (s : State) : serverView (cper g s) = serverView s := (cperBare_view _ _).trans (repairWord_view 0 fun _ => rfl)

theorem correctable_view (r : Nat) (s : State) : serverView (correctable r s) = serverView s := correctableWith_view cper_view r s

theorem declarePermanent_view (u : UnitId) (s : State) : serverView (declarePermanent u s) = serverView s := by
  unfold declarePermanent
  refine ite_view rfl ?_
  cases u with
  | core d p =>
    dsimp only
    split
    · rfl
    · exact (cper_view _ _).trans rfl
  | _ => rfl

theorem addHistory_view (u : UnitId) (s : State) : serverView (addHistory u s) = serverView s := ite_view ((declarePermanent_view _ _).trans rfl) rfl

theorem uncorrectable_view (region : Nat) (s : State) : serverView (uncorrectable region s) = serverView s :=
  (addHistory_view _ _).trans (lifeAdd_view _ _ _)

/-! ### Writes -/

theorem flagWrite_view (a n : Nat) (s : State) : serverView (flagWrite a n s) = serverView s := by
  unfold flagWrite
  repeat' split
  all_goals rfl

theorem landQuiet_view (a : Nat) (bs : List Byte) (s : State) : serverView (landQuiet a bs s) = serverView s := by
  unfold landQuiet
  refine (flagWrite_view _ _ _).trans (foldl_view (fun s b => ?_) _ _)
  exact uncorrectable_view _ _

theorem physCount_view (s : State) (die phys i n : Nat) : serverView (physCount s die phys i n) = serverView s := ite_view rfl rfl

theorem noteFind_view (point die : Nat) (ranges : List (Nat × Nat)) (s : State) (x : Find) : serverView (noteFind point die ranges s x) = serverView s := by
  unfold noteFind
  repeat' split
  any_goals rfl
  exact correctable_view _ s

theorem noteWrite_view (m : Memory) (a n : Nat) (s : State) (x : Find) : serverView (noteWrite m a n s x) = serverView s := by
  unfold noteWrite
  repeat' split
  any_goals rfl
  · exact correctable_view _ s
  · exact noteFind_view _ _ _ _ _

theorem writeMissed_view (a : Nat) (s : State) : serverView (writeMissed a s) = serverView s := by
  have hevent : serverView (uncorrectableAt a { s with intg := { s.intg with missed := s.intg.missed ++ [a] } }) = serverView s := uncorrectable_view _ _
  exact ite_view ((physCount_view _ _ _ _ _).trans hevent) hevent

theorem arriveQuiet_view (chk : Chk) (a : Nat) (bs : List Byte) (s : State) : serverView (arriveQuiet chk a bs s) = serverView s :=
  ite_view (writeMissed_view a s) ((landQuiet_view _ _ _).trans (foldl_view (noteWrite_view _ _ _) _ _))

theorem writeHost_view (addr : Nat) (bs : List Byte) (s : State) : serverView (writeHost addr bs s) = serverView s := by
  unfold writeHost
  refine foldl_view (fun s p => ?_) _ s
  rfl

theorem localWrite_view (chk : Chk) (c : CoreRef) (thread epoch : Nat) (owner : Option Nat) (dst : Nat) (bs : List Byte) (s : State) :
    serverView (localWrite chk c thread epoch owner dst bs s) = serverView s := by
  unfold localWrite
  split
  · exact ite_view (arriveQuiet_view _ _ _ _) rfl
  · exact writeHost_view _ _ s
  · exact arriveQuiet_view _ _ _ _
  · exact arriveQuiet_view _ _ _ _
  · rfl

/-! ### A core that stops (R65) -/

theorem writeDmaStatus_view (c : CoreRef) (off code done : Nat) (s : State) : serverView (writeDmaStatus c off code done s) = serverView s :=
  landQuiet_view _ _ s

theorem countDma_view (c : CoreRef) (ch code : Nat) (s : State) : serverView (countDma c ch code s) = serverView s := rfl

theorem closeDma_view (c : CoreRef) (ch code : Nat) (s : State) : serverView (closeDma c ch code s) = serverView s := by
  unfold closeDma
  exact (foldl_view (fun s q => (countDma_view _ _ _ _).trans (writeDmaStatus_view _ _ _ _ s)) _ _).trans rfl

theorem finishDma_view (c : CoreRef) (ch : Nat) (e : DmaEntry) (code done : Nat) (s : State) : serverView (finishDma c ch e code done s) = serverView s := by
  have hstatus : serverView (writeDmaStatus c e.off code done s) = serverView s := writeDmaStatus_view _ _ _ _ s
  unfold finishDma
  refine ite_view (ite_view ?_ ?_) ((closeDma_view _ _ _ _).trans hstatus)
  · exact (localWrite_view _ _ _ _ _ _ _ _).trans hstatus
  · exact (closeDma_view _ _ _ _).trans ((localWrite_view _ _ _ _ _ _ _ _).trans hstatus)

theorem haltDma_view (c : CoreRef) (ch : Nat) (s : State) : serverView (haltDma c ch s) = serverView s := by
  unfold haltDma
  dsimp only
  split
  · split
    · rfl
    · exact (finishDma_view _ _ _ _ _ _).trans rfl
  · refine ite_view (closeDma_view _ _ _ s) (ite_view ((finishDma_view _ _ _ _ _ _).trans rfl) (ite_view ((finishDma_view _ _ _ _ _ _).trans rfl)
      (ite_view ((finishDma_view _ _ _ _ _ _).trans rfl) ((finishDma_view _ _ _ _ _ _).trans ?_))))
    exact (foldl_view (fun s _ => localWrite_view _ _ _ _ _ _ _ s) _ _).trans rfl

theorem atomicAct_view (c : CoreRef) (r : MemReq) (op : AtomOp) (bytes : Nat) (operand compare : Word) (s : State) :
    serverView (atomicAct c r op bytes operand compare s).1 = serverView s := by
  unfold atomicAct
  dsimp only
  split
  · exact physCount_view _ _ _ _ _
  · split
    · rfl
    · split
      · rfl
      · exact landQuiet_view _ _ s

theorem dropRequests_view (c : CoreRef) (s : State) : serverView (dropRequests c s) = serverView s := by
  refine (rfl : serverView (dropRequests c s) = _).trans (foldl_view (fun s r => ?_) (getCore s c).requests s)
  split
  · refine (atomicAct_view _ _ _ _ _ _ _).trans ?_
    split
    · exact repairWord_view _ fun _ => rfl
    · rfl
  · rfl

theorem writeGate_view (g : Gate) (r : BitVec 256) (s : State) : serverView (writeGate g r s) = serverView s := by
  unfold writeGate
  exact (landQuiet_view _ _ _).trans rfl

theorem gateFaulted_view (s : State) : serverView (gateFaulted s) = serverView s := writeGate_view ..

theorem dropCollectives_view (c : CoreRef) (s : State) : serverView (dropCollectives c s) = serverView s := by
  refine (rfl : serverView (dropCollectives c s) = _).trans (foldl_view (fun s e => ?_) (getCore s c).colQueue s)
  split
  · rfl
  · exact (landQuiet_view _ _ _).trans (ite_view (gateFaulted_view s) rfl)
  · exact (landQuiet_view _ _ _).trans (ite_view (gateFaulted_view s) rfl)
  · rfl

theorem haltCore_view (c : CoreRef) (s : State) : serverView (haltCore c s) = serverView s := by
  have hchannels : serverView ((List.range Config.dmaChannels).foldl (fun s ch => haltDma c ch s) (dropCollectives c (dropRequests c s))) = serverView s :=
    (foldl_view (fun s ch => haltDma_view c ch s) _ _).trans ((dropCollectives_view c _).trans (dropRequests_view c s))
  unfold haltCore
  split
  · rfl
  · exact (putCore_view _ _ _).trans hchannels

theorem haltAll_view (s : State) : serverView (haltAll s) = serverView s := foldl_view (fun s _ => haltCore_view _ s) _ s

/-! ### The fatal integrity path, votes and losses (R185, R186, R294) -/

theorem repairMaster_view (s : State) : serverView (repairMaster s) = serverView s := repairWord_view 0 fun _ => rfl

theorem markLost_view (s : State) : serverView (markLost s) = serverView s := by
  have hmaster : serverView (repairMaster { s with fail := { s.fail with reportedLost := true } }) = serverView s := (repairMaster_view _).trans rfl
  unfold markLost
  exact ite_view rfl (ite_view (Eq.trans rfl hmaster) hmaster)

theorem reportLost_view (s : State) : serverView (reportLost s) = serverView s := ite_view rfl ((markLost_view _).trans (cper_view _ _))

theorem failRun_view (status : BitVec 8) (s : State) : serverView (failRun status s) = serverView s := by
  have hhalted : serverView (haltAll (setRunState 4 { s with run := { s.run with status := status, phase := .idle } })) = serverView s :=
    ((haltAll_view _).trans (setRunState_view _ _)).trans rfl
  unfold failRun
  exact ite_view ((setPhase_view _ _).trans hhalted) hhalted

theorem fatalIntegrity_view (w : CriticalWord) (s : State) : serverView (fatalIntegrity w s) = serverView s := by
  have hstopped : serverView (stopForGood 0x13 s) = serverView s := ite_view (failRun_view _ s) rfl
  unfold fatalIntegrity
  exact (markLost_view _).trans ((cper_view _ _).trans ((uncorrectable_view _ _).trans hstopped))

theorem vote_view {α : Type} [DecidableEq α] (w : CriticalWord) {t : Tri α} {put : Tri α → State → State} {s : State}
    (hput : ∀ x, serverView (put x s) = serverView s) : serverView (vote w t put s) = serverView s := by
  unfold vote
  split
  · rfl
  · exact (correctable_view _ _).trans (hput _)
  · exact fatalIntegrity_view _ _

theorem voteCommit_view (s : State) : serverView (voteCommit s) = serverView s := vote_view _ fun _ => rfl

theorem voteMaster_view (s : State) : serverView (voteMaster s) = serverView s := vote_view _ fun _ => rfl

/-! ### Step faults (R193, R266, R290) -/

theorem sendAbort_view (dest h reason : Nat) (s : State) : serverView (sendAbort dest h reason s) = serverView s := by
  unfold sendAbort
  exact Eq.trans rfl (repairWord_view (s := s) 0 fun _ => rfl)

theorem releaseGlide_view (h status : Nat) (payload : BitVec 128) (s : State) : serverView (releaseGlide h status payload s) = serverView s := by
  unfold releaseGlide
  refine (foldl_view (fun s i => ?_) _ _).trans rfl
  split <;> rfl

theorem rootAbort_view (status h : Nat) (s : State) : serverView (rootAbort status h s) = serverView s := by
  unfold rootAbort
  split
  · rfl
  · exact ite_view rfl (releaseGlide_view _ _ _ s)

theorem relayAbort_view (reason except_ h : Nat) (s : State) : serverView (relayAbort reason except_ h s) = serverView s := by
  unfold relayAbort
  exact (foldl_view (fun s g => rootAbort_view _ _ s) _ _).trans (foldl_view (fun s e => sendAbort_view _ _ _ s) _ _)

theorem abortStopped_view (s : State) : serverView (abortStopped s) = serverView s := by
  have hvoted : serverView (voteCommit (voteMaster s)) = serverView s := (voteCommit_view _).trans (voteMaster_view s)
  unfold abortStopped
  exact ite_view ((relayAbort_view _ _ _ _).trans hvoted) ((sendAbort_view _ _ _ _).trans hvoted)

theorem markFault_view (s : State) : serverView (markFault s) = serverView s := by
  unfold markFault
  split
  · exact ite_view rfl (((abortStopped_view _).trans (haltAll_view _)).trans rfl)
  all_goals rfl

theorem faultOnce_view (g : Signature) (s : State) : serverView (faultOnce g s) = serverView s :=
  (markFault_view _).trans ((cper_view _ _).trans (voteCommit_view s))

theorem raiseLost_view (s : State) : serverView (raiseLost s) = serverView s := by
  unfold raiseLost
  exact (foldl_view (fun s b => faultOnce_view _ s) _ _).trans rfl

theorem stepFault_view (g : Signature) (s : State) : serverView (stepFault g s) = serverView s := by
  unfold stepFault settleLost
  exact ite_view (faultOnce_view g s) ((raiseLost_view _).trans ((raiseLost_view _).trans (faultOnce_view g s)))

/-! ### Links (R209, R210, R213, R231) -/

theorem notePorts_view (s : State) : serverView (notePorts s) = serverView s := rfl

theorem portHigh_view (s : State) (port : Option Nat) (i n : Nat) : serverView (portHigh s port i n) = serverView s := by
  rw [portHigh_eq]
  rfl

theorem pushCtrl_view (l : Nat) (p : CtrlPkt) (s : State) : serverView (pushCtrl l p s) = serverView s :=
  ite_view ((portHigh_view _ _ _ _).trans rfl) ((portHigh_view _ _ _ _).trans rfl)

theorem pushData_view (l : Nat) (o : OutData) (s : State) : serverView (pushData l o s) = serverView s := (portHigh_view _ _ _ _).trans rfl

theorem sendUnreachable_view (die src dest xfer : Nat) (s : State) : serverView (sendUnreachable die src dest xfer s) = serverView s := by
  unfold sendUnreachable
  exact ite_view rfl rfl

theorem dropCtrl_view (die : Nat) (p : CtrlPkt) (s : State) : serverView (dropCtrl die p s) = serverView s := by
  unfold dropCtrl
  exact ite_view ((sendUnreachable_view _ _ _ _ _).trans rfl) rfl

theorem dropData_view (die : Nat) (p : DataPkt) (s : State) : serverView (dropData die p s) = serverView s := by
  unfold dropData
  exact ite_view rfl ((sendUnreachable_view _ _ _ _ _).trans rfl)

theorem discardOwned_view (owner : Option Nat) (n : Nat) (s : State) : serverView (discardOwned owner n s) = serverView s := by
  cases owner <;> rfl

theorem requeue_view (port : Option Nat) (l : Nat) (x : Link) (s : State) : serverView (requeue port l x s) = serverView s := by
  unfold requeue
  refine (foldl_view (fun s o => ?_) _ _).trans (foldl_view (fun s p => ?_) _ _)
  · split
    · exact pushData_view _ _ s
    · exact (discardOwned_view _ _ _).trans (dropData_view _ _ s)
  · split
    · exact pushCtrl_view _ _ s
    · exact dropCtrl_view _ _ s

theorem settleLink_view (l : Nat) (s : State) : serverView (settleLink l s) = serverView s := by
  unfold settleLink
  refine ite_view rfl (ite_view rfl ?_)
  split
  · rfl
  · exact ite_view rfl rfl
  · exact ite_view rfl rfl
  · rfl

theorem failLink_view (l : Nat) (s : State) : serverView (failLink l s) = serverView s := by
  have hcounted : serverView (lifeAdd (17916 + 40 * l) 1 (putLink s l { getLink s l with state := .failed, active := false, locked := false })) = serverView s :=
    (lifeAdd_view _ _ _).trans rfl
  unfold failLink
  dsimp only
  rw [notePorts_view, msix_view, cper_view, addHistory_view, hcounted]

theorem leaveUp_view (l : Nat) (s : State) : serverView (leaveUp l s) = serverView s := by
  have hcounted (y : Link) : serverView (lifeAdd (17912 + 40 * l) 1 (notePorts (putLink s l y))) = serverView s := (lifeAdd_view _ _ _).trans rfl
  unfold leaveUp
  dsimp only
  have hfault (port : Option Nat) (x y : Link) : serverView (linkFault l (requeue port l x (lifeAdd (17912 + 40 * l) 1 (notePorts (putLink s l y))))) = serverView s :=
    (stepFault_view _ _).trans ((requeue_view _ _ _ _).trans (hcounted y))
  exact ite_view ((failLink_view _ _).trans (hfault _ _ _)) ((settleLink_view _ _).trans (hfault _ _ _))

end Sys2Proof.Machine
end

section
/-! SUPPORT. Power, clocks, the option load, the boot chain and the cages (R378 to R381, R393, R404 to R416, R424, R433, R434). -/
namespace Sys2Proof.Machine

variable {s : State}

/-! ### Clients of the server -/

/-- Nobody is notified where nobody subscribes (R334). -/
theorem notify_of_noSubs (hnone : s.dop.subs = []) (key typ : Nat) (v : List Byte) : notify key typ v s = s := by
  rw [notify, hnone]
  rfl

theorem noSubs_of_view {t : State} (hview : serverView t = serverView s) (hnone : s.dop.subs = []) : t.dop.subs = [] := by
  have hempty : t.dop.subs.isEmpty = s.dop.subs.isEmpty := congrArg (fun v => v.2.2) hview
  rw [hnone] at hempty
  exact List.isEmpty_iff.mp hempty

/-! ### Rails (R404 to R409) -/

/-- The rails go without an activation to abandon (R385, R406). -/
theorem railsOff_of_idle (hidle : s.boot.upStatus ≠ 10) : railsOff s = { State.reset with
    pending := s.pending, out := s.out, free := s.free, ids := s.ids, flash := s.flash, cages := s.cages
    clk := { ({} : Clock) with tick := s.clk.tick }
    pwr := pinsOf s.pwr
    pcie := { ({} : Pcie) with perst := s.pcie.perst }
    fab := { ({} : Fabric) with links := s.fab.links.map (fun x => { ({} : Link) with peer := x.peer }) }
    mem := freshMemory s.mem } := by
  rw [railsOff, if_neg hidle]

/-- Power that is on in some form is not off, not tripped, and saw no overvoltage. -/
theorem state_of_powered (hpowered : powered s = true) : s.pwr.state ≠ .off ∧ s.pwr.state ≠ .overvoltage ∧ s.pwr.state ≠ .tripped := by
  refine ⟨fun h => ?_, fun h => ?_, fun h => ?_⟩
  all_goals
    rw [powered, h] at hpowered
    exact Bool.false_ne_true hpowered

/-- With VIN valid and PWR_EN high, step 1 begins; the cause noted for the next start is this one's (R404, R416). -/
theorem tryStart_of_inputs (hoff : s.pwr.state = .off) (hvin : s.pwr.vin = true) (hen : s.pwr.pwrEn = true) : tryStart s =
    { s with mem := freshMemory s.mem, pwr := { s.pwr with state := .step 1, nextCause := 1, resetCause := s.pwr.nextCause } } := by
  rw [tryStart, if_pos ⟨hoff, hvin, hen⟩]
  rfl

theorem tryStart_of_missing (hmissing : ¬ (s.pwr.state = .off ∧ s.pwr.vin = true ∧ s.pwr.pwrEn = true)) : tryStart s = s := if_neg hmissing

/-! ### Samples (R408) -/

/-- Above 3600 W, W gains 8 up to 48. -/
theorem updateW_w_of_high {watts : Nat} (hhigh : 3600 < watts) (d : Nat) (s : State) :
    (updateW watts d s).pwr.w = vset s.pwr.w d (BitVec.ofNat 8 (Nat.min 48 ((vget 0 s.pwr.w d).toNat + 8))) := by
  have hnext : nextW s d watts = (Nat.min 48 ((vget 0 s.pwr.w d).toNat + 8), false) := if_pos hhigh
  simp only [updateW, hnext]

/-- A sample without temperatures, noted but not yet acted on. -/
def sampled (mv watts : Nat) (s : State) : State :=
  { s with pwr := { s.pwr with
    vinMv := BitVec.ofNat 32 mv, samples := (watts :: s.pwr.samples).take 1000
    peaks := (s.clk.tick, watts) :: s.pwr.peaks.filter (fun x => decide (s.clk.tick < x.1 + secTicks 1) && decide (watts < x.2)) } }

theorem exec_powerSample_powered (mv watts : Nat) (hpowered : powered s = true) : exec (.powerSample mv watts []) s =
    .next (if s.opt.loaded then updateW watts 1 (updateW watts 0 (sampled mv watts s)) else sampled mv watts s) := by
  change execPowerSample mv watts [] s = _
  simp only [execPowerSample, hpowered, if_true]
  rfl

theorem updateW_both_of_high {watts : Nat} (hhigh : 3600 < watts) (s : State) {d : Nat} (hd : d < 2) :
    (vget 0 (updateW watts 1 (updateW watts 0 s)).pwr.w d).toNat = Nat.min 48 ((vget 0 s.pwr.w d).toNat + 8) := by
  have hsmall (n : Nat) : (BitVec.ofNat 8 (Nat.min 48 n)).toNat = Nat.min 48 n := by
    rw [BitVec.toNat_ofNat]
    exact Nat.mod_eq_of_lt (Nat.lt_of_le_of_lt (Nat.min_le_left 48 n) (by decide))
  rw [updateW_w_of_high hhigh, updateW_w_of_high hhigh]
  obtain rfl | rfl : d = 0 ∨ d = 1 := by omega
  · rw [vget_vset_ne _ _ _ (by decide), vget_vset_self _ _ _ (by decide), hsmall]
  · rw [vget_vset_self _ _ _ (by decide), vget_vset_ne _ _ _ (by decide), hsmall]

/-! ### The option load (R413 to R415) -/

theorem loadLife_view (s : State) : serverView (loadLife s) = serverView s := by
  unfold loadLife
  split
  · exact view_of_eq rfl rfl
  · exact view_of_eq rfl rfl

theorem loadMap_view (die : Nat) (s : State) : serverView (loadMap die s) = serverView s := by
  unfold loadMap
  dsimp only
  split
  · exact (reportLost_view _).trans (view_of_eq rfl rfl)
  · exact view_of_eq rfl rfl

theorem loadLinks_view (s : State) : serverView (loadLinks s) = serverView s := by
  unfold loadLinks trainLinks
  rw [notePorts_view, foldl_view (fun s l => settleLink_view l s)]
  exact view_of_eq rfl rfl

theorem spmUndefined_view (die phys : Nat) (s : State) : serverView (spmUndefined die phys s) = serverView s := rfl

theorem settleQuads_view (s : State) : serverView (settleQuads s) = serverView s := by
  refine ite_view (foldl_view (fun s i => ?_) _ s) rfl
  unfold settleQuad
  refine ite_view ?_ (ite_view rfl rfl)
  rw [foldl_view (fun s i => spmUndefined_view _ _ s)]
  exact view_of_eq rfl rfl

theorem bootStart_view (s : State) : serverView (bootStart s) = serverView s := rfl

/-- The words, the new challenge and what else stands before the blocks leave reset. -/
def wordsTaken (words : List Copies) (attempts repairs : Nat) (s : State) : State :=
  let vs := words.map (fun x => (copiesTri x).value)
  let (c, s) := takeFree s
  { s with
    opt := { s.opt with
      loaded := true, words := vs.map triple, hash := sha256 (vs.flatMap (fun v => toLE 8 v.toNat))
      optWords := BitVec.ofNat 16 vs.length, repairs := BitVec.ofNat 32 repairs, attempts := BitVec.ofNat 8 attempts, loadedAt := s.clk.tick }
    dop := { s.dop with nodeId := s.dop.slot + 1, challenge := c }
    pwr := { s.pwr with wAt := Vector.replicate 2 s.clk.tick }
    fail := { s.fail with awaiting := awaitedUnits s } }

theorem loadComplete_eq (words : List Copies) (attempts repairs : Nat) (s : State) : loadComplete words attempts repairs s =
    bootStart (restartPasses (settleQuads (loadLinks (loadMap 1 (loadMap 0 (loadLife (wordsTaken words attempts repairs s))))))) := rfl

/-- What load-complete makes of the words and of the node ID stands through the rest of the load. -/
theorem loadComplete_view (words : List Copies) (attempts repairs : Nat) (s : State) :
    serverView (loadComplete words attempts repairs s) = serverView (wordsTaken words attempts repairs s) := by
  have hpasses (s : State) : serverView (restartPasses s) = serverView s := rfl
  rw [loadComplete_eq, bootStart_view, hpasses, settleQuads_view, loadLinks_view, loadMap_view, loadMap_view, loadLife_view]

/-- The words that the votes of a load's attempts repaired. -/
def repairedIn (attempts : List (List Copies)) : Nat := (attempts.map (fun xs => ((votedPrefix xs).filter copiesRepaired).length)).sum

section
variable {words : List Copies} (hon : s.pwr.state = .on) (hlocked : vget 0 s.clk.pll 0 ≠ 0) (hunloaded : s.opt.loaded = false)
  (hreleased : s.pwr.warmRstN = true)
include hon hlocked hunloaded hreleased

/-- A load whose first attempt votes every word is complete. -/
theorem exec_optionLoadComplete_first (hok : attemptOk words = true) :
    exec (.optionLoadComplete [words]) s = .next (loadComplete words 1 (repairedIn [words]) s) := by
  change execOptionLoadComplete [words] s = _
  rw [execOptionLoadComplete, if_pos ⟨hon, hlocked, hunloaded, hreleased⟩]
  exact congrArg Host.Outcome.next (if_pos hok)

/-- A third attempt that fails ends in option failure. -/
theorem exec_optionLoadComplete_third (hbad : attemptOk words = false) (hfailed : attemptFailed words = true) :
    exec (.optionLoadComplete [words, words, words]) s = .next (setPower .optionFailure { s with
      pwr := { s.pwr with modFaultN := false }
      opt := { s.opt with repairs := BitVec.ofNat 32 (repairedIn [words, words, words]), attempts := 3 } }) := by
  change execOptionLoadComplete [words, words, words] s = _
  have hearlier : ((([words, words, words].take (3 - 1)).all attemptFailed) && decide (3 ≤ 3)) = true := by
    change ((attemptFailed words && (attemptFailed words && true)) && true) = true
    rw [hfailed]
    rfl
  rw [execOptionLoadComplete, if_pos ⟨hon, hlocked, hunloaded, hreleased⟩]
  exact congrArg Host.Outcome.next ((if_pos hearlier).trans ((if_neg (ne_true_of_eq_false hbad)).trans (if_pos ⟨hfailed, rfl⟩)))

end

/-! ### The boot chain (R378 to R381) -/

/-- A slot that is unreadable or does not verify does not pass. -/
theorem bootResult_ne_one {bad : List Nat} {c slot : Nat} (hbad : 2 * c + slot ∈ bad ∨ slotResult s c slot ≠ 1) : bootResult bad s c slot ≠ 1 := by
  unfold bootResult
  split
  · decide
  · next hread => exact hbad.resolve_left (fun hmem => hread (List.contains_iff_mem.mpr hmem))

/-- A component without a slot that passes does not run. -/
theorem chooseSlot_none {bad : List Nat} {c : Nat} (ha : bootResult bad s c 0 ≠ 1) (hb : bootResult bad s c 1 ≠ 1) : (chooseSlot bad s c).1 = none := by
  unfold chooseSlot
  dsimp only
  obtain hp | hp := Nat.mod_two_eq_zero_or_one (vget 0 s.flash.pref c).toNat
  all_goals
    rw [hp]
    simp [ha, hb]

/-- A component of which both slots verify runs from the preferred one. -/
theorem chooseSlot_isSome {c : Nat} (ha : slotResult s c 0 = 1) (hb : slotResult s c 1 = 1) : (chooseSlot [] s c).1.isNone = false := by
  unfold chooseSlot bootResult
  dsimp only
  obtain hp | hp := Nat.mod_two_eq_zero_or_one (vget 0 s.flash.pref c).toNat
  all_goals
    rw [hp]
    simp [ha, hb]

theorem runSlot_active (k : Nat) (slot : Option Nat) (log : Nat) (s : State) :
    (runSlot k slot log s).boot.active = vset s.boot.active k (BitVec.ofNat 8 (slot.getD 255)) := rfl

theorem endBoot_active (state : BitVec 8) (s : State) : (endBoot state s).boot.active = s.boot.active := rfl

/-- A component runs from the slot chosen for it. -/
def runChosen (bad : List Nat) (c : Nat) (s : State) : State := runSlot c (chooseSlot bad s c).1 (chooseSlot bad s c).2 s

theorem slotResult_runChosen (bad : List Nat) (k : Nat) (s : State) (c i : Nat) : slotResult (runChosen bad k s) c i = slotResult s c i := rfl

theorem bootChain_eq (bad : List Nat) (s : State) : bootChain bad s =
    let fsb := runChosen bad 0 (voteFuses s)
    let mgmt := runChosen bad 1 fsb
    let link := runChosen bad 2 mgmt
    if (chooseSlot bad (voteFuses s) 0).1.isNone then endBoot 3 (runSlot 2 none 0 (runSlot 1 none 0 fsb))
    else if (chooseSlot bad fsb 1).1.isNone then endBoot 3 (runSlot 2 none 0 mgmt)
    else if (chooseSlot bad mgmt 2).1.isNone then endBoot 2 link else linkStarted (endBoot 1 link) := rfl

/-- Without an FSB that passes the module is in recovery (R381). -/
theorem bootChain_of_noFsb {bad : List Nat} (hnone : (chooseSlot bad (voteFuses s) 0).1 = none) : bootChain bad s =
    endBoot 3 (runSlot 2 none 0 (runSlot 1 none 0 (runSlot 0 none (chooseSlot bad (voteFuses s) 0).2 (voteFuses s)))) := by
  rw [bootChain_eq]
  dsimp only
  rw [runChosen, hnone, Option.isNone_none, if_pos rfl]

theorem settleLink_boot (l : Nat) (s : State) : (settleLink l s).boot = s.boot := by
  unfold settleLink
  dsimp only
  repeat' split
  all_goals rfl

theorem linkStarted_boot (s : State) : (linkStarted s).boot = { s.boot with linkLoaded := true } := by
  have hlinks (xs : List Nat) (t : State) : (xs.foldl (fun s l => settleLink l s) t).boot = t.boot := by
    induction xs generalizing t with
    | nil => rfl
    | cons l xs ih => exact (ih _).trans (settleLink_boot l t)
  exact hlinks _ _

/-- With every slot in order the module is ready. -/
theorem bootChain_of_all (h : ∀ c < 3, slotResult (voteFuses s) c 0 = 1 ∧ slotResult (voteFuses s) c 1 = 1) :
    bootChain [] s = linkStarted (endBoot 1 (runChosen [] 2 (runChosen [] 1 (runChosen [] 0 (voteFuses s))))) := by
  have hsome {t : State} (hsame : ∀ c i, slotResult t c i = slotResult (voteFuses s) c i) {c : Nat} (hc : c < 3) : (chooseSlot [] t c).1.isNone = false :=
    chooseSlot_isSome ((hsame c 0).trans (h c hc).1) ((hsame c 1).trans (h c hc).2)
  have hfsb (c i : Nat) : slotResult (runChosen [] 0 (voteFuses s)) c i = slotResult (voteFuses s) c i := slotResult_runChosen ..
  have hmgmt (c i : Nat) : slotResult (runChosen [] 1 (runChosen [] 0 (voteFuses s))) c i = slotResult (voteFuses s) c i :=
    (slotResult_runChosen ..).trans (hfsb c i)
  rw [bootChain_eq]
  dsimp only
  rw [hsome (fun _ _ => rfl) (by decide), hsome hfsb (by decide), hsome hmgmt (by decide), if_neg Bool.false_ne_true, if_neg Bool.false_ne_true,
    if_neg Bool.false_ne_true]

/-! ### The reference (R393) -/

theorem notifyClocks_of_noSubs (hnone : s.dop.subs = []) : notifyClocks s = s := by
  simp only [notifyClocks, notify_of_noSubs hnone]

/-! ### Cages (R433, R434) -/

theorem darkCage_view (k : Nat) (s : State) : serverView (darkCage k s) = serverView s := by
  refine foldl_view (fun s l => ?_) _ s
  exact ite_view ((leaveUp_view _ _).trans rfl) ((settleLink_view _ _).trans rfl)

theorem setCage_of_noSubs (hnone : s.dop.subs = []) (k : Nat) (v : BitVec 8) : setCage k v s = { s with cages := vset s.cages k v } :=
  notify_of_noSubs (s := { s with cages := vset s.cages k v }) hnone _ _ _

theorem setCage_darkCage (hnone : s.dop.subs = []) (k : Nat) (v : BitVec 8) :
    setCage k v (darkCage k s) = { darkCage k s with cages := vset (darkCage k s).cages k v } :=
  setCage_of_noSubs (noSubs_of_view (darkCage_view k s) hnone) k v

/-! ### The commands of PWR and of the cages, case by case -/

theorem exec_vinOff_powered (hpowered : powered s = true) (hvin : s.pwr.vin = true) :
    exec .vinOff s = .next (setNext 2 (railsOff { s with pwr := { s.pwr with vin := false } })) := by
  obtain ⟨-, -, htripped⟩ := state_of_powered hpowered
  change execVinOff s = _
  simp only [execVinOff, htripped, hvin, if_false, if_true]

theorem exec_pwrEnLow_powered (hpowered : powered s = true) :
    exec .pwrEnLow s = .next (setNext 1 (railsOff { s with pwr := { s.pwr with pwrEn := false, pwrEnLowAt := some s.clk.tick } })) := by
  obtain ⟨-, hover, htripped⟩ := state_of_powered hpowered
  change execPwrEnLow s = _
  unfold execPwrEnLow
  dsimp only
  split
  · next h => exact absurd h htripped
  · next h => exact absurd h hover
  · rfl

theorem exec_thermalTrip_powered (hpowered : powered s = true) : exec .thermalTrip s =
    .next { setNext 3 (setPower .tripped (railsOff s)) with pwr := { (setNext 3 (setPower .tripped (railsOff s))).pwr with modFaultN := false } } := by
  change execThermalTrip s = _
  rw [execThermalTrip, if_pos hpowered]

theorem exec_vinOvervoltage_powered (hpowered : powered s = true) (hvin : s.pwr.vin = true) :
    exec .vinOvervoltage s = .next (setNext 2 (setPower .overvoltage (railsOff s))) := by
  obtain ⟨-, -, htripped⟩ := state_of_powered hpowered
  change execVinOvervoltage s = _
  rw [execVinOvervoltage, if_pos ⟨hvin, htripped⟩]

theorem exec_pwrEnHigh_off (hoff : s.pwr.state = .off) :
    exec .pwrEnHigh s = .next (tryStart { s with pwr := { s.pwr with pwrEn := true, pwrEnLowAt := none } }) := by
  change execPwrEnHigh s = _
  simp only [execPwrEnHigh, hoff, reduceCtorEq, if_false]

/-- A thermal trip is cleared only by PWR_EN low for 1 s (R407). -/
theorem exec_pwrEnHigh_tripped {low : Nat} (htripped : s.pwr.state = .tripped) (hlow : s.pwr.pwrEnLowAt = some low) : exec .pwrEnHigh s =
    .next (if low + secTicks 1 ≤ s.clk.tick then tryStart (setPower .off { s with pwr := { s.pwr with pwrEn := true, pwrEnLowAt := none, modFaultN := true } })
      else { s with pwr := { s.pwr with pwrEn := true, pwrEnLowAt := none } }) := by
  change execPwrEnHigh s = _
  simp only [execPwrEnHigh, htripped, hlow, if_true]

theorem whenUnit_cage {k : Nat} (hk : k < 12) (t : State) : whenUnit (decide (k < 12)) t = .next t := by
  rw [decide_eq_true hk]
  rfl

theorem exec_railStepValid_step {n : Nat} (hstep : s.pwr.state = .step n) : exec .railStepValid s =
    .next (if n < 6 then setPower (.step (n + 1)) s else setPower .on { s with pwr := { s.pwr with pwrGood := true } }) := by
  change execRailStepValid s = _
  rw [execRailStepValid, hstep]

theorem exec_bootChainComplete_waiting (hloaded : s.opt.loaded = true) (hwaiting : s.boot.state = 0) (bad : List Nat) :
    exec (.bootChainComplete bad) s = .next (bootChain bad s) := by
  change execBootChainComplete bad s = _
  rw [execBootChainComplete, if_pos ⟨hloaded, hwaiting⟩]

namespace PowerControl

/-! ### The clauses of O56 -/

theorem start_clauses :
    (∀ s : State, s.pwr.state = .off → s.pwr.pwrEn = true → ∃ t, exec .vinOn s = .next t ∧ t.pwr.state = .step 1 ∧ t.pwr.vin = true ∧
      t.pwr.resetCause = s.pwr.nextCause ∧ t.flash = s.flash ∧ t.clk = s.clk ∧ t.pwr.pwrGood = s.pwr.pwrGood) ∧
    (∀ s : State, s.pwr.state = .off → s.pwr.vin = true → ∃ t, exec .pwrEnHigh s = .next t ∧ t.pwr.state = .step 1 ∧ t.pwr.pwrEn = true ∧
      t.pwr.resetCause = s.pwr.nextCause ∧ t.flash = s.flash) := by
  refine ⟨fun s hoff hen => ?_, fun s hoff hvin => ?_⟩
  · refine ⟨_, congrArg Host.Outcome.next (tryStart_of_inputs ?_ rfl ?_), rfl, rfl, rfl, rfl, rfl, rfl⟩
    · exact hoff
    · exact hen
  · refine ⟨_, (exec_pwrEnHigh_off hoff).trans (congrArg _ (tryStart_of_inputs ?_ ?_ rfl)), rfl, rfl, rfl, rfl⟩
    · exact hoff
    · exact hvin

theorem off_clauses (hpowered : powered s = true) (hidle : s.boot.upStatus ≠ 10) :
    (s.pwr.vin = true → ∃ t, exec .vinOff s = .next t ∧ t.pwr.state = .off ∧ t.pwr.vin = false ∧ t.pwr.nextCause = 2 ∧ t.flash = s.flash ∧ t.run.state = 0 ∧
      t.opt.loaded = false ∧ t.cores = [] ∧ t.pending = s.pending) ∧
    (∃ t, exec .pwrEnLow s = .next t ∧ t.pwr.state = .off ∧ t.pwr.pwrEn = false ∧ t.pwr.pwrEnLowAt = some s.clk.tick ∧ t.pwr.nextCause = 1 ∧
      t.flash = s.flash ∧ t.opt.loaded = false ∧ t.cores = []) ∧
    (∃ t, exec .thermalTrip s = .next t ∧ t.pwr.state = .tripped ∧ t.pwr.modFaultN = false ∧ t.pwr.nextCause = 3 ∧ t.flash = s.flash ∧ t.opt.loaded = false) ∧
    (s.pwr.vin = true → ∃ t, exec .vinOvervoltage s = .next t ∧ t.pwr.state = .overvoltage ∧ t.pwr.nextCause = 2 ∧ t.flash = s.flash ∧ t.opt.loaded = false) := by
  refine ⟨fun hvin => ⟨_, exec_vinOff_powered hpowered hvin, ?_⟩, ⟨_, exec_pwrEnLow_powered hpowered, ?_⟩, ⟨_, exec_thermalTrip_powered hpowered, ?_⟩,
    fun hvin => ⟨_, exec_vinOvervoltage_powered hpowered hvin, ?_⟩⟩
  · rw [railsOff_of_idle (s := { s with pwr := { s.pwr with vin := false } }) hidle]
    exact ⟨rfl, rfl, rfl, rfl, rfl, rfl, rfl, rfl⟩
  · rw [railsOff_of_idle (s := { s with pwr := { s.pwr with pwrEn := false, pwrEnLowAt := some s.clk.tick } }) hidle]
    exact ⟨rfl, rfl, rfl, rfl, rfl, rfl, rfl⟩
  · rw [railsOff_of_idle hidle]
    exact ⟨rfl, rfl, rfl, rfl, rfl⟩
  · rw [railsOff_of_idle hidle]
    exact ⟨rfl, rfl, rfl, rfl⟩

theorem overvoltageClear_clause (hover : s.pwr.state = .overvoltage) (hvin : s.pwr.vin = true) : ∃ t, exec .vinOvervoltageClear s = .next t ∧
    t.pwr.state = (if s.pwr.pwrEn then .step 1 else .off) ∧ t.flash = s.flash := by
  have hexec : exec .vinOvervoltageClear s = .next (tryStart (setPower .off s)) := congrArg Host.Outcome.next (if_pos hover)
  by_cases hen : s.pwr.pwrEn = true
  · refine ⟨_, hexec.trans (congrArg _ (tryStart_of_inputs rfl ?_ ?_)), (if_pos hen).symm, rfl⟩
    · exact hvin
    · exact hen
  · refine ⟨_, hexec.trans (congrArg _ (tryStart_of_missing ?_)), (if_neg hen).symm, rfl⟩
    exact fun h => hen h.2.2

theorem tripEnds_clause {low : Nat} (htripped : s.pwr.state = .tripped) (hlow : s.pwr.pwrEnLowAt = some low) (hvin : s.pwr.vin = true) :
    ∃ t, exec .pwrEnHigh s = .next t ∧ t.pwr.state = (if low + 5200000000 ≤ s.clk.tick then .step 1 else .tripped) ∧ t.flash = s.flash := by
  have hsecond : secTicks 1 = 5200000000 := by decide
  have hexec := exec_pwrEnHigh_tripped htripped hlow
  rw [hsecond] at hexec
  by_cases hlong : low + 5200000000 ≤ s.clk.tick
  · rw [if_pos hlong] at hexec ⊢
    refine ⟨_, hexec.trans (congrArg _ (tryStart_of_inputs rfl ?_ rfl)), rfl, rfl⟩
    exact hvin
  · rw [if_neg hlong] at hexec ⊢
    exact ⟨_, hexec, htripped, rfl⟩

theorem sample_clause (mv watts : Nat) (hpowered : powered s = true) : ∃ t, exec (.powerSample mv watts []) s = .next t ∧ t = { s with pwr := t.pwr } ∧
    t.pwr.vinMv = BitVec.ofNat 32 mv ∧ t.pwr.samples = (watts :: s.pwr.samples).take 1000 ∧ t.pwr.temps = s.pwr.temps ∧
    (s.opt.loaded = true → 3600 < watts → ∀ d, d < 2 → (vget 0 t.pwr.w d).toNat = Nat.min 48 ((vget 0 s.pwr.w d).toNat + 8)) ∧
    (s.opt.loaded = false → t.pwr.w = s.pwr.w) := by
  refine ⟨_, exec_powerSample_powered mv watts hpowered, ?_⟩
  by_cases hloaded : s.opt.loaded = true
  · rw [if_pos hloaded]
    exact ⟨rfl, rfl, rfl, rfl, fun _ hhigh d hd => updateW_both_of_high hhigh (sampled mv watts s) hd, fun h => absurd hloaded (ne_true_of_eq_false h)⟩
  · rw [if_neg hloaded]
    exact ⟨rfl, rfl, rfl, rfl, fun h => absurd h hloaded, fun _ => rfl⟩

theorem pllLock_clause (slot : BitVec 6) (hon : s.pwr.state = .on) (hunlocked : vget 0 s.clk.pll 0 = 0) :
    exec (.pllLock slot false) s = .next { s with
      clk := { s.clk with pll := Vector.replicate 2 1, refPresent := true }, dop := { s.dop with slot := slot.setWidth 8 }
      pwr := { s.pwr with w := Vector.replicate 2 48 } } ∧
    exec (.pllLock slot true) s = .next { s with
      clk := { s.clk with pll := Vector.replicate 2 1, refPresent := true }, pwr := { s.pwr with modFaultN := false, state := .testMode } } :=
  ⟨congrArg Host.Outcome.next (if_pos ⟨hon, hunlocked⟩), congrArg Host.Outcome.next (if_pos ⟨hon, hunlocked⟩)⟩

theorem optionLoad_clause (words : List Copies) (hon : s.pwr.state = .on) (hlocked : vget 0 s.clk.pll 0 ≠ 0) (hunloaded : s.opt.loaded = false)
    (hreleased : s.pwr.warmRstN = true) :
    (attemptOk words = true → ∃ t, exec (.optionLoadComplete [words]) s = .next t ∧ t.opt.loaded = true ∧ t.opt.attempts = 1 ∧ t.opt.loadedAt = s.clk.tick ∧
      t.opt.optWords = BitVec.ofNat 16 words.length ∧ t.boot.state = 0 ∧ t.boot.serving = false ∧ t.dop.nodeId = s.dop.slot + 1) ∧
    (attemptFailed words = true → attemptOk words = false → ∃ t, exec (.optionLoadComplete [words, words, words]) s = .next t ∧
      t.pwr.state = .optionFailure ∧ t.pwr.modFaultN = false ∧ t.opt.loaded = false ∧ t.opt.attempts = 3) := by
  refine ⟨fun hok => ⟨_, exec_optionLoadComplete_first hon hlocked hunloaded hreleased hok, ?_⟩,
    fun hfailed hbad => ⟨_, exec_optionLoadComplete_third hon hlocked hunloaded hreleased hbad hfailed, rfl, rfl, hunloaded, rfl⟩⟩
  have hview := loadComplete_view words 1 (repairedIn [words]) s
  have hopt : (loadComplete words 1 (repairedIn [words]) s).opt = (wordsTaken words 1 (repairedIn [words]) s).opt := congrArg (·.1) hview
  have hnode : (loadComplete words 1 (repairedIn [words]) s).dop.nodeId = s.dop.slot + 1 := congrArg (·.2.1) hview
  have hlength : (wordsTaken words 1 (repairedIn [words]) s).opt.optWords = BitVec.ofNat 16 words.length := congrArg (BitVec.ofNat 16) (List.length_map _)
  rw [hopt, hnode, hlength]
  exact ⟨rfl, rfl, rfl, rfl, rfl, rfl, rfl⟩

theorem bootChain_clause (hloaded : s.opt.loaded = true) (hwaiting : s.boot.state = 0) :
    let u := voteFuses s
    (∀ bad : List Nat, (0 ∈ bad ∨ slotResult u 0 0 ≠ 1) → (1 ∈ bad ∨ slotResult u 0 1 ≠ 1) →
      ∃ t, exec (.bootChainComplete bad) s = .next t ∧ t.boot.state = 3 ∧ t.boot.serving = true ∧ vget 0 t.boot.active 0 = 255) ∧
    (slotResult u 0 0 = 1 → slotResult u 0 1 = 1 → slotResult u 1 0 = 1 → slotResult u 1 1 = 1 → slotResult u 2 0 = 1 → slotResult u 2 1 = 1 →
      ∃ t, exec (.bootChainComplete []) s = .next t ∧ t.boot.state = 1 ∧ t.boot.serving = true ∧ t.boot.silent = false ∧ t.boot.linkLoaded = true) := by
  intro u
  have hexec := exec_bootChainComplete_waiting hloaded hwaiting
  refine ⟨fun bad ha hb => ?_, fun hfa hfb hma hmb hla hlb => ?_⟩
  · have hnone : (chooseSlot bad u 0).1 = none := chooseSlot_none (bootResult_ne_one ha) (bootResult_ne_one hb)
    refine ⟨_, (hexec bad).trans (congrArg Host.Outcome.next (bootChain_of_noFsb hnone)), rfl, rfl, ?_⟩
    rw [endBoot_active, runSlot_active, runSlot_active, runSlot_active]
    rw [vget_vset_ne _ _ _ (by decide), vget_vset_ne _ _ _ (by decide), vget_vset_self _ _ _ (by decide)]
    rfl
  · have hall : ∀ c < 3, slotResult u c 0 = 1 ∧ slotResult u c 1 = 1
      | 0, _ => ⟨hfa, hfb⟩
      | 1, _ => ⟨hma, hmb⟩
      | 2, _ => ⟨hla, hlb⟩
    refine ⟨_, (hexec []).trans (congrArg Host.Outcome.next (bootChain_of_all hall)), ?_⟩
    rw [linkStarted_boot]
    exact ⟨rfl, rfl, rfl, rfl⟩

theorem refLost_clause (hpresent : s.clk.refPresent = true) (hnone : s.dop.subs = []) :
    exec .refLost s = .next { s with clk := { s.clk with
      pll := Vector.replicate 2 2, refPresent := false, refLosses := satInc s.clk.refLosses, refLostAt := some s.clk.tick } } := by
  change execRefLost s = _
  rw [execRefLost, if_pos hpresent]
  dsimp only
  rw [notifyClocks_of_noSubs, notify_of_noSubs]
  · exact hnone
  · exact hnone

theorem refReturn_clause (hlost : s.clk.refLostAt.isSome = true) (hnone : s.dop.subs = []) :
    exec .refReturn s = .next { s with clk := { s.clk with pll := Vector.replicate 2 1, refPresent := true, refLostAt := none } } := by
  change execRefReturn s = _
  rw [execRefReturn, if_pos hlost, notifyClocks_of_noSubs]
  exact hnone

theorem refLostTimeout_clause {t : Nat} (hlost : s.clk.refLostAt = some t) (htime : t + 52000000000 ≤ s.clk.tick) :
    exec .refLostTimeout s = .next (reportLost s) := by
  change execRefLostTimeout s = _
  rw [execRefLostTimeout, hlost]
  exact congrArg Host.Outcome.next (if_pos htime)

theorem cage_clause {k : Nat} (hk : k < 12) (hnone : s.dop.subs = []) :
    (vget 0 s.cages k = 0 → exec (.cageInsert k .passive) s = .next { s with cages := vset s.cages k 1 } ∧
      exec (.cageInsert k .active) s = .next { s with cages := vset s.cages k 2 }) ∧
    (vget 0 s.cages k ≠ 0 → exec (.cageRemove k) s = .next { darkCage k s with cages := vset (darkCage k s).cages k 0 }) ∧
    (vget 0 s.cages k = 2 → exec (.cageOvercurrent k) s = .next { darkCage k s with cages := vset (darkCage k s).cages k 3 }) := by
  refine ⟨fun hempty => ⟨?_, ?_⟩, fun hheld => ?_, fun hactive => ?_⟩
  · exact (whenUnit_cage hk _).trans (congrArg Host.Outcome.next ((if_pos hempty).trans (setCage_of_noSubs hnone k 1)))
  · exact (whenUnit_cage hk _).trans (congrArg Host.Outcome.next ((if_pos hempty).trans (setCage_of_noSubs hnone k 2)))
  · exact (whenUnit_cage hk _).trans (congrArg Host.Outcome.next ((if_neg hheld).trans (setCage_darkCage hnone k 0)))
  · exact (whenUnit_cage hk _).trans (congrArg Host.Outcome.next ((if_pos hactive).trans (setCage_darkCage hnone k 3)))

/-- Settles O56, clause by clause. The drop of PWR_GOOD alone at a rail out of band is the model's choice of log 95, the latch over VIN that of log 94, the reference that locks the PLLs at once when it returns that of log 97, and recovery without a MGMT slot that of log 86. -/
theorem powerClocksBoot : Obligations.PowerClocksBoot := by
  unfold Obligations.PowerClocksBoot
  refine ⟨start_clauses.1, start_clauses.2, fun s hoff hvin => ?_, fun n s hstep => ⟨fun hlt => ?_, fun hge => ?_⟩, fun _ _ => rfl,
    fun s hpowered hidle => off_clauses hpowered hidle, fun s hover hvin => overvoltageClear_clause hover hvin,
    fun low s htripped hlow hvin => tripEnds_clause htripped hlow hvin, fun mv watts s hpowered => sample_clause mv watts hpowered,
    fun slot s hon hunlocked => pllLock_clause slot hon hunlocked,
    fun words s hon hlocked hunloaded hreleased => optionLoad_clause words hon hlocked hunloaded hreleased,
    fun s hloaded hwaiting => bootChain_clause hloaded hwaiting, fun s hpresent hnone => refLost_clause hpresent hnone,
    fun s hlost hnone => refReturn_clause hlost hnone, fun t s hlost htime => refLostTimeout_clause hlost htime,
    fun k s hk hnone => cage_clause hk hnone⟩
  · refine (exec_pwrEnHigh_off hoff).trans (congrArg _ (tryStart_of_missing fun h => ?_))
    exact absurd h.2.1 (ne_true_of_eq_false hvin)
  · rw [exec_railStepValid_step hstep, if_pos hlt]
    rfl
  · rw [exec_railStepValid_step hstep, if_neg (Nat.not_lt.mpr hge)]
    rfl

end PowerControl

end Sys2Proof.Machine
end


section
/-! SUPPORT. Instruction words (R51), scalar results (R56) and branches (R57): each row's command as the issue of its word, with what it then does. -/
namespace Sys2Proof.Machine

variable {th : ThreadRef} {w : BitVec 64} {s : State}

/-! ### The fields of a word (R51) -/

/-- The number that a word's fields spell. -/
theorem encodeWord_toNat (cls op : Nat) (f : Fields) : (encodeWord cls op f).toNat =
    cls % 16 * 2 ^ 60 + op % 256 * 2 ^ 52 + f.d.toNat * 2 ^ 47 + f.a.toNat * 2 ^ 42 + f.b.toNat * 2 ^ 37 + f.fl.toNat * 2 ^ 32 + f.imm.toNat := by
  have hd := f.d.isLt
  have ha := f.a.isLt
  have hb := f.b.isLt
  have hfl := f.fl.isLt
  have himm := f.imm.isLt
  simp only [encodeWord, BitVec.toNat_ofNat]
  omega

theorem wordClass_encodeWord {cls : Nat} (hcls : cls < 16) (op : Nat) (f : Fields) : wordClass (encodeWord cls op f) = cls := by
  have hd := f.d.isLt
  have ha := f.a.isLt
  have hb := f.b.isLt
  have hfl := f.fl.isLt
  have himm := f.imm.isLt
  simp only [wordClass, encodeWord_toNat]
  omega

theorem wordOp_encodeWord (cls : Nat) {op : Nat} (hop : op < 256) (f : Fields) : wordOp (encodeWord cls op f) = op := by
  have hd := f.d.isLt
  have ha := f.a.isLt
  have hb := f.b.isLt
  have hfl := f.fl.isLt
  have himm := f.imm.isLt
  simp only [wordOp, encodeWord_toNat]
  omega

/-- A field of `n` bits from bit `lo` on. -/
theorem extractLsb'_eq_of_toNat {x : BitVec 64} {lo n : Nat} {v : BitVec n} (h : x.toNat / 2 ^ lo % 2 ^ n = v.toNat) : x.extractLsb' lo n = v :=
  BitVec.eq_of_toNat_eq (by rw [BitVec.extractLsb'_toNat, Nat.shiftRight_eq_div_pow, h])

theorem wordFields_encodeWord (cls op : Nat) (f : Fields) : wordFields (encodeWord cls op f) = f := by
  have hd := f.d.isLt
  have ha := f.a.isLt
  have hb := f.b.isLt
  have hfl := f.fl.isLt
  have himm := f.imm.isLt
  have hw := encodeWord_toNat cls op f
  have ed : (encodeWord cls op f).extractLsb' 47 5 = f.d := extractLsb'_eq_of_toNat (by omega)
  have ea : (encodeWord cls op f).extractLsb' 42 5 = f.a := extractLsb'_eq_of_toNat (by omega)
  have eb : (encodeWord cls op f).extractLsb' 37 5 = f.b := extractLsb'_eq_of_toNat (by omega)
  have efl : (encodeWord cls op f).extractLsb' 32 5 = f.fl := extractLsb'_eq_of_toNat (by omega)
  have eimm : (encodeWord cls op f).extractLsb' 0 32 = f.imm := extractLsb'_eq_of_toNat (by omega)
  rw [wordFields, ed, ea, eb, efl, eimm]

/-- A word is the word of its own class, operation and fields: no bit is dropped. -/
theorem encodeWord_of_word (w : BitVec 64) : encodeWord (wordClass w) (wordOp w) (wordFields w) = w := by
  have hw := w.isLt
  apply BitVec.eq_of_toNat_eq
  simp only [encodeWord_toNat, wordClass, wordOp, wordFields, BitVec.extractLsb'_toNat, Nat.shiftRight_eq_div_pow]
  omega

/-- Settles O6: the fields of a word do not overlap and leave no bit out. -/
theorem instructionWordFields : Obligations.InstructionWordFields :=
  ⟨fun _ _ f hcls hop => ⟨wordClass_encodeWord hcls _ f, wordOp_encodeWord _ hop f, wordFields_encodeWord _ _ f⟩, encodeWord_of_word⟩

/-! ### An issue that may take place -/

theorem MayIssue.next (h : MayIssue s th w) (k : State → State) : issueThen th w s k = .next (k (issued s th)) := issueThen_next k h.1 h.2

/-- A command that is the issue of a word acts in the state after the issue. -/
theorem MayIssue.exec_next {c : Instr} {k : State → State} (h : MayIssue s th w) (hc : exec c s = issueThen th w s k) :
    exec c s = .next (k (issued s th)) := hc.trans (h.next k)

@[simp] theorem threadOf_afterIssue (s : State) (th : ThreadRef) (x : Thread) : threadOf (afterIssue s th x) th = x := by
  simp [threadOf, afterIssue]

@[simp] theorem putThreadOf_afterIssue (s : State) (th : ThreadRef) (x y : Thread) : putThreadOf (afterIssue s th x) th y = afterIssue s th y := by
  simp [putThreadOf, afterIssue]

@[simp] theorem aclkOf_afterIssue (s : State) (th : ThreadRef) (x : Thread) (g : Core → Core) (die : Nat) :
    aclkOf (afterIssue s th x g) die = aclkOf s die := by
  rw [← aclkOf_fetched s th die]; rfl

/-! ### Scalar results (R56) -/

/-- The command of a row issues its word and then writes the row's result. -/
def Computes (row : ScalarRow) : Prop :=
  ∀ th f s, exec (row.make th f) s = issueThen th (encodeWord 0 row.op f) s (fun t =>
    writeResult th f.d (row.value f (readReg t th f.a) (readReg t th f.b) (readReg t th f.d)) row.latency t)

theorem Computes.of_alu {make : ThreadRef → Fields → Instr} {op n : Nat} {g : Word → Word → Word}
    (hmake : ∀ th f s, exec (make th f) s = issueThen th (encodeWord 0 op f) s (alu th f n g)) {v : Fields → Word → Word → Word → Word}
    (hv : ∀ f a b d, v f a b d = g a b) : Computes ⟨make, op, n, v⟩ := fun th f s => by
  simp only [hmake, hv]; rfl

theorem Computes.of_aluImm {make : ThreadRef → Fields → Instr} {op : Nat} {g : Fields → Word → Word}
    (hmake : ∀ th f s, exec (make th f) s = issueThen th (encodeWord 0 op f) s (aluImm th f (g f))) {v : Fields → Word → Word → Word → Word}
    (hv : ∀ f a b d, v f a b d = g f a) : Computes ⟨make, op, 1, v⟩ := fun th f s => by
  simp only [hmake, hv]; rfl

theorem ofNat_shiftLeft (a : Word) (n : Nat) : BitVec.ofNat 64 (a.toNat * 2 ^ n) = a <<< n := by
  apply BitVec.eq_of_toNat_eq; simp [Nat.shiftLeft_eq]

theorem ofNat_shiftRight (a : Word) (n : Nat) : BitVec.ofNat 64 (a.toNat / 2 ^ n) = a >>> n := by
  apply BitVec.eq_of_toNat_eq
  have h : a.toNat / 2 ^ n < 2 ^ 64 := Nat.lt_of_le_of_lt (Nat.div_le_self ..) a.isLt
  simp only [BitVec.toNat_ofNat, BitVec.toNat_ushiftRight, Nat.shiftRight_eq_div_pow, Nat.mod_eq_of_lt h]

theorem ofInt_shiftRight (a : Word) (n : Nat) : BitVec.ofInt 64 (a.toInt / 2 ^ n) = a.sshiftRight n := by
  simp [BitVec.sshiftRight, Int.shiftRight_eq_div_pow]

theorem ofInt_sub (a b : Word) : BitVec.ofInt 64 (a.toInt - b.toInt) = a - b := by
  apply BitVec.eq_of_toInt_eq; simp [BitVec.toInt_sub, BitVec.toInt_ofInt]

theorem ofInt_add_imm (a : Word) (f : Fields) : BitVec.ofInt 64 (a.toInt + f.imm.toInt) = a + sext f := by
  simp [sext_eq, BitVec.ofInt_add]

theorem ofNat_imm (f : Fields) : BitVec.ofNat 64 f.imm.toNat = zext f := by simp [zext]

theorem ofNat_lui (imm : BitVec 32) (d : Word) : BitVec.ofNat 64 (imm.toNat * 2 ^ 32 + d.toNat % 2 ^ 32) = imm ++ d.setWidth 32 := by
  apply BitVec.eq_of_toNat_eq
  have h := imm.isLt
  rw [BitVec.toNat_append, Nat.shiftLeft_eq, BitVec.toNat_setWidth, Nat.mul_comm, ← Nat.two_pow_add_eq_or_of_lt (Nat.mod_lt _ (by decide)), BitVec.toNat_ofNat]
  omega

/-- Every scalar instruction with a result computes what R56 says. -/
theorem scalarRows_compute : ∀ row ∈ scalarRows, Computes row := by
  simp only [scalarRows, List.forall_mem_cons, List.not_mem_nil, false_implies, implies_true, and_true]
  refine ⟨?add, ?sub, ?and, ?or, ?xor, ?shl, ?shr, ?sra, ?mul, ?mulhu, ?mulh, ?min, ?max, ?slt, ?sltu, ?addi, ?andi, ?ori, ?xori, ?shli, ?shri,
    ?srai, ?li, ?lui, ?seq⟩
  case add => exact .of_alu (fun _ _ _ => rfl) fun _ _ _ _ => rfl
  case sub => exact .of_alu (fun _ _ _ => rfl) fun _ a b _ => ofInt_sub a b
  case and => exact .of_alu (fun _ _ _ => rfl) fun _ _ _ _ => rfl
  case or => exact .of_alu (fun _ _ _ => rfl) fun _ _ _ _ => rfl
  case xor => exact .of_alu (fun _ _ _ => rfl) fun _ _ _ _ => rfl
  case shl => exact .of_alu (fun _ _ _ => rfl) fun _ a b _ => ofNat_shiftLeft a _
  case shr => exact .of_alu (fun _ _ _ => rfl) fun _ a b _ => ofNat_shiftRight a _
  case sra => exact .of_alu (fun _ _ _ => rfl) fun _ a b _ => ofInt_shiftRight a _
  case mul => exact .of_alu (fun _ _ _ => rfl) fun _ _ _ _ => rfl
  case mulhu => exact .of_alu (fun _ _ _ => rfl) fun _ _ _ _ => rfl
  case mulh => exact .of_alu (fun _ _ _ => rfl) fun _ _ _ _ => rfl
  case min => exact .of_alu (fun _ _ _ => rfl) fun _ a b _ => by simp only [BitVec.slt, decide_eq_true_eq, ← Int.not_lt, ite_not]
  case max => exact .of_alu (fun _ _ _ => rfl) fun _ a b _ => by simp only [BitVec.slt, decide_eq_true_eq, ← Int.not_lt, ite_not]
  case slt => exact .of_alu (fun _ _ _ => rfl) fun _ a b _ => by simp only [BitVec.slt, decide_eq_true_eq]
  case sltu => exact .of_alu (fun _ _ _ => rfl) fun _ a b _ => by simp only [BitVec.ult, decide_eq_true_eq]
  case addi => exact .of_aluImm (g := fun f a => a + sext f) (fun _ _ _ => rfl) fun f a _ _ => ofInt_add_imm a f
  case andi => exact .of_aluImm (g := fun f a => a &&& zext f) (fun _ _ _ => rfl) fun f a _ _ => by rw [ofNat_imm]
  case ori => exact .of_aluImm (g := fun f a => a ||| zext f) (fun _ _ _ => rfl) fun f a _ _ => by rw [ofNat_imm]
  case xori => exact .of_aluImm (g := fun f a => a ^^^ zext f) (fun _ _ _ => rfl) fun f a _ _ => by rw [ofNat_imm]
  case shli => exact .of_aluImm (g := fun f a => a <<< (f.imm.toNat % 64)) (fun _ _ _ => rfl) fun f a _ _ => ofNat_shiftLeft a _
  case shri => exact .of_aluImm (g := fun f a => a >>> (f.imm.toNat % 64)) (fun _ _ _ => rfl) fun f a _ _ => ofNat_shiftRight a _
  case srai => exact .of_aluImm (g := fun f a => a.sshiftRight (f.imm.toNat % 64)) (fun _ _ _ => rfl) fun f a _ _ => ofInt_shiftRight a _
  case li => exact fun th f s => by simp only [← sext_eq]; rfl
  case lui => exact fun th f s => by simp only [ofNat_lui]; rfl
  case seq => exact .of_alu (fun _ _ _ => rfl) fun _ _ _ _ => rfl

/-- Settles O7: each row computes its result, and a result of the issuing thread is the write of its register. -/
theorem scalarResults : Obligations.ScalarResults := by
  intro row hrow th f s h
  rw [scalarRows_compute row hrow, h.next, writeResult_issued]
  simp only [readReg_issued]

/-! ### Branches (R57) -/

theorem targetOf_eq (pc : Word) (f : Fields) : targetOf pc f = pc + sext f * 8 := by
  have h8 : BitVec.ofInt 64 (f.imm.toInt * 8) = sext f * 8 := by rw [BitVec.ofInt_mul, ← sext_eq]; rfl
  rw [targetOf, BitVec.ofInt_add, h8, BitVec.ofInt_toInt]

/-- A jump of the issuing thread. -/
theorem jump_issued (s : State) (th : ThreadRef) (target : Word) :
    jump th target (issued s th) = afterIssue s th (jumped (threadOf s th) (aclkOf s th.die) target) := by
  simp only [jump, threadOf_issued_passed, putThreadOf_issued, aclkOf_issued]; rfl

/-- The command of a row issues its word and then jumps when the row says so. -/
def Branches (row : BranchRow) : Prop :=
  ∀ th f s, exec (row.make th f) s = issueThen th (encodeWord 1 row.op f) s (branchIf th f row.jumps)

theorem Branches.of_test {make : ThreadRef → Fields → Instr} {op : Nat} {g j : Word → Word → Bool}
    (hmake : ∀ th f s, exec (make th f) s = issueThen th (encodeWord 1 op f) s (branchIf th f g)) (hj : ∀ a b, j a b = g a b) :
    Branches ⟨make, op, j⟩ := fun th f s => by
  obtain rfl : j = g := funext fun a => funext fun b => hj a b
  exact hmake th f s

theorem branchRows_branch : ∀ row ∈ branchRows, Branches row := by
  simp only [branchRows, List.forall_mem_cons, List.not_mem_nil, false_implies, implies_true, and_true]
  refine ⟨?br, ?beq, ?bne, ?blt, ?bge, ?bltu, ?bgeu⟩
  case br => exact .of_test (fun _ _ _ => rfl) fun _ _ => rfl
  case beq => exact .of_test (fun _ _ _ => rfl) fun a b => (beq_eq_decide a b).symm
  case bne => exact .of_test (fun _ _ _ => rfl) fun a b => by simp [bne, beq_eq_decide]
  case blt => exact .of_test (fun _ _ _ => rfl) fun a b => by simp [BitVec.slt]
  case bge => exact .of_test (fun _ _ _ => rfl) fun a b => by simp only [BitVec.slt, ← Int.not_lt, decide_not]
  case bltu => exact .of_test (fun _ _ _ => rfl) fun a b => by simp [BitVec.ult]
  case bgeu => exact .of_test (fun _ _ _ => rfl) fun a b => by simp only [BitVec.ult, ← Nat.not_lt, decide_not]

theorem branchIf_issued (s : State) (th : ThreadRef) (f : Fields) (g : Word → Word → Bool) : branchIf th f g (issued s th) =
    afterIssue s th (if g (readReg s th f.a) (readReg s th f.b) = true
      then jumped (threadOf s th) (aclkOf s th.die) (targetOf (threadOf s th).pc f) else passed (threadOf s th)) := by
  simp only [branchIf, readReg_issued, branchTarget, issuedPc_issued, jump_issued, targetOf_eq]
  split
  · rfl
  · exact issued_eq_afterIssue s th

/-- CALL writes its result before it jumps. -/
theorem call_issued (s : State) (th : ThreadRef) (f : Fields) :
    jump th (branchTarget (issued s th) th f) (writeResult th f.d (issuedPc (issued s th) th + 8) 1 (issued s th)) = afterIssue s th
      (jumped (withResult (threadOf s th) (aclkOf s th.die) f.d ((threadOf s th).pc + 8) 1) (aclkOf s th.die) (targetOf (threadOf s th).pc f)) := by
  rw [writeResult_issued, branchTarget, issuedPc_issued, ← targetOf_eq]
  simp only [jump, threadOf_afterIssue, putThreadOf_afterIssue, aclkOf_afterIssue, withResult]
  split <;> rfl

/-- Settles O8: a branch jumps or goes on; the others are what their command does after the issue. -/
theorem branchesJump : Obligations.BranchesJump := by
  refine ⟨fun row hrow th f s h => ?_, fun th f s h => ?_, fun th f s h haligned => ?_, fun th f s h => ?_, fun th f s h => ?_⟩
  · rw [branchRows_branch row hrow, h.next, branchIf_issued]
  · rw [show exec (.call th f) s = execCall th f s from rfl, execCall, h.next]
    exact congrArg _ (call_issued s th f)
  · refine (h.exec_next rfl).trans ?_
    simp only [jumpReg, readReg_issued, haligned, ne_eq, not_true, if_false, jump_issued]
  · exact (h.exec_next rfl).trans (congrArg _ (issued_eq_afterIssue s th))
  · rw [show exec (.texit th f) s = execTexit th f s from rfl, execTexit, h.next]
    simp only [threadOf_issued_passed, putThreadOf_issued]

end Sys2Proof.Machine
end


section
/-! SUPPORT. What an issue leaves of the rest of the machine, the traps of an issue (R52, R56, R57, R61, R64, R65), and the requests of loads and atomics (R45, R48, R49). -/
namespace Sys2Proof.Machine

variable {th : ThreadRef} {w : BitVec 64} {s : State}

/-! ### The machine around an issue -/

@[simp] theorem ids_fetched (s : State) (th : ThreadRef) : (fetched s th).ids = s.ids := by
  unfold fetched; split
  · exact (correctable_reports _ _).ids_eq
  · rfl

@[simp] theorem map_fetched (s : State) (th : ThreadRef) : (fetched s th).map = s.map := by
  unfold fetched; split
  · exact (correctable_reports _ _).map_eq
  · rfl

theorem mem_of_mfind {β : Type} {m : SMap β} {k : Nat} {v : β} (h : mfind m k = some v) : (k, v) ∈ m := by
  induction m with
  | nil => simp [mfind] at h
  | cons e m ih =>
    obtain ⟨a, w⟩ := e
    by_cases hk : k = a
    · subst hk; simp [mfind] at h; simp [h]
    · simp only [mfind, if_neg hk] at h; exact List.mem_cons_of_mem _ (ih h)

/-- A test of a table's entries does not see an entry replaced by one that answers it alike. -/
theorem any_mset_of_alike {β : Type} (p : Nat × β → Bool) {m : SMap β} {k : Nat} {v : β} (hsome : ∀ u, mfind m k = some u → p (k, v) = p (k, u))
    (hnone : mfind m k = none → p (k, v) = false) : (mset m k v).any p = m.any p := by
  induction m with
  | nil => simp [mset, hnone rfl]
  | cons e m ih =>
    obtain ⟨a, w⟩ := e
    simp only [mset]
    split
    · next hlt =>
      cases hf : mfind ((a, w) :: m) k with
      | none => simp [hnone hf]
      | some u =>
        have hu := List.any_eq_true (p := p) (l := (a, w) :: m)
        rw [List.any_cons, hsome u hf]
        cases hp : p (k, u) with
        | false => simp
        | true => exact (hu.mpr ⟨_, mem_of_mfind hf, hp⟩).symm ▸ rfl
    · split
      · next hk =>
        subst hk
        simp only [List.any_cons, hsome w (by simp [mfind])]
      · next hk =>
        simp only [List.any_cons]
        rw [ih (fun u hu => hsome u (by simp only [mfind, if_neg hk, hu])) (fun hu => hnone (by simp only [mfind, if_neg hk, hu]))]

/-- A new form of a core with the drops it had. -/
theorem dropCovers_putCore {c : CoreRef} {k : Core} (hdrops : k.drops = (getCore s c).drops) (die a : Nat) :
    dropCovers (putCore s c k) die a = dropCovers s die a := by
  refine any_mset_of_alike _ (fun u hu => ?_) (fun hn => ?_)
  · simp only [hdrops, getCore, mget, hu, Option.getD_some]
  · simp only [hdrops, getCore, mget, hn, Option.getD_none, List.any_nil, Bool.and_false]

theorem dropCovers_fetched (s : State) (th : ThreadRef) (die a : Nat) : dropCovers (fetched s th) die a = dropCovers s die a := by
  unfold fetched; split
  · unfold dropCovers dropLine
    rw [(correctable_reports _ _).cores_eq]
    exact dropCovers_putCore (k := { getCore s (coreOf th) with icache := mdel (getCore s (coreOf th)).icache (icacheBase (threadOf s th).pc) }) rfl die a
  · rfl

theorem dropCovers_issued (s : State) (th : ThreadRef) (die a : Nat) : dropCovers (issued s th) die a = dropCovers s die a := by
  rw [← dropCovers_fetched s th, issued_eq_afterIssue]
  exact dropCovers_putCore (k := putThread { getCore (fetched s th) (coreOf th) with issuedAt := _, search := _ } _ _) rfl die a

/-! ### Traps at an issue -/

/-- The command of an atomic starts it when it issues. -/
theorem atomicRows_start : ∀ row ∈ atomicRows, ∀ th f s, exec (row.make th f) s = issueThen th (encodeWord 5 row.op f) s (startAtomic row.kind th f) := by
  simp only [atomicRows, List.forall_mem_cons, List.not_mem_nil, false_implies, implies_true, and_true]
  exact ⟨fun _ _ _ => rfl, fun _ _ _ => rfl, fun _ _ _ => rfl, fun _ _ _ => rfl, fun _ _ _ => rfl⟩

/-- The command of a vector instruction starts it when it issues. -/
theorem vectorRows_start : ∀ row ∈ vectorRows, ∀ th f s, exec (row.make th f) s = issueThen th (encodeWord 3 row.op f) s (startVector row.kind th f) := by
  simp only [vectorRows, List.forall_mem_cons, List.not_mem_nil, false_implies, implies_true, and_true]
  refine ⟨?vadd, ?vsub, ?vmul, ?vfma, ?vmax, ?vmin, ?vabs, ?vneg, ?vcvt, ?vexp, ?vlog, ?vrcp, ?vrsqrt, ?vtanh, ?vsigmoid⟩ <;> exact fun _ _ _ => rfl

/-- The command of every listed instruction, ACS.ALLOC aside, issues its word. -/
theorem issueRows_issue : ∀ row ∈ issueRows, ∀ th f s, ∃ k, exec (row.make th f) s = issueThen th (encodeWord row.cls row.op f) s k := by
  simp only [issueRows, List.forall_mem_append, List.forall_mem_map]
  refine ⟨⟨⟨⟨fun row hrow th f s => ⟨_, scalarRows_compute row hrow th f s⟩, fun row hrow th f s => ⟨_, branchRows_branch row hrow th f s⟩⟩,
    fun row hrow th f s => ⟨_, vectorRows_start row hrow th f s⟩⟩, fun row hrow th f s => ⟨_, atomicRows_start row hrow th f s⟩⟩, ?_⟩
  simp only [List.forall_mem_cons, List.not_mem_nil, false_implies, implies_true, and_true]
  refine ⟨?nop, ?ld, ?ldU, ?st, ?cacheDrop, ?rdspec, ?call, ?jr, ?texit, ?brk, ?mxaFill, ?mxaRun, ?mxaDrain, ?acsFree, ?mxaSync, ?dmaPush, ?dmaStat,
    ?fenceLocal, ?waitflag, ?ksel, ?setep, ?colStart, ?bar, ?sred, ?colWait⟩
  case call => exact fun th f s => ⟨_, show execCall th f s = _ by unfold execCall; rfl⟩
  case texit => exact fun th f s => ⟨_, show execTexit th f s = _ by unfold execTexit; rfl⟩
  case mxaSync => exact fun th f s => ⟨_, show execMxaSync th f s = _ by unfold execMxaSync; rfl⟩
  case fenceLocal => exact fun th f s => ⟨_, show execFenceLocal th f s = _ by unfold execFenceLocal; rfl⟩
  case ksel => exact fun th f s => ⟨_, show execKsel th f s = _ by unfold execKsel; rfl⟩
  case setep => exact fun th f s => ⟨_, show execSetep th f s = _ by unfold execSetep; rfl⟩
  all_goals exact fun _ _ _ => ⟨_, rfl⟩

theorem startLoad_misaligned (u : Bool) {f : Fields} (h : addrOf s th f % 2 ^ (f.fl.toNat % 4) ≠ 0) :
    startLoad u th f (issued s th) = trapIssued th trapAlign (addrOf s th f) (issued s th) := by
  rw [startLoad, effectiveAddr_issued]; exact if_pos h

theorem startLoad_beyond (u : Bool) {f : Fields} (h : addrOf s th f % 2 ^ (f.fl.toNat % 4) = 0)
    (hr : scalarReach (addrOf s th f) (2 ^ (f.fl.toNat % 4)) = false) :
    startLoad u th f (issued s th) = trapIssued th trapAddr (addrOf s th f) (issued s th) := by
  rw [startLoad, effectiveAddr_issued]; exact (if_neg (not_not.mpr h)).trans (if_pos hr)

theorem startLoad_reaching (u : Bool) {f : Fields} (h : addrOf s th f % 2 ^ (f.fl.toNat % 4) = 0)
    (hr : scalarReach (addrOf s th f) (2 ^ (f.fl.toNat % 4)) = true) :
    startLoad u th f (issued s th) = addRequest th f.d (addrOf s th f)
      (.load (2 ^ (f.fl.toNat % 4)) (bit f.fl 2) (u || dropCovers s th.die (addrOf s th f))) (issued s th) := by
  rw [startLoad, effectiveAddr_issued, dropCovers_issued]; exact (if_neg (not_not.mpr h)).trans (if_neg (by rw [accessBytes, hr]; decide))

theorem startStore_misaligned (chk : Chk) {f : Fields} (h : addrOf s th f % 2 ^ (f.fl.toNat % 4) ≠ 0) :
    startStore th f chk (issued s th) = trapIssued th trapAlign (addrOf s th f) (issued s th) := by
  rw [startStore, effectiveAddr_issued]; exact if_pos h

theorem startStore_beyond (chk : Chk) {f : Fields} (h : addrOf s th f % 2 ^ (f.fl.toNat % 4) = 0)
    (hr : scalarReach (addrOf s th f) (2 ^ (f.fl.toNat % 4)) = false) :
    startStore th f chk (issued s th) = trapIssued th trapAddr (addrOf s th f) (issued s th) := by
  rw [startStore, effectiveAddr_issued]; exact (if_neg (not_not.mpr h)).trans (if_pos hr)

/-- An access that starts with these traps: a misaligned one, and one that no such access may reach. -/
structure AccessTraps (th : ThreadRef) (s : State) (a n : Nat) (reach : Nat → Nat → Bool) (start : State → State) : Prop where
  misaligned : a % n ≠ 0 → start (issued s th) = trapIssued th trapAlign a (issued s th)
  beyond : a % n = 0 → reach a n = false → start (issued s th) = trapIssued th trapAddr a (issued s th)

/-- The commands of loads and stores start such an access when they issue. -/
theorem scalarAccess_traps {make : ThreadRef → Fields → Instr} {op : Nat} {chk : Chk}
    (hrow : (make, op) ∈ [(Instr.ld, 0x20), (Instr.ldU, 0x21), (fun th f => Instr.st th f chk, 0x22)]) (th : ThreadRef) (f : Fields) (s : State) :
    ∃ start, exec (make th f) s = issueThen th (encodeWord 0 op f) s start ∧
      AccessTraps th s (addrOf s th f) (2 ^ (f.fl.toNat % 4)) scalarReach start := by
  simp only [List.mem_cons, Prod.mk.injEq, List.not_mem_nil, or_false] at hrow
  obtain ⟨rfl, rfl⟩ | ⟨rfl, rfl⟩ | ⟨rfl, rfl⟩ := hrow
  · exact ⟨_, rfl, startLoad_misaligned false, startLoad_beyond false⟩
  · exact ⟨_, rfl, startLoad_misaligned true, startLoad_beyond true⟩
  · exact ⟨_, rfl, startStore_misaligned chk, startStore_beyond chk⟩

theorem startAtomic_traps (op : AtomOp) (th : ThreadRef) (f : Fields) (s : State) :
    AccessTraps th s (readReg s th f.a).toNat (if bit f.fl 0 then 8 else 4) atomicReach (startAtomic op th f) := by
  constructor
  · intro h; rw [startAtomic, readReg_issued]; exact if_pos h
  · intro h hr; rw [startAtomic, readReg_issued]; exact (if_neg (not_not.mpr h)).trans (if_pos hr)

theorem startAtomic_reaching (op : AtomOp) {f : Fields} (h : (readReg s th f.a).toNat % (if bit f.fl 0 then 8 else 4) = 0)
    (hr : atomicReach (readReg s th f.a).toNat (if bit f.fl 0 then 8 else 4) = true) :
    startAtomic op th f (issued s th) = addRequest th f.d (readReg s th f.a).toNat
      (.atomic op (if bit f.fl 0 then 8 else 4) (readReg s th f.b) (readReg s th f.d)) (issued s th) := by
  simp only [startAtomic, readReg_issued]
  rw [if_neg (not_not.mpr h), if_neg (by rw [hr]; decide)]

/-- A command whose access starts with these traps takes them where the claims say. -/
theorem AccessTraps.exec {c : Instr} {a n : Nat} {reach : Nat → Nat → Bool} {start : State → State} (h : AccessTraps th s a n reach start)
    (hi : MayIssue s th w) (hc : exec c s = issueThen th w s start) :
    (a % n ≠ 0 → exec c s = .next (trap (coreOf th) th.thread 2 a (threadOf s th).pc.toNat (afterIssue s th { threadOf s th with allocWait := false }))) ∧
    (a % n = 0 → reach a n = false →
      exec c s = .next (trap (coreOf th) th.thread 3 a (threadOf s th).pc.toNat (afterIssue s th { threadOf s th with allocWait := false }))) := by
  constructor
  · intro hn; rw [hi.exec_next hc, h.misaligned hn, trapIssued_issued]; rfl
  · intro hn hr; rw [hi.exec_next hc, h.beyond hn hr, trapIssued_issued]; rfl

/-- Settles O9. The ADDR of a misaligned JR is the model's choice of log 35, and TRAP_ALIGN before TRAP_ADDR that of log 56. -/
theorem instructionTraps : Obligations.InstructionTraps := by
  refine ⟨fun th f s h => ?brk, fun th w s h hlisted => ?illegal, fun th f s h hodd => ?jr, fun row hrow th f s hwf hslot hbad => ?line,
    fun make op chk hrow th f s h => ?access, fun row hrow th f s h => ?atomic⟩
  case brk => exact (h.exec_next rfl).trans (congrArg _ (trapIssued_issued s th _ _))
  case illegal =>
    have hc : exec (.illegalInstruction th w) s = issueThen th w s (trapIssued th trapIllegal 0) := if_neg (by rw [hlisted]; decide)
    exact (h.exec_next hc).trans (congrArg _ (trapIssued_issued s th _ _))
  case jr =>
    refine (h.exec_next rfl).trans (congrArg _ ?_)
    rw [jumpReg, readReg_issued]
    exact (if_pos hodd).trans (trapIssued_issued s th _ _)
  case line =>
    obtain ⟨k, hk⟩ := issueRows_issue row hrow th f s
    exact hk.trans (issueThen_bad k hwf hslot hbad)
  case access =>
    obtain ⟨start, hc, htraps⟩ := scalarAccess_traps hrow th f s
    exact htraps.exec h hc
  case atomic => exact (startAtomic_traps row.kind th f s).exec h (atomicRows_start row hrow th f s)

/-! ### Requests of loads and atomics -/

/-- A new form of the issuing thread's core, after one of the thread. -/
theorem putCore_afterIssue (s : State) (th : ThreadRef) (x : Thread) (g : Core → Core) :
    putCore (afterIssue s th x) (coreOf th) (g (getCore (afterIssue s th x) (coreOf th))) = afterIssue s th x g := by
  simp [afterIssue]

/-- A request of the issuing thread enters its core's list. -/
theorem addRequest_issued (s : State) (th : ThreadRef) (d : BitVec 5) (a : Nat) (kind : ReqKind) :
    addRequest th d a kind (issued s th) = named (afterIssue s th (awaiting (threadOf s th) d) (asked s th d a kind)) := by
  rw [← putCore_afterIssue]
  simp only [addRequest, threadOf_issued_passed, putThreadOf_issued, issuedPc_issued]
  have hids : (afterIssue s th (markBusy (passed (threadOf s th)) d)).ids = s.ids := ids_fetched s th
  have hmap : (afterIssue s th (markBusy (passed (threadOf s th)) d)).map = s.map := map_fetched s th
  have hclk := aclkOf_afterIssue s th (markBusy (passed (threadOf s th)) d) id th.die
  simp only [takeId, asked, awaiting]
  rw [← hids, ← hmap, ← hclk]
  rfl

/-- Settles O11: the access that issues is aligned and in reach, and its request is named and translated at this moment. -/
theorem loadsAndAtomicsAsk : Obligations.LoadsAndAtomicsAsk := by
  refine ⟨fun th f s h haligned hreach => ?_, fun th f s h haligned hreach => ?_, fun row hrow th f s h haligned hreach => ?_⟩
  · rw [h.exec_next (k := startLoad false th f) rfl, startLoad_reaching false haligned hreach, addRequest_issued, Bool.false_or]
  · rw [h.exec_next (k := startLoad true th f) rfl, startLoad_reaching true haligned hreach, addRequest_issued, Bool.true_or]
  · rw [h.exec_next (atomicRows_start row hrow th f s), startAtomic_reaching row.kind haligned hreach, addRequest_issued]

end Sys2Proof.Machine
end


section
/-! SUPPORT. Loads that return (R49, R56, R166), stores (R56, R76, R77, R143, R191), writes at an SPM window (R75, R76), RDSPEC (R55), sync instructions and the sleepers that wake (R58, R62, R70, R77, R167). -/
namespace Sys2Proof.Machine

variable {th : ThreadRef} {c : CoreRef} {s : State}

/-! ### What an issue leaves of the machine -/

/-- What no report and no core holds is as it was before the word was fetched. -/
theorem fetched_keeps {α : Type} (g : State → α) (hreports : ∀ {s t}, ReportsOnly s t → g t = g s) (hcore : ∀ s c k, g (putCore s c k) = g s)
    (s : State) (th : ThreadRef) : g (fetched s th) = g s := by
  unfold fetched; split
  · exact (hreports (correctable_reports _ _)).trans (hcore ..)
  · rfl

theorem issued_keeps {α : Type} (g : State → α) (hreports : ∀ {s t}, ReportsOnly s t → g t = g s) (hcore : ∀ s c k, g (putCore s c k) = g s)
    (s : State) (th : ThreadRef) : g (issued s th) = g s := by
  rw [issued_eq_afterIssue]; exact (hcore ..).trans (fetched_keeps g hreports hcore s th)

@[simp] theorem issued_mem (s : State) (th : ThreadRef) : (issued s th).mem = s.mem := issued_keeps State.mem (·.mem_eq) (fun _ _ _ => rfl) s th
@[simp] theorem issued_map (s : State) (th : ThreadRef) : (issued s th).map = s.map := issued_keeps State.map (·.map_eq) (fun _ _ _ => rfl) s th
@[simp] theorem issued_noc (s : State) (th : ThreadRef) : (issued s th).noc = s.noc := issued_keeps State.noc (·.noc_eq) (fun _ _ _ => rfl) s th
@[simp] theorem issued_ids (s : State) (th : ThreadRef) : (issued s th).ids = s.ids := issued_keeps State.ids (·.ids_eq) (fun _ _ _ => rfl) s th
@[simp] theorem issued_clk (s : State) (th : ThreadRef) : (issued s th).clk = s.clk := issued_keeps State.clk (·.clk_eq) (fun _ _ _ => rfl) s th
@[simp] theorem issued_fab (s : State) (th : ThreadRef) : (issued s th).fab = s.fab := issued_keeps State.fab (·.fab_eq) (fun _ _ _ => rfl) s th
@[simp] theorem issued_time (s : State) (th : ThreadRef) : (issued s th).time = s.time := issued_keeps State.time (fun h => by rw [h]) (fun _ _ _ => rfl) s th
@[simp] theorem issued_variant (s : State) (th : ThreadRef) : (issued s th).run.variant = s.run.variant :=
  issued_keeps (·.run.variant) (fun h => by rw [h]) (fun _ _ _ => rfl) s th
@[simp] theorem issued_lost (s : State) (th : ThreadRef) : (issued s th).intg.lost = s.intg.lost :=
  issued_keeps (·.intg.lost) (·.lost_eq) (fun _ _ _ => rfl) s th
@[simp] theorem issued_missed (s : State) (th : ThreadRef) : (issued s th).intg.missed = s.intg.missed :=
  issued_keeps (·.intg.missed) (·.missed_eq) (fun _ _ _ => rfl) s th
@[simp] theorem physCore_issued (s : State) (th : ThreadRef) (c : CoreRef) : physCore (issued s th) c = physCore s c := by simp [physCore]
@[simp] theorem ownSpm_issued (s : State) (th : ThreadRef) (c : CoreRef) (off : Nat) : ownSpm (issued s th) c off = ownSpm s c off := by simp [ownSpm]
theorem clean_issued (h : Clean s) (th : ThreadRef) : Clean (issued s th) := by simpa [Clean] using h

/-- Of its core an issue changes the threads, the instruction cache, the slot and the search alone. -/
theorem getCore_issued_eq (s : State) (th : ThreadRef) : ∃ threads search slot icache, getCore (issued s th) (coreOf th) =
    { getCore s (coreOf th) with threads := threads, search := search, issuedAt := slot, icache := icache } := by
  rw [getCore_issued]
  unfold fetched; split
  · rw [getCore_dropLine]; exact ⟨_, _, _, _, rfl⟩
  · exact ⟨_, _, _, _, rfl⟩

/-- What the threads, the instruction cache, the slot and the search do not hold stands after an issue. -/
theorem issued_core_keeps {α : Type} (g : Core → α)
    (hg : ∀ k threads search slot icache, g { k with threads := threads, search := search, issuedAt := slot, icache := icache } = g k)
    (s : State) (th : ThreadRef) : g (getCore (issued s th) (coreOf th)) = g (getCore s (coreOf th)) := by
  obtain ⟨_, _, _, _, h⟩ := getCore_issued_eq s th
  rw [h, hg]

/-! ### Loads that return -/

/-- A load past the HRC, not of control space, finds the bytes of its place in the memories. -/
theorem loadNow_uncached {r : MemReq} {n a : Nat} (hstore : r.store = some a) (htier : placeOf r.addr n = .tier1 → a = r.addr)
    (hcontrol : ∀ off, placeOf r.addr n ≠ .control off) : loadNow s c r n true = readNum s.mem a n := by
  unfold loadNow
  split
  · next h => rw [htier h]; rfl
  · next off h => exact absurd h (hcontrol off)
  · rw [hstore]

/-- A load whose value is not fixed takes it now; outside control space nothing votes. -/
theorem fixRequest_load {r : MemReq} {n : Nat} {sg u : Bool} (hkind : r.kind = .load n sg u) (hvalue : r.value = none)
    (hcontrol : ∀ off, placeOf r.addr n ≠ .control off) : ∃ bad, fixRequest c r s =
      (s, { r with bad := bad, value := some (loadValue n sg (loadNow s c r n u)) }) := by
  refine ⟨if (servedByHrc s c r).isSome then none else r.store.bind (fun a => badIn s.mem a (reqBytes r)), ?_⟩
  simp only [fixRequest, hvalue, hkind]
  cases hplace : placeOf r.addr n with
  | control off => exact absurd hplace (hcontrol off)
  | _ => rfl

/-- A request of an active thread leaves the list with its value in the register. -/
theorem deliver_of_active {i : Nat} {r : MemReq} (v : Word) (hmode : (getThread (getCore s c) r.thread).mode ≠ .inactive) : deliver c i r v s =
    putCore s c (putThread { getCore s c with requests := dropAt (getCore s c).requests i } r.thread
      (returnReg (getThread (getCore s c) r.thread) r.d v)) := congrArg (putCore s c) (if_neg hmode)

theorem servedByHrc_uncached {r : MemReq} {n : Nat} {sg : Bool} (hkind : r.kind = .load n sg true) : servedByHrc s c r = none := by
  simp only [servedByHrc, hkind]

theorem needsFill_uncached {r : MemReq} {n : Nat} {sg : Bool} (hkind : r.kind = .load n sg true) : needsFill s c r = false := by
  simp only [needsFill, hkind]

/-- A request that no line serves, in a store without uncorrectable words, completes with its value. -/
theorem completeRequest_clean {i : Nat} {r : MemReq} (hs : Clean s) (hserved : servedByHrc s c r = none) (hbad : r.bad = none) :
    completeRequest c i r .ok s = deliver c i (fixRequest c r s).2 ((fixRequest c r s).2.value.getD 0) (fixRequest c r s).1 := by
  simp only [completeRequest, hserved, checkRead_clean hs, hbad]

/-- Settles O12. -/
theorem loadReturns : Obligations.LoadReturns := by
  intro c i n r sg a s hwf hreq hphase hkind hvalue hbad hstore htier hcontrol hclean horder hcycle hmode
  obtain ⟨bad, hfix⟩ := fixRequest_load (c := c) (s := s) hkind hvalue hcontrol
  have hexec : exec (.loadReturn c i .ok) s = .next (completeRequest c i r .ok s) := by
    rw [show exec (.loadReturn c i .ok) s = execLoadReturn c i .ok s from rfl, execLoadReturn, hwf, mayTrap_of_not_stopped _ hphase]
    simp only [hreq, horder, hcycle, needsFill_uncached hkind, decide_true, Bool.not_false, Bool.and_self, if_true, whenUnit]
  rw [hexec, completeRequest_clean hclean (servedByHrc_uncached hkind) hbad, hfix, loadNow_uncached hstore htier hcontrol]
  exact congrArg _ (deliver_of_active _ hmode)

/-! ### Writes that land in a store without uncorrectable words -/

/-- The memory after a write, with what it shows. -/
theorem landFrom_clean (a : Nat) (bs : List Byte) (hs : Clean s) (hok : MergeOk s.mem) (hlost : s.intg.lost = []) (hmissed : s.intg.missed = []) :
    ∃ m, landFrom .ok a bs s = flagWrite a bs.length { s with mem := m } ∧ readBytes m a bs.length = bs ∧
      ∀ x, x < a ∨ a + bs.length ≤ x → readByte m x = readByte s.mem x := by
  obtain ⟨-, -, -, hread⟩ := landedBytesRead s.mem (landTime s a) a bs hok hs
  refine ⟨(landMem s.mem (landTime s a) a bs).1, land_clean a bs s hs hlost hmissed, ?_, fun x hx => ?_⟩
  · apply List.ext_getElem
    · simp [readBytes]
    · intro i hi _
      have hi' : i < bs.length := by simpa [readBytes] using hi
      simp only [readBytes, List.getElem_map, List.getElem_range, hread]
      rw [if_pos ⟨Nat.le_add_right a i, Nat.add_lt_add_left hi' a⟩, Nat.add_sub_cancel_left, List.getD_eq_getElem _ _ hi']
  · rw [hread, if_neg (by omega)]

theorem landFrom_missed {chk : Chk} {a : Nat} {bs : List Byte} (hmiss : parityMiss chk a bs.length = true) :
    landFrom chk a bs s = settleLost (writeMissed a s) := by simp only [landFrom, arriveQuiet, hmiss, if_true]

/-! ### Stores -/

theorem fixGranule_of_idle (a : Nat) (h : (getCore s (coreOf th)).requests = []) : fixGranule th a s = s := by
  simp only [fixGranule, h, List.length_nil, List.range_zero, List.foldl_nil]

theorem requests_issued (s : State) (th : ThreadRef) : (getCore (issued s th) (coreOf th)).requests = (getCore s (coreOf th)).requests :=
  issued_core_keeps Core.requests (fun _ _ _ _ _ => rfl) s th

/-- An aligned store to a place that stores reach acts by that place. -/
theorem exec_st_of_aligned {f : Fields} (chk : Chk) (h : MayIssue s th (encodeWord 0 0x22 f)) (haligned : addrOf s th f % 2 ^ (f.fl.toNat % 4) = 0)
    (hreach : scalarReach (addrOf s th f) (2 ^ (f.fl.toNat % 4)) = true) : exec (.st th f chk) s = .next
      (match placeOf (addrOf s th f) (2 ^ (f.fl.toNat % 4)) with
      | .control off => if off = 0x100 then signal (readReg s th f.b).toNat (issued s th) else issued s th
      | .spm die core off =>
        if die = th.die ∧ core = th.core then landFrom chk (ownSpm s (coreOf th) off) (toLE (2 ^ (f.fl.toNat % 4)) (readReg s th f.b).toNat)
          (fixGranule th (addrOf s th f) (issued s th))
        else { issued s th with
          ids := (issued s th).ids + 1,
          noc := (issued s th).noc ++ [⟨(issued s th).ids, th.die, th.core, th.thread, addrOf s th f, physOf (issued s th).map die core,
            toLE (2 ^ (f.fl.toNat % 4)) (readReg s th f.b).toNat, (threadOf (issued s th) th).expEpoch, none⟩] }
      | _ => landFrom chk (addrOf s th f) (toLE (2 ^ (f.fl.toNat % 4)) (readReg s th f.b).toNat) (fixGranule th (addrOf s th f) (issued s th))) := by
  rw [h.exec_next (k := startStore th f chk) rfl, startStore, effectiveAddr_issued]
  simp only [accessBytes, haligned, hreach, ne_eq, not_true, if_false, Bool.true_eq_false, readReg_issued, ownSpm_issued, takeId]
  rfl

/-- An aligned store to a tier or to the core's own SPM, with no earlier request of the core, lands there. -/
theorem exec_st_landing {f : Fields} {a : Nat} (chk : Chk) (h : MayIssue s th (encodeWord 0 0x22 f)) (haligned : addrOf s th f % 2 ^ (f.fl.toNat % 4) = 0)
    (hidle : (getCore s (coreOf th)).requests = [])
    (hplace : (placeOf (addrOf s th f) (2 ^ (f.fl.toNat % 4)) = .tier1 ∨ placeOf (addrOf s th f) (2 ^ (f.fl.toNat % 4)) = .tier2) ∧ a = addrOf s th f
        ∨ (∃ off, placeOf (addrOf s th f) (2 ^ (f.fl.toNat % 4)) = .spm th.die th.core off ∧ a = spmAddr th.die (physCore s (coreOf th)) off)) :
    exec (.st th f chk) s = .next (landFrom chk a (toLE (2 ^ (f.fl.toNat % 4)) (readReg s th f.b).toNat) (issued s th)) := by
  have hfix := fixGranule_of_idle (addrOf s th f) ((requests_issued s th).trans hidle)
  obtain ⟨hp | hp, rfl⟩ | ⟨off, hp, rfl⟩ := hplace
  · rw [exec_st_of_aligned chk h haligned (by rw [scalarReach, hp]), hp, hfix]
  · rw [exec_st_of_aligned chk h haligned (by rw [scalarReach, hp]), hp, hfix]
  · rw [exec_st_of_aligned chk h haligned (by rw [scalarReach, hp]), hp, hfix]
    exact congrArg _ (if_pos ⟨rfl, rfl⟩)

/-- Settles O13. That a store to a tier or to the own SPM lands at its issue is the model's choice of log 8. -/
theorem storesLand : Obligations.StoresLand := by
  intro th f s h haligned hidle
  simp only [← issued_eq_afterIssue]
  refine ⟨fun a hplace => ?landing, fun off hplace chk => ?control, fun die core off hplace hother chk => ?remote⟩
  case landing =>
    have hland (chk : Chk) := exec_st_landing chk h haligned hidle hplace
    refine ⟨hland, fun chk hmiss => ?_, fun hclean hok hlost hmissed => ?_⟩
    · rw [hland, landFrom_missed (by rwa [toLE_length])]
    · obtain ⟨m, hm, hbytes, hothers⟩ := landFrom_clean a (toLE (2 ^ (f.fl.toNat % 4)) (readReg s th f.b).toNat) (clean_issued hclean th)
        (by rwa [issued_mem]) (by rwa [issued_lost]) (by rwa [issued_missed])
      rw [toLE_length] at hm hbytes hothers
      rw [issued_mem] at hothers
      exact ⟨m, by rw [hland, hm], hbytes, hothers⟩
  case control =>
    rw [exec_st_of_aligned chk h haligned (by rw [scalarReach, hplace]), hplace]
    by_cases hoff : off = 0x100
    · simp only [hoff, if_true, true_and]; rfl
    · simp only [hoff, if_false, false_and]
  case remote =>
    have hnotown : ¬(die = th.die ∧ core = th.core) := fun hown => hother.elim (· hown.1) (· hown.2)
    rw [exec_st_of_aligned chk h haligned (by rw [scalarReach, hplace]), hplace]
    simp only [hnotown, if_false, issued_ids, issued_noc, issued_map, threadOf_issued]

/-! ### Votes of words whose copies agree -/

theorem voteEpoch_of_agrees (h : Agrees (getCore s c).epoch) : voteEpoch c s = s := by simp only [voteEpoch, vote, voteOf_of_agrees h]

theorem voteWindow_of_agrees {w : Nat} (h : Agrees (vget ⟨0, 0, 0⟩ (getCore s c).windows w)) : voteWindow c w s = s := by
  simp only [voteWindow, vote, voteOf_of_agrees h]

theorem repairWord_of_agrees {α : Type} [DecidableEq α] {t : Tri α} (h : Agrees t) (die : Nat) (put : Tri α → State → State) (s : State) :
    repairWord t die put s = s := by simp only [repairWord, voteOf_of_agrees h]

/-! ### Writes at an SPM window -/

section
variable {chk : Chk} {phys off : Nat} {e : BitVec 16} {bs : List Byte} (hmiss : parityMiss chk (spmAddr c.die phys off) bs.length = false)
  (h : Agrees (vget ⟨0, 0, 0⟩ (getCore s c).windows (windowOf off)))
include hmiss h

/-- A write at a window whose epoch's copies agree, with no parity miss: its epoch decides. -/
theorem windowWriteAt_of_agrees : windowWriteAt chk c phys off e bs s =
    if (e - (vget ⟨0, 0, 0⟩ (getCore s c).windows (windowOf off)).a).toNat = 0 then landFrom chk (spmAddr c.die phys off) bs s
    else countDrop s c (e - (vget ⟨0, 0, 0⟩ (getCore s c).windows (windowOf off)).a).toNat := by
  simp only [windowWriteAt, hmiss, Bool.false_eq_true, if_false, voteWindow_of_agrees h, windowEpoch, value_of_agrees h, epochDelta]

theorem windowWriteAt_current (he : e = (vget ⟨0, 0, 0⟩ (getCore s c).windows (windowOf off)).a) :
    windowWriteAt chk c phys off e bs s = landFrom chk (spmAddr c.die phys off) bs s := by
  rw [windowWriteAt_of_agrees hmiss h, he, BitVec.sub_self]
  exact if_pos rfl

theorem windowWriteAt_early (hpos : 0 < (e - (vget ⟨0, 0, 0⟩ (getCore s c).windows (windowOf off)).a).toNat)
    (hearly : (e - (vget ⟨0, 0, 0⟩ (getCore s c).windows (windowOf off)).a).toNat < 32768) :
    windowWriteAt chk c phys off e bs s = coreCount s c 7 1 := by
  rw [windowWriteAt_of_agrees hmiss h, if_neg (Nat.ne_of_gt hpos), countDrop, if_pos hearly]

theorem windowWriteAt_stale (hstale : 32768 ≤ (e - (vget ⟨0, 0, 0⟩ (getCore s c).windows (windowOf off)).a).toNat) :
    windowWriteAt chk c phys off e bs s = coreCount s c 8 1 := by
  rw [windowWriteAt_of_agrees hmiss h, if_neg (by omega), countDrop, if_neg (Nat.not_lt.mpr hstale)]

end

/-- The packet at a place of the die network that nothing holds back reaches its window. -/
theorem exec_spmRemoteWriteArrive {i die core off : Nat} {p : NocPacket} (chk : Chk) (hget : s.noc[i]? = some p) (hfront : nocBehind s i p = false)
    (hplace : placeOf p.addr p.data.length = .spm die core off) : exec (.spmRemoteWriteArrive i chk) s =
      .next (windowWriteAt chk ⟨die, core⟩ p.phys off p.epoch p.data
        (if parityMiss chk (spmAddr die p.phys off) p.data.length then discardOwned p.owner p.data.length { s with noc := dropAt s.noc i }
          else { s with noc := dropAt s.noc i })) := by
  rw [show exec (.spmRemoteWriteArrive i chk) s = execSpmRemoteWriteArrive i chk s from rfl, execSpmRemoteWriteArrive]
  simp only [hget, hfront, hplace, Bool.false_eq_true, if_false]

/-- Settles O15. -/
theorem remoteWriteArrives : Obligations.RemoteWriteArrives := by
  intro i die core off p s hget hfront hplace hagrees cur rest
  have hagrees' : Agrees (vget ⟨0, 0, 0⟩ (getCore rest ⟨die, core⟩).windows (windowOf off)) := hagrees
  have hsound {chk : Chk} (hmiss : parityMiss chk (spmAddr die p.phys off) p.data.length = false) :
      exec (.spmRemoteWriteArrive i chk) s = .next (windowWriteAt chk ⟨die, core⟩ p.phys off p.epoch p.data rest) := by
    rw [exec_spmRemoteWriteArrive chk hget hfront hplace, if_neg (by rw [hmiss]; decide)]
  have hok : parityMiss .ok (spmAddr die p.phys off) p.data.length = false := rfl
  refine ⟨fun hepoch => ?current, fun ⟨hpos, hearly⟩ => ?early, fun hstale => ?stale, fun chk hmiss => ?missed⟩
  case current =>
    refine ⟨fun chk hmiss => (hsound hmiss).trans (congrArg _ (windowWriteAt_current hmiss hagrees' hepoch)), fun hclean hmerge hlost hmissed => ?_⟩
    obtain ⟨m, hm, hreads⟩ := landFrom_clean (s := rest) (spmAddr die p.phys off) p.data hclean hmerge hlost hmissed
    exact ⟨m, by rw [hsound hok, windowWriteAt_current (c := ⟨die, core⟩) hok hagrees' hepoch, hm], hreads⟩
  case early => exact (hsound hok).trans (congrArg _ (windowWriteAt_early hok hagrees' hpos hearly))
  case stale => exact (hsound hok).trans (congrArg _ (windowWriteAt_stale hok hagrees' hstale))
  case missed => rw [exec_spmRemoteWriteArrive chk hget hfront hplace, if_pos hmiss, windowWriteAt, if_pos hmiss, landFrom_missed hmiss]

end Sys2Proof.Machine
end


section
/-! SUPPORT. RDSPEC (R55), FENCE.LOCAL, WAITFLAG, KSEL and SETEP (R62, R70, R77, R167), and the sleepers that wake (R58, R62, R167). -/
namespace Sys2Proof.Machine

variable {th : ThreadRef} {c : CoreRef} {s : State}

/-! ### The commit counter around an issue -/

theorem cper_run_of_agrees (h : Agrees s.run.commit) (g : Signature) : (cper g s).run = s.run := by
  rw [cper, repairWord_of_agrees h, cperBare_run]

/-- The record of a correctable error reads a commit counter whose copies agree and leaves it. -/
theorem correctable_run_of_agrees (h : Agrees s.run.commit) (r : Nat) : (correctable r s).run = s.run := by
  have hlife := lifeAdd_run (9960 + 4 * r) 1 s
  unfold correctable correctableWith
  generalize lifeAdd (9960 + 4 * r) 1 s = t at hlife
  dsimp only
  split
  · exact hlife
  · rw [cper_run_of_agrees] <;> rw [msix_run, notify_run]
    · exact hlife
    · exact hlife.symm ▸ h

theorem issued_run_of_agrees (h : Agrees s.run.commit) : (issued s th).run = s.run := by
  rw [issued_eq_afterIssue]
  show (fetched s th).run = s.run
  unfold fetched; split
  · refine correctable_run_of_agrees (s := putCore s (coreOf th) _) ?_ _
    exact h
  · rfl

/-! ### Special values (R55) -/

/-- RDSPEC reads the same special values after its issue as before. -/
theorem specialValue_issued (h : Agrees s.run.commit) (i : Nat) : specialValue (issued s th) th i = specialValue s th i := by
  have hrole := issued_core_keeps Core.role (fun _ _ _ _ _ => rfl) s th
  have hepoch := issued_core_keeps Core.epoch (fun _ _ _ _ _ => rfl) s th
  have hwindows := issued_core_keeps Core.windows (fun _ _ _ _ _ => rfl) s th
  have hkernel := issued_core_keeps Core.kernel (fun _ _ _ _ _ => rfl) s th
  have hstart := issued_core_keeps Core.kernelStart (fun _ _ _ _ _ => rfl) s th
  simp only [specialValue, hrole, hepoch, hwindows, hkernel, hstart, issued_fab, issued_run_of_agrees h, timeNs, issued_time, aclkOf, issued_clk]

theorem ofNat_toNat_setWidth {n : Nat} (x : BitVec n) : BitVec.ofNat 64 x.toNat = x.setWidth 64 := by simp

section
variable (hepoch : Agrees (getCore s (coreOf th)).epoch) (hwindows : ∀ w, w < 8 → Agrees (vget ⟨0, 0, 0⟩ (getCore s (coreOf th)).windows w))
  (hcommit : Agrees s.run.commit)
include hepoch hwindows hcommit

/-- The list of R55 gives the special value of each of its indices. -/
theorem specialValue_of_listed {i : Nat} {v : Word} (h : (i, v) ∈ specialList s th) : specialValue s th i = some v := by
  simp only [specialList, List.mem_append, List.mem_cons, List.not_mem_nil, or_false, List.mem_map, List.mem_range, Prod.mk.injEq] at h
  obtain (h | h | h | h | h | h | h | h | h | h | h) | ⟨w, hw, h⟩ := h <;> obtain ⟨rfl, rfl⟩ := h
  case inr =>
    have hlow : 8 ≤ 8 + w ∧ 8 + w ≤ 15 := by omega
    simp only [specialValue, ofNat_toNat_setWidth, Nat.add_sub_cancel_left, value_of_agrees (hwindows w hw), hlow, and_self, if_true]
    repeat rw [if_neg (by omega)]
  all_goals simp [specialValue, value_of_agrees hepoch, value_of_agrees hcommit, timeNs]

end

/-- No other index has a special value. -/
theorem specialValue_of_not_listed {i : Nat} (h : i ∉ (specialList s th).map (fun e => e.1)) : specialValue s th i = none := by
  simp only [specialList, List.map_append, List.map_cons, List.map_nil, List.map_map, List.mem_append, List.mem_cons, List.not_mem_nil, or_false,
    List.mem_map, List.mem_range, Function.comp, not_or, not_exists, not_and] at h
  obtain ⟨⟨h0, h1, h2, h3, h4, h5, h10, h11, h12, h13, h14⟩, hw⟩ := h
  have hrange : ¬(8 ≤ i ∧ i ≤ 15) := fun hi => hw (i - 8) (by omega) (by omega)
  simp only [specialValue, h0, h1, h2, h3, h4, h5, h10, h11, h12, h13, h14, hrange, if_false]

/-- A read of critical words whose copies agree changes nothing. -/
theorem voteSpecial_of_agrees {t : State} (hepoch : Agrees (getCore t (coreOf th)).epoch)
    (hwindows : ∀ w, w < 8 → Agrees (vget ⟨0, 0, 0⟩ (getCore t (coreOf th)).windows w)) (hcommit : Agrees t.run.commit) (i : Nat) :
    voteSpecial th i t = t := by
  unfold voteSpecial
  split
  · exact voteEpoch_of_agrees hepoch
  · split
    · exact voteWindow_of_agrees (hwindows (i - 8) (by omega))
    · split
      · exact voteCommit_of_agrees hcommit
      · rfl

/-- Settles O16. That the register is written one ACLK cycle after the issue is the model's choice of log 55. -/
theorem rdspecReads : Obligations.RdspecReads := by
  intro th f s h hepoch hwindows hcommit
  have hexec : exec (.rdspec th f) s = .next (readSpecial th f (issued s th)) := h.exec_next rfl
  refine ⟨fun v hv => ?listed, fun hnone => ?other⟩
  case listed =>
    have hkeepsEpoch : (getCore (afterIssue s th (withResult (passed (threadOf s th)) (aclkOf s th.die) f.d v 1)) (coreOf th)).epoch =
        (getCore s (coreOf th)).epoch := by
      rw [← writeResult_issued, writeResult, getCore_putThreadOf]
      exact issued_core_keeps Core.epoch (fun _ _ _ _ _ => rfl) s th
    have hkeepsWindows : (getCore (afterIssue s th (withResult (passed (threadOf s th)) (aclkOf s th.die) f.d v 1)) (coreOf th)).windows =
        (getCore s (coreOf th)).windows := by
      rw [← writeResult_issued, writeResult, getCore_putThreadOf]
      exact issued_core_keeps Core.windows (fun _ _ _ _ _ => rfl) s th
    have hkeepsRun : (afterIssue s th (withResult (passed (threadOf s th)) (aclkOf s th.die) f.d v 1)).run = s.run := by
      rw [← writeResult_issued, writeResult_run, issued_run_of_agrees hcommit]
    rw [hexec, readSpecial, specialValue_issued hcommit, specialValue_of_listed hepoch hwindows hcommit hv]
    dsimp only
    rw [writeResult_issued, voteSpecial_of_agrees (by rwa [hkeepsEpoch]) (by rwa [hkeepsWindows]) (by rwa [hkeepsRun])]
  case other =>
    rw [hexec, readSpecial, specialValue_issued hcommit, specialValue_of_not_listed hnone]
    exact congrArg _ (trapIssued_issued s th _ _)

/-! ### FENCE.LOCAL, KSEL, SETEP and WAITFLAG -/

theorem fenceHolds_issued (s : State) (th : ThreadRef) : fenceHolds (issued s th) th = fenceHolds s th := by
  have hrequests := requests_issued s th
  have hvecQueue := issued_core_keeps Core.vecQueue (fun _ _ _ _ _ => rfl) s th
  have hvecFlight := issued_core_keeps Core.vecFlight (fun _ _ _ _ _ => rfl) s th
  have hdrops := issued_core_keeps Core.drops (fun _ _ _ _ _ => rfl) s th
  simp only [fenceHolds, hrequests, hvecQueue, hvecFlight, hdrops, issued_noc]

/-- A test of WAITFLAG's word in a store without uncorrectable words. -/
theorem testFlag_clean (hs : Clean s) (c : CoreRef) (off : Nat) (val : Word) :
    testFlag c off val .ok s = (s, some (decide (val.toNat ≤ ownWord s c off)), 0) := by
  simp only [testFlag, checkRead_clean hs]; rfl

theorem ownWord_issued (s : State) (th : ThreadRef) (c : CoreRef) (off : Nat) : ownWord (issued s th) c off = ownWord s c off := by
  simp only [ownWord, issued_mem, ownSpm_issued]

/-- WAITFLAG on an aligned word of the core's own SPM acts by its first test. -/
theorem exec_waitflag_clean {f : Fields} (h : MayIssue s th (encodeWord 5 0x02 f)) (hs : Clean s) (haligned : (readReg s th f.a).toNat % 8 = 0)
    (hinside : (readReg s th f.a).toNat < Config.spmBytes) : exec (.waitflag th f .ok) s = .next
      (if (readReg s th f.b).toNat ≤ ownWord s (coreOf th) (readReg s th f.a).toNat then
        afterIssue s th (withResult (passed (threadOf s th)) (aclkOf s th.die) f.d 0 1)
      else if f.imm = 0 then afterIssue s th (withResult (passed (threadOf s th)) (aclkOf s th.die) f.d 1 1)
      else afterIssue s th { awaiting (threadOf s th) f.d with mode := .sleeping (.waitflag (readReg s th f.a).toNat (readReg s th f.b) f.d
        (threadOf s th).pc (s.clk.tick + 5200 * f.imm.toNat)) } (fun k => { k with flags := mdel k.flags th.thread })) := by
  rw [h.exec_next (k := startWaitflag th f .ok) rfl, startWaitflag]
  simp only [readReg_issued, haligned, ne_eq, not_true, if_false, if_neg (Nat.not_le.mpr hinside), testFlag_clean (clean_issued hs th), ownWord_issued]
  by_cases hle : (readReg s th f.b).toNat ≤ ownWord s (coreOf th) (readReg s th f.a).toNat
  · simp only [hle, decide_true, if_true, writeResult_issued]
  · simp only [hle, decide_false, if_false]
    by_cases himm : f.imm = 0
    · simp only [himm, if_true, writeResult_issued]
    · simp only [himm, if_false, threadOf_issued_passed, issuedPc_issued, putThreadOf_issued, issued_clk]
      exact congrArg _ (putCore_afterIssue s th _ (fun k => { k with flags := mdel k.flags th.thread }))

/-- Settles O17. -/
theorem syncInstructions : Obligations.SyncInstructions := by
  refine ⟨fun th f s h => ?fence, fun th f s h => ?ksel, fun th f s h => ?setep, fun th f s h hs haligned hinside => ?waitflag⟩
  case fence =>
    rw [show exec (.fenceLocal th f) s = execFenceLocal th f s from rfl, execFenceLocal, h.next]
    simp only [fenceHolds_issued, threadOf_issued_passed, putThreadOf_issued]
    split
    · exact congrArg _ (issued_eq_afterIssue s th)
    · rfl
  case ksel =>
    rw [show exec (.ksel th f) s = execKsel th f s from rfl, execKsel, h.next, show BitVec.ofNat 16 f.imm.toNat = f.imm.setWidth 16 by simp]
    exact congrArg _ (putCore_issued s th (fun k => { k with ksel := some (f.imm.setWidth 16) }))
  case setep =>
    rw [show exec (.setep th f) s = execSetep th f s from rfl, execSetep, h.next]
    simp only [readReg_issued, threadOf_issued_passed, putThreadOf_issued, BitVec.ofNat_toNat]
  case waitflag =>
    have hexec := exec_waitflag_clean h hs haligned hinside
    exact ⟨fun hle => hexec.trans (congrArg _ (if_pos hle)),
      fun hlt himm => hexec.trans (congrArg _ ((if_neg (Nat.not_le.mpr hlt)).trans (if_pos himm))),
      fun hlt himm => hexec.trans (congrArg _ ((if_neg (Nat.not_le.mpr hlt)).trans (if_neg himm)))⟩

/-! ### Sleepers that wake -/

/-- The thread of a core that has not stopped is in the state it holds. -/
theorem threadMode_of_not_stopped (h : (getCore s (coreOf th)).phase ≠ .stopped) :
    threadMode (getCore s (coreOf th)) th.thread = (threadOf s th).mode := if_neg h

/-- A waking thread's form does not depend on which of its core's flags is cleared first. -/
theorem wakeWith_eq (d : BitVec 5) (v : Word) : wakeWith th d v s = putThreadOf (clearFlag th s) th { returnReg (threadOf s th) d v with mode := .active } := by
  simp [wakeWith, clearFlag, putThreadOf, putThread]

section
variable {off : Nat} {val : Word} {d : BitVec 5} {pc : Word} {due : Nat} (hwf : th.wf = true) (hphase : (getCore s (coreOf th)).phase ≠ .stopped)
  (hmode : (threadOf s th).mode = .sleeping (.waitflag off val d pc due))
include hwf hphase hmode

/-- The test after a write that has reached the word's granule. -/
theorem exec_waitflagRetest_of_written {found : Bool} (hs : Clean s) (hflag : mfind (getCore s (coreOf th)).flags th.thread = some found) :
    exec (.waitflagRetest th .ok) s = .next (if found then wakeWith th d 0 s else clearFlag th s) := by
  rw [show exec (.waitflagRetest th .ok) s = execWaitflagRetest th .ok s from rfl, execWaitflagRetest, hwf, mayTrap_of_not_stopped _ hphase, retestFlag]
  simp only [threadMode_of_not_stopped hphase, hmode, hflag, testFlag_clean hs, whenUnit, if_true]

theorem exec_waitflagRetest_of_unwritten (chk : Chk) (hflag : mfind (getCore s (coreOf th)).flags th.thread = none) :
    exec (.waitflagRetest th chk) s = .next s := by
  rw [show exec (.waitflagRetest th chk) s = execWaitflagRetest th chk s from rfl, execWaitflagRetest, hwf, mayTrap_of_not_stopped _ hphase, retestFlag]
  simp only [threadMode_of_not_stopped hphase, hmode, hflag, whenUnit, if_true]

theorem exec_waitflagTimeout_of_due (hdue : due ≤ s.clk.tick) : exec (.waitflagTimeout th) s = .next (endWaitflag th d s) := by
  rw [show exec (.waitflagTimeout th) s = execWaitflagTimeout th s from rfl, execWaitflagTimeout, hwf]
  simp only [threadMode_of_not_stopped hphase, hmode, hdue, whenUnit, if_true]

end

/-- Settles O18. -/
theorem sleepersWake : Obligations.SleepersWake := by
  refine ⟨fun th s hwf hphase hmode hdone => ?fence, fun th s hwf hphase hmode hdone => ?array,
    fun th off val d pc due s hwf hphase hmode => ?waitflag⟩
  case fence =>
    rw [show exec (.fenceLocalWake th) s = execFenceLocalWake th s from rfl, execFenceLocalWake, hwf]
    simp only [threadMode_of_not_stopped hphase, hmode, hdone, and_self, if_true, whenUnit]
  case array =>
    rw [show exec (.mxaSyncWake th) s = execMxaSyncWake th s from rfl, execMxaSyncWake, hwf]
    simp only [threadMode_of_not_stopped hphase, hmode, hdone, and_self, if_true, whenUnit]
  case waitflag =>
    intro tested woken
    refine ⟨fun hs hflag => ?_, fun hs hflag => exec_waitflagRetest_of_written hwf hphase hmode hs hflag,
      fun chk hflag => exec_waitflagRetest_of_unwritten hwf hphase hmode chk hflag, fun hdue => ?_⟩
    · exact (exec_waitflagRetest_of_written hwf hphase hmode hs hflag).trans (congrArg _ (wakeWith_eq d 0))
    · exact (exec_waitflagTimeout_of_due hwf hphase hmode hdue).trans (congrArg _ (wakeWith_eq d _))

end Sys2Proof.Machine
end


section
/-! SUPPORT. Array instructions at their issue (R48, R58, R79, R90, R92) and the rows of the reservation map (R109, R110). -/
namespace Sys2Proof.Machine

variable {th : ThreadRef} {c : CoreRef} {s : State}

/-! ### The array queue after an issue -/

/-- The issuing thread stands anew, in a core whose array unit has taken a mark. -/
theorem putThreadOf_afterIssue_mark (x y : Thread) (mark : Mxa → Mxa) :
    putThreadOf (afterIssue s th x (fun k => { k with mxa := mark k.mxa })) th y = afterIssue s th y (fun k => { k with mxa := mark k.mxa }) := by
  simp [afterIssue, putThreadOf, putThread]

theorem threadOf_afterIssue_mark (x : Thread) (mark : Mxa → Mxa) : threadOf (afterIssue s th x (fun k => { k with mxa := mark k.mxa })) th = x := by
  simp [afterIssue, threadOf, getThread, putThread]

/-- An array instruction of the issuing thread enters the queue behind what stands there, and the queue settles. -/
theorem enqueueArray_afterIssue {x : Thread} {mark : Mxa → Mxa} (op : ArrayOp) (hpc : x.pc = (threadOf s th).pc + 8) (hmark : ∀ m, (mark m).queue = m.queue) :
    enqueueArray th op (afterIssue s th x (fun k => { k with mxa := mark k.mxa })) =
      settleArray (coreOf th) (afterIssue s th x (arrayEntered s th op mark)) := by
  have hpc' : issuedPc (afterIssue s th x (fun k => { k with mxa := mark k.mxa })) th = (threadOf s th).pc := by
    rw [issuedPc, threadOf_afterIssue_mark, hpc, BitVec.add_sub_cancel]
  rw [enqueueArray, hpc']
  simp [afterIssue, arrayEntered, hmark]

/-- A core whose array unit takes a mark right after the issue. -/
theorem putCore_mark_issued (mark : Mxa → Mxa) :
    putCore (issued s th) (coreOf th) { getCore (issued s th) (coreOf th) with mxa := mark (getCore (issued s th) (coreOf th)).mxa } =
      afterIssue s th (passed (threadOf s th)) (fun k => { k with mxa := mark k.mxa }) :=
  putCore_issued s th (fun k => { k with mxa := mark k.mxa })

theorem issueArray_issued {spans : List (Nat × Nat)} {mark : Mxa → Mxa} {ok : Bool} (op : ArrayOp) (hok : ok = true) (hspans : spanBeyond spans = none)
    (hmark : ∀ m, (mark m).queue = m.queue) : issueArray th ok spans op mark (issued s th) =
      settleArray (coreOf th) (afterIssue s th (passed (threadOf s th)) (arrayEntered s th op mark)) := by
  simp only [issueArray, hok, Bool.not_true, Bool.false_eq_true, if_false, hspans, putCore_mark_issued]
  exact enqueueArray_afterIssue op rfl hmark

/-- A descriptor that may be copied is read whole. -/
theorem copyDescriptor_issued {off n : Nat} (k : Nat → State → State) (hs : Clean s) (hcopy : copyable off n) :
    copyDescriptor th off n .ok k (issued s th) = k (ownDescriptor s th off n) (issued s th) := by
  obtain ⟨haligned, hinside⟩ := hcopy
  have hgood : ¬(off % n ≠ 0 ∨ Config.spmBytes < off + n) := by omega
  simp only [copyDescriptor, if_neg hgood, checkRead_clean (clean_issued hs th), issued_mem, ownSpm_issued, ownDescriptor]

theorem mxa_issued (s : State) (th : ThreadRef) : (getCore (issued s th) (coreOf th)).mxa = (getCore s (coreOf th)).mxa :=
  issued_core_keeps Core.mxa (fun _ _ _ _ _ => rfl) s th

theorem startFill_issued {f : Fields} {d : BitVec 256} (hs : Clean s) (hcopy : copyable (readReg s th f.a).toNat 32)
    (hd : BitVec.ofNat 256 (ownDescriptor s th (readReg s th f.a).toNat 32) = d) (hok : fillOk d = true) (hspans : spanBeyond (fillSpans d) = none) :
    startFill th f .ok (issued s th) = settleArray (coreOf th) (afterIssue s th (passed (threadOf s th))
      (arrayEntered s th (.fill d) (fun m => { m with fillIssued := true }))) := by
  simp only [startFill, readReg_issued, copyDescriptor_issued _ hs hcopy, hd]
  exact issueArray_issued (.fill d) hok hspans fun _ => rfl

theorem startRun_issued {f : Fields} {d : BitVec 512} (hs : Clean s) (hcopy : copyable (readReg s th f.a).toNat 64)
    (hd : BitVec.ofNat 512 (ownDescriptor s th (readReg s th f.a).toNat 64) = d) (hok : runOk (getCore s (coreOf th)).mxa d = true)
    (hspans : spanBeyond (runSpans d) = none) :
    startRun th f .ok (issued s th) = settleArray (coreOf th) (afterIssue s th (passed (threadOf s th))
      (arrayEntered s th (.run d) (fun m => if runCommit d then { m with fillIssued := false } else m))) := by
  simp only [startRun, readReg_issued, copyDescriptor_issued _ hs hcopy, hd, mxa_issued]
  exact issueArray_issued (.run d) hok hspans fun m => by split <;> rfl

theorem startDrain_issued {f : Fields} {d : BitVec 512} (hs : Clean s) (hcopy : copyable (readReg s th f.a).toNat 64)
    (hd : BitVec.ofNat 512 (ownDescriptor s th (readReg s th f.a).toNat 64) = d) (hok : drainOk d = true)
    (hspans : spanBeyond (drainReadSpans d ++ drainWriteSpans d) = none) :
    startDrain th f .ok (issued s th) = settleArray (coreOf th) (afterIssue s th (passed (threadOf s th)) (arrayEntered s th (.drain d) id)) := by
  simp only [startDrain, readReg_issued, copyDescriptor_issued _ hs hcopy, hd]
  exact issueArray_issued (.drain d) hok hspans fun _ => rfl

/-- Settles O19. That an ACS.ALLOC or ACS.FREE at the head begins at once (`settleArray`) is log 32. -/
theorem arrayInstructionsEnter : Obligations.ArrayInstructionsEnter := by
  refine ⟨fun th f s h hs hcopy => ?fill, fun th f s h hs hcopy => ?run, fun th f s h hs hcopy => ?drain⟩
  case fill =>
    intro d hok hspans
    rw [h.exec_next (k := startFill th f .ok) rfl, startFill_issued hs hcopy rfl hok hspans]
  case run =>
    intro d hok hspans
    rw [h.exec_next (k := startRun th f .ok) rfl, startRun_issued hs hcopy rfl hok hspans]
  case drain =>
    intro d hok hspans
    rw [h.exec_next (k := startDrain th f .ok) rfl, startDrain_issued hs hcopy rfl hok hspans]

/-! ### Rows (R109, R110) -/

/-- What an ACS.ALLOC of `n` rows reserves: its first row, their number, and its answer (R58, R109). -/
def allocGrant (m : Mxa) (n : Nat) : Nat × Nat × Word :=
  if n = 0 then (0, 0, 0) else if Config.acsRows < n then (0, 0, BitVec.allOnes 64)
  else ((freeRun m.taken n).getD 0, n, BitVec.ofNat 64 ((freeRun m.taken n).getD 0))

/-- The array unit with those rows reserved in its map. -/
def rowsTaken (first count : Nat) (m : Mxa) : Mxa := { m with taken := m.taken ||| rowsMask first count }

theorem startAlloc_eq (th : ThreadRef) (f : Fields) (s : State) : startAlloc th f s =
    (let g := allocGrant (getCore s (coreOf th)).mxa f.imm.toNat
     let t := putCore s (coreOf th) { getCore s (coreOf th) with mxa := rowsTaken g.1 g.2.1 (getCore s (coreOf th)).mxa }
     enqueueArray th (.alloc f.d g.1 g.2.1 g.2.2) (putThreadOf t th (markBusy (threadOf t th) f.d))) := rfl

theorem startAlloc_issued {f : Fields} {first count : Nat} {v : Word} (hgrant : allocGrant (getCore s (coreOf th)).mxa f.imm.toNat = (first, count, v)) :
    startAlloc th f (issued s th) = settleArray (coreOf th) (afterIssue s th (awaiting (threadOf s th) f.d)
      (arrayEntered s th (.alloc f.d first count v) (rowsTaken first count))) := by
  have hpc : (awaiting (threadOf s th) f.d).pc = (threadOf s th).pc + 8 := by simp only [awaiting, markBusy]; split <;> rfl
  rw [← mxa_issued] at hgrant
  simp only [startAlloc_eq, hgrant, putCore_mark_issued, threadOf_afterIssue_mark, putThreadOf_afterIssue_mark]
  exact enqueueArray_afterIssue _ hpc fun _ => rfl

theorem allocBlocked_of_canAlloc {f : Fields} (h : canAlloc (getCore s (coreOf th)).mxa f.imm.toNat = true) : allocBlocked s th f = false := by
  simp [allocBlocked, h]

theorem exec_acsAlloc {f : Fields} (h : MayIssue s th (encodeWord 2 0x04 f)) (hcan : canAlloc (getCore s (coreOf th)).mxa f.imm.toNat = true) :
    exec (.acsAlloc th f) s = .next (startAlloc th f (issued s th)) := by
  rw [show exec (.acsAlloc th f) s = execAcsAlloc th f s from rfl, execAcsAlloc, allocBlocked_of_canAlloc hcan]
  exact h.next _

theorem exec_acsAllocGrant {f : Fields} (h : MayIssue s th (encodeWord 2 0x04 f)) (hwait : (threadOf s th).allocWait = true) :
    exec (.acsAllocGrant th f) s = .next (startAlloc th f (issued s th)) := by
  rw [show exec (.acsAllocGrant th f) s = execAcsAllocGrant th f s from rfl, execAcsAllocGrant, if_pos hwait, h.next]

theorem bit_or {w : Nat} (x y : BitVec w) (i : Nat) : bit (x ||| y) i = (bit x i || bit y i) := by simp [bit]

theorem bit_rowsMask_one {r i : Nat} (hr : r < 128) (hi : i < 128) : bit (rowsMask r 1) i = decide (i = r) := by
  have hmin : Nat.min 1 (128 - r) = 1 := Nat.min_eq_left (by omega)
  simp only [bit, rowsMask, if_neg (Nat.not_le.mpr hr), hmin, BitVec.getLsbD_ofNat, hi, decide_true, Bool.true_and, Nat.pow_one, Nat.add_one_sub_one, Nat.one_mul,
    Nat.testBit_two_pow]
  simp [eq_comm]

/-- Rows of a list that pass a test, gathered into a mask. -/
theorem bit_foldl_rowsMask {p : Nat → Bool} {i : Nat} (hi : i < 128) : ∀ (rs : List Nat) (acc : BitVec 128), (∀ r ∈ rs, r < 128) →
    bit (rs.foldl (fun acc r => if p r = true then acc ||| rowsMask r 1 else acc) acc) i = (bit acc i || (decide (i ∈ rs) && p i))
  | [], acc, _ => by simp
  | r :: rs, acc, hrs => by
    have hr := hrs r List.mem_cons_self
    rw [List.foldl_cons, bit_foldl_rowsMask hi rs _ fun x hx => hrs x (List.mem_cons_of_mem _ hx)]
    by_cases heq : i = r
    · subst heq
      cases hp : p i <;> simp [bit_or, bit_rowsMask_one hi hi]
    · cases hp : p r <;> simp [bit_or, bit_rowsMask_one hr hi, heq]

theorem bit_releasable {rows : BitVec 128} {k : Core} {seq r : Nat} (hr : r < 128) : bit (releasable k seq rows) r = (bit rows r && rowDone k seq r) := by
  have h := bit_foldl_rowsMask (p := rowDone k seq) hr (bitsSet rows Config.acsRows) 0 fun x hx => List.mem_range.mp (List.mem_of_mem_filter hx)
  have hmem : r ∈ bitsSet rows Config.acsRows ↔ bit rows r = true := by
    simp only [bitsSet, List.mem_filter, List.mem_range, show r < Config.acsRows from hr, true_and]
  simp only [hmem, Bool.decide_eq_true] at h
  have hreleasable : releasable k seq rows = (bitsSet rows Config.acsRows).foldl (fun acc r => if rowDone k seq r = true then acc ||| rowsMask r 1 else acc) 0 := by
    simp only [releasable, rowDone, Bool.and_eq_true]
  rw [hreleasable, h]
  simp [bit]

/-- Settles O20. The cycle in which a queued ACS row begins is log 32, that an ACS.ALLOC which reserves nothing completes at its begin log 123. -/
theorem acsRowsReserve : Obligations.AcsRowsReserve := by
  refine ⟨fun th f s h hcan => ?alloc, fun th f s h => ?free, fun th f s h => ?sync, fun c i seq t rows s hwf hget hmay => ?release⟩
  case alloc =>
    refine ⟨fun hn => ?_, fun hn => ?_, fun r hpos hle hrun => ?_⟩
    · rw [exec_acsAlloc h hcan, startAlloc_issued (if_pos hn)]; rfl
    · rw [exec_acsAlloc h hcan, startAlloc_issued ((if_neg (by omega)).trans (if_pos hn))]; rfl
    · have hgrant : allocGrant (getCore s (coreOf th)).mxa f.imm.toNat = (r, f.imm.toNat, BitVec.ofNat 64 r) := by
        rw [allocGrant, if_neg (by omega), if_neg (show ¬Config.acsRows < f.imm.toNat from Nat.not_lt.mpr hle), hrun]; rfl
      exact ⟨by rw [exec_acsAlloc h hcan, startAlloc_issued hgrant]; rfl, fun hwait => by rw [exec_acsAllocGrant h hwait, startAlloc_issued hgrant]; rfl⟩
  case free =>
    refine (h.exec_next (k := fun s => enqueueArray th (.free (readReg s th f.a).toNat f.imm.toNat) s) rfl).trans (congrArg _ ?_)
    have hmark := enqueueArray_afterIssue (s := s) (th := th) (x := passed (threadOf s th)) (mark := id) (.free (readReg s th f.a).toNat f.imm.toNat) rfl fun _ => rfl
    rw [readReg_issued, issued_eq_afterIssue]
    exact hmark
  case sync =>
    rw [show exec (.mxaSync th f) s = execMxaSync th f s from rfl, execMxaSync, h.next]
    simp only [threadOf_issued_passed, putThreadOf_issued]
  case release =>
    refine ⟨releasable (getCore s c) seq rows, fun r hr => bit_releasable hr, ?_⟩
    have hgo : ¬(rows = 0 ∧ earlierDone (getCore s c).mxa seq = false) := by
      rintro ⟨hzero, hwait⟩
      rcases hmay with hne | hdone
      · exact hne hzero
      · rw [hwait] at hdone; exact Bool.false_ne_true hdone
    simp only [show exec (.acsRowsRelease c i) s = execAcsRowsRelease c i s from rfl, execAcsRowsRelease, whenUnit, hwf, if_true, hget, if_neg hgo]

end Sys2Proof.Machine
end


section
/-! SUPPORT. The vector class: its checks at issue (R59), the first group of an instruction that begins (R133 to R136), its completion. -/
namespace Sys2Proof.Machine

variable {th : ThreadRef} {c : CoreRef} {s : State}

/-! ### Issue (R59) -/

/-- No offset that a vector instruction uses is misaligned. -/
theorem find_misaligned_none {op : VecOp} {a b d : Nat} (ha : a % 8 = 0) (hd : d % 8 = 0) (hb : vecBinary op = true → b % 8 = 0) :
    ([a, d] ++ (if vecBinary op then [b] else [])).find? (fun o => decide (o % 8 ≠ 0)) = none := by
  cases h : vecBinary op with
  | false => simp [ha, hd]
  | true => simp [ha, hd, hb h]

theorem startVector_issued {op : VecOp} {f : Fields} (hfmt : vecFormatsOk op f.imm = true) (ha : (readReg s th f.a).toNat % 8 = 0)
    (hd : (readReg s th f.d).toNat % 8 = 0) (hb : vecBinary op = true → (readReg s th f.b).toNat % 8 = 0)
    (hspans : spanBeyond (vectorSpans op f (readReg s th f.a).toNat (readReg s th f.b).toNat (readReg s th f.d).toNat) = none) :
    startVector op th f (issued s th) = afterIssue s th (passed (threadOf s th)) (fun k => { k with
      seq := k.seq + 1
      vecQueue := k.vecQueue ++ [⟨k.seq, th.thread, (threadOf s th).pc, op, (readReg s th f.d).toNat, (readReg s th f.a).toNat,
        (readReg s th f.b).toNat, f.imm, bit f.fl 0⟩] }) := by
  unfold vectorSpans at hspans
  simp only [startVector, readReg_issued, hfmt, Bool.not_true, Bool.false_eq_true, if_false, find_misaligned_none ha hd hb, hspans, issuedPc_issued]
  exact putCore_issued s th (fun k => { k with
    seq := k.seq + 1
    vecQueue := k.vecQueue ++ [⟨k.seq, th.thread, (threadOf s th).pc, op, (readReg s th f.d).toNat, (readReg s th f.a).toNat,
      (readReg s th f.b).toNat, f.imm, bit f.fl 0⟩] })

/-! ### The first group (R133 to R136) -/

@[simp] theorem packedBytes_zero (fmt : Nat) : packedBytes fmt 0 = 0 := by
  unfold packedBytes; split <;> simp [ceilDiv]

/-- The operation of each row computes the row's value. -/
theorem vecResult_of_row : ∀ row ∈ vectorRows, ∀ src dst sat a b old, (vecResult row.kind src dst sat a b old).1 = row.value src dst sat a b old := by
  have hfn (dst : Nat) (p : Bool) (v : Val) (n m : CvtCounts) : (if p = true then ((convert dst false v).1, n) else ((convert dst false v).1, m)).1 = rounded dst false v := by
    cases p <;> rfl
  simp only [vectorRows, List.forall_mem_cons, List.not_mem_nil, false_implies, implies_true, and_true]
  refine ⟨?add, ?sub, ?mul, ?fma, ?max, ?min, ?abs, ?neg, ?cvt, ?exp, ?log, ?rcp, ?rsqrt, ?tanh, ?sigmoid⟩
  case add | sub | mul | fma | max | min | abs | neg | cvt => intros; rfl
  case exp | log | rcp | rsqrt | tanh | sigmoid => intros; exact hfn ..

theorem vecGroupOut_first {row : VectorRow} (hrow : row ∈ vectorRows) {e : VecEntry} (hop : row.kind = e.op) (s : State) (c : CoreRef) :
    (vecGroupOut e (spmBytesAt s c) 0).1 = firstGroup row s c e := by
  have hvalue := vecResult_of_row row hrow
  rw [hop] at hvalue
  simp only [vecGroupOut, firstGroup, spmBytesAt, Nat.zero_mul, packedBytes_zero, Nat.add_zero, Nat.sub_zero, List.map_map, Function.comp_def, hvalue, hop,
    beq_iff_eq, if_true]

/-! ### Begin (R136) -/

/-- A vector instruction in flight as it begins, before it reads its first group. -/
def vecFlightOf (e : VecEntry) (now : Nat) : VecFlight := { e := e, began := now, due := now + vecGroups e.imm + 8 }

/-- That instruction with its first group read. -/
def vecFlightRead (e : VecEntry) (now : Nat) (bs : List Byte) : VecFlight :=
  { vecFlightOf e now with groups := 1, writes := [(now + 8, e.dst, bs)] }

theorem vecGroups_pos {imm : BitVec 32} (h : vecN imm ≠ 0) : 0 < vecGroups imm := by
  have hg : 0 < vecGroup imm := by unfold vecGroup; split <;> decide
  rw [vecGroups, ceilDiv, if_neg hg.ne']
  exact Nat.div_pos (by omega) hg

/-- One instruction's part of a cycle of the vector unit. -/
def vectorStep (c : CoreRef) (s : State) (seq : Nat) : State :=
  match getVecFlight (getCore s c) seq with
  | none => s
  | some f => if f.groups < vecGroups f.e.imm ∧ f.began + f.groups ≤ aclkOf s c.die then readVecGroup c f s else s

theorem vectorCycle_eq (c : CoreRef) (s : State) : vectorCycle c s = ((getCore s c).vecFlight.map (fun f => f.e.seq)).foldl (vectorStep c) s := rfl

/-- Instructions that have read all their groups do nothing. -/
theorem vectorStep_of_all_read {seq : Nat} (hread : ∀ f ∈ (getCore s c).vecFlight, f.e.seq = seq → vecGroups f.e.imm ≤ f.groups) : vectorStep c s seq = s := by
  unfold vectorStep
  cases h : getVecFlight (getCore s c) seq with
  | none => rfl
  | some f =>
    have hf := hread f (List.mem_of_find?_eq_some h) (of_decide_eq_true (List.find?_some (p := fun f : VecFlight => decide (f.e.seq = seq)) h))
    exact if_neg (by omega)

theorem foldl_vectorStep_of_all_read : ∀ (seqs : List Nat), (∀ seq ∈ seqs, ∀ f ∈ (getCore s c).vecFlight, f.e.seq = seq → vecGroups f.e.imm ≤ f.groups) →
    seqs.foldl (vectorStep c) s = s
  | [], _ => rfl
  | seq :: seqs, h => by
    rw [List.foldl_cons, vectorStep_of_all_read (h seq List.mem_cons_self)]
    exact foldl_vectorStep_of_all_read seqs fun q hq => h q (List.mem_cons_of_mem _ hq)

/-- The core with its head instruction in flight, none of its groups read. -/
def vecBegun (k : Core) (e : VecEntry) (rest : List VecEntry) (now : Nat) : Core :=
  { k with vecQueue := rest, vecFlight := k.vecFlight ++ [vecFlightOf e now] }

/-- The core with that instruction's first group read. -/
def vecStarted (k : Core) (e : VecEntry) (rest : List VecEntry) (now : Nat) (bs : List Byte) : Core :=
  { k with vecQueue := rest, vecFlight := k.vecFlight ++ [vecFlightRead e now bs] }

section
variable {e : VecEntry} {rest : List VecEntry} (hothers : ∀ f ∈ (getCore s c).vecFlight, f.e.seq ≠ e.seq)
include hothers

theorem getVecFlight_begun (now : Nat) : getVecFlight (vecBegun (getCore s c) e rest now) e.seq = some (vecFlightOf e now) := by
  have hnone : (getCore s c).vecFlight.find? (fun f => decide (f.e.seq = e.seq)) = none := List.find?_eq_none.mpr fun f hf => by simp [hothers f hf]
  simp [getVecFlight, vecBegun, List.find?_append, hnone, vecFlightOf]

theorem putVecFlight_begun (now : Nat) (bs : List Byte) :
    putVecFlight c (vecFlightRead e now bs) (putCore s c (vecBegun (getCore s c) e rest now)) = putCore s c (vecStarted (getCore s c) e rest now bs) := by
  have hkeep : (getCore s c).vecFlight.map (fun x => if x.e.seq = e.seq then vecFlightRead e now bs else x) = (getCore s c).vecFlight :=
    (List.map_congr_left fun x hx => if_neg (hothers x hx)).trans (List.map_id _)
  have hlast : (if (vecFlightOf e now).e.seq = e.seq then vecFlightRead e now bs else vecFlightOf e now) = vecFlightRead e now bs := if_pos rfl
  have hmap : (vecBegun (getCore s c) e rest now).vecFlight.map (fun x => if x.e.seq = e.seq then vecFlightRead e now bs else x) =
      (getCore s c).vecFlight ++ [vecFlightRead e now bs] := by
    rw [vecBegun, List.map_append, hkeep, List.map_singleton, hlast]
  rw [putVecFlight, getCore_putCore, putCore_putCore]
  exact congrArg (fun l => putCore s c { getCore s c with vecQueue := rest, vecFlight := l }) hmap

theorem readVecGroup_begun {row : VectorRow} (hs : Clean s) (hrow : row ∈ vectorRows) (hop : row.kind = e.op) (now : Nat) :
    ∃ nf ovf, readVecGroup c (vecFlightOf e now) (putCore s c (vecBegun (getCore s c) e rest now)) =
      coreCount (coreCount (putCore s c (vecStarted (getCore s c) e rest now (firstGroup row s c e))) c 5 nf) c 6 ovf := by
  refine ⟨(vecGroupOut e (spmBytesAt s c) 0).2.nf, (vecGroupOut e (spmBytesAt s c) 0).2.ovf, ?_⟩
  have hclean : Clean (putCore s c (vecBegun (getCore s c) e rest now)) := hs
  have hbytes : spmBytesAt (putCore s c (vecBegun (getCore s c) e rest now)) c = spmBytesAt s c := rfl
  rw [← putVecFlight_begun hothers, ← vecGroupOut_first hrow hop]
  simp only [readVecGroup, vecFlightOf, vecFlightRead, checkRead_clean hclean, hbytes, Nat.zero_mul, packedBytes_zero, Nat.add_zero, List.nil_append]
  rfl

theorem vectorCycle_begun {row : VectorRow} (hs : Clean s) (hread : ∀ f ∈ (getCore s c).vecFlight, vecGroups f.e.imm ≤ f.groups) (hrow : row ∈ vectorRows)
    (hop : row.kind = e.op) (hn : vecN e.imm ≠ 0) :
    ∃ nf ovf, vectorCycle c (putCore s c (vecBegun (getCore s c) e rest (aclkOf s c.die))) =
      coreCount (coreCount (putCore s c (vecStarted (getCore s c) e rest (aclkOf s c.die) (firstGroup row s c e))) c 5 nf) c 6 ovf := by
  obtain ⟨nf, ovf, hgroup⟩ := readVecGroup_begun (rest := rest) hothers hs hrow hop (aclkOf s c.die)
  refine ⟨nf, ovf, ?_⟩
  have hstep : vectorStep c (putCore s c (vecBegun (getCore s c) e rest (aclkOf s c.die))) e.seq =
      readVecGroup c (vecFlightOf e (aclkOf s c.die)) (putCore s c (vecBegun (getCore s c) e rest (aclkOf s c.die))) := by
    rw [vectorStep, getCore_putCore, getVecFlight_begun hothers]
    exact if_pos ⟨vecGroups_pos hn, Nat.le_refl _⟩
  have hold : ((getCore s c).vecFlight.map (fun f => f.e.seq)).foldl (vectorStep c) (putCore s c (vecBegun (getCore s c) e rest (aclkOf s c.die))) =
      putCore s c (vecBegun (getCore s c) e rest (aclkOf s c.die)) := by
    refine foldl_vectorStep_of_all_read _ fun seq hseq f hf hfseq => ?_
    obtain ⟨g, hg, hgseq⟩ := List.mem_map.mp hseq
    rw [getCore_putCore, vecBegun, List.mem_append, List.mem_singleton] at hf
    rcases hf with hf | hf
    · exact hread f hf
    · exact absurd (hgseq.trans (hfseq.symm.trans (by rw [hf]; rfl))) (hothers g hg)
  have hseqs : (getCore (putCore s c (vecBegun (getCore s c) e rest (aclkOf s c.die))) c).vecFlight.map (fun f => f.e.seq) =
      (getCore s c).vecFlight.map (fun f => f.e.seq) ++ [e.seq] := by
    rw [getCore_putCore, vecBegun, List.map_append]; rfl
  rw [vectorCycle_eq, hseqs, List.foldl_append, hold, List.foldl_cons, List.foldl_nil, hstep, hgroup]

end

section
variable {e : VecEntry} {rest : List VecEntry} (hgo : (getCore s c).phase ≠ .stopped)
  (hprev : ∀ f ∈ (getCore s c).vecFlight, f.began + vecGroups f.e.imm ≤ aclkOf s c.die) (hqueue : (getCore s c).vecQueue = e :: rest)
include hgo hprev hqueue

/-- The head of the queue begins: with no elements it is done, else its first group is read. -/
theorem beginVector_head (chk : Chk) : beginVector c chk s = if vecN e.imm = 0 then putCore s c { getCore s c with vecQueue := rest }
    else vectorCycle c (putCore s c { getCore s c with vecQueue := rest, vecFlight := (getCore s c).vecFlight ++
      [{ e := e, began := aclkOf s c.die, due := aclkOf s c.die + vecGroups e.imm + 8, chk := chk }] }) := by
  have hall : (getCore s c).vecFlight.all (fun f => decide (f.began + vecGroups f.e.imm ≤ aclkOf s c.die)) = true :=
    List.all_eq_true.mpr fun f hf => decide_eq_true (hprev f hf)
  simp only [beginVector, hgo, hall, hqueue, Bool.not_true, Bool.false_eq_true, or_self, if_false]

end

/-- Settles O23: the row's checks and value, the first group read in the cycle of the begin. -/
theorem vectorInstructions : Obligations.VectorInstructions := by
  refine ⟨fun row hrow th f s h hfmt ha hd hb hspans => ?issue, fun c e rest s hwf hgo hs hflight hqueue => ?begin, fun c f rest s hwf hflight hdue => ?complete⟩
  case issue => rw [h.exec_next (vectorRows_start row hrow th f s), startVector_issued hfmt ha hd hb hspans]
  case begin =>
    have hexec : exec (.vectorBegin c .ok) s = .next (beginVector c .ok s) := by
      rw [show exec (.vectorBegin c .ok) s = execVectorBegin c .ok s from rfl, execVectorBegin, mayTrap_of_not_stopped _ hgo, whenUnit, if_pos hwf]
    rw [hexec, beginVector_head hgo (fun f hf => (hflight f hf).1) hqueue]
    refine ⟨fun hn => by rw [if_pos hn], fun row hrow hop hn => ?_⟩
    obtain ⟨nf, ovf, hcycle⟩ := vectorCycle_begun (rest := rest) (fun f hf => (hflight f hf).2.2) hs (fun f hf => (hflight f hf).2.1) hrow hop hn
    rw [if_neg hn]
    refine ⟨_, congrArg _ hcycle, ((onlyCoreAndCounts_putCore ..).thenCoreCount ..).thenCoreCount .., ?_⟩
    rw [getCore_coreCount, getCore_coreCount, getCore_putCore]; rfl
  case complete =>
    simp only [show exec (.vectorComplete c) s = execVectorComplete c s from rfl, execVectorComplete, whenUnit, hwf, if_true, hflight, if_pos hdue]

end Sys2Proof.Machine
end


section
/-! SUPPORT. DMA.PUSH, DMA.STAT and the begin of a descriptor (R60, R154, R157, R161). -/
namespace Sys2Proof.Machine

variable {th : ThreadRef} {c : CoreRef} {ch : Nat} {s : State}

/-! ### Channels -/

theorem vset_vset {α : Type} {n : Nat} (v : Vector α n) (i : Nat) (x y : α) : vset (vset v i x) i y = vset v i y := by simp [vset]

theorem putChannel_eq (s : State) (c : CoreRef) (ch : Nat) (x : DmaChannel) :
    putChannel s c ch x = putCore s c { getCore s c with dma := vset (getCore s c).dma ch x } := rfl

theorem getChannel_putChannel (h : ch < 4) (s : State) (c : CoreRef) (x : DmaChannel) : getChannel (putChannel s c ch x) c ch = x := by
  rw [getChannel, putChannel_eq, getCore_putCore]
  exact vget_vset_self {} (getCore s c).dma x h

theorem putChannel_putChannel (s : State) (c : CoreRef) (ch : Nat) (x y : DmaChannel) : putChannel (putChannel s c ch x) c ch y = putChannel s c ch y := by
  simp only [putChannel_eq, getCore_putCore, putCore_putCore, vset_vset]

theorem channelOk_of_lt (h : ch < 4) : dmaChannelOk ch = true := decide_eq_true h

theorem dma_issued (s : State) (th : ThreadRef) : (getCore (issued s th) (coreOf th)).dma = (getCore s (coreOf th)).dma :=
  issued_core_keeps Core.dma (fun _ _ _ _ _ => rfl) s th

theorem getChannel_issued (s : State) (th : ThreadRef) (ch : Nat) : getChannel (issued s th) (coreOf th) ch = vget {} (getCore s (coreOf th)).dma ch := by
  rw [getChannel, dma_issued]

/-! ### Issue -/

/-- A channel of the issuing thread's core stands anew. -/
theorem putChannel_issued (s : State) (th : ThreadRef) (ch : Nat) (x : DmaChannel) :
    putChannel (issued s th) (coreOf th) ch x = afterIssue s th (passed (threadOf s th)) (fun k => { k with dma := vset k.dma ch x }) := by
  rw [putChannel_eq]
  exact putCore_issued s th (fun k => { k with dma := vset k.dma ch x })

theorem afterIssue_dma (s : State) (th : ThreadRef) (x : Thread) (ch : Nat) (f : DmaChannel → DmaChannel) :
    afterIssue s th x (fun k => { k with dma := vset k.dma ch (f (vget {} (getCore s (coreOf th)).dma ch)) }) =
      afterIssue s th x (fun k => { k with dma := vset k.dma ch (f (vget {} k.dma ch)) }) := by
  have hdma : (getCore (fetched s th) (coreOf th)).dma = (getCore s (coreOf th)).dma := by
    have h := dma_issued s th
    rw [getCore_issued] at h
    exact h
  simp only [afterIssue, ← hdma]
  rfl

theorem writeResult_afterIssue_dma (s : State) (th : ThreadRef) (x : Thread) (ch : Nat) (y : DmaChannel) (d : BitVec 5) (v : Word) (n : Nat) :
    writeResult th d v n (afterIssue s th x (fun k => { k with dma := vset k.dma ch y })) =
      afterIssue s th (withResult x (aclkOf s th.die) d v n) (fun k => { k with dma := vset k.dma ch y }) := by
  have hth : threadOf (afterIssue s th x (fun k => { k with dma := vset k.dma ch y })) th = x := by simp [threadOf, afterIssue, getThread, putThread]
  have hput (z : Thread) : putThreadOf (afterIssue s th x (fun k => { k with dma := vset k.dma ch y })) th z =
      afterIssue s th z (fun k => { k with dma := vset k.dma ch y }) := by simp [putThreadOf, afterIssue, putThread]
  rw [writeResult, hth, hput, aclkOf_afterIssue]
  simp only [withResult, setReg]
  split <;> rfl

theorem startPush_issued {f : Fields} (hs : Clean s) (hcopy : copyable (readReg s th f.a).toNat 64) :
    startPush th f .ok (issued s th) = afterIssue s th (passed (threadOf s th)) (fun k =>
      { k with dma := vset k.dma (f.fl.toNat % 4) { vget {} k.dma (f.fl.toNat % 4) with
          queue := (vget {} k.dma (f.fl.toNat % 4)).queue ++
            [⟨(readReg s th f.a).toNat, BitVec.ofNat 512 (ownDescriptor s th (readReg s th f.a).toNat 64)⟩] } }) := by
  simp only [startPush, readReg_issued, copyDescriptor_issued _ hs hcopy, getChannel_issued, putChannel_issued]
  exact afterIssue_dma s th _ _ (fun x => { x with queue := x.queue ++
    [⟨(readReg s th f.a).toNat, BitVec.ofNat 512 (ownDescriptor s th (readReg s th f.a).toNat 64)⟩] })

theorem startStat_issued (s : State) (th : ThreadRef) (f : Fields) : startStat th f (issued s th) =
    afterIssue s th (withResult (passed (threadOf s th)) (aclkOf s th.die) f.d (channelStatus (vget {} (getCore s (coreOf th)).dma (f.fl.toNat % 4))) 1)
      (fun k => { k with dma := vset k.dma (f.fl.toNat % 4) { vget {} (getCore s (coreOf th)).dma (f.fl.toNat % 4) with err := false } }) := by
  simp only [startStat, getChannel_issued, putChannel_issued, writeResult_afterIssue_dma]

/-! ### Begin (R156, R157) -/

/-- A PISTE table without bad entries, read without findings, changes nothing. -/
theorem readPiste_of_good {die : Nat} (ep : Nat) (h : (getRouter s die).pisteBad = []) : readPiste die ep .ok s = s := by
  show (if (getRouter s die).pisteBad.contains ep then _ else s) = s
  rw [h]; rfl

/-- The execution of a descriptor as it begins here, its bytes not yet moved. -/
def dmaBegun (e : DmaEntry) (id code now : Nat) : DmaExec := { e := e, id := id, code := BitVec.ofNat 8 code, doneBytes := 0, packets := 0, began := now }

/-- A local descriptor between places of this module begins: it moves when it completes (R155). -/
theorem beginMove_local {e : DmaEntry} (hs : Clean s) (hhost : dmaHostSrc e.desc = false) (hremote : dmaRemote e.desc = false)
    (hexternal : dmaExternal c e.desc = false) :
    beginMove c ch .ok e s = putChannel { s with ids := s.ids + 1 } c ch { getChannel s c ch with exec := some (dmaBegun e s.ids 1 (aclkOf s c.die)) } := by
  have hclean : Clean { s with ids := s.ids + 1 } := hs
  simp only [beginMove, takeId, hhost, hremote, hexternal, Bool.false_eq_true, if_false, and_false, checkRead_clean hclean]
  rfl

theorem beginMove_putChannel {e : DmaEntry} (hch : ch < 4) (hs : Clean s) (hhost : dmaHostSrc e.desc = false) (hremote : dmaRemote e.desc = false)
    (hexternal : dmaExternal c e.desc = false) (x : DmaChannel) :
    beginMove c ch .ok e (putChannel s c ch x) = putChannel { s with ids := s.ids + 1 } c ch { x with exec := some (dmaBegun e s.ids 1 (aclkOf s c.die)) } := by
  have hclean : Clean (putChannel s c ch x) := hs
  rw [beginMove_local hclean hhost hremote hexternal, getChannel_putChannel hch]
  exact putChannel_putChannel { s with ids := s.ids + 1 } c ch x _

/-- Settles O24. A latency of one cycle of DMA.STAT is log 55; that a local descriptor moves nothing at its begin is log 8. -/
theorem dmaQueues : Obligations.DmaQueues := by
  refine ⟨⟨fun th f s h hs hcopy => ?push, fun th f s h => ?stat⟩, fun c ch e rest s hwf hch hgo hexec hqueue hs hlost hmissed hpiste hlocal => ?begin⟩
  case push => rw [h.exec_next (k := startPush th f .ok) rfl, startPush_issued hs hcopy]
  case stat => rw [h.exec_next (k := startStat th f) rfl, startStat_issued]; rfl
  case begin =>
    have hread : (if dmaRemote e.desc then readPiste c.die (dmaDestEp e.desc) .ok s else s) = s := by
      rw [readPiste_of_good _ hpiste, ite_self]
    have hgood : (c.wf && dmaChannelOk ch) = true := by rw [hwf, channelOk_of_lt hch]; rfl
    have hx : getChannel s c ch = vget {} (getCore s c).dma ch := rfl
    simp only [show exec (.dmaDescriptorBegin c ch .ok) s = execDmaDescriptorBegin c ch .ok s from rfl, execDmaDescriptorBegin, whenUnit, hgood, if_true, hx,
      hexec, hqueue, if_neg hgo, hread]
    by_cases hcode : dmaCode s c e.desc = 1
    · obtain ⟨hhost, hremote, hexternal, hahead⟩ := hlocal hcode
      have hwait : ¬(dmaCode s c e.desc = 1 ∧ nocAhead s c s.ids (dmaSources e.desc) = true) := by simp [hahead]
      rw [if_neg hwait, if_pos hcode, hcode]
      have hmove := beginMove_putChannel hch hs hhost hremote hexternal { vget {} (getCore s c).dma ch with queue := rest, exec := none }
      exact congrArg _ ((congrArg settleLost hmove).trans (settleLost_none hlost hmissed))
    · rw [if_neg fun h => hcode h.1, if_neg hcode]
      rfl

end Sys2Proof.Machine
end


section
/-! SUPPORT. The completion of a DMA descriptor: the bytes of a local row, the status word, the channel (R155 to R157, R161). -/
namespace Sys2Proof.Machine

variable {c : CoreRef} {ch : Nat} {s : State}

/-! ### Writes in a store without uncorrectable words -/

/-- Values of a table changed in place, each under its own key. -/
theorem mfind_map {β : Type} (g : Nat × β → Nat × β) (hg : ∀ e, (g e).1 = e.1) (m : SMap β) (k : Nat) :
    mfind (m.map g) k = (mfind m k).map (fun v => (g (k, v)).2) := by
  induction m with
  | nil => rfl
  | cons e m ih =>
    have he : g e = (e.1, (g e).2) := Prod.ext (hg e) rfl
    obtain ⟨a, v⟩ := e
    rw [List.map_cons, he]
    by_cases hk : k = a
    · subst hk; simp [mfind]
    · simpa [mfind, hk] using ih

/-- The word awaited by a sleeper is all that a landing write changes outside the memory. -/
theorem flagWrite_eq (a n : Nat) (s : State) : flagWrite a n s = { s with cores := (flagWrite a n s).cores } := by
  unfold flagWrite; split
  · rfl
  · split <;> rfl

theorem getCore_flagWrite (a n : Nat) (s : State) (c : CoreRef) : ∃ flags, getCore (flagWrite a n s) c = { getCore s c with flags := flags } := by
  unfold flagWrite; split
  · exact ⟨_, rfl⟩
  · split
    · next l _ =>
      simp only [getCore, mget]
      rw [mfind_map _ fun e => by split <;> rfl]
      cases mfind s.cores (coreKey c) with
      | none => exact ⟨_, rfl⟩
      | some k =>
        simp only [Option.map_some, Option.getD_some]
        split
        · exact ⟨_, rfl⟩
        · exact ⟨_, rfl⟩
    · exact ⟨_, rfl⟩

/-- A landing write: the memory afterwards, with what it shows. -/
structure Shows (m m' : Memory) (a : Nat) (bs : List Byte) : Prop where
  ok : MergeOk m'
  clean : m'.bad = []
  bytes : ∀ x, readByte m' x = if a ≤ x ∧ x < a + bs.length then bs.getD (x - a) 0 else readByte m x

theorem landQuiet_shows (a : Nat) (bs : List Byte) (hs : Clean s) (hok : MergeOk s.mem) :
    ∃ m, landQuiet a bs s = flagWrite a bs.length { s with mem := m } ∧ Shows s.mem m a bs := by
  obtain ⟨hmerge, hclean, -, hread⟩ := landedBytesRead s.mem (landTime s a) a bs hok hs
  exact ⟨_, landQuiet_clean a bs s hs, hmerge, hclean, hread⟩

theorem Shows.others {m m' : Memory} {a : Nat} {bs : List Byte} (h : Shows m m' a bs) {x : Nat} (hx : x < a ∨ a + bs.length ≤ x) : readByte m' x = readByte m x := by
  rw [h.bytes, if_neg (by omega)]

theorem Shows.own {m m' : Memory} {a : Nat} {bs : List Byte} (h : Shows m m' a bs) : readBytes m' a bs.length = bs := by
  apply List.ext_getElem
  · simp [readBytes]
  · intro i hi _
    have hi' : i < bs.length := by simpa [readBytes] using hi
    simp only [readBytes, List.getElem_map, List.getElem_range, h.bytes]
    rw [if_pos ⟨Nat.le_add_right a i, Nat.add_lt_add_left hi' a⟩, Nat.add_sub_cancel_left, List.getD_eq_getElem _ _ hi']

theorem Shows.num {m m' : Memory} {a n v : Nat} (h : Shows m m' a (toLE n v)) (hv : v < 256 ^ n) : readNum m' a n = v := by
  have hown := h.own
  rw [toLE_length] at hown
  rw [readNum, hown, ofLE_toLE]
  exact Nat.mod_eq_of_lt hv

/-! ### The moved bytes (R155) -/

theorem placeOf_tier1 {a n : Nat} (hn : 0 < n) (h : a + n ≤ Config.tier1Bytes) : placeOf a n = .tier1 := if_pos (show a + (n - 1) < Config.tier1Bytes by omega)

theorem localWrite_tier1 {thread epoch dst : Nat} {owner : Option Nat} {bs : List Byte} (hbs : 0 < bs.length) (h : dst + bs.length ≤ Config.tier1Bytes) :
    localWrite .ok c thread epoch owner dst bs s = landQuiet dst bs s := by
  simp only [localWrite, placeOf_tier1 hbs h]; rfl

theorem sourceBytes_tier1 {src n : Nat} (hn : 0 < n) (h : src + n ≤ Config.tier1Bytes) : sourceBytes s src n = readBytes s.mem src n := by
  simp only [sourceBytes, toStore, placeOf_tier1 hn h]

/-- What a memory shows of `n` bytes that have moved from `src` to `dst`. -/
structure Moved (m m' : Memory) (src dst n : Nat) : Prop where
  ok : MergeOk m'
  clean : m'.bad = []
  bytes : ∀ i, i < n → readByte m' (dst + i) = readByte m (src + i)
  others : ∀ x, x < dst ∨ dst + n ≤ x → readByte m' x = readByte m x

theorem tier1_below_spm : Config.tier1Bytes ≤ spmBase := by decide

/-- One piece between places of tier 1 moves. -/
theorem movePiece {src dst k epoch : Nat} {owner : Option Nat} (hs : Clean s) (hok : MergeOk s.mem) (hk : 0 < k) (hsrc : src + k ≤ Config.tier1Bytes)
    (hdst : dst + k ≤ Config.tier1Bytes) :
    ∃ m, localWrite .ok c 64 epoch owner dst (sourceBytes s src k) s = { s with mem := m } ∧ Moved s.mem m src dst k := by
  have hlen : (readBytes s.mem src k).length = k := by simp [readBytes]
  obtain ⟨m, hland, hshows⟩ := landQuiet_shows dst (readBytes s.mem src k) hs hok
  rw [sourceBytes_tier1 hk hsrc, localWrite_tier1 (by omega) (by omega), hland, flagWrite_tier (by have := tier1_below_spm; omega)]
  refine ⟨m, rfl, hshows.ok, hshows.clean, fun i hi => ?_, fun x hx => hshows.others (by omega)⟩
  rw [hshows.bytes, if_pos (by omega), Nat.add_sub_cancel_left]
  simp [readBytes, hi]

/-- The pieces of a run of bytes move, cut at granules, between places that do not overlap. -/
theorem movePieces (epoch : Nat) (owner : Option Nat) : ∀ (fuel : Nat) {src dst n : Nat} {s : State}, Clean s → MergeOk s.mem → (n = 0 ∨ dst % 64 + n ≤ fuel * 64) →
    src + n ≤ Config.tier1Bytes → dst + n ≤ Config.tier1Bytes → (src + n ≤ dst ∨ dst + n ≤ src) →
    ∃ m, (cutPieces fuel 64 src dst n).foldl (fun s (src, dst, k) => localWrite .ok c 64 epoch owner dst (sourceBytes s src k) s) s = { s with mem := m } ∧
      Moved s.mem m src dst n
  | 0, src, dst, n, s, hs, hok, hfuel, _, _, _ => by
    obtain rfl : n = 0 := by omega
    exact ⟨s.mem, rfl, hok, hs, fun i hi => absurd hi (Nat.not_lt_zero i), fun _ _ => rfl⟩
  | fuel + 1, src, dst, n, s, hs, hok, hfuel, hsrc, hdst, hapart => by
    by_cases hn : n = 0
    · subst hn
      exact ⟨s.mem, rfl, hok, hs, fun i hi => absurd hi (Nat.not_lt_zero i), fun _ _ => rfl⟩
    have hk : 0 < Nat.min n (64 - dst % 64) := Nat.lt_min.mpr ⟨by omega, by omega⟩
    have hkn : Nat.min n (64 - dst % 64) ≤ n := Nat.min_le_left ..
    have hrest : n - Nat.min n (64 - dst % 64) = 0 ∨ (dst + Nat.min n (64 - dst % 64)) % 64 + (n - Nat.min n (64 - dst % 64)) ≤ fuel * 64 := by
      rcases Nat.le_total n (64 - dst % 64) with h | h
      · rw [show Nat.min n (64 - dst % 64) = n from Nat.min_eq_left h]; omega
      · rw [show Nat.min n (64 - dst % 64) = 64 - dst % 64 from Nat.min_eq_right h]; omega
    simp only [cutPieces, if_neg hn, List.foldl_cons]
    generalize Nat.min n (64 - dst % 64) = k at hk hkn hrest ⊢
    obtain ⟨m₁, hfirst, hmoved⟩ := movePiece (c := c) (src := src) (dst := dst) (k := k) (epoch := epoch) (owner := owner) hs hok hk (by omega) (by omega)
    obtain ⟨m₂, hothers, hmore⟩ := movePieces epoch owner fuel (src := src + k) (dst := dst + k) (n := n - k) (s := { s with mem := m₁ }) hmoved.clean hmoved.ok hrest
      (by omega) (by omega) (by omega)
    refine ⟨m₂, by rw [hfirst]; exact hothers, hmore.ok, hmore.clean, fun i hi => ?_, fun x hx => ?_⟩
    · by_cases hik : i < k
      · rw [hmore.others _ (by omega)]
        exact hmoved.bytes i hik
      · have hi' := hmore.bytes (i - k) (by omega)
        rw [show dst + k + (i - k) = dst + i by omega, show src + k + (i - k) = src + i by omega] at hi'
        exact hi'.trans (hmoved.others _ (by omega))
    · exact (hmore.others x (by omega)).trans (hmoved.others x (by omega))


theorem isHost_of_tier1 {a : Nat} (h : a + 1 ≤ Config.tier1Bytes) : isHost a = false := by simp only [isHost, placeOf_tier1 Nat.one_pos h]
theorem otherSpm_of_tier1 {a : Nat} (h : a + 1 ≤ Config.tier1Bytes) : otherSpm c a = false := by simp only [otherSpm, placeOf_tier1 Nat.one_pos h]

/-- A descriptor of one row in tier 1 moves its row. -/
theorem dmaMove_row {d : BitVec 512} (id : Nat) (hs : Clean s) (hok : MergeOk s.mem) (hrows : dmaRows d = 1) (hpos : 0 < dmaLength d)
    (hsrc : dmaSrc d + dmaLength d ≤ Config.tier1Bytes) (hdst : dmaDst d + dmaLength d ≤ Config.tier1Bytes)
    (hapart : dmaSrc d + dmaLength d ≤ dmaDst d ∨ dmaDst d + dmaLength d ≤ dmaSrc d) :
    ∃ m, dmaMove .ok c id d (dmaTotal d) s = { s with mem := m } ∧ Moved s.mem m (dmaSrc d) (dmaDst d) (dmaLength d) := by
  have htop : Config.tier1Bytes < 2 ^ 48 := by decide
  have hrowSrc : dmaRowSrc d 0 = dmaSrc d := by rw [dmaRowSrc, Nat.zero_mul, Nat.add_zero, Nat.mod_eq_of_lt (by omega)]
  have hrowDst : dmaRowDst d 0 = dmaDst d := by rw [dmaRowDst, Nat.zero_mul, Nat.add_zero, Nat.mod_eq_of_lt (by omega)]
  have hone : List.range 1 = [0] := rfl
  have hcut : dmaCut c d = 64 := by
    simp [dmaCut, dmaHostDst, dmaExternal, hrows, hone, hrowDst, isHost_of_tier1 (show dmaDst d + 1 ≤ Config.tier1Bytes by omega),
      otherSpm_of_tier1 (c := c) (show dmaDst d + 1 ≤ Config.tier1Bytes by omega)]
  have hpieces : dmaPieces d 64 (dmaTotal d) = cutPieces (dmaLength d / 64 + 2) 64 (dmaSrc d) (dmaDst d) (dmaLength d) := by
    simp [dmaPieces, dmaTotal, hrows, hone, hrowSrc, hrowDst]
  obtain ⟨m, hmove, hmoved⟩ := movePieces (c := c) (dmaEpoch d) (some id) (dmaLength d / 64 + 2) hs hok (.inr (by omega)) hsrc hdst hapart
  exact ⟨m, by rw [dmaMove, hcut, hpieces]; exact hmove, hmoved⟩

/-! ### The end of a descriptor (R156, R157, R161) -/

/-- A channel after a descriptor with nothing behind it has completed with a code. -/
def dmaClosed (x : DmaChannel) (code : Nat) : DmaChannel :=
  { queue := [], exec := none, lastCode := BitVec.ofNat 8 code, err := x.err || decide (code ≠ 1), completed := x.completed + 1 }

theorem closeDma_alone {code : Nat} (hch : ch < 4) (hqueue : (getChannel s c ch).queue = []) :
    closeDma c ch code s = putChannel s c ch (dmaClosed (getChannel s c ch) code) := by
  simp only [closeDma, countDma, getChannel_putChannel hch, putChannel_putChannel, hqueue, ite_self, List.foldl_nil]
  rfl

/-- What the end of a descriptor without a flag leaves: its status word in memory, its channel closed; the flags that sleepers await may tell of the write. -/
structure DmaEnded (s t : State) (c : CoreRef) (ch : Nat) (off code done : Nat) : Prop where
  status : readNum t.mem (ownSpm s c off) 8 = code * 2 ^ 56 + done % 2 ^ 48
  others : SameBytesBut s t (ownSpm s c off) 8
  rest : t = { s with mem := t.mem, cores := t.cores }
  cores : ∀ c' : CoreRef, coreKey c' ≠ coreKey c → { getCore t c' with flags := [] } = { getCore s c' with flags := [] }
  core : getCore t c = { getCore s c with dma := (getCore t c).dma, flags := (getCore t c).flags }
  channels : ∀ i, i ≠ ch → vget {} (getCore t c).dma i = vget {} (getCore s c).dma i
  channel : vget {} (getCore t c).dma ch = dmaClosed (vget {} (getCore s c).dma ch) code

theorem getCore_putChannel_ne {c' : CoreRef} (h : coreKey c' ≠ coreKey c) (x : DmaChannel) : getCore (putChannel s c ch x) c' = getCore s c' :=
  mget_mset_ne _ _ _ h

theorem finishDma_ended {e : DmaEntry} {code done : Nat} (hch : ch < 4) (hs : Clean s) (hok : MergeOk s.mem) (hqueue : (getChannel s c ch).queue = [])
    (hcode : code < 256) (hflag : ¬(code = 1 ∧ dmaFlagEn e.desc = true ∧ (!dmaRemote e.desc) = true)) :
    DmaEnded s (finishDma c ch e code done s) c ch e.off code done := by
  obtain ⟨m, hland, hshows⟩ := landQuiet_shows (ownSpm s c e.off) (toLE 8 (code * 2 ^ 56 + done % 2 ^ 48)) hs hok
  obtain ⟨flags, hcore⟩ := getCore_flagWrite (ownSpm s c e.off) (toLE 8 (code * 2 ^ 56 + done % 2 ^ 48)).length { s with mem := m } c
  have hothers (c' : CoreRef) := getCore_flagWrite (ownSpm s c e.off) (toLE 8 (code * 2 ^ 56 + done % 2 ^ 48)).length { s with mem := m } c'
  have heq := flagWrite_eq (ownSpm s c e.off) (toLE 8 (code * 2 ^ 56 + done % 2 ^ 48)).length { s with mem := m }
  have hmem := flagWrite_mem (ownSpm s c e.off) (toLE 8 (code * 2 ^ 56 + done % 2 ^ 48)).length { s with mem := m }
  have hfinish : finishDma c ch e code done s = closeDma c ch code (landQuiet (ownSpm s c e.off) (toLE 8 (code * 2 ^ 56 + done % 2 ^ 48)) s) := if_neg hflag
  rw [hfinish, hland]
  generalize flagWrite (ownSpm s c e.off) (toLE 8 (code * 2 ^ 56 + done % 2 ^ 48)).length { s with mem := m } = u at hcore hothers heq hmem ⊢
  have hchannel : getChannel u c ch = vget {} (getCore s c).dma ch := by rw [getChannel, hcore]; rfl
  rw [closeDma_alone hch (hchannel ▸ hqueue), hchannel]
  have hlen : (toLE 8 (code * 2 ^ 56 + done % 2 ^ 48)).length = 8 := toLE_length ..
  refine ⟨?_, fun x hx => ?_, ?_, fun c' hc' => ?_, ?_, fun i hi => ?_, ?_⟩
  · rw [putChannel_mem, hmem]
    exact hshows.num (by omega)
  · rw [putChannel_mem, hmem]
    exact hshows.others (by omega)
  · rw [putChannel_eq, heq]; rfl
  · obtain ⟨flags', h'⟩ := hothers c'
    rw [getCore_putChannel_ne hc', h']; rfl
  · rw [putChannel_eq, getCore_putCore, hcore]; rfl
  · rw [putChannel_eq, getCore_putCore]
    exact (vget_vset_ne _ _ _ hi).trans (by rw [hcore]; rfl)
  · rw [putChannel_eq, getCore_putCore]
    exact vget_vset_self _ _ _ hch

theorem DmaEnded.settled {t : State} {off code done : Nat} (h : DmaEnded s t c ch off code done) (hlost : s.intg.lost = []) (hmissed : s.intg.missed = []) :
    settleLost t = t := by
  have hintg : t.intg = s.intg := by rw [h.rest]
  exact settleLost_none (by rw [hintg, hlost]) (by rw [hintg, hmissed])

/-- The status word lies in an SPM: no byte below the SPM windows changes. -/
theorem DmaEnded.below {t : State} {off code done : Nat} (h : DmaEnded s t c ch off code done) {a : Nat} (ha : a < spmBase) :
    readByte t.mem a = readByte s.mem a := h.others a (.inl (by simp only [ownSpm, spmAddr]; omega))

/-- A local descriptor of one row in tier 1 moves its row and ends with DONE. -/
theorem completeDma_row {e : DmaExec} {m : Memory} (hflag : e.flagOut = false) (hdone : e.code = 1) (hremote : dmaRemote e.e.desc = false)
    (hbytes : e.doneBytes = 0) (htotal : dmaTotal e.e.desc ≠ 0) (hchk : e.chk = .ok) (hs : Clean s) (hmissed : s.intg.missed = [])
    (hmove : dmaMove .ok c e.id e.e.desc (dmaTotal e.e.desc) s = { s with mem := m }) :
    completeDma c ch e s = finishDma c ch e.e 1 (dmaTotal e.e.desc) { s with mem := m } := by
  have hpoison : ¬e.code = 2 := by rw [hdone]; decide
  simp only [completeDma, hflag, Bool.false_eq_true, if_false, if_neg hpoison, if_neg (not_not.mpr hdone), hremote, if_pos (And.intro hbytes htotal), moveAndFinish,
    hchk, checkRead_clean hs, hmove, if_pos hmissed]

/-- A settled descriptor completes. -/
theorem exec_dmaDescriptorComplete_of_settled {e : DmaExec} (hwf : c.wf = true) (hch : ch < 4) (hexec : (getChannel s c ch).exec = some e)
    (hsettled : dmaSettled s c e = true) : exec (.dmaDescriptorComplete c ch) s = .next (settleLost (completeDma c ch e s)) := by
  have hgood : (c.wf && dmaChannelOk ch) = true := by rw [hwf, channelOk_of_lt hch]; rfl
  simp only [show exec (.dmaDescriptorComplete c ch) s = execDmaDescriptorComplete c ch s from rfl, execDmaDescriptorComplete, whenUnit, hgood, if_true, hexec, hsettled]

/-- Settles O25: the row's bytes move piece by piece, then the status word is written and the channel closes. -/
theorem dmaCompletes : Obligations.DmaCompletes := by
  intro c ch e s hwf hch hexec hqueue hflag hs hok hlost hmissed
  refine ⟨fun hdone hpoison => ?failed, fun hdone hchk hsettled hbytes hremote hflagEn hrows hpos hsrc hdst hapart => ?moved⟩
  case failed =>
    have hcode : e.code.toNat ≠ 1 := fun h => hdone (BitVec.eq_of_toNat_eq h)
    have hsettled : dmaSettled s c e = true := (Bool.or_eq_true ..).mpr (.inl (decide_eq_true ⟨hdone, hpoison⟩))
    have hcomplete : completeDma c ch e s = finishDma c ch e.e e.code.toNat e.doneBytes s := by
      simp only [completeDma, hflag, Bool.false_eq_true, if_false, if_neg hpoison, if_pos hdone]
    have hend := finishDma_ended (e := e.e) (code := e.code.toNat) (done := e.doneBytes) hch hs hok hqueue e.code.isLt fun h => hcode h.1
    have hnext : exec (.dmaDescriptorComplete c ch) s = .next (finishDma c ch e.e e.code.toNat e.doneBytes s) := by
      rw [exec_dmaDescriptorComplete_of_settled hwf hch hexec hsettled, hcomplete, hend.settled hlost hmissed]
    refine ⟨_, hnext, hend.status, hend.others, hend.rest, hend.cores, hend.core,
      fun i _ hi => hend.channels i hi, ?_⟩
    rw [hend.channel]
    simp [dmaClosed, hcode]
  case moved =>
    obtain ⟨m, hmove, hmoved⟩ := dmaMove_row (c := c) e.id hs hok hrows hpos hsrc hdst hapart
    have htotal : dmaTotal e.e.desc = dmaLength e.e.desc := by rw [dmaTotal, hrows, Nat.one_mul]
    have hend := finishDma_ended (s := { s with mem := m }) (e := e.e) (code := 1) (done := dmaTotal e.e.desc) hch hmoved.clean hmoved.ok hqueue (by decide)
      fun h => by rw [hflagEn] at h; exact absurd h.2.1 (by decide)
    have hcomplete := completeDma_row (ch := ch) hflag hdone hremote hbytes (by omega) hchk hs hmissed hmove
    have hlength : dmaLength e.e.desc < 2 ^ 32 := Nat.mod_lt _ (by decide)
    have hspm := tier1_below_spm
    have hnext : exec (.dmaDescriptorComplete c ch) s = .next (finishDma c ch e.e 1 (dmaTotal e.e.desc) { s with mem := m }) := by
      rw [exec_dmaDescriptorComplete_of_settled hwf hch hexec hsettled, hcomplete, hend.settled hlost hmissed]
    refine ⟨_, hnext, fun i hi => ?_, fun a ha hout => ?_, ?_, ?_, ?_, ?_⟩
    · rw [hend.below (by omega), hmoved.bytes i hi]
    · rw [hend.below ha, hmoved.others a hout]
    · refine hend.status.trans ?_
      rw [htotal, Nat.mod_eq_of_lt (by omega), Nat.one_mul]
    · rw [hend.channel]; rfl
    · rw [hend.channel]; rfl
    · rw [hend.channel]; rfl

end Sys2Proof.Machine
end


section
/-! SUPPORT. The collective class: COL.START, BAR, SRED and COL.WAIT at their issue (R63, R246, R253, R254, R262, R265, R266). -/
namespace Sys2Proof.Machine

variable {th : ThreadRef} {c : CoreRef} {s : State}

/-! ### Groups around an issue -/

@[simp] theorem issued_grp (s : State) (th : ThreadRef) : (issued s th).grp = s.grp := issued_keeps State.grp (·.grp_eq) (fun _ _ _ => rfl) s th
@[simp] theorem issued_hdr (s : State) (th : ThreadRef) : (issued s th).run.hdr = s.run.hdr :=
  issued_keeps (·.run.hdr) (fun h => by rw [h]) (fun _ _ _ => rfl) s th

theorem handleOk_issued (s : State) (th : ThreadRef) (h : Nat) : handleOk (issued s th) h = handleOk s h := by unfold handleOk stepGroup; rw [issued_grp, issued_hdr]
theorem epochFailed_issued (s : State) (th : ThreadRef) (h : Nat) : epochFailed (issued s th) h = epochFailed s h := by unfold epochFailed groupEpoch; rw [issued_grp]
theorem groupSize_issued (s : State) (th : ThreadRef) (h : Nat) : groupSize (issued s th) h = groupSize s h := by simp [groupSize]
theorem rankOf_issued (s : State) (th : ThreadRef) (c : CoreRef) (h : Nat) : rankOf (issued s th) c h = rankOf s c h := by simp [rankOf]
theorem colOk_issued (s : State) (th : ThreadRef) (h : Nat) (d : BitVec 512) : colOk (issued s th) (coreOf th) h d = colOk s (coreOf th) h d := by
  simp only [colOk, groupSize_issued, rankOf_issued, mxa_issued]

/-! ### A core after an issue, changed once more -/

theorem getCore_afterIssue (s : State) (th : ThreadRef) (x : Thread) (g : Core → Core) : getCore (afterIssue s th x g) (coreOf th) =
    g (putThread { getCore (fetched s th) (coreOf th) with issuedAt := some (aclkOf s th.die), search := (th.thread + 1) % 64 } th.thread x) := by
  simp [afterIssue]

theorem putCore_afterIssue_twice (s : State) (th : ThreadRef) (x : Thread) (g g' : Core → Core) :
    putCore (afterIssue s th x g) (coreOf th) (g' (getCore (afterIssue s th x g) (coreOf th))) = afterIssue s th x (fun k => g' (g k)) := by
  rw [getCore_afterIssue]; simp [afterIssue]

theorem seq_issued (s : State) (th : ThreadRef) : (getCore (issued s th) (coreOf th)).seq = (getCore s (coreOf th)).seq :=
  issued_core_keeps Core.seq (fun _ _ _ _ _ => rfl) s th

theorem seq_fetched (s : State) (th : ThreadRef) : (getCore (fetched s th) (coreOf th)).seq = (getCore s (coreOf th)).seq := by
  have h := seq_issued s th
  rw [getCore_issued] at h
  exact h

/-- Two changes of the core that agree on cores with its next number. -/
theorem afterIssue_congr (s : State) (th : ThreadRef) (x : Thread) {g g' : Core → Core} (h : ∀ k, k.seq = (getCore s (coreOf th)).seq → g k = g' k) :
    afterIssue s th x g = afterIssue s th x g' := by
  exact congrArg (putCore (fetched s th) (coreOf th)) (h _ (seq_fetched s th))

/-! ### The queue (R253) -/

/-- A collective instruction of the issuing thread under number `seq`. -/
def colEntry (s : State) (th : ThreadRef) (f : Fields) (kind : ColKind) (h : Nat) (phase : ColPhase) (seq : Nat) : ColEntry :=
  { seq := seq, thread := th.thread, pc := (threadOf s th).pc, kind := kind, handle := h, gepoch := groupEpoch s h, d := f.d, fl := f.fl,
    hi := readReg s th f.a, lo := readReg s th f.b, phase := phase, id := s.ids }

/-- That instruction at the end of its core's queue. -/
def colEntered (s : State) (th : ThreadRef) (f : Fields) (kind : ColKind) (h : Nat) (phase : ColPhase) (k : Core) : Core :=
  { k with seq := k.seq + 1, colQueue := k.colQueue ++ [colEntry s th f kind h phase k.seq] }

theorem pushEntry_issued (kind : ColKind) (h : Nat) (f : Fields) (phase : ColPhase) : pushEntry th kind h f phase (issued s th) =
    ({ afterIssue s th (passed (threadOf s th)) (colEntered s th f kind h phase) with ids := s.ids + 1 },
      colEntry s th f kind h phase (getCore s (coreOf th)).seq) := by
  have hentry (seq : Nat) : ({ seq := seq, thread := th.thread, pc := issuedPc (issued s th) th, kind := kind, handle := h, gepoch := groupEpoch (issued s th) h, d := f.d, fl := f.fl, hi := readReg (issued s th) th f.a, lo := readReg (issued s th) th f.b, phase := phase, id := (issued s th).ids } : ColEntry) =
      colEntry s th f kind h phase seq := by
    rw [issuedPc_issued, readReg_issued, readReg_issued, issued_ids, groupEpoch, issued_grp]; rfl
  have hput := putCore_issued s th (colEntered s th f kind h phase)
  have hseq := seq_issued s th
  refine Prod.ext ?_ ((hentry _).trans (congrArg _ hseq))
  rw [← hput, colEntered, ← hentry, ← issued_ids s th]
  rfl

/-! ### BAR and SRED (R63, R246) -/

theorem sleepOn_pushed (x : Thread) (n seq : Nat) (f : Fields) (kind : ColKind) (h : Nat) (phase : ColPhase) (e : ColEntry) (ds : List (BitVec 5)) (hseq : e.seq = seq) :
    sleepOn th e ds { afterIssue s th x (colEntered s th f kind h phase) with ids := n } =
      { afterIssue s th { ds.foldl markBusy x with mode := .sleeping (.glide seq) } (colEntered s th f kind h phase) with ids := n } := by
  subst hseq
  have hth : threadOf { afterIssue s th x (colEntered s th f kind h phase) with ids := n } th = x := by
    show getThread (getCore (afterIssue s th x (colEntered s th f kind h phase)) (coreOf th)) th.thread = x
    rw [getCore_afterIssue]; simp [colEntered, getThread, putThread]
  rw [sleepOn, hth]
  show { putThreadOf (afterIssue s th x (colEntered s th f kind h phase)) th _ with ids := n } = _
  simp [putThreadOf, afterIssue, colEntered, putThread]

theorem startBar_issued {f : Fields} (hok : handleOk s (f.imm.toNat % 2 ^ 16) = true) (hgo : epochFailed s (f.imm.toNat % 2 ^ 16) = false) :
    startBar th f (issued s th) = pumpGlide (coreOf th) (f.imm.toNat % 2 ^ 16) { afterIssue s th
      { awaiting (threadOf s th) f.d with mode := .sleeping (.glide (getCore s (coreOf th)).seq) } (colEntered s th f .bar (f.imm.toNat % 2 ^ 16) .queued)
      with ids := s.ids + 1 } := by
  simp only [startBar, handleOk_issued, hok, epochFailed_issued, hgo, Bool.not_true, Bool.false_eq_true, if_false, pushEntry_issued]
  exact congrArg _ (sleepOn_pushed _ _ _ f .bar _ .queued _ [f.d] rfl)

theorem startSred_issued {f : Fields} (hfl : f.fl.toNat < 6) (hd : f.fl = 5 → f.d ≠ 31) (hok : handleOk s (f.imm.toNat % 2 ^ 16) = true)
    (hgo : epochFailed s (f.imm.toNat % 2 ^ 16) = false) :
    startSred th f (issued s th) = pumpGlide (coreOf th) (f.imm.toNat % 2 ^ 16) { afterIssue s th
      { (if f.fl = 5 then markBusy (awaiting (threadOf s th) f.d) (f.d + 1) else awaiting (threadOf s th) f.d)
        with mode := .sleeping (.glide (getCore s (coreOf th)).seq) } (colEntered s th f .sred (f.imm.toNat % 2 ^ 16) .queued)
      with ids := s.ids + 1 } := by
  have hlegal : ¬(6 ≤ f.fl.toNat ∨ (f.fl = 5 ∧ f.d = 31)) := by
    rintro (h | ⟨h5, h31⟩)
    · omega
    · exact hd h5 h31
  have hbusy : (if f.fl = 5 then [f.d, f.d + 1] else [f.d]).foldl markBusy (passed (threadOf s th)) =
      (if f.fl = 5 then markBusy (awaiting (threadOf s th) f.d) (f.d + 1) else awaiting (threadOf s th) f.d) := by split <;> rfl
  simp only [startSred, if_neg hlegal, handleOk_issued, hok, epochFailed_issued, hgo, Bool.not_true, Bool.false_eq_true, if_false, pushEntry_issued]
  rw [sleepOn_pushed _ _ _ f .sred _ .queued _ _ rfl, hbusy]
  rfl

/-! ### COL.WAIT (R265) -/

theorem waitStatus_issued (s : State) (th : ThreadRef) (off : Nat) : waitStatus (getCore (issued s th) (coreOf th)) off = waitStatus (getCore s (coreOf th)) off :=
  issued_core_keeps (fun k => waitStatus k off) (fun _ _ _ _ _ => rfl) s th

theorem startWait_over {f : Fields} {v : Nat} (h : waitStatus (getCore s (coreOf th)) (readReg s th f.a).toNat = some v) :
    startWait th f (issued s th) = afterIssue s th (withResult (passed (threadOf s th)) (aclkOf s th.die) f.d (BitVec.ofNat 64 v) 1)
      (fun k => { k with colRecords := k.colRecords.filter (fun r => decide (r.off ≠ (readReg s th f.a).toNat)) }) := by
  simp only [startWait, readReg_issued, waitStatus_issued, h, writeResult_issued]
  exact putCore_afterIssue s th _ (fun k => { k with colRecords := k.colRecords.filter (fun r => decide (r.off ≠ (readReg s th f.a).toNat)) })

theorem startWait_in_progress {f : Fields} (h : waitStatus (getCore s (coreOf th)) (readReg s th f.a).toNat = none) :
    startWait th f (issued s th) = afterIssue s th { awaiting (threadOf s th) f.d with mode := .sleeping (.colWait (readReg s th f.a).toNat f.d) } := by
  simp only [startWait, readReg_issued, waitStatus_issued, h, threadOf_issued_passed, putThreadOf_issued]
  rfl

/-! ### COL.START (R253, R254) -/

/-- A repair of the core epoch's copies leaves the rest of its core. -/
theorem repairEpoch_core (c : CoreRef) (s : State) : ∃ e, getCore (repairEpoch c s) c = { getCore s c with epoch := e } := by
  unfold repairEpoch repairWord
  split
  · have hreports := correctableWith_reports cperBare cperBare_reports (regionCritical c.die)
      (putCore s c { getCore s c with epoch := votedWord (getCore s c).epoch })
    exact ⟨votedWord (getCore s c).epoch, by rw [getCore, hreports.cores_eq]; exact getCore_putCore ..⟩
  · exact ⟨_, rfl⟩

theorem sigNotes_sendColl (c : CoreRef) (h tag kind count value : Nat) (m : BitVec 32) (s : State) :
    (getCore (sendColl c h tag kind count value m s) c).sigNotes = (getCore s c).sigNotes := by
  obtain ⟨e, he⟩ := repairEpoch_core c s
  show (getCore (repairEpoch c s) c).sigNotes = _
  rw [he]

/-- A descriptor in the collective queue of its core, with its record (R253, R265). -/
def bulkEntered (s : State) (th : ThreadRef) (f : Fields) (d : BitVec 512) (off h : Nat) (phase : ColPhase) (k : Core) : Core :=
  { colEntered s th f (.bulk d off) h phase k with colRecords := k.colRecords ++ [⟨off, k.seq, none⟩] }

/-- The machine with that descriptor entered: a reduction is recorded by its TAG (log 43). -/
def bulkStarted (s : State) (th : ThreadRef) (f : Fields) (d : BitVec 512) (off h : Nat) (phase : ColPhase) : State :=
  { afterIssue s th (passed (threadOf s th)) (bulkEntered s th f d off h phase) with
    ids := s.ids + 1, grp := if colReduces d then { s.grp with tagOps := mset s.grp.tagOps (colTag d) d } else s.grp }

theorem grp_afterIssue (s : State) (th : ThreadRef) (x : Thread) (g : Core → Core) : (afterIssue s th x g).grp = s.grp := by
  rw [← issued_grp s th, issued_eq_afterIssue]; rfl

theorem fab_afterIssue (s : State) (th : ThreadRef) (x : Thread) (g : Core → Core) : (afterIssue s th x g).fab = s.fab := by
  rw [← issued_fab s th, issued_eq_afterIssue]; rfl

/-- Entering the record behind the entry. -/
theorem record_pushed (f : Fields) (d : BitVec 512) (off h : Nat) (phase : ColPhase) :
    putCore { afterIssue s th (passed (threadOf s th)) (colEntered s th f (.bulk d off) h phase) with ids := s.ids + 1 } (coreOf th)
      { getCore { afterIssue s th (passed (threadOf s th)) (colEntered s th f (.bulk d off) h phase) with ids := s.ids + 1 } (coreOf th) with
        colRecords := (getCore { afterIssue s th (passed (threadOf s th)) (colEntered s th f (.bulk d off) h phase) with ids := s.ids + 1 } (coreOf th)).colRecords ++
          [⟨off, (getCore s (coreOf th)).seq, none⟩] } =
      { afterIssue s th (passed (threadOf s th)) (bulkEntered s th f d off h phase) with ids := s.ids + 1 } := by
  have hput := putCore_afterIssue_twice s th (passed (threadOf s th)) (colEntered s th f (.bulk d off) h phase)
    (fun k => { k with colRecords := k.colRecords ++ [⟨off, (getCore s (coreOf th)).seq, none⟩] })
  rw [afterIssue_congr s th (passed (threadOf s th)) (g := bulkEntered s th f d off h phase)
    (g' := fun k => { colEntered s th f (.bulk d off) h phase k with colRecords := (colEntered s th f (.bulk d off) h phase k).colRecords ++
      [⟨off, (getCore s (coreOf th)).seq, none⟩] }) fun k hk => by rw [bulkEntered, hk]; rfl]
  exact congrArg (fun t : State => { t with ids := s.ids + 1 }) hput

/-- The TAG of a reduction is recorded with the entry. -/
theorem tagged_pushed (f : Fields) (d : BitVec 512) (off h : Nat) (phase : ColPhase) :
    (if colReduces d = true then { { afterIssue s th (passed (threadOf s th)) (bulkEntered s th f d off h phase) with ids := s.ids + 1 } with
        grp := { (afterIssue s th (passed (threadOf s th)) (bulkEntered s th f d off h phase)).grp with
          tagOps := mset (afterIssue s th (passed (threadOf s th)) (bulkEntered s th f d off h phase)).grp.tagOps (colTag d) d } }
      else { afterIssue s th (passed (threadOf s th)) (bulkEntered s th f d off h phase) with ids := s.ids + 1 }) = bulkStarted s th f d off h phase := by
  rw [bulkStarted, grp_afterIssue]
  split
  · rfl
  · rw [← grp_afterIssue s th (passed (threadOf s th)) (bulkEntered s th f d off h phase)]

/-- The groups as a started descriptor finds them. -/
theorem bulkStarted_groups (f : Fields) (d : BitVec 512) (off h : Nat) (phase : ColPhase) :
    (bulkStarted s th f d off h phase).grp.recs = s.grp.recs ∧ (bulkStarted s th f d off h phase).grp.epochs = s.grp.epochs ∧
      (bulkStarted s th f d off h phase).fab = s.fab := by
  refine ⟨?_, ?_, fab_afterIssue s th (passed (threadOf s th)) (bulkEntered s th f d off h phase)⟩
  · simp only [bulkStarted]; split <;> rfl
  · simp only [bulkStarted]; split <;> rfl

theorem sigNotes_bulkStarted (f : Fields) (d : BitVec 512) (off h : Nat) (phase : ColPhase) :
    (getCore (bulkStarted s th f d off h phase) (coreOf th)).sigNotes = (getCore s (coreOf th)).sigNotes := by
  have hissued := issued_core_keeps Core.sigNotes (fun _ _ _ _ _ => rfl) s th
  rw [getCore_issued] at hissued
  show (getCore (afterIssue s th (passed (threadOf s th)) (bulkEntered s th f d off h phase)) (coreOf th)).sigNotes = _
  rw [getCore_afterIssue]
  exact hissued

/-- A descriptor enters the queue, its record behind it and its TAG noted (R253, R265). -/
def enterBulk (th : ThreadRef) (f : Fields) (d : BitVec 512) (off h : Nat) (phase : ColPhase) (s : State) : State × ColEntry :=
  let p := pushEntry th (.bulk d off) h f phase s
  let t := putCore p.1 (coreOf th) { getCore p.1 (coreOf th) with colRecords := (getCore p.1 (coreOf th)).colRecords ++ [⟨off, p.2.seq, none⟩] }
  (if colReduces d then { t with grp := { t.grp with tagOps := mset t.grp.tagOps (colTag d) d } } else t, p.2)

/-- The signature of an entered descriptor goes to the next rank, and the one that the rank before has sent is compared (R254). -/
def exchangeSignature (th : ThreadRef) (h : Nat) (d : BitVec 512) (e : ColEntry) (s : State) : State :=
  let c := coreOf th
  match rankOf s c h with
  | none => s
  | some r =>
    let s := ((memberAt s h ((r + 1) % groupSize s h)).map (fun m => sendColl c h (colTag d) 1 0 (colSignature s h d) m s)).getD s
    let k := getCore s c
    match findAt (fun (n : SigNote) => decide (n.handle = h) && decide (n.gepoch = groupEpoch s h) && decide (n.optag.toNat = colTag d)) k.sigNotes with
    | some (i, n) => takeSignature c e n.value.toNat (putCore s c { k with sigNotes := dropAt k.sigNotes i })
    | none => s

theorem startCol_eq (th : ThreadRef) (f : Fields) (chk : Chk) (s : State) : startCol th f chk s =
    copyDescriptor th (readReg s th f.a).toNat 64 chk (fun v t =>
      if (!handleOk t (f.imm.toNat % 2 ^ 16) || !colOk t (coreOf th) (f.imm.toNat % 2 ^ 16) (BitVec.ofNat 512 v)) = true then trapIssued th trapDesc 0 t
      else
        let p := enterBulk th f (BitVec.ofNat 512 v) (readReg s th f.a).toNat (f.imm.toNat % 2 ^ 16)
          (if epochFailed t (f.imm.toNat % 2 ^ 16) = true then .ended 2
            else if decide (groupSize t (f.imm.toNat % 2 ^ 16) = 1) = true then .data else .signature) t
        if (epochFailed t (f.imm.toNat % 2 ^ 16) || decide (groupSize t (f.imm.toNat % 2 ^ 16) = 1)) = true then p.1
        else exchangeSignature th (f.imm.toNat % 2 ^ 16) (BitVec.ofNat 512 v) p.2 p.1) s := rfl

theorem enterBulk_issued (f : Fields) (d : BitVec 512) (off h : Nat) (phase : ColPhase) :
    enterBulk th f d off h phase (issued s th) = (bulkStarted s th f d off h phase, colEntry s th f (.bulk d off) h phase (getCore s (coreOf th)).seq) := by
  rw [enterBulk, pushEntry_issued]
  refine Prod.ext ?_ rfl
  dsimp only
  rw [← tagged_pushed f d off h phase]
  rw [show (colEntry s th f (.bulk d off) h phase (getCore s (coreOf th)).seq).seq = (getCore s (coreOf th)).seq from rfl, record_pushed]

/-- With no signature noted, an entered descriptor only sends its own. -/
theorem exchangeSignature_bulkStarted {f : Fields} {d : BitVec 512} {off h r : Nat} {phase : ColPhase} {m : BitVec 32} (e : ColEntry)
    (hrank : rankOf s (coreOf th) h = some r) (hnext : memberAt s h ((r + 1) % groupSize s h) = some m) (hnotes : (getCore s (coreOf th)).sigNotes = []) :
    exchangeSignature th h d e (bulkStarted s th f d off h phase) =
      sendColl (coreOf th) h (colTag d) 1 0 (colSignature s h d) m (bulkStarted s th f d off h phase) := by
  obtain ⟨hrecs, hepochs, hfab⟩ := bulkStarted_groups (s := s) (th := th) f d off h phase
  have hnotes' := (sigNotes_bulkStarted (s := s) (th := th) f d off h phase).trans hnotes
  generalize bulkStarted s th f d off h phase = t at hrecs hepochs hfab hnotes' ⊢
  have hrank' : rankOf t (coreOf th) h = some r := by rw [← hrank]; unfold rankOf; rw [hrecs, hfab]
  have hnext' : memberAt t h ((r + 1) % groupSize t h) = some m := by rw [← hnext]; unfold memberAt groupSize; rw [hrecs]
  have hsig : colSignature t h d = colSignature s h d := by unfold colSignature groupEpoch; rw [hepochs]
  simp only [exchangeSignature, hrank', hnext', Option.map_some, Option.getD_some, hsig, sigNotes_sendColl, hnotes']
  rfl

section
variable {f : Fields} {d : BitVec 512} (hs : Clean s) (hcopy : copyable (readReg s th f.a).toNat 64)
  (hd : BitVec.ofNat 512 (ownDescriptor s th (readReg s th f.a).toNat 64) = d)
  (hok : handleOk s (f.imm.toNat % 2 ^ 16) = true) (hcol : colOk s (coreOf th) (f.imm.toNat % 2 ^ 16) d = true)
  (hgo : epochFailed s (f.imm.toNat % 2 ^ 16) = false)
include hs hcopy hd hok hcol hgo

/-- A descriptor that passes its checks enters; in a larger group the signatures are exchanged. -/
theorem startCol_issued : startCol th f .ok (issued s th) =
    (if groupSize s (f.imm.toNat % 2 ^ 16) = 1 then bulkStarted s th f d (readReg s th f.a).toNat (f.imm.toNat % 2 ^ 16) .data
      else exchangeSignature th (f.imm.toNat % 2 ^ 16) d (colEntry s th f (.bulk d (readReg s th f.a).toNat) (f.imm.toNat % 2 ^ 16) .signature (getCore s (coreOf th)).seq)
        (bulkStarted s th f d (readReg s th f.a).toNat (f.imm.toNat % 2 ^ 16) .signature)) := by
  rw [startCol_eq, readReg_issued, copyDescriptor_issued _ hs hcopy, hd]
  simp only [handleOk_issued, hok, colOk_issued, hcol, epochFailed_issued, hgo, groupSize_issued, enterBulk_issued, Bool.not_true, Bool.false_or,
    Bool.false_eq_true, if_false, decide_eq_true_eq]
  split <;> rfl

end

/-- Settles O26. That a reduction's descriptor is recorded by its TAG is log 43. -/
theorem collectiveInstructions : Obligations.CollectiveInstructions := by
  refine ⟨fun th f s h hs hcopy => ?start, fun th f s h hok => ?bar, fun th f s h hok hfl hd hgo => ?sred, fun th f s h => ?wait⟩
  case start =>
    intro hdl d hok hcol hgo entered
    have hexec : exec (.colStart th f .ok) s = .next (startCol th f .ok (issued s th)) := h.exec_next rfl
    rw [hexec, startCol_issued hs hcopy rfl hok hcol hgo]
    refine ⟨fun hone => by rw [if_pos hone]; rfl, fun r m hmany hrank hnext hnotes => ?_⟩
    rw [if_neg hmany, exchangeSignature_bulkStarted _ hrank hnext hnotes]
    rfl
  case bar =>
    intro hdl
    have hexec : exec (.bar th f) s = .next (startBar th f (issued s th)) := h.exec_next rfl
    refine ⟨fun hfailed => ?_, fun hgo => by rw [hexec, startBar_issued hok hgo]; rfl⟩
    rw [hexec]
    simp only [startBar, handleOk_issued, hok, epochFailed_issued, hfailed, Bool.not_true, Bool.false_eq_true, if_false, if_true, writeResult_issued, hdl]
  case sred =>
    have hexec : exec (.sred th f) s = .next (startSred th f (issued s th)) := h.exec_next rfl
    rw [hexec, startSred_issued hfl hd hok hgo]
    rfl
  case wait =>
    intro off
    have hexec : exec (.colWait th f) s = .next (startWait th f (issued s th)) := h.exec_next rfl
    exact ⟨fun v hv => hexec.trans (congrArg _ (startWait_over hv)), fun hv => hexec.trans (congrArg _ (startWait_in_progress hv))⟩

end Sys2Proof.Machine
end


section
/-! SUPPORT. Kernels: the boundary with its kick-turn, the start of a kernel, the release of the commit gate (R54, R68 to R71, R74, R285). -/
namespace Sys2Proof.Machine

variable {c : CoreRef} {s : State}

/-! ### The next kernel (R70, R71, R285) -/

@[simp] theorem value_triple {α : Type} [DecidableEq α] (x : α) : (triple x).value = x := by simp [Tri.value, triple]

/-- With no gate in its role, a core goes on to the next kernel at once. -/
theorem nextKernel_ungated {i since : Nat} (hgate : roleGate (roleEntry s (getCore s c).role.toNat) = 0xFFFF) : nextKernel c i since s = fetchKernel c i since s :=
  if_neg fun h => h.1 hgate

/-- A core goes on to a kernel of its role's list, or has ended its part of the step. -/
theorem fetchKernel_eq (c : CoreRef) (i since : Nat) (s : State) : fetchKernel c i since s =
    putCore s c (if roleKcount (roleEntry s (getCore s c).role.toNat) ≤ i then { getCore s c with phase := .ended }
      else { getCore s c with
        kernel := BitVec.ofNat 16 i
        phase := .fetching (s.run.imageBase + roleKlist (roleEntry s (getCore s c).role.toNat) + 32 * i) since }) := by
  unfold fetchKernel
  dsimp only
  split <;> rfl

theorem fetchKernel_listed {i since : Nat} (hlist : i < roleKcount (roleEntry s (getCore s c).role.toNat)) : fetchKernel c i since s =
    putCore s c { getCore s c with
      kernel := BitVec.ofNat 16 i
      phase := .fetching (s.run.imageBase + roleKlist (roleEntry s (getCore s c).role.toNat) + 32 * i) since } :=
  (fetchKernel_eq c i since s).trans (congrArg _ (if_neg (Nat.not_le.mpr hlist)))

/-- The decided gate sends a waiting core to the gate's kernel or past it. -/
theorem nextKernel_gated {since : Nat} (hgate : roleGate (roleEntry s (getCore s c).role.toNat) ≠ 0xFFFF) (hdecided : s.run.gate ≠ .undecided) :
    nextKernel c (roleGate (roleEntry s (getCore s c).role.toNat)) since s =
      fetchKernel c (if s.run.gate = .opened then roleGate (roleEntry s (getCore s c).role.toNat) else roleSkip (roleEntry s (getCore s c).role.toNat)) since s := by
  unfold nextKernel
  dsimp only
  rw [if_pos ⟨hgate, rfl⟩]
  cases h : s.run.gate with
  | undecided => exact absurd h hdecided
  | opened => rfl
  | closed => rfl
  | faulted => rfl

/-! ### The boundary (R69 to R74) -/

theorem foldl_fixed {α β : Type} (f : β → α → β) (b : β) : ∀ (l : List α), (∀ a ∈ l, f b a = b) → l.foldl f b = b
  | [], _ => rfl
  | a :: l, h => by
    rw [List.foldl_cons, h a List.mem_cons_self]
    exact foldl_fixed f b l fun x hx => h x (List.mem_cons_of_mem _ hx)

/-- The core after a kick-turn. -/
def kicked (k : Core) (role : BitVec 16) (mask : Nat) : Core :=
  { k with role := role, epoch := triple (k.epoch.value + 1), windows := k.windows.mapIdx (fun w t => if mask.testBit w then triple (t.value + 1) else t) }

theorem kickTurn_of_agrees (role : BitVec 16) (mask : Nat) (hepoch : Agrees (getCore s c).epoch)
    (hwindows : ∀ w, w < 8 → Agrees (vget ⟨0, 0, 0⟩ (getCore s c).windows w)) : kickTurn c role mask s = putCore s c (kicked (getCore s c) role mask) := by
  have hvotes : (List.range 8).foldl (fun s w => if mask.testBit w then voteWindow c w s else s) (voteEpoch c s) = s := by
    rw [voteEpoch_of_agrees hepoch]
    refine foldl_fixed _ s _ fun w hw => ?_
    rw [voteWindow_of_agrees (hwindows w (List.mem_range.mp hw)), ite_self]
  rw [kickTurn, hvotes]
  rfl

theorem switchCore_of_none (h : ∀ p ∈ s.map.pending, p.1 ≠ coreKey c) : switchCore c s = s := by
  have hnone : s.map.pending.find? (fun p => decide (p.1 = coreKey c)) = none := List.find?_eq_none.mpr fun p hp => by simp [h p hp]
  simp only [switchCore, hnone]

/-- The core in the first cycle of a boundary. -/
def bounded (k : Core) (now : Nat) : Core := { k with icache := [], boundaryAt := now + 1, ksel := none }

theorem boundaryStart_putCore (hpending : ∀ p ∈ s.map.pending, p.1 ≠ coreKey c) (k : Core) :
    boundaryStart c (putCore s c k) = putCore s c (bounded k (aclkOf s c.die)) := by
  rw [boundaryStart, switchCore_of_none]
  · simp only [getCore_putCore, putCore_putCore]; rfl
  · exact hpending

/-- A core that has kicked, or not, and stands at the begin of a boundary. -/
def turned (k : Core) : Core := if kdKick k.desc then kicked k (kdNewRole k.desc) (kdWindows k.desc) else k

theorem putCore_getCore_boundary (hpending : ∀ p ∈ s.map.pending, p.1 ≠ coreKey c) :
    boundaryStart c s = putCore s c (bounded (getCore s c) (aclkOf s c.die)) := by
  rw [boundaryStart, switchCore_of_none]
  · rfl
  · exact hpending

theorem boundaryStart_turned (hpending : ∀ p ∈ s.map.pending, p.1 ≠ coreKey c) (hepoch : Agrees (getCore s c).epoch)
    (hwindows : ∀ w, w < 8 → Agrees (vget ⟨0, 0, 0⟩ (getCore s c).windows w)) :
    boundaryStart c (if kdKick (getCore s c).desc then kickTurn c (kdNewRole (getCore s c).desc) (kdWindows (getCore s c).desc) s else s) =
      putCore s c (bounded (turned (getCore s c)) (aclkOf s c.die)) := by
  unfold turned
  split
  · rw [kickTurn_of_agrees _ _ hepoch hwindows, boundaryStart_putCore hpending]
  · exact putCore_getCore_boundary hpending

theorem turned_role (k : Core) : (turned k).role = if kdKick k.desc then kdNewRole k.desc else k.role := by unfold turned; split <;> rfl

theorem turned_epoch {k : Core} (h : Agrees k.epoch) : (turned k).epoch.value = if kdKick k.desc then k.epoch.a + 1 else k.epoch.a := by
  unfold turned; split
  · simp [kicked, value_of_agrees h]
  · exact value_of_agrees h

theorem turned_window {k : Core} {w : Nat} (hw : w < 8) (h : Agrees (vget ⟨0, 0, 0⟩ k.windows w)) : (vget ⟨0, 0, 0⟩ (turned k).windows w).value =
    if kdKick k.desc ∧ (kdWindows k.desc).testBit w = true then (vget ⟨0, 0, 0⟩ k.windows w).a + 1 else (vget ⟨0, 0, 0⟩ k.windows w).a := by
  have hvalue := value_of_agrees h
  have hget (v : Vector (Tri (BitVec 16)) 8) : vget ⟨0, 0, 0⟩ v w = v[w] := by simp [vget, hw]
  rw [hget] at hvalue ⊢
  rw [hget]
  unfold turned
  by_cases hkick : kdKick k.desc = true
  · by_cases hbit : (kdWindows k.desc).testBit w = true
    · simp [hkick, hbit, kicked, hvalue]
    · simp [hkick, hbit, kicked, hvalue]
  · simp [hkick, hvalue]

/-- A reached boundary sends the core, turned, to its next kernel. -/
theorem exec_kernelBoundary_of_reached (hwf : c.wf = true) (hreached : boundaryReached s c = true) : exec (.kernelBoundary c) s =
    .next (nextKernel c (match (getCore s c).ksel with | some i => i.toNat | none => kdNext (getCore s c).desc)
      (aclkOf (if kdKick (getCore s c).desc then kickTurn c (kdNewRole (getCore s c).desc) (kdWindows (getCore s c).desc) s else s) c.die + 3)
      (boundaryStart c (if kdKick (getCore s c).desc then kickTurn c (kdNewRole (getCore s c).desc) (kdWindows (getCore s c).desc) s else s))) := by
  rw [show exec (.kernelBoundary c) s = execKernelBoundary c s from rfl, execKernelBoundary, whenUnit, if_pos hwf, if_pos hreached] <;> rfl

/-! ### The start of a kernel (R54, R71) -/

theorem mfind_map_fresh (f : Nat → Thread) (i : Nat) : ∀ (l : List Nat), mfind (l.map (fun t => (t, f t))) i = if i ∈ l then some (f i) else none
  | [] => rfl
  | t :: l => by
    rw [List.map_cons, mfind]
    by_cases h : i = t
    · subst h; simp
    · rw [if_neg h, mfind_map_fresh f i l]; simp [h]

theorem getThread_started {d : BitVec 256} {k : Core} (now : Nat) {i : Nat} (hi : i < 64) (hk : k.threads = (bitsSet (kdMask d) 64).map (fun t => (t, freshThread t d now))) :
    getThread k i = if bit (kdMask d) i then freshThread i d now else {} := by
  have hmem : i ∈ bitsSet (kdMask d) 64 ↔ bit (kdMask d) i = true := by simp [bitsSet, hi]
  rw [getThread, mget, hk, mfind_map_fresh (fun t => freshThread t d now), if_congr hmem rfl rfl]
  split <;> rfl

theorem reg_freshThread {i : Nat} {d : BitVec 256} {now : Nat} : reg (freshThread i d now) 1 = BitVec.ofNat 64 i ∧ reg (freshThread i d now) 2 = kdArg d ∧
    ∀ r : BitVec 5, r ≠ 1 → r ≠ 2 → reg (freshThread i d now) r = 0 := by
  refine ⟨?_, ?_, fun r h1 h2 => ?_⟩
  · exact (if_neg (by decide)).trans ((vget_vset_ne _ _ _ (by decide)).trans (vget_vset_self _ _ _ (by decide)))
  · exact (if_neg (by decide)).trans (vget_vset_self _ _ _ (by decide))
  · unfold reg; split
    · rfl
    · have hr1 : r.toNat ≠ 1 := fun h => h1 (BitVec.eq_of_toNat_eq h)
      have hr2 : r.toNat ≠ 2 := fun h => h2 (BitVec.eq_of_toNat_eq h)
      rw [freshThread, vget_vset_ne _ _ _ hr2, vget_vset_ne _ _ _ hr1]
      have hlt : r.toNat < 32 := r.isLt
      simp [vget, hlt]

theorem exec_kernelDescriptorArrive_of_valid {addr since : Nat} (hwf : c.wf = true) (hphase : (getCore s c).phase = .fetching addr since)
    (hdue : since + 1 ≤ aclkOf s c.die) (hs : Clean s) (halign : kdEntry (BitVec.ofNat 256 (readNum s.mem addr 32)) % 8 = 0)
    (hentry : kdEntry (BitVec.ofNat 256 (readNum s.mem addr 32)) < Config.tier1Bytes)
    (hrole : kdKick (BitVec.ofNat 256 (readNum s.mem addr 32)) = true → (kdNewRole (BitVec.ofNat 256 (readNum s.mem addr 32))).toNat < imageRoles s) :
    exec (.kernelDescriptorArrive c .ok) s = .next (startKernel c (BitVec.ofNat 256 (readNum s.mem addr 32)) s) := by
  have hvalid : ¬(kdEntry (BitVec.ofNat 256 (readNum s.mem addr 32)) % 8 ≠ 0 ∨ Config.tier1Bytes ≤ kdEntry (BitVec.ofNat 256 (readNum s.mem addr 32)) ∨
      (kdKick (BitVec.ofNat 256 (readNum s.mem addr 32)) = true ∧ imageRoles s ≤ (kdNewRole (BitVec.ofNat 256 (readNum s.mem addr 32))).toNat)) := by
    rintro (h | h | ⟨hkick, h⟩)
    · exact h halign
    · omega
    · exact absurd h (Nat.not_le.mpr (hrole hkick))
  rw [show exec (.kernelDescriptorArrive c .ok) s = execKernelDescriptorArrive c .ok s from rfl, execKernelDescriptorArrive, whenUnit, if_pos hwf, hphase]
  dsimp only
  rw [if_neg (Nat.not_lt.mpr hdue), checkRead_clean hs]
  dsimp only
  rw [if_neg hvalid]

theorem onlyCore_putCore (s : State) (c : CoreRef) (k : Core) : OnlyCore s (putCore s c k) c := by rw [OnlyCore, getCore_putCore]

/-- Settles O28. -/
theorem kernels : Obligations.Kernels := by
  refine ⟨fun c s hwf hreached hpending hepoch hwindows => ?boundary, fun c addr since s hwf hphase hdue hs => ?start, fun c s hwf hphase hdecided => ?gate⟩
  case boundary =>
    intro k next role e hgate hlist
    have hentry (n : Nat) : roleEntry (putCore s c (bounded (turned k) (aclkOf s c.die))) n = roleEntry s n := rfl
    have hrole : (getCore (putCore s c (bounded (turned k) (aclkOf s c.die))) c).role = role := by rw [getCore_putCore]; exact turned_role k
    have hclock : aclkOf (if kdKick k.desc then kickTurn c (kdNewRole k.desc) (kdWindows k.desc) s else s) c.die = aclkOf s c.die := by
      rw [kickTurn_of_agrees _ _ hepoch hwindows]; split <;> rfl
    have hexec := exec_kernelBoundary_of_reached hwf hreached
    rw [boundaryStart_turned hpending hepoch hwindows, hclock, nextKernel_ungated (by rw [hrole, hentry]; exact hgate),
      fetchKernel_listed (by rw [hrole, hentry]; exact hlist), putCore_putCore, hrole, hentry] at hexec
    refine ⟨_, hexec, onlyCore_putCore .., ?_⟩
    simp only [getCore_putCore]
    exact ⟨rfl, rfl, turned_role k, rfl, rfl, turned_epoch hepoch, fun w hw => turned_window hw (hwindows w hw)⟩
  case start =>
    intro d halign hentry hrole
    refine ⟨_, exec_kernelDescriptorArrive_of_valid hwf hphase hdue hs halign hentry hrole, onlyCore_putCore .., ?_⟩
    rw [startKernel, getCore_putCore]
    refine ⟨rfl, rfl, rfl, rfl, fun i hi => ?_⟩
    rw [getThread_started (aclkOf s c.die) hi rfl]
    refine ⟨fun hbit => ?_, fun hbit => by rw [hbit]; rfl⟩
    obtain ⟨h1, h2, hothers⟩ := reg_freshThread (i := i) (d := d) (now := aclkOf s c.die)
    rw [if_pos hbit]
    exact ⟨rfl, rfl, h1, h2, hothers, rfl, rfl⟩
  case gate =>
    intro e i hgate
    rw [show exec (.gateRelease c) s = execGateRelease c s from rfl, execGateRelease, whenUnit, if_pos hwf]
    dsimp only
    rw [if_pos ⟨hphase, hdecided⟩, nextKernel_gated hgate hdecided, fetchKernel_eq]

end Sys2Proof.Machine
end


section
/-! SUPPORT. The read cache: miss fills, instruction fetches, CACHE.DROP (R57, R151 to R153). -/
namespace Sys2Proof.Machine

variable {th : ThreadRef} {c : CoreRef} {s : State}

/-! ### Miss fills (R151) -/

theorem slice_readBytes (m : Memory) {a lo n len : Nat} (hlo : a ≤ lo) (hin : lo + n ≤ a + len) : slice (readBytes m a len) (lo - a) n = readBytes m lo n := by
  have htake : ((readBytes m a len).drop (lo - a)).take n = readBytes m lo n := by
    apply List.ext_getElem
    · simp [readBytes]; omega
    · intro i hi _
      simp only [readBytes, List.getElem_take, List.getElem_drop, List.getElem_map, List.getElem_range]
      rw [show a + (lo - a + i) = lo + i by omega]
  rw [slice, htake, padTo]
  simp [readBytes]

@[simp] theorem getHrc_putHrc (s : State) (die : Nat) (ls : List HrcLine) : getHrc (putHrc s die ls) die = ls := mget_mset_self ..

/-- The lines that stay beside a new one. -/
def hrcPeers (s : State) (die line : Nat) : List HrcLine :=
  let ls := (getHrc s die).filter (fun x => decide (x.addr ≠ line))
  if 16 ≤ (ls.filter (fun x => decide (Config.hrcSet (x.addr / 256) = Config.hrcSet (line / 256)))).length
    then dropLast (fun x => decide (Config.hrcSet (x.addr / 256) = Config.hrcSet (line / 256))) ls else ls

theorem hrcFill_eq (s : State) (die line : Nat) (data : List Byte) :
    hrcFill s die line data = putHrc s die (⟨line, data, aclkOf s die⟩ :: hrcPeers s die line) := rfl

/-- A line that has just been filled serves the core's accesses to it. -/
theorem hrcHit_filled {a : Nat} (data : List Byte) (hboundary : (getCore s c).boundaryAt ≤ aclkOf s c.die) :
    hrcHit (hrcFill s c.die (hrcLineOf a) data) c a = some ⟨hrcLineOf a, data, aclkOf s c.die⟩ := by
  have hcore : getCore (putHrc s c.die (⟨hrcLineOf a, data, aclkOf s c.die⟩ :: hrcPeers s c.die (hrcLineOf a))) c = getCore s c := rfl
  simp only [hrcHit, hrcFill_eq, getHrc_putHrc, hcore]
  exact List.find?_cons_of_pos (by simp [hboundary])

theorem fillRequest_needs {i line : Nat} {r : MemReq} (h : fillRequest s c line = some (i, r)) : needsFill s c r = true := by
  unfold fillRequest at h
  obtain ⟨⟨q, j⟩, hfind, hpair⟩ := Option.map_eq_some_iff.mp h
  obtain ⟨-, rfl⟩ := Prod.mk.inj hpair
  have hq := List.find?_some hfind
  simp only [Bool.and_eq_true] at hq
  exact hq.1.1

theorem tier1_of_needsFill {r : MemReq} {n : Nat} {sg : Bool} (hkind : r.kind = .load n sg false) (h : needsFill s c r = true) : placeOf r.addr n = .tier1 := by
  simp only [needsFill, hkind, Bool.and_eq_true, decide_eq_true_eq] at h
  exact h.1

theorem line_holds {a n : Nat} (hn : n ∈ [1, 2, 4, 8]) (halign : a % n = 0) : a / 256 * 256 ≤ a ∧ a + n ≤ a / 256 * 256 + 256 := by
  simp only [List.mem_cons, List.not_mem_nil, or_false] at hn
  obtain rfl | rfl | rfl | rfl := hn <;> omega

/-- A load through the HRC finds in its filled line the bytes of the memory. -/
theorem loadNow_filled {r : MemReq} {n : Nat} (hplace : placeOf r.addr n = .tier1) (hn : n ∈ [1, 2, 4, 8]) (halign : r.addr % n = 0)
    (hboundary : (getCore s c).boundaryAt ≤ aclkOf s c.die) :
    loadNow (hrcFill s c.die (hrcLineOf r.addr) (readBytes s.mem (hrcLineOf r.addr) 256)) c r n false = readNum s.mem r.addr n := by
  obtain ⟨hlo, hhi⟩ := line_holds hn halign
  simp only [loadNow, hplace, Bool.false_eq_true, if_false, hrcHit_filled _ hboundary, slice_readBytes s.mem (a := hrcLineOf r.addr) hlo hhi, readNum]

theorem missFill_clean {line lo n : Nat} (onBad : Nat → State → State) (onGood : State → State) (hs : Clean s) :
    missFill c line lo n .ok onBad onGood s = onGood (hrcFill s c.die line (readBytes s.mem line 256)) := by
  simp only [missFill, checkRead_clean hs]

section
variable {i n : Nat} {r : MemReq} {sg : Bool} (hwf : c.wf = true) (hfill : fillRequest s c (hrcLineOf r.addr) = some (i, r)) (hgo : (getCore s c).phase ≠ .stopped)
  (hkind : r.kind = .load n sg false) (hvalue : r.value = none) (hbad : r.bad = none) (hn : n ∈ [1, 2, 4, 8]) (halign : r.addr % n = 0) (hs : Clean s)
  (hboundary : (getCore s c).boundaryAt ≤ aclkOf s c.die)
include hwf hfill hgo hkind hvalue hbad hn halign hs hboundary

/-- The line is filled and the load that waits for it returns. -/
theorem exec_hrcMissFill_of_load : exec (.hrcMissFill c (hrcLineOf r.addr) .ok) s = .next (deliver c i r (loadValue n sg (readNum s.mem r.addr n))
    (hrcFill s c.die (hrcLineOf r.addr) (readBytes s.mem (hrcLineOf r.addr) 256))) := by
  have hplace := tier1_of_needsFill hkind (fillRequest_needs hfill)
  have hline : hrcLineOf (hrcLineOf r.addr) = hrcLineOf r.addr := by unfold hrcLineOf; omega
  obtain ⟨bad, hfix⟩ := fixRequest_load (c := c) (s := hrcFill s c.die (hrcLineOf r.addr) (readBytes s.mem (hrcLineOf r.addr) 256)) hkind hvalue
    fun off h => by rw [hplace] at h; cases h
  rw [show exec (.hrcMissFill c (hrcLineOf r.addr) .ok) s = execHrcMissFill c (hrcLineOf r.addr) .ok s from rfl, execHrcMissFill, whenUnit, if_pos hwf,
    mayTrap_of_not_stopped _ hgo]
  simp only [hline, hfill, missFill_clean _ _ hs, hbad]
  rw [hfix, loadNow_filled hplace hn halign hboundary]
  rfl

end

/-! ### Fetches (R57) -/

theorem running_of_needsFetch {t : Nat} (h : needsFetch s c t = true) : (getCore s c).phase = .running := by
  simp only [needsFetch, Bool.and_eq_true, decide_eq_true_eq] at h
  exact h.1.1

/-- A good line serves an access and becomes the most recently used one. -/
theorem serveLine_good (die : Nat) (l : HrcLine) (lo n : Nat) (serve : State → State) (s : State) : serveLine die l lo n .ok serve s = serve (hrcTouch s die l) := rfl

theorem exec_instructionFetchReturn_of_needs (chk : Chk) (hwf : th.wf = true) (hneeds : needsFetch s (coreOf th) th.thread = true) :
    exec (.instructionFetchReturn th chk) s = .next (if placeOf (threadOf s th).pc.toNat 8 ≠ .tier1
      then trap (coreOf th) th.thread trapAddr (threadOf s th).pc.toNat (threadOf s th).pc.toNat s
      else match hrcHit s (coreOf th) (threadOf s th).pc.toNat with
        | some l => serveLine th.die l (icacheBase (threadOf s th).pc) Config.icacheLine chk
            (putIcache (coreOf th) (icacheBase (threadOf s th).pc) (slice l.data (icacheBase (threadOf s th).pc - l.addr) Config.icacheLine)) s
        | none => s) := by
  have hgo : (getCore s (coreOf th)).phase ≠ .stopped := by rw [running_of_needsFetch hneeds]; decide
  rw [show exec (.instructionFetchReturn th chk) s = execInstructionFetchReturn th chk s from rfl, execInstructionFetchReturn, whenUnit, if_pos hwf]
  dsimp only
  rw [mayTrap_of_not_stopped _ hgo, if_pos hneeds]
  rfl

/-! ### CACHE.DROP (R153) -/

theorem startDrop_some {f : Fields} (hpos : 0 < (readReg s th f.b).toNat) : startDrop th f s =
    putCore (hrcDrop s th.die (readReg s th f.a).toNat (Nat.min ((readReg s th f.a).toNat + (readReg s th f.b).toNat) (2 ^ 64 - 1))) (coreOf th)
      { getCore s (coreOf th) with drops := (getCore s (coreOf th)).drops ++ [⟨th.thread, (readReg s th f.a).toNat,
        Nat.min ((readReg s th f.a).toNat + (readReg s th f.b).toNat) (2 ^ 64 - 1), s.clk.tick + 3 * ceilDiv (dropLines (readReg s th f.b).toNat) 64⟩] } := by
  simp only [startDrop, if_neg (Nat.ne_of_gt hpos)]
  rfl

/-- A core put over the issuing thread's core: the fetch is all that remains of the issue. -/
theorem putCore_over_issued (m : Memory) (k : Core) : putCore { issued s th with mem := m } (coreOf th) k = putCore { fetched s th with mem := m } (coreOf th) k := by
  rw [issued_eq_afterIssue]
  exact putCore_putCore { fetched s th with mem := m } (coreOf th) _ k

theorem drops_issued (s : State) (th : ThreadRef) : (getCore (issued s th) (coreOf th)).drops = (getCore s (coreOf th)).drops :=
  issued_core_keeps Core.drops (fun _ _ _ _ _ => rfl) s th

/-- Settles O29. That the instruction cache takes 64 bytes of a line is log 27. -/
theorem readCacheServes : Obligations.ReadCacheServes := by
  refine ⟨fun c i n r sg s hwf hfill hgo hkind hvalue hbad hn halign hs hboundary hmode => ?fill, fun th s hwf hneeds => ?fetch,
    fun th f s h hpos => ?drop, fun c i d s hwf hget hdue hlt => ?complete⟩
  case fill =>
    have hexec := exec_hrcMissFill_of_load hwf hfill hgo hkind hvalue hbad hn halign hs hboundary
    have hfilled : getCore (hrcFill s c.die (hrcLineOf r.addr) (readBytes s.mem (hrcLineOf r.addr) 256)) c = getCore s c := rfl
    rw [deliver_of_active _ (hfilled.symm ▸ hmode), hfilled] at hexec
    refine ⟨_, hexec, ?_, rfl, ?_, ?_⟩
    · rw [hrcFill_eq]
      exact congrArg List.head? (getHrc_putHrc ..)
    · rw [OnlyCore, getCore_putCore]; rfl
    · rw [getCore_putCore]; rfl
  case fetch =>
    refine ⟨fun l hplace hhit => ?_, fun hplace => ?_⟩
    · rw [exec_instructionFetchReturn_of_needs .ok hwf hneeds, if_neg (not_not.mpr hplace), hhit]
      rfl
    · rw [exec_instructionFetchReturn_of_needs .ok hwf hneeds, if_pos hplace]
      rfl
  case drop =>
    intro lo hi
    have hexec : exec (.cacheDrop th f) s = .next (startDrop th f (issued s th)) := h.exec_next rfl
    rw [startDrop_some (by rw [readReg_issued]; exact hpos), readReg_issued, readReg_issued] at hexec
    refine ⟨_, s.clk.tick + 3 * ceilDiv (dropLines (readReg s th f.b).toNat) 64, hexec, ?_, ?_, ?_, Nat.le_add_right _ _, ?_⟩
    · rw [OnlyCore, getCore_putCore]
      exact putCore_over_issued _ _
    · rw [putCore_mem, hrcDrop, putHrc, getHrc, issued_mem]; rfl
    · rw [getCore_putCore, drops_issued, issued_clk]
    · rw [threadOf, getCore_putCore]
      exact threadOf_issued_passed s th
  case complete =>
    rw [show exec (.cacheDropComplete c i) s = execCacheDropComplete c i s from rfl, execCacheDropComplete, whenUnit, if_pos hwf, hget]
    dsimp only
    rw [if_pos hdue, if_pos hlt]
    rfl

end Sys2Proof.Machine
end


section
/-! SUPPORT. What reports, counted errors, landing writes, halted cores and step faults leave of the links and of the form of the memories (R143, R185, R186, R193, R290). -/
namespace Sys2Proof.Machine

variable {s t u : State}

/-! ### Calm steps -/

/-- A link without what waits at it. -/
def bareLink (x : Link) : Link := { x with outGlide := [], outCtrl := [], outData := [] }

/-- The memories keep their canonical form, the ports stand, and of a link at most its queues differ. -/
structure Calm (s t : State) : Prop where
  wf : s.mem.wf = true → t.mem.wf = true
  ports : t.fab.ports = s.fab.ports
  links : ∀ l, bareLink (getLink t l) = bareLink (getLink s l)

theorem Calm.refl (s : State) : Calm s s := ⟨id, rfl, fun _ => rfl⟩

theorem Calm.trans (h : Calm s t) (h' : Calm t u) : Calm s u :=
  ⟨fun hs => h'.wf (h.wf hs), h'.ports.trans h.ports, fun l => (h'.links l).trans (h.links l)⟩

/-- The same, the later step named first. -/
theorem Calm.after (h' : Calm t u) (h : Calm s t) : Calm s u := h.trans h'

/-- Neither the memories nor the fabric's ports and links differ. -/
theorem Calm.of_same (hmem : t.mem = s.mem) (hports : t.fab.ports = s.fab.ports) (hlinks : t.fab.links = s.fab.links) : Calm s t :=
  ⟨fun hs => hmem ▸ hs, hports, fun l => by rw [getLink, hlinks, getLink]⟩

/-- Only the memories differ, and keep their form. -/
theorem Calm.of_mem (s : State) {m : Memory} (hm : s.mem.wf = true → m.wf = true) : Calm s { s with mem := m } := ⟨hm, rfl, fun _ => rfl⟩

theorem Calm.ite {p : Prop} [Decidable p] (ht : Calm s t) (hu : Calm s u) : Calm s (if p then t else u) := by
  split
  · exact ht
  · exact hu

theorem Calm.foldl {α : Type} {f : State → α → State} (hf : ∀ s a, Calm s (f s a)) (xs : List α) (s : State) : Calm s (xs.foldl f s) := by
  induction xs generalizing s with
  | nil => exact .refl s
  | cons a xs ih => exact (hf s a).trans (ih _)

/-- A link in another form, the same but for its queues. -/
theorem Calm.of_putLink (s : State) (l : Nat) {x : Link} (hx : bareLink x = bareLink (getLink s l)) : Calm s (putLink s l x) := by
  refine ⟨id, rfl, fun k => ?_⟩
  by_cases hl : l < 24
  · by_cases hk : k = l
    · subst hk; rw [getLink_putLink hl, hx]
    · rw [getLink_putLink_ne hk]
  · have hsame : putLink s l x = s := by
      have : vset s.fab.links l x = s.fab.links := by
        rw [vset, Vector.setIfInBounds_eq_of_size_le]
        exact Nat.le_of_not_lt hl
      rw [putLink, this]
    rw [hsame]

theorem putCore_calm (s : State) (c : CoreRef) (k : Core) : Calm s (putCore s c k) := .of_same rfl rfl rfl
theorem emit_calm (s : State) (o : Output) : Calm s (emit s o) := .of_same rfl rfl rfl

/-! ### Reports (R314, R334, R357) -/

theorem msix_calm (v : Nat) (s : State) : Calm s (msix v s) := .ite (.of_same rfl rfl rfl) (.of_same rfl rfl rfl)

theorem notify_calm (key typ : Nat) (v : List Byte) (s : State) : Calm s (notify key typ v s) := by
  have h := notify_reports key typ v s
  exact .of_same h.mem_eq (by rw [h.fab_eq]) (by rw [h.fab_eq])

theorem lifeAdd_calm (off n : Nat) (s : State) : Calm s (lifeAdd off n s) := .ite (.of_same rfl rfl rfl) (.refl s)

/-- Reports leave the memories and the fabric. -/
theorem ReportsOnly.calm (h : ReportsOnly s t) : Calm s t := .of_same h.mem_eq (by rw [h.fab_eq]) (by rw [h.fab_eq])

theorem setPhase_calm (v : BitVec 8) (s : State) : Calm s (setPhase v s) :=
  .ite (.refl s) ((msix_calm _ _).after ((notify_calm _ _ _ _).after (.of_same rfl rfl rfl)))

theorem setRunState_calm (v : BitVec 8) (s : State) : Calm s (setRunState v s) := .ite (.refl s) ((msix_calm _ _).after (.of_same rfl rfl rfl))

/-! ### Counted errors and records (R184, R185, R192, R313) -/

theorem cperBare_calm (g : Signature) (s : State) : Calm s (cperBare g s) := (cperBare_reports g s).calm
theorem cper_calm (g : Signature) (s : State) : Calm s (cper g s) := (cper_reports g s).calm
theorem correctable_calm (r : Nat) (s : State) : Calm s (correctable r s) := (correctable_reports r s).calm

theorem repairWord_calm {α : Type} [DecidableEq α] {t : Tri α} {put : Tri α → State → State} {s : State} (die : Nat) (hput : ∀ x, Calm s (put x s)) :
    Calm s (repairWord t die put s) := by
  unfold repairWord
  split
  · exact (correctableWith_reports cperBare cperBare_reports _ _).calm.after (hput _)
  · exact .refl s

theorem declarePermanent_calm {u : UnitId} (hu : ∀ l, u ≠ .link l) (s : State) : Calm s (declarePermanent u s) := by
  unfold declarePermanent
  refine .ite (.refl s) ?_
  cases u with
  | core d p =>
    dsimp only
    split
    · exact .of_same rfl rfl rfl
    · exact (cper_calm _ _).after (.of_same rfl rfl rfl)
  | link l => exact absurd rfl (hu l)
  | _ => exact .of_same rfl rfl rfl

theorem addHistory_calm {u : UnitId} (hu : ∀ l, u ≠ .link l) (s : State) : Calm s (addHistory u s) :=
  .ite ((declarePermanent_calm hu _).after (.of_same rfl rfl rfl)) (.of_same rfl rfl rfl)

/-- A region of the memories belongs to no link. -/
theorem regionUnitId_ne_link (r l : Nat) : regionUnitId r ≠ .link l := by
  unfold regionUnitId
  repeat' split
  all_goals exact fun h => nomatch h

theorem uncorrectable_calm (region : Nat) (s : State) : Calm s (uncorrectable region s) := (addHistory_calm (regionUnitId_ne_link region) _).after (lifeAdd_calm _ _ s)

theorem uncorrectableAt_calm (a : Nat) (s : State) : Calm s (uncorrectableAt a s) := uncorrectable_calm _ s

theorem physCount_calm (s : State) (die phys i n : Nat) : Calm s (physCount s die phys i n) := .ite (.refl s) (.of_same rfl rfl rfl)
theorem dieCount_calm (s : State) (die i : Nat) : Calm s (dieCount s die i) := .of_same rfl rfl rfl

/-! ### Writes (R187, R191) -/

theorem flagWrite_calm (a n : Nat) (s : State) : Calm s (flagWrite a n s) := by
  rw [flagWrite_eq]; exact .of_same rfl rfl rfl

theorem landQuiet_calm (a : Nat) (bs : List Byte) (s : State) : Calm s (landQuiet a bs s) := by
  unfold landQuiet
  have hmem : Calm s { s with mem := (landMem s.mem (landTime s a) a bs).1 } := .of_mem s (landMem_wf _ _ _ _)
  refine (flagWrite_calm _ _ _).after (.after (.foldl (fun s b => ?_) _ _) hmem)
  exact (uncorrectableAt_calm _ _).after (.of_same rfl rfl rfl)

/-- A memory with other uncorrectable words. -/
theorem Calm.of_bad (s : State) (bad : List Nat) : Calm s { s with mem := { s.mem with bad := bad } } := .of_mem s (wf_of_same rfl rfl)

theorem noteFind_calm (point die : Nat) (ranges : List (Nat × Nat)) (s : State) (x : Find) : Calm s (noteFind point die ranges s x) := by
  cases x with
  | ce a => exact .ite (correctable_calm _ s) (.refl s)
  | ue a => exact .ite (.of_bad s _) (.refl s)
  | parity a => exact .ite (dieCount_calm _ _ _) (.refl s)
  | linkCe a => exact .ite (dieCount_calm _ _ _) (.refl s)
  | _ => exact .refl s

theorem noteWrite_calm (m : Memory) (a n : Nat) (s : State) (x : Find) : Calm s (noteWrite m a n s x) := by
  cases x with
  | ce b => exact .ite (correctable_calm _ s) (.refl s)
  | ue b => exact .ite (.of_bad s _) (.refl s)
  | linkCe b => exact noteFind_calm 5 0 [(a, n)] s (.linkCe b)
  | _ => exact .refl s

theorem writeMissed_calm (a : Nat) (s : State) : Calm s (writeMissed a s) := by
  have hevent : Calm s (uncorrectableAt a { s with intg := { s.intg with missed := s.intg.missed ++ [a] } }) :=
    (uncorrectableAt_calm _ _).after (.of_same rfl rfl rfl)
  exact .ite ((physCount_calm _ _ _ _ _).after ((dieCount_calm _ _ _).after hevent)) ((dieCount_calm _ _ _).after hevent)

theorem arriveQuiet_calm (chk : Chk) (a : Nat) (bs : List Byte) (s : State) : Calm s (arriveQuiet chk a bs s) :=
  .ite (writeMissed_calm a s) ((landQuiet_calm _ _ _).after (Calm.foldl (noteWrite_calm _ _ _) _ s))

theorem writeHost_calm (addr : Nat) (bs : List Byte) (s : State) : Calm s (writeHost addr bs s) := .foldl (fun s _ => emit_calm s _) _ s

theorem localWrite_calm (chk : Chk) (c : CoreRef) (thread epoch : Nat) (owner : Option Nat) (dst : Nat) (bs : List Byte) (s : State) :
    Calm s (localWrite chk c thread epoch owner dst bs s) := by
  unfold localWrite
  split
  · exact .ite (arriveQuiet_calm _ _ _ _) (.of_same rfl rfl rfl)
  · exact writeHost_calm _ _ s
  · exact arriveQuiet_calm _ _ _ _
  · exact arriveQuiet_calm _ _ _ _
  · exact .refl s

/-! ### A core that stops (R65) -/

theorem putChannel_calm (s : State) (c : CoreRef) (ch : Nat) (x : DmaChannel) : Calm s (putChannel s c ch x) := .of_same rfl rfl rfl

theorem countDma_calm (c : CoreRef) (ch code : Nat) (s : State) : Calm s (countDma c ch code s) := .of_same rfl rfl rfl

theorem closeDma_calm (c : CoreRef) (ch code : Nat) (s : State) : Calm s (closeDma c ch code s) :=
  by
  unfold closeDma
  refine .after (.foldl (fun s q => ?_) _ _) (.of_same rfl rfl rfl)
  exact (countDma_calm _ _ _ _).after (landQuiet_calm _ _ s)

theorem finishDma_calm (c : CoreRef) (ch : Nat) (e : DmaEntry) (code done : Nat) (s : State) : Calm s (finishDma c ch e code done s) := by
  have hstatus : Calm s (writeDmaStatus c e.off code done s) := landQuiet_calm _ _ s
  unfold finishDma
  refine .ite ?_ ((closeDma_calm _ _ _ _).after hstatus)
  have hflag (chk : Chk) (owner : Option Nat) := (localWrite_calm chk c 64 (dmaEpoch e.desc) owner (dmaFlagAddr e.desc) (toLE 8 (dmaFlagVal e.desc)) _).after hstatus
  exact .ite ((putChannel_calm _ _ _ _).after (hflag _ _)) ((closeDma_calm _ _ _ _).after (hflag _ _))

theorem dropReads_calm (r : HostReader) (s : State) : Calm s (dropReads r s) := .of_same rfl rfl rfl

theorem withdrawData_calm (id : Nat) (s : State) : Calm s (withdrawData id s) := by
  refine ⟨fun h => h, rfl, fun l => ?_⟩
  show bareLink (vget {} (s.fab.links.map _) l) = bareLink (vget {} s.fab.links l)
  simp only [vget, Vector.getElem?_map]
  cases s.fab.links[l]? <;> rfl

theorem dmaMove_calm (chk : Chk) (c : CoreRef) (id : Nat) (d : BitVec 512) (n : Nat) (s : State) : Calm s (dmaMove chk c id d n s) :=
  .foldl (fun s _ => localWrite_calm _ _ _ _ _ _ _ s) _ s

theorem haltDma_calm (c : CoreRef) (ch : Nat) (s : State) : Calm s (haltDma c ch s) := by
  unfold haltDma
  dsimp only
  split
  · split
    · exact .refl s
    · exact (finishDma_calm _ _ _ _ _ _).after (putChannel_calm _ _ _ _)
  · next e _ =>
    have hfree : Calm s (takeFree (dropReads (.dma e.id) s)).2 := .of_same rfl rfl rfl
    refine .ite (closeDma_calm _ _ _ s) (.ite ((finishDma_calm _ _ _ _ _ _).after (withdrawData_calm _ s)) (.ite ?_ (.ite ?_ ?_)))
    · exact (finishDma_calm _ _ _ _ _ _).after (.of_same rfl rfl rfl)
    · exact (finishDma_calm _ _ _ _ _ _).after hfree
    · exact (finishDma_calm _ _ _ _ _ _).after ((dmaMove_calm _ _ _ _ _ _).after hfree)

theorem coreCount_calm (s : State) (c : CoreRef) (i n : Nat) : Calm s (coreCount s c i n) := physCount_calm s _ _ i n

theorem countDrop_calm (s : State) (c : CoreRef) (d : Nat) : Calm s (countDrop s c d) := coreCount_calm s c _ 1

theorem atomicAct_calm (c : CoreRef) (r : MemReq) (op : AtomOp) (bytes : Nat) (operand compare : Word) (s : State) :
    Calm s (atomicAct c r op bytes operand compare s).1 := by
  unfold atomicAct
  dsimp only
  split
  · exact countDrop_calm _ _ _
  · split
    · exact .refl s
    · split
      · exact .refl s
      · exact landQuiet_calm _ _ s

theorem repairWindow_calm (c : CoreRef) (w : Nat) (s : State) : Calm s (repairWindow c w s) := repairWord_calm _ fun _ => .of_same rfl rfl rfl

theorem repairEpoch_calm (c : CoreRef) (s : State) : Calm s (repairEpoch c s) := repairWord_calm _ fun _ => .of_same rfl rfl rfl

theorem dropRequests_calm (c : CoreRef) (s : State) : Calm s (dropRequests c s) := by
  unfold dropRequests
  refine (putCore_calm _ _ _).after (.foldl (fun s r => ?_) _ s)
  split
  · refine (atomicAct_calm _ _ _ _ _ _ _).after ?_
    split
    · exact repairWindow_calm _ _ s
    · exact .refl s
  · exact .refl s

theorem writeGate_calm (g : Gate) (r : BitVec 256) (s : State) : Calm s (writeGate g r s) := (landQuiet_calm _ _ _).after (.of_same rfl rfl rfl)
theorem gateFaulted_calm (s : State) : Calm s (gateFaulted s) := writeGate_calm _ _ s
theorem writeColStatus_calm (c : CoreRef) (off status : Nat) (s : State) : Calm s (writeColStatus c off status s) := landQuiet_calm _ _ s

theorem dropCollectives_calm (c : CoreRef) (s : State) : Calm s (dropCollectives c s) := by
  unfold dropCollectives
  refine (putCore_calm _ _ _).after (.foldl (fun s e => ?_) _ s)
  split
  · exact .refl s
  · exact (writeColStatus_calm _ _ _ _).after (.ite (gateFaulted_calm s) (.refl s))
  · exact (writeColStatus_calm _ _ _ _).after (.ite (gateFaulted_calm s) (.refl s))
  · exact .refl s

theorem haltCore_calm (c : CoreRef) (s : State) : Calm s (haltCore c s) := by
  unfold haltCore
  refine .ite (.refl s) ((putCore_calm _ _ _).after (.after (.foldl (fun s ch => haltDma_calm c ch s) _ _) ?_))
  exact (dropCollectives_calm c _).after (dropRequests_calm c s)

theorem haltAll_calm (s : State) : Calm s (haltAll s) := .foldl (fun s _ => haltCore_calm _ s) _ s

/-! ### The fatal integrity path, votes and losses (R185, R186, R294) -/

theorem repairMaster_calm (s : State) : Calm s (repairMaster s) := repairWord_calm 0 fun _ => .of_same rfl rfl rfl

theorem markLost_calm (s : State) : Calm s (markLost s) := by
  have hmaster : Calm s (repairMaster { s with fail := { s.fail with reportedLost := true } }) := (repairMaster_calm _).after (.of_same rfl rfl rfl)
  exact .ite (.refl s) (.ite ((emit_calm _ _).after hmaster) hmaster)

theorem reportLost_calm (s : State) : Calm s (reportLost s) := .ite (.refl s) ((markLost_calm _).after (cper_calm _ s))

theorem failRun_calm (status : BitVec 8) (s : State) : Calm s (failRun status s) := by
  have hhalted : Calm s (haltAll (setRunState 4 { s with run := { s.run with status := status, phase := .idle } })) :=
    (haltAll_calm _).after ((setRunState_calm _ _).after (.of_same rfl rfl rfl))
  exact .ite ((setPhase_calm _ _).after hhalted) hhalted

theorem stopForGood_calm (status : BitVec 8) (s : State) : Calm s (stopForGood status s) := .ite (failRun_calm _ s) (.refl s)

theorem fatalIntegrity_calm (w : CriticalWord) (s : State) : Calm s (fatalIntegrity w s) :=
  (markLost_calm _).after ((cper_calm _ _).after ((uncorrectable_calm _ _).after (stopForGood_calm _ s)))

theorem vote_calm {α : Type} [DecidableEq α] (w : CriticalWord) {t : Tri α} {put : Tri α → State → State} {s : State} (hput : ∀ x, Calm s (put x s)) :
    Calm s (vote w t put s) := by
  unfold vote
  split
  · exact .refl s
  · exact (correctable_calm _ _).after (hput _)
  · exact fatalIntegrity_calm _ s

theorem voteCommit_calm (s : State) : Calm s (voteCommit s) := vote_calm _ fun _ => .of_same rfl rfl rfl
theorem voteMaster_calm (s : State) : Calm s (voteMaster s) := vote_calm _ fun _ => .of_same rfl rfl rfl
theorem voteTable_calm (s : State) : Calm s (voteTable s) := vote_calm _ fun _ => .of_same rfl rfl rfl
theorem voteEpoch_calm (c : CoreRef) (s : State) : Calm s (voteEpoch c s) := vote_calm _ fun _ => .of_same rfl rfl rfl
theorem voteWindow_calm (c : CoreRef) (w : Nat) (s : State) : Calm s (voteWindow c w s) := vote_calm _ fun _ => .of_same rfl rfl rfl

/-! ### Step faults (R193, R266, R290) -/

theorem injectCtrl_calm (s : State) (die : Nat) (p : CtrlPkt) : Calm s (injectCtrl s die p) := .of_same rfl rfl rfl

theorem sendAbort_calm (dest h reason : Nat) (s : State) : Calm s (sendAbort dest h reason s) :=
  (injectCtrl_calm _ _ _).after (repairWord_calm 0 fun _ => .of_same rfl rfl rfl)

theorem releaseGlide_calm (h status : Nat) (payload : BitVec 128) (s : State) : Calm s (releaseGlide h status payload s) := by
  unfold releaseGlide
  refine .after (.foldl (fun s i => ?_) _ _) (.of_same rfl rfl rfl)
  split
  · exact injectCtrl_calm _ _ _
  · exact .of_same rfl rfl rfl

theorem rootAbort_calm (status h : Nat) (s : State) : Calm s (rootAbort status h s) := by
  unfold rootAbort
  split
  · exact .refl s
  · exact .ite (.refl s) (releaseGlide_calm _ _ _ s)

theorem relayAbort_calm (reason except_ h : Nat) (s : State) : Calm s (relayAbort reason except_ h s) :=
  (Calm.foldl (fun s g => rootAbort_calm _ g s) _ _).after (.foldl (fun s e => sendAbort_calm e _ _ s) _ s)

theorem abortStopped_calm (s : State) : Calm s (abortStopped s) := by
  have hvoted : Calm s (voteCommit (voteMaster s)) := (voteCommit_calm _).after (voteMaster_calm s)
  exact .ite ((relayAbort_calm _ _ _ _).after hvoted) ((sendAbort_calm _ _ _ _).after hvoted)

theorem markFault_calm (s : State) : Calm s (markFault s) := by
  unfold markFault
  split
  · exact .ite (.refl s) ((abortStopped_calm _).after ((haltAll_calm _).after (.of_same rfl rfl rfl)))
  · exact .of_same rfl rfl rfl
  · exact .of_same rfl rfl rfl
  · exact .of_same rfl rfl rfl
  · exact .of_same rfl rfl rfl
  · exact .refl s

theorem faultOnce_calm (g : Signature) (s : State) : Calm s (faultOnce g s) := (markFault_calm _).after ((cper_calm _ _).after (voteCommit_calm s))

theorem raiseLost_calm (s : State) : Calm s (raiseLost s) := by
  unfold raiseLost
  refine .after (.foldl (fun s b => faultOnce_calm _ s) _ _) (.of_same rfl rfl rfl)

theorem settleLost_calm (s : State) : Calm s (settleLost s) := .ite (.refl s) ((raiseLost_calm _).after (raiseLost_calm s))

theorem stepFault_calm (g : Signature) (s : State) : Calm s (stepFault g s) := (settleLost_calm _).after (faultOnce_calm g s)

/-! ### Links (R209, R213, R231) -/

theorem notePorts_calm (s : State) : Calm s (notePorts s) := .of_same rfl rfl rfl

theorem portCount_calm (s : State) (port : Option Nat) (i n : Nat) : Calm s (portCount s port i n) := by
  cases port <;> exact .of_same rfl rfl rfl

theorem portHigh_calm (s : State) (port : Option Nat) (i n : Nat) : Calm s (portHigh s port i n) := by
  rw [portHigh_eq]; exact .of_same rfl rfl rfl

theorem pushCtrl_calm (l : Nat) (p : CtrlPkt) (s : State) : Calm s (pushCtrl l p s) :=
  .ite ((portHigh_calm _ _ _ _).after (.of_putLink s l rfl)) ((portHigh_calm _ _ _ _).after (.of_putLink s l rfl))

theorem pushData_calm (l : Nat) (o : OutData) (s : State) : Calm s (pushData l o s) := (portHigh_calm _ _ _ _).after (.of_putLink s l rfl)

theorem routerCount_calm (s : State) (die i n : Nat) : Calm s (routerCount s die i n) := .of_same rfl rfl rfl

theorem sendUnreachable_calm (die src dest xfer : Nat) (s : State) : Calm s (sendUnreachable die src dest xfer s) := .ite (.refl s) (.of_same rfl rfl rfl)

theorem dropCtrl_calm (die : Nat) (p : CtrlPkt) (s : State) : Calm s (dropCtrl die p s) :=
  .ite ((sendUnreachable_calm _ _ _ _ _).after (routerCount_calm _ _ _ _)) (routerCount_calm _ _ _ _)

theorem dropData_calm (die : Nat) (p : DataPkt) (s : State) : Calm s (dropData die p s) :=
  .ite (routerCount_calm _ _ _ _) ((sendUnreachable_calm _ _ _ _ _).after (routerCount_calm _ _ _ _))

theorem discardOwned_calm (owner : Option Nat) (n : Nat) (s : State) : Calm s (discardOwned owner n s) := by
  cases owner with
  | none => exact .refl s
  | some _ => exact .of_same rfl rfl rfl

theorem requeue_calm (port : Option Nat) (l : Nat) (x : Link) (s : State) : Calm s (requeue port l x s) := by
  unfold requeue
  refine .after (.foldl (fun s o => ?_) _ _) (.foldl (fun s p => ?_) _ s)
  · split
    · exact pushData_calm _ _ s
    · exact (discardOwned_calm _ _ _).after (dropData_calm _ _ s)
  · split
    · exact pushCtrl_calm _ _ s
    · exact dropCtrl_calm _ _ s

theorem linkFault_calm (l : Nat) (s : State) : Calm s (linkFault l s) := stepFault_calm _ s

end Sys2Proof.Machine
end


section
/-! SUPPORT. Links: peer signals, locks, retrains, failed trainings (R201, R204, R208 to R210, R213). -/
namespace Sys2Proof.Machine

variable {l : Nat} {s t : State}

theorem linkOk_of_lt (h : l < 24) : linkOk l = true := decide_eq_true h

/-! ### Where a link stands (R208, R212) -/

/-- A link in a port, not failed for good, that waits for its peer and finds it, begins to train. -/
theorem settleLink_starts {x : Link} (hl : l < 24) (hport : (portOfLink s l).isSome = true) (hperm : x.permanent = false) (hboot : s.boot.linkLoaded = true)
    (hpeer : x.peer = true) (hstate : x.state = .down ∨ x.state = .disabled) : settleLink l (putLink s l x) = putLink s l (enterTraining s.clk.tick x) := by
  have hport' : (portOfLink (putLink s l x) l).isSome = true := hport
  rcases hstate with h | h
  · simp [settleLink, hport', getLink_putLink hl, hperm, h, hpeer, hboot, putLink_putLink]
  · simp [settleLink, hport', getLink_putLink hl, hperm, h, hpeer, hboot, putLink_putLink]

/-- A link in TRAINING without its peer falls to DOWN, one with its peer stays. -/
theorem settleLink_training {x : Link} (hl : l < 24) (hport : (portOfLink s l).isSome = true) (hperm : x.permanent = false) (hstate : x.state = .training) :
    settleLink l (putLink s l x) = if x.peer then putLink s l x else putLink s l { x with state := .down } := by
  have hport' : (portOfLink (putLink s l x) l).isSome = true := hport
  simp [settleLink, hport', getLink_putLink hl, hperm, hstate, putLink_putLink]

@[simp] theorem dropAsm_peer (x : Link) : (dropAsm x).peer = x.peer := by unfold dropAsm; split <;> rfl
@[simp] theorem dropAsm_preset (x : Link) : (dropAsm x).preset = x.preset := by unfold dropAsm; split <;> rfl
@[simp] theorem dropAsm_permanent (x : Link) : (dropAsm x).permanent = x.permanent := by unfold dropAsm; split <;> rfl
@[simp] theorem dropAsm_stats (x : Link) : (dropAsm x).stats = x.stats := by unfold dropAsm; split <;> rfl
@[simp] theorem dropAsm_state (x : Link) : (dropAsm x).state = x.state := by unfold dropAsm; split <;> rfl

theorem exec_linkRxLock (hl : l < 24) (scr : List (BitVec 31)) (lanes : List Nat) : exec (.linkRxLock l scr lanes) s =
    .next (if (getLink s l).state = .training ∧ lanes = List.range 8
      then putLink s l { getLink s l with locked := true, rxScr := (getLink s l).rxScr.mapIdx (fun i v => scr.getD i v) } else s) := by
  rw [show exec (.linkRxLock l scr lanes) s = execLinkRxLock l scr lanes s from rfl, execLinkRxLock, whenUnit, if_pos (linkOk_of_lt hl)]

/-- Settles O31. -/
theorem linkSignals : Obligations.LinkSignals := by
  refine ⟨fun l s hl hport hperm hboot hstate => ?signal, fun l s hl hport hperm hstate => ?lost, fun l scr s hl hstate hlen => ?lock⟩
  case signal =>
    have hexec : exec (.linkPeerSignal l) s = .next (putLink s l (enterTraining s.clk.tick { getLink s l with peer := true })) := by
      rw [show exec (.linkPeerSignal l) s = execLinkPeerSignal l s from rfl, execLinkPeerSignal, whenUnit, if_pos (linkOk_of_lt hl)]
      exact congrArg _ (settleLink_starts (x := { getLink s l with peer := true }) hl hport hperm hboot rfl hstate)
    refine ⟨_, hexec, ?_⟩
    rw [getLink_putLink hl]
    exact ⟨rfl, rfl, dropAsm_peer _, rfl, rfl, rfl⟩
  case lost =>
    rw [show exec (.linkPeerSignalLost l) s = execLinkPeerSignalLost l s from rfl, execLinkPeerSignalLost, whenUnit, if_pos (linkOk_of_lt hl)]
    exact congrArg _ (settleLink_training (x := { getLink s l with peer := false }) hl hport hperm hstate)
  case lock =>
    refine ⟨⟨_, (exec_linkRxLock hl scr (List.range 8)).trans (congrArg _ (if_pos ⟨hstate, rfl⟩)), ?_, fun i hi => ?_⟩,
      fun lanes hcrossed => (exec_linkRxLock hl scr lanes).trans (congrArg _ (if_neg fun h => hcrossed h.2))⟩
    · rw [getLink_putLink hl]
    · rw [getLink_putLink hl]
      have hget (v : Vector (BitVec 31) 8) : vget 0 v i = v[i] := by simp [vget, hi]
      rw [hget, Vector.getElem_mapIdx]
      simp [List.getD_eq_getElem?_getD, hlen, hi]

/-! ### Retrains (R209, R210, R213) -/

theorem portOfLink_of_ports (h : t.fab.ports = s.fab.ports) (l : Nat) : portOfLink t l = portOfLink s l := by simp only [portOfLink, portLinks, h]

/-- A link that leaves UP: in TRAINING, its retrain counted, the tick noted. -/
def linkLeft (s : State) (x : Link) : Link := { linkCount 0 4 1 (enterTraining s.clk.tick x) with downs := downsNow s x }

/-- The machine before a link that has left UP settles. -/
def faultedUp (l : Nat) (s : State) : State :=
  linkFault l (requeue (portOfLink s l) l (getLink s l) (lifeAdd (17912 + 40 * l) 1 (notePorts (putLink s l (linkLeft s (getLink s l))))))

theorem faultedUp_calm (l : Nat) (s : State) : Calm (putLink s l (linkLeft s (getLink s l))) (faultedUp l s) :=
  (linkFault_calm _ _).after ((requeue_calm _ _ _ _).after ((lifeAdd_calm _ _ _).after (notePorts_calm _)))

theorem leaveUp_eq (l : Nat) (s : State) : leaveUp l s =
    if 8 ≤ (downsNow s (getLink s l)).length then failLink l (faultedUp l s) else settleLink l (faultedUp l s) := by
  have hport (y : Link) : portOfLink (lifeAdd (17912 + 40 * l) 1 (notePorts (putLink s l y))) l = portOfLink s l :=
    portOfLink_of_ports ((lifeAdd_calm _ _ _).ports) l
  unfold leaveUp faultedUp
  dsimp only
  rw [hport]
  rfl

/-- What of a link its queues do not tell. -/
theorem Calm.link {x : Link} (hl : l < 24) (h : Calm (putLink s l x) t) : bareLink (getLink t l) = bareLink x := by rw [h.links, getLink_putLink hl]

/-- A link settled in TRAINING with its peer stays as it is. -/
theorem settleLink_stays (hport : (portOfLink s l).isSome = true) (hperm : (getLink s l).permanent = false) (hstate : (getLink s l).state = .training)
    (hpeer : (getLink s l).peer = true) : settleLink l s = s := by
  simp [settleLink, hport, hperm, hstate, hpeer]

/-! ### Failures (R210) -/

theorem addHistory_link (hl : l < 24) (s : State) : (addHistory (.link l) s).mem = s.mem ∧ (addHistory (.link l) s).cores = s.cores ∧
    ∃ p, getLink (addHistory (.link l) s) l = { getLink s l with permanent := p } := by
  unfold addHistory declarePermanent
  dsimp only
  split
  · split
    · exact ⟨rfl, rfl, _, rfl⟩
    · exact ⟨rfl, rfl, true, vget_vset_self _ _ _ hl⟩
  · exact ⟨rfl, rfl, _, rfl⟩

theorem getLink_of_fab (h : t.fab = s.fab) (l : Nat) : getLink t l = getLink s l := by unfold getLink; rw [h]

/-- The report of a link's failure to the host. -/
def linkFailRecord (l : Nat) (s : State) : Signature :=
  { cls := 8, action := if (getLink s l).permanent then 6 else 4, unitType := 3, unitIndex := l, die := linkDie l, history := historyCount s (.link l) }

theorem failLink_eq (l : Nat) (s : State) : failLink l s =
    let a := addHistory (.link l) (lifeAdd (17916 + 40 * l) 1 (putLink s l { getLink s l with state := .failed, active := false, locked := false }))
    notePorts (msix 5 (cper (linkFailRecord l a) a)) := rfl

/-- A failed link: it stands FAILED and inactive; memory and cores stand. -/
theorem failLink_failed (hl : l < 24) (s : State) : (getLink (failLink l s) l).state = .failed ∧ (getLink (failLink l s) l).active = false ∧
    (failLink l s).mem = s.mem ∧ (failLink l s).cores = s.cores := by
  have hlife := lifeAdd_reports (17916 + 40 * l) 1 (putLink s l { getLink s l with state := .failed, active := false, locked := false })
  rw [failLink_eq]
  dsimp only
  generalize lifeAdd (17916 + 40 * l) 1 (putLink s l { getLink s l with state := .failed, active := false, locked := false }) = a at hlife
  obtain ⟨hmem, hcores, p, hlink⟩ := addHistory_link hl a
  have hout := (cper_reports (linkFailRecord l (addHistory (.link l) a)) (addHistory (.link l) a)).trans (msix_reports 5 _)
  generalize msix 5 (cper (linkFailRecord l (addHistory (.link l) a)) (addHistory (.link l) a)) = b at hout
  have hget : getLink (notePorts b) l = { getLink s l with state := .failed, active := false, locked := false, permanent := p } := by
    rw [show getLink (notePorts b) l = getLink b l from rfl, getLink_of_fab hout.fab_eq, hlink, getLink_of_fab hlife.fab_eq, getLink_putLink hl]
  rw [hget]
  exact ⟨rfl, rfl, (hout.mem_eq.trans hmem).trans hlife.mem_eq, (hout.cores_eq.trans hcores).trans hlife.cores_eq⟩

/-- Settles O32. -/
theorem linksRetrainAndFail : Obligations.LinksRetrainAndFail := by
  refine ⟨fun l s hl hport hperm hstate hpeer hmust hboot hdowns => ?retrain, fun l s hl hstate hpause hlate => ⟨fun hfew => ?again, fun hmany => ?third⟩⟩
  case retrain =>
    have hcalm := faultedUp_calm l s
    have hlink := hcalm.link hl
    have hnew {α : Type} (g : Link → α) (hg : ∀ x, g (bareLink x) = g x) : g (getLink (faultedUp l s) l) = g (linkLeft s (getLink s l)) := by
      rw [← hg, hlink, hg]
    have hfew : ¬8 ≤ (downsNow s (getLink s l)).length := by
      have hminute : secTicks 60 = 312000000000 := by decide
      simp only [downsNow, List.length_append, List.length_singleton, hminute]
      omega
    have hperm' : (getLink (faultedUp l s) l).permanent = false := (hnew Link.permanent fun _ => rfl).trans ((dropAsm_permanent _).trans hperm)
    have hpeer' : (getLink (faultedUp l s) l).peer = true := (hnew Link.peer fun _ => rfl).trans ((dropAsm_peer _).trans hpeer)
    have hstate' : (getLink (faultedUp l s) l).state = .training := hnew Link.state fun _ => rfl
    have hport' : (portOfLink (faultedUp l s) l).isSome = true := by rw [portOfLink_of_ports hcalm.ports]; exact hport
    have hexec : exec (.linkRetrain l) s = .next (faultedUp l s) := by
      rw [show exec (.linkRetrain l) s = execLinkRetrain l s from rfl, execLinkRetrain, whenUnit, if_pos (linkOk_of_lt hl)]
      dsimp only
      rw [if_pos ⟨hstate, hmust⟩, leaveUp_eq, if_neg hfew, settleLink_stays hport' hperm' hstate' hpeer']
    refine ⟨_, hexec, hstate', hnew Link.active fun _ => rfl, ?_⟩
    rw [hnew Link.stats fun _ => rfl]
    simp [linkLeft, linkCount, enterTraining]
  case again =>
    have hexec : exec (.linkTrainingTimeout l) s = .next (putLink s l { enterTraining s.clk.tick (getLink s l) with trainFails := (getLink s l).trainFails + 1 }) := by
      rw [show exec (.linkTrainingTimeout l) s = execLinkTrainingTimeout l s from rfl, execLinkTrainingTimeout, whenUnit, if_pos (linkOk_of_lt hl)]
      dsimp only
      rw [if_pos ⟨hstate, hpause, hlate⟩, if_neg (Nat.not_le.mpr hfew)]
    refine ⟨_, hexec, ?_⟩
    rw [getLink_putLink hl]
    exact ⟨rfl, rfl, rfl, rfl⟩
  case third =>
    have hexec : exec (.linkTrainingTimeout l) s = .next (failLink l (putLink s l { getLink s l with trainFails := (getLink s l).trainFails + 1 })) := by
      rw [show exec (.linkTrainingTimeout l) s = execLinkTrainingTimeout l s from rfl, execLinkTrainingTimeout, whenUnit, if_pos (linkOk_of_lt hl)]
      dsimp only
      rw [if_pos ⟨hstate, hpause, hlate⟩, if_pos hmany]
    obtain ⟨hfailed, hactive, hmem, hcores⟩ := failLink_failed hl (putLink s l { getLink s l with trainFails := (getLink s l).trainFails + 1 })
    exact ⟨_, hexec, hfailed, hactive, hmem, hcores⟩

end Sys2Proof.Machine
end


section
/-! SUPPORT. Frames and schedule windows (R205, R207, R208, R232, R236). -/
namespace Sys2Proof.Machine

variable {l : Nat} {s t u : State}

/-! ### Steps of the fabric alone -/

/-- Only the fabric differs. -/
def FabricOnly (s t : State) : Prop := t = { s with fab := t.fab }

theorem FabricOnly.refl (s : State) : FabricOnly s s := rfl

theorem FabricOnly.trans (h : FabricOnly s t) (h' : FabricOnly t u) : FabricOnly s u := by
  unfold FabricOnly at h' ⊢
  rw [h', h]

theorem FabricOnly.foldl {α : Type} {f : State → α → State} (hf : ∀ s a, FabricOnly s (f s a)) (xs : List α) (s : State) : FabricOnly s (xs.foldl f s) := by
  induction xs generalizing s with
  | nil => exact .refl s
  | cons a xs ih => exact (hf s a).trans (ih _)

theorem putLink_fabricOnly (s : State) (l : Nat) (x : Link) : FabricOnly s (putLink s l x) := rfl

theorem portCount_fabricOnly (s : State) (port : Option Nat) (i n : Nat) : FabricOnly s (portCount s port i n) := by cases port <;> rfl

theorem portHigh_fabricOnly (s : State) (port : Option Nat) (i n : Nat) : FabricOnly s (portHigh s port i n) := by
  unfold portHigh
  split
  · rfl
  · dsimp only; split <;> rfl

theorem pushData_fabricOnly (l : Nat) (o : OutData) (s : State) : FabricOnly s (pushData l o s) := portHigh_fabricOnly _ _ _ _

theorem expireInjected_fabricOnly (l : Nat) (s : State) : FabricOnly s (expireInjected l s) := by
  unfold expireInjected
  split
  · rfl
  · refine FabricOnly.trans (putLink_fabricOnly s l _) (FabricOnly.foldl (fun s o => ?_) _ _)
    split <;> exact pushData_fabricOnly _ _ _

theorem expireInjected_calm (l : Nat) (s : State) : Calm s (expireInjected l s) := by
  unfold expireInjected
  split
  · exact .refl s
  · refine (Calm.foldl (fun s o => ?_) _ _).after (.of_putLink s l rfl)
    split <;> exact pushData_calm _ _ _

theorem getLink_portCount (s : State) (port : Option Nat) (i n k : Nat) : getLink (portCount s port i n) k = getLink s k := by cases port <;> rfl

/-! ### What a frame tells (R205) -/

/-- What a link keeps of the last good header. -/
def heard (x : Link) : BitVec 16 × BitVec 3 := (x.rxSeq, x.lstateRx)

/-- The link has heard no new header. -/
def HearsSame (l : Nat) (s t : State) : Prop := heard (getLink t l) = heard (getLink s l)

theorem HearsSame.trans (h : HearsSame l s t) (h' : HearsSame l t u) : HearsSame l s u := Eq.trans h' h

theorem Calm.hearsSame (h : Calm s t) (l : Nat) : HearsSame l s t := by
  have hheard : heard (bareLink (getLink t l)) = heard (bareLink (getLink s l)) := by rw [h.links]
  exact hheard

theorem HearsSame.put (hl : l < 24) {x : Link} (h : HearsSame l s t) (hx : heard x = heard (getLink t l)) : HearsSame l s (putLink t l x) := by
  rw [HearsSame, getLink_putLink hl, hx]; exact h

theorem HearsSame.of_putLink (hl : l < 24) {x : Link} (h : heard x = heard (getLink s l)) : HearsSame l s (putLink s l x) := .put hl rfl h

theorem HearsSame.count (h : HearsSame l s t) (port : Option Nat) (i n : Nat) : HearsSame l s (portCount t port i n) := by
  rw [HearsSame, getLink_portCount]; exact h

theorem HearsSame.foldl {α : Type} {f : State → α → State} (hf : ∀ s a, HearsSame l s (f s a)) (xs : List α) (s : State) : HearsSame l s (xs.foldl f s) := by
  induction xs generalizing s with
  | nil => exact rfl
  | cons a xs ih => exact (hf s a).trans (ih _)

theorem heard_dropAsm (x : Link) : heard (dropAsm x) = heard x := by unfold dropAsm; split <;> rfl

theorem inputOverflow_hearsSame (hl : l < 24) (s : State) : HearsSame l s (inputOverflow l s) := by
  refine HearsSame.trans (.of_putLink hl ?_) ((linkFault_calm l _).hearsSame l)
  exact heard_dropAsm (getLink s l)

theorem packetIn_hearsSame (hl : l < 24) (a : Assembly) (s : State) : HearsSame l s (packetIn l a s) := by
  unfold packetIn
  dsimp only
  refine ((HearsSame.put hl ?router ?link).count _ _ _).count _ _ _
  case router => rfl
  case link => split <;> rfl

/-- An assembly that takes a cell. -/
theorem assembled_hearsSame (hl : l < 24) (a : Assembly) {p : Prop} [Decidable p] {x : Link} (hx : heard x = heard (getLink s l)) :
    HearsSame l s (if p then packetIn l a (putLink s l x) else putLink s l x) := by
  split
  · exact HearsSame.trans (.of_putLink hl hx) (packetIn_hearsSame hl _ _)
  · exact .of_putLink hl hx

/-- The cells of a frame leave the header's marks. -/
theorem cellIn_hearsSame (hl : l < 24) (tag : Nat) (bytes : List Byte) (bad badMark : Bool) (s : State) : HearsSame l s (cellIn l tag bytes bad badMark s) := by
  unfold cellIn
  dsimp only
  split
  · split
    · rfl
    · refine HearsSame.count (HearsSame.count ?_ _ _ _) _ _ _
      rfl
  · split
    · refine .of_putLink hl ?_
      exact heard_dropAsm (getLink s l)
    · split
      · exact inputOverflow_hearsSame hl s
      · refine assembled_hearsSame hl _ ?_
        exact heard_dropAsm (getLink s l)
  · split
    · rfl
    · split
      · rfl
      · split
        · exact inputOverflow_hearsSame hl s
        · refine assembled_hearsSame hl _ ?_
          rfl
  · rfl

theorem limitCorrection_calm (s : State) : Calm s (limitCorrection s) := .of_same rfl rfl rfl

theorem refreshSource_calm (s : State) : Calm s (refreshSource s) :=
  .ite (repairMaster_calm s) ((limitCorrection_calm _).after ((repairMaster_calm s).trans (.of_same rfl rfl rfl)))

/-- A step of both counters clears the averages of every link, and no header's marks. -/
theorem stepCounters_hearsSame (hl : l < 24) (offset : Int) (s : State) : HearsSame l s (stepCounters offset s) := by
  unfold HearsSame stepCounters
  simp [getLink, vget, hl, heard]

/-- A marker's arrival leaves the header's marks. -/
theorem markArrived_hearsSame (hl : l < 24) (timeTx : Nat) (s : State) : HearsSame l s (markArrived l timeTx s) := by
  have harrived {x : Link} (hx : heard x = heard (getLink s l)) : HearsSame l s (refreshSource (putLink s l x)) :=
    HearsSame.trans (.of_putLink hl hx) ((refreshSource_calm _).hearsSame l)
  unfold markArrived
  dsimp only
  generalize hput : refreshSource (putLink s l _) = t
  have hsame : HearsSame l s t := by rw [← hput]; exact harrived rfl
  split
  · split
    · split
      · exact hsame.trans (stepCounters_hearsSame hl _ _)
      · exact hsame.trans rfl
    · exact hsame
  · exact hsame

/-- A header field, as the link keeps it. -/
theorem ofNat_field (h : BitVec 192) (lo n : Nat) : BitVec.ofNat n (field h (lo + n - 1) lo) = h.extractLsb' lo n := by
  apply BitVec.eq_of_toNat_eq
  cases n with
  | zero => simp [BitVec.of_length_zero]
  | succ n =>
    rw [field, BitVec.toNat_ofNat, BitVec.extractLsb'_toNat, show lo + (n + 1) - 1 + 1 - lo = n + 1 by omega, Nat.mod_mod]

/-! ### A frame received -/

/-- What a link makes of a frame once it has taken the header (R205, R207 to R209). -/
def frameRest (l : Nat) (h : BitVec 192) (blocks : List (List Byte)) (bBad : Bool) (x : Link) (s : State) : State :=
  if x.state = .up then
    let s := if bit h 99 then markArrived l (field h 63 0) s else s
    if mustRetrain s x then s
    else (List.range 25).foldl (fun s c =>
      cellIn l (field h (127 + 2 * c) (126 + 2 * c)) (cellBytes blocks c) (decide (12 ≤ c) && bBad) (bit h (101 + c)) s) s
  else if x.lstateRx = 2 ∧ linkPaused s l = false then linkUp l s else s

/-- A frame whose first codewords are correctable: its header is taken, then its cells. -/
theorem frameIn_of_header (lanes : List (List Byte)) {ins : List LaneIn}
    (hins : ins = (List.range 8).map (fun i => decodeLane (scramble (slice (lanes.getD i []) 0 112) (vget 0 (getLink s l).rxScr i)).1))
    (hgood : ∀ i ∈ ins, i.aBad = false) : ∃ x : Link, ∃ bBad : Bool, x.state = (getLink s l).state ∧
      x.rxSeq = (headerOf (ins.map (fun i => i.block))).extractLsb' 176 16 ∧ x.lstateRx = (headerOf (ins.map (fun i => i.block))).extractLsb' 96 3 ∧
      frameIn l lanes s = frameRest l (headerOf (ins.map (fun i => i.block))) (ins.map (fun i => i.block)) bBad x (putLink s l x) := by
  have hplain : ((List.range 8).map (fun i => scramble (slice (lanes.getD i []) 0 112) (vget 0 (getLink s l).rxScr i))).map (fun p => decodeLane p.1) = ins := by
    rw [hins, List.map_map]; rfl
  have hany : ins.any (fun i => i.aBad) = false := List.any_eq_false.mpr fun i hi => by simp [hgood i hi]
  unfold frameIn
  extract_lets x plain read blocks aBad bBad ues h up x1 x2 x3 x4 x5 s1 s2
  have hread : read = ins := hplain
  have haBad : aBad = false := (congrArg (List.any · fun i => i.aBad) hread).trans hany
  have hblocks : blocks = ins.map (fun i => i.block) := congrArg (List.map fun i => i.block) hread
  have hheader : h = headerOf (ins.map (fun i => i.block)) := congrArg headerOf hblocks
  have hstate3 : x3.state = x.state := by
    show (if x2.xoffRx = true then linkCount l 5 (fclkBetween x2.xoffAt s.clk.tick) x2 else x2).state = x.state
    split <;> rfl
  have hstate5 : x5.state = x.state ∧ x5.rxSeq = BitVec.ofNat 16 (field h 191 176) ∧ x5.lstateRx = BitVec.ofNat 3 (field h 98 96) := by
    refine ⟨?_, ?_, ?_⟩ <;> simp only [x5, haBad, Bool.false_eq_true, if_false]
    exact hstate3
  obtain ⟨hstate, hseq, hlstate⟩ := hstate5
  have hup : up = decide (x5.state = .up) := by rw [hstate]
  have hs2 : s2 = if bit h 99 then markArrived l (field h 63 0) s1 else s1 := by simp only [s2, haBad, Bool.not_false, Bool.true_and]
  have hs1 : s1 = putLink s l x5 := rfl
  clear_value x5 up s2 s1 aBad bBad blocks h
  subst haBad hblocks hheader hs2 hs1 hup
  refine ⟨x5, bBad, hstate, hseq.trans (ofNat_field _ 176 16), hlstate.trans (ofNat_field _ 96 3), ?_⟩
  simp only [Bool.false_or, decide_eq_true_eq]
  rfl

/-- A frame leaves what its header told (R205). -/
theorem frameRest_hearsSame (hl : l < 24) (h : BitVec 192) (blocks : List (List Byte)) (bBad : Bool) (x : Link) (s : State) :
    HearsSame l s (frameRest l h blocks bBad x s) := by
  have hmark : HearsSame l s (if bit h 99 then markArrived l (field h 63 0) s else s) := by
    split
    · exact markArrived_hearsSame hl _ s
    · rfl
  unfold frameRest
  dsimp only
  generalize (if bit h 99 then markArrived l (field h 63 0) s else s) = t at hmark
  split
  · split
    · exact hmark
    · exact hmark.trans (HearsSame.foldl (fun s c => cellIn_hearsSame hl _ _ _ _ s) _ _)
  · split
    · exact HearsSame.of_putLink hl rfl
    · rfl

/-- A link in TRAINING goes UP at LSTATE 2, unless its controller pauses (R208, R385). -/
theorem frameRest_training (hl : l < 24) (h : BitVec 192) (blocks : List (List Byte)) (bBad : Bool) {x : Link} (hx : x.state = .training) (s : State) :
    (x.lstateRx = 2 → linkPaused s l = false → (getLink (frameRest l h blocks bBad x (putLink s l x)) l).state = .up) ∧
    (x.lstateRx ≠ 2 ∨ linkPaused s l = true → (getLink (frameRest l h blocks bBad x (putLink s l x)) l).state = .training) := by
  have hpaused : linkPaused (putLink s l x) l = linkPaused s l := rfl
  have hrest : frameRest l h blocks bBad x (putLink s l x) =
      if x.lstateRx = 2 ∧ linkPaused s l = false then linkUp l (putLink s l x) else putLink s l x := by
    rw [frameRest, if_neg (by simp [hx]), hpaused]
  rw [hrest]
  refine ⟨fun htwo hrun => ?_, fun hnot => ?_⟩
  · rw [if_pos ⟨htwo, hrun⟩]
    exact congrArg Link.state (getLink_putLink hl ..)
  · rw [if_neg (by rintro ⟨htwo, hrun⟩; rcases hnot with hnot | hnot <;> simp_all), getLink_putLink hl]
    exact hx

/-! ### A frame sent (R205, R208) -/

/-- A quiet step leaves whatever of a link its queues do not tell. -/
theorem Calm.same_link {α : Type} (h : Calm s t) (g : Link → α) (hg : ∀ x, g (bareLink x) = g x) (l : Nat) : g (getLink t l) = g (getLink s l) := by
  rw [← hg, h.links, hg]

/-- A packet that starts changes neither the link's sequence number nor its state. -/
theorem nextData_keeps {x y : Link} {w : Option Nat} {o : OutData} (h : nextData x w = some (o, y)) : y.txSeq = x.txSeq ∧ y.state = x.state := by
  unfold nextData at h
  split at h
  · obtain ⟨-, rfl⟩ := Prod.mk.inj (Option.some.inj h)
    exact ⟨rfl, rfl⟩
  · split at h
    · split at h
      · obtain ⟨-, rfl⟩ := Prod.mk.inj (Option.some.inj h)
        exact ⟨rfl, rfl⟩
      · cases h
    · obtain ⟨p, -, hp⟩ := Option.map_eq_some_iff.mp h
      obtain ⟨-, rfl⟩ := Prod.mk.inj hp
      exact ⟨rfl, rfl⟩

/-- A cell slot leaves the frame's sequence number and the link's state. -/
theorem fillSlot_keeps (w : Option Nat) (idle : List Byte) (f : FrameOut) :
    (fillSlot w idle f).x.txSeq = f.x.txSeq ∧ (fillSlot w idle f).x.state = f.x.state := by
  unfold fillSlot
  dsimp only
  split
  · exact ⟨rfl, rfl⟩
  · exact ⟨rfl, rfl⟩
  · split
    · exact ⟨rfl, rfl⟩
    · split
      · exact ⟨rfl, rfl⟩
      · split
        case _ hnext =>
          obtain ⟨hseq, hstate⟩ := nextData_keeps hnext
          split <;> exact ⟨hseq, hstate⟩
        case _ => exact ⟨rfl, rfl⟩

theorem foldl_fillSlot_keeps (w : Option Nat) (idle : List Byte) (xs : List Nat) (f : FrameOut) :
    (xs.foldl (fun f _ => fillSlot w idle f) f).x.txSeq = f.x.txSeq ∧ (xs.foldl (fun f _ => fillSlot w idle f) f).x.state = f.x.state := by
  induction xs generalizing f with
  | nil => exact ⟨rfl, rfl⟩
  | cons _ xs ih =>
    obtain ⟨hseq, hstate⟩ := ih (fillSlot w idle f)
    obtain ⟨hseq', hstate'⟩ := fillSlot_keeps w idle f
    exact ⟨hseq.trans hseq', hstate.trans hstate'⟩

/-- A link's frame: eight lanes out, the next sequence number, and nothing outside the fabric but the word taken for the idle cells. -/
theorem frameOut_sent (hl : l < 24) (held : Bool) (s : State) :
    ∃ lanes, (frameOut l held s).out = s.out ++ [.frame l lanes] ∧ lanes.length = 8 ∧ (getLink (frameOut l held s) l).txSeq = (getLink s l).txSeq + 1 ∧
      (getLink (frameOut l held s) l).state = (getLink s l).state ∧ (frameOut l held s).mem = s.mem ∧ (frameOut l held s).cores = s.cores ∧
      (frameOut l held s).run = s.run := by
  have hexpired : ∀ t, t = (if (getLink s l).state = .up then expireInjected l s else s) →
      FabricOnly s t ∧ (getLink t l).txSeq = (getLink s l).txSeq ∧ (getLink t l).state = (getLink s l).state := by
    rintro t rfl
    have hcalm : Calm s (if (getLink s l).state = .up then expireInjected l s else s) := .ite (expireInjected_calm l s) (.refl s)
    refine ⟨?_, hcalm.same_link Link.txSeq (fun _ => rfl) l, hcalm.same_link Link.state (fun _ => rfl) l⟩
    split
    · exact expireInjected_fabricOnly l s
    · rfl
  unfold frameOut
  extract_lets s1
  obtain ⟨honly, hseq, hstate⟩ := hexpired s1 rfl
  dsimp -zeta only [takeFree]
  extract_lets idle x x1 waiting w fr h sent src y port stalled s2 s3 s4 s5 s6
  have hfr : fr.x.txSeq = (getLink s l).txSeq ∧ fr.x.state = (getLink s l).state := by
    by_cases hup : x1.state = .up
    · obtain ⟨hslots, hstates⟩ := foldl_fillSlot_keeps w idle (List.range 25) { x := x1 }
      simp only [fr, if_pos hup]
      exact ⟨hslots.trans hseq, hstates.trans hstate⟩
    · simp only [fr, if_neg hup]
      exact ⟨hseq, hstate⟩
  obtain ⟨hfrSeq, hfrState⟩ := hfr
  have hlanes : (sent.map (fun p => p.1.flatMap pam4)).length = 8 := by simp [sent, laneBlocks]
  have hcounts : FabricOnly s2 (portCount s6 port 15 (if stalled then fclkBetween x1.txAt s6.clk.tick else 0)) :=
    (((((((portCount_fabricOnly _ _ _ _).trans (portCount_fabricOnly _ _ _ _)).trans (portCount_fabricOnly _ _ _ _)).trans
      (portCount_fabricOnly _ _ _ _)).trans (portCount_fabricOnly _ _ _ _)).trans (portCount_fabricOnly _ _ _ _)).trans
      (portCount_fabricOnly _ _ _ _)).trans (portCount_fabricOnly _ _ _ _)
  have hlink : getLink (portCount s6 port 15 (if stalled then fclkBetween x1.txAt s6.clk.tick else 0)) l = y := by
    simp only [getLink_portCount, s6, s5, s4, s3]
    exact getLink_putLink hl ..
  refine ⟨_, ?_, hlanes, by rw [hlink]; exact congrArg (· + 1) hfrSeq, by rw [hlink]; exact hfrState, ?_, ?_, ?_⟩
  · rw [hcounts]
    show s1.out ++ _ = _
    rw [honly]
  · rw [hcounts]
    show s1.mem = _
    rw [honly]
  · rw [hcounts]
    show s1.cores = _
    rw [honly]
  · rw [hcounts]
    show s1.run = _
    rw [honly]

/-! ### Windows (R232, R236) -/

/-- A link as a window begins for it. -/
def linkOpened (w : Nat) (x : Link) : Link :=
  { x with
    ctrlSent := 0
    sched := x.sched.map (fun e =>
      if schedStart e.e = w then { e with units := Nat.min 129 (schedPer e.e) * 1024, left := schedWins e.e * schedPer e.e } else e) }

/-- A window begins for one link. -/
def openLink (w : Nat) (s : State) (l : Nat) : State :=
  portCount (putLink s l (linkOpened w (getLink s l))) (portOfLink s l) 17
    (if 256 ≤ (getLink s l).ctrlSent then (getLink s l).outGlide.length + (getLink s l).outCtrl.length else 0)

theorem startWindow_eq (w : Nat) (s : State) : startWindow w s = (List.range 24).foldl (openLink w) { s with fab := { s.fab with window := some w } } := rfl

/-- The links below `n` have their whole control allowance, no link's queues differ, and the window is `w`. -/
structure Opened (w n : Nat) (s t : State) : Prop where
  only : FabricOnly s t
  window : t.fab.window = some w
  whole : ∀ l, l < n → (getLink t l).ctrlSent = 0
  queues : ∀ l, (getLink t l).outCtrl = (getLink s l).outCtrl ∧ (getLink t l).outData = (getLink s l).outData

theorem openLink_window (w : Nat) (s : State) (l : Nat) : (openLink w s l).fab.window = s.fab.window := by
  unfold openLink; cases portOfLink s l <;> rfl

theorem getLink_openLink {k : Nat} (hl : l < 24) (w : Nat) (s : State) :
    getLink (openLink w s l) k = if k = l then linkOpened w (getLink s l) else getLink s k := by
  rw [openLink, getLink_portCount]
  split
  next h => rw [h, getLink_putLink hl]
  next h => exact getLink_putLink_ne h _ _

/-- One more link takes its allowance. -/
theorem Opened.step {w n : Nat} (hn : n < 24) (h : Opened w n s t) : Opened w (n + 1) s (openLink w t n) := by
  refine ⟨h.only.trans ((putLink_fabricOnly t n _).trans (portCount_fabricOnly _ _ _ _)), (openLink_window w t n).trans h.window, fun l hl => ?_, fun l => ?_⟩
  · rw [getLink_openLink hn]
    split
    · rfl
    · exact h.whole l (by omega)
  · rw [getLink_openLink hn]
    split
    next hln => rw [hln]; exact h.queues n
    next => exact h.queues l

theorem startWindow_opened (w : Nat) (s : State) : Opened w 24 s (startWindow w s) := by
  have hloop (n : Nat) (hn : n ≤ 24) : Opened w n s ((List.range n).foldl (openLink w) { s with fab := { s.fab with window := some w } }) := by
    induction n with
    | zero => exact ⟨rfl, rfl, fun l hl => absurd hl (Nat.not_lt_zero l), fun l => ⟨rfl, rfl⟩⟩
    | succ n ih =>
      rw [List.range_succ, List.foldl_append]
      exact (ih (by omega)).step (by omega)
  rw [startWindow_eq]
  exact hloop 24 (Nat.le_refl 24)

/-- Settles O33: a DOWN link sends frames as well (log 41), and the header comes from the first codewords (log 39). -/
theorem framesAndWindows : Obligations.FramesAndWindows := by
  refine ⟨fun l lanes s hl hready => ?receive, fun l s hl hon hsound => ?transmit, fun w s hrun hw htime => ?window⟩
  case receive =>
    intro ins h hgood
    obtain ⟨x, bBad, hstate, hseq, hlstate, hframe⟩ := frameIn_of_header (s := s) (l := l) lanes (ins := ins) rfl hgood
    have hexec : exec (.frameReceive l lanes) s = .next (frameIn l lanes s) := by
      rw [show exec (.frameReceive l lanes) s = execFrameReceive l lanes s from rfl, execFrameReceive, whenUnit, if_pos (linkOk_of_lt hl)]
      exact congrArg _ (if_pos hready)
    have hheard : heard (getLink (frameIn l lanes s) l) = heard x := by
      rw [hframe, frameRest_hearsSame hl, getLink_putLink hl]
    refine ⟨_, hexec, (congrArg Prod.fst hheard).trans hseq, (congrArg Prod.snd hheard).trans hlstate, fun htraining htwo hrun => ?_, fun htraining hnot => ?_⟩
    · rw [hframe]
      exact (frameRest_training hl h _ bBad (hstate.trans htraining) s).1 (hlstate.trans htwo) hrun
    · rw [hframe]
      exact (frameRest_training hl h _ bBad (hstate.trans htraining) s).2 (by rw [hlstate]; exact hnot)
  case transmit =>
    have hexec : exec (.frameTransmit l) s = .next (frameOut l (heldFor s l) s) := by
      rw [show exec (.frameTransmit l) s = execFrameTransmit l s from rfl, execFrameTransmit, whenUnit, if_pos (linkOk_of_lt hl)]
      split
      · contradiction
      · contradiction
      · rfl
    obtain ⟨lanes, hsent⟩ := frameOut_sent hl (heldFor s l) s
    exact ⟨_, lanes, hexec, hsent⟩
  case window =>
    have hexec : exec .scheduleWindowStart s = .next (startWindow w s) := by
      have hbegun : (s.fab.window.isSome || s.run.phase == .inStep || s.run.phase == .arrived) = true := by
        simpa [or_assoc] using hrun
      rw [show exec .scheduleWindowStart s = execScheduleWindowStart s from rfl, execScheduleWindowStart]
      dsimp only
      rw [hbegun]
      subst hw
      cases hwin : s.fab.window <;> simp_all
    have hopened := startWindow_opened w s
    exact ⟨_, hexec, hopened.only, hopened.window, fun l hl => ⟨hopened.whole l hl, hopened.queues l⟩⟩

end Sys2Proof.Machine
end


section
/-! SUPPORT. Routers: where control and data packets go (R221, R224, R227 to R230). -/
namespace Sys2Proof.Machine

variable {die : Nat} {s t : State}

theorem dieOk_of_lt (h : die < 2) : dieOk die = true := decide_eq_true h

theorem getRouter_putRouter (h : die < 2) (s : State) (r : Router) : getRouter (putRouter s die r) die = r := vget_vset_self _ _ _ h

/-- A router in another form, its table apart. -/
theorem getRouter_putRouter_table {r : Router} (hp : r.piste = (getRouter s die).piste) (hb : r.pisteBad = (getRouter s die).pisteBad) (d : Nat) :
    (getRouter (putRouter s die r) d).piste = (getRouter s d).piste ∧ (getRouter (putRouter s die r) d).pisteBad = (getRouter s d).pisteBad := by
  by_cases hd : d = die
  · by_cases hlt : die < 2
    · rw [hd, getRouter_putRouter hlt]; exact ⟨hp, hb⟩
    · have hsame : vset s.fab.routers die r = s.fab.routers := by
        rw [vset, Vector.setIfInBounds_eq_of_size_le]
        exact Nat.le_of_not_lt hlt
      rw [putRouter, hsame]
      exact ⟨rfl, rfl⟩
  · have hne : getRouter (putRouter s die r) d = getRouter s d := vget_vset_ne _ _ _ hd
    rw [hne]
    exact ⟨rfl, rfl⟩

/-- The tables of the routes are the same: of the torus and of the routers. -/
structure SameRoutes (s t : State) : Prop where
  torus : t.fab.torus = s.fab.torus
  table : ∀ d, (getRouter t d).piste = (getRouter s d).piste ∧ (getRouter t d).pisteBad = (getRouter s d).pisteBad

theorem SameRoutes.route (h : SameRoutes s t) (die dest epoch hops : Nat) : Machine.route t die dest epoch hops = Machine.route s die dest epoch hops := by
  have hentry : pisteEntry t die dest = pisteEntry s die dest := by
    obtain ⟨hp, hb⟩ := h.table die
    unfold getRouter at hp hb
    simp only [pisteEntry, hp, hb]
  unfold Machine.route nextDir axisStep ownCoord extentOf sliceSize
  rw [h.torus, hentry]

/-- A router that has let its next control packet go. -/
def takenCtrl (die i : Nat) (s : State) : State := putRouter s die { getRouter s die with ctrlIn := dropAt (getRouter s die).ctrlIn i }

theorem takenCtrl_routes (die i : Nat) (s : State) : SameRoutes s (takenCtrl die i s) := ⟨rfl, getRouter_putRouter_table rfl rfl⟩

theorem exec_controlPacketRoute {i : Nat} {p : RoutedCtrl} (hdie : die < 2) (hnext : nextCtrl s die (getRouter s die).ctrlIn = some (i, p)) (chk : Chk) :
    exec (.controlPacketRoute die chk) s = .next (ctrlAtRouter die chk p (takenCtrl die i s)) := by
  rw [show exec (.controlPacketRoute die chk) s = execControlPacketRoute die chk s from rfl, execControlPacketRoute, whenUnit, if_pos (dieOk_of_lt hdie)]
  dsimp only
  rw [hnext]
  rfl

/-- A good packet at a module with an ID takes the route's way. -/
theorem ctrlAtRouter_routes {p : RoutedCtrl} (hcrc : (ctrlCrc p.pkt).toNat = field p.pkt.hdr 31 0) (hheader : ctrlHeaderOk p.pkt = true) (hhop : oneHop p = false)
    (hid : s.fab.hasId = true) : ctrlAtRouter die .ok p s = routeCtrl die .ok p s := by
  have hown : ownUpdate s die p = false := by rw [ownUpdate, hid]; rfl
  rw [ctrlAtRouter, if_neg (not_not.mpr hcrc), hheader, hhop, hown]
  rfl

/-- Settles O34. -/
theorem controlPacketsRoute : Obligations.ControlPacketsRoute := by
  intro die i p s hdie hnext u
  refine ⟨fun hcrc hheader hhop hid hgood => ⟨fun hroute hdest htype => ?deliver, fun dir port l hroute hport hlink => ?send⟩, fun hcrc chk => ?crc⟩
  case deliver =>
    rw [exec_controlPacketRoute hdie hnext, ctrlAtRouter_routes (s := takenCtrl die i s) hcrc hheader hhop hid, routeCtrl, readPiste_of_good _ (((takenCtrl_routes die i s).table die).2.trans hgood)]
    dsimp only
    have haccept : acceptsId (takenCtrl die i s) (ctrlDest p.pkt) = true := by
      rw [acceptsId]
      exact (Bool.and_eq_true _ _).mpr ⟨hid, decide_eq_true hdest⟩
    rw [(takenCtrl_routes die i s).route, hroute]
    dsimp only
    rw [haccept, Bool.true_or, if_pos rfl, arriveCtrl, if_neg fun h => htype h.1]
    rfl
  case send =>
    rw [exec_controlPacketRoute hdie hnext, ctrlAtRouter_routes (s := takenCtrl die i s) hcrc hheader hhop hid, routeCtrl, readPiste_of_good _ (((takenCtrl_routes die i s).table die).2.trans hgood)]
    dsimp only
    have hport' : portOfDir (takenCtrl die i s) dir = some port := hport
    have hlink' : chooseLink (takenCtrl die i s) port die = some l := hlink
    rw [(takenCtrl_routes die i s).route, hroute]
    dsimp only
    rw [hport', Option.bind_some, hlink']
    rfl
  case crc =>
    rw [exec_controlPacketRoute hdie hnext, ctrlAtRouter, if_pos hcrc]
    rfl

/-! ### Data packets (R224, R227 to R230) -/

theorem getRouter_leaveInput (p : RoutedData) (s : State) (d : Nat) : getRouter (leaveInput p s) d = getRouter s d := by
  unfold leaveInput; split <;> rfl

theorem FabricOnly.mem (h : FabricOnly s t) : t.mem = s.mem := by
  rw [show t = { s with fab := t.fab } from h]

theorem putRouter_fabricOnly (s : State) (die : Nat) (r : Router) : FabricOnly s (putRouter s die r) := rfl

theorem leaveInput_fabricOnly (p : RoutedData) (s : State) : FabricOnly s (leaveInput p s) := by
  unfold leaveInput; split <;> rfl

/-- A data packet that has left its input: the fabric's inputs alone differ. -/
theorem takeRouted_routes (i : Nat) (p : RoutedData) (s : State) : SameRoutes s (takeRouted die i p s) ∧ FabricOnly s (takeRouted die i p s) ∧
    (takeRouted die i p s).fab.hasId = s.fab.hasId ∧ (takeRouted die i p s).fab.ownId = s.fab.ownId ∧ (takeRouted die i p s).fab.ports = s.fab.ports := by
  refine ⟨⟨?_, fun d => ?_⟩, (putRouter_fabricOnly s die _).trans (leaveInput_fabricOnly _ _), ?_, ?_, ?_⟩
  · unfold takeRouted leaveInput; dsimp only; split <;> rfl
  · rw [takeRouted, getRouter_leaveInput]; refine getRouter_putRouter_table ?_ ?_ d <;> rfl
  · unfold takeRouted leaveInput; dsimp only; split <;> rfl
  · unfold takeRouted leaveInput; dsimp only; split <;> rfl
  · unfold takeRouted leaveInput; dsimp only; split <;> rfl

theorem exec_dataPacketRoute {i : Nat} {p : RoutedData} (hdie : die < 2) (hnext : nextRouted s die false = some (i, p)) (chk : Chk) :
    exec (.dataPacketRoute die chk) s = .next (dataAtRouter die chk p (takeRouted die i p s)) := by
  rw [show exec (.dataPacketRoute die chk) s = execDataPacketRoute die chk s from rfl, execDataPacketRoute, whenUnit, if_pos (dieOk_of_lt hdie), hnext]

theorem exec_multicastForward {i : Nat} {p : RoutedData} (hdie : die < 2) (hnext : nextRouted s die true = some (i, p)) :
    exec (.multicastForward die) s = .next (mcastAtRouter die p (takeRouted die i p s)) := by
  rw [show exec (.multicastForward die) s = execMulticastForward die s from rfl, execMulticastForward, whenUnit, if_pos (dieOk_of_lt hdie), hnext]

/-- A packet with a right CRC, or marked BAD before, is as it came. -/
theorem checkData_of_good {p : RoutedData} (h : (dataCrc p.pkt).toNat = field p.pkt.hdr 31 0) (s : State) : checkData p s = (p, s) := by
  rw [checkData, decide_eq_true h, Bool.or_true]
  rfl

/-- An accepted good packet waits on the die that holds its address (R228). -/
theorem deliverData_accepted {p : RoutedData} (hbad : p.pkt.bad = false) (s : State) : deliverData die p true s =
    putRouter s (dieOfAddr s (pktAddr p.pkt)) { getRouter s (dieOfAddr s (pktAddr p.pkt)) with
      dataBox := (getRouter s (dieOfAddr s (pktAddr p.pkt))).dataBox ++ [p.pkt] } := by
  rw [deliverData, hbad]
  rfl

theorem dieOfAddr_of_mem (h : t.mem = s.mem) (a : Nat) : dieOfAddr t a = dieOfAddr s a := by simp only [dieOfAddr, h]

/-! Copies that leave touch neither the memories nor the ID. -/

theorem keeps_ite {α : Type} {u : State} (g : State → α) {p : Prop} [Decidable p] (ht : g t = g s) (hu : g u = g s) : g (if p then t else u) = g s := by
  split
  · exact ht
  · exact hu

theorem dropData_keeps (die : Nat) (p : DataPkt) (s : State) : (dropData die p s).mem = s.mem ∧ (dropData die p s).fab.hasId = s.fab.hasId := by
  have hsend (src dest xfer : Nat) (s : State) : (sendUnreachable die src dest xfer s).mem = s.mem ∧ (sendUnreachable die src dest xfer s).fab.hasId = s.fab.hasId := by
    exact ⟨keeps_ite State.mem rfl rfl, keeps_ite (fun s => s.fab.hasId) rfl rfl⟩
  unfold dropData
  dsimp only
  split
  · exact ⟨rfl, rfl⟩
  · exact hsend _ _ _ _

theorem dropOwn_keeps (p : RoutedData) (s : State) : (dropOwn p s).mem = s.mem ∧ (dropOwn p s).fab.hasId = s.fab.hasId := by
  unfold dropOwn discardOwned
  split <;> exact ⟨rfl, rfl⟩

theorem pushData_keeps (l : Nat) (o : OutData) (s : State) : (pushData l o s).mem = s.mem ∧ (pushData l o s).fab.hasId = s.fab.hasId := by
  unfold pushData portHigh
  dsimp only
  split
  · exact ⟨rfl, rfl⟩
  · split <;> exact ⟨rfl, rfl⟩

theorem sendOut_keeps (die dir : Nat) (p : RoutedData) (s : State) : (sendOut die dir p s).mem = s.mem ∧ (sendOut die dir p s).fab.hasId = s.fab.hasId := by
  have hdrop : (dropOwn p (dropData die p.pkt s)).mem = s.mem ∧ (dropOwn p (dropData die p.pkt s)).fab.hasId = s.fab.hasId :=
    ⟨(dropOwn_keeps _ _).1.trans (dropData_keeps _ _ _).1, (dropOwn_keeps _ _).2.trans (dropData_keeps _ _ _).2⟩
  unfold sendOut
  split
  · exact hdrop
  · split
    · dsimp only
      split
      · exact pushData_keeps _ _ _
      · exact pushData_keeps _ _ _
    · exact hdrop

theorem copies_keep (die : Nat) (p : RoutedData) (dirs : List Nat) (s : State) : (dirs.foldl (fun s dir => sendOut die dir p s) s).mem = s.mem ∧
    (dirs.foldl (fun s dir => sendOut die dir p s) s).fab.hasId = s.fab.hasId := by
  induction dirs generalizing s with
  | nil => exact ⟨rfl, rfl⟩
  | cons dir dirs ih =>
    obtain ⟨hmem, hid⟩ := ih (sendOut die dir p s)
    obtain ⟨hmem', hid'⟩ := sendOut_keeps die dir p s
    exact ⟨hmem.trans hmem', hid.trans hid'⟩

/-- The directions of the copies come from the ports and the torus. -/
theorem mcastCopies_of_same (htorus : t.fab.torus = s.fab.torus) (hports : t.fab.ports = s.fab.ports) (p : RoutedData) : mcastCopies t p = mcastCopies s p := by
  have hcoord (a : Nat) : ownCoord t a = ownCoord s a := by rw [ownCoord, htorus, ownCoord]
  have hfurther (q : DataPkt) (a : Nat) (neg : Bool) : further t q a neg = further s q a neg := by simp only [further, hcoord]
  have hbegin (q : DataPkt) (axes : List Nat) : mcastBegin t q axes = mcastBegin s q axes := by
    induction axes with
    | nil => rfl
    | cons a axes ih => simp only [mcastBegin, hfurther, hcoord, ih]
  have hport (l : Nat) : portOfLink t l = portOfLink s l := portOfLink_of_ports hports l
  have hdir (q : Nat) : portDir t q = portDir s q := by simp only [portDir, hports]
  simp only [mcastCopies, mcastArrive, hbegin, hport, hdir, hfurther, hcoord]

/-- Settles O35. -/
theorem dataPacketsRoute : Obligations.DataPacketsRoute := by
  refine ⟨fun die i p s hdie hnext hheader hbad hcrc hgood => ?unicast, fun die i p s hdie hnext hheader hbad hcrc hid => ?multicast⟩
  case unicast =>
    intro u
    obtain ⟨hroutes, honly, hid, hown, hports⟩ := takeRouted_routes (die := die) i p s
    have hrouted : exec (.dataPacketRoute die .ok) s = .next (match route s die (pktDest p.pkt) (pktTable p.pkt) (pktHops p.pkt) with
        | .noroute => dropOwn p (routerCount u die 0 1)
        | .epoch => dropOwn p (routerCount u die 1 1)
        | .hops => dropOwn p (routerCount u die 2 1)
        | .deliver => deliverData die p (acceptsId u (pktDest p.pkt)) u
        | .send dir => sendOut die dir { p with pkt := { p.pkt with hdr := setField p.pkt.hdr 215 209 (pktHops p.pkt + 1) } } u) := by
      rw [exec_dataPacketRoute hdie hnext, dataAtRouter, hheader, Bool.not_true, if_neg Bool.false_ne_true, checkData_of_good hcrc]
      dsimp only
      rw [readPiste_of_good _ ((hroutes.table die).2.trans hgood), hroutes.route] <;> rfl
    refine ⟨fun hdeliver hhas hdest => ?_, fun dir hsend => ?_⟩
    · have haccept : acceptsId u (pktDest p.pkt) = true := by
        rw [acceptsId, hid, hown, hhas, decide_eq_true hdest]; rfl
      rw [hrouted, hdeliver]
      dsimp only
      rw [haccept, deliverData_accepted hbad, dieOfAddr_of_mem (s := s) (t := u) (honly.mem)]
    · rw [hrouted, hsend]
  case multicast =>
    intro v target
    obtain ⟨hroutes, honly, hid', hown, hports⟩ := takeRouted_routes (die := die) i p s
    obtain ⟨hmem, hkeep⟩ := copies_keep die p (mcastCopies s p).1 (takeRouted die i p s)
    rw [exec_multicastForward hdie hnext, mcastAtRouter, hheader, Bool.not_true, if_neg Bool.false_ne_true, checkData_of_good hcrc]
    dsimp only
    rw [mcastCopies_of_same hroutes.torus hports, hkeep, hid', hid, deliverData_accepted hbad, dieOfAddr_of_mem (s := s) (hmem.trans (honly.mem))]

/-! ### Bad headers (R224) -/

theorem dataHeaderOk_of_bad {p : DataPkt} (h : field p.hdr 35 32 ∉ [1, 2, 3] ∨ field p.hdr 80 79 = 3 ∨ field p.hdr 125 113 = 0 ∨ 4096 < field p.hdr 125 113
      ∨ (bit p.hdr 36 = true ∧ field p.hdr 35 32 ≠ 1)) : dataHeaderOk p = false := by
  have htype : field p.hdr 35 32 ∉ [1, 2, 3] ↔ ¬(1 ≤ pktType p ∧ pktType p ≤ 3) := by
    simp only [pktType, List.mem_cons, List.not_mem_nil, or_false]
    omega
  rw [htype] at h
  simp only [dataHeaderOk, Bool.and_eq_false_iff, decide_eq_false_iff_not, Bool.or_eq_false_iff, Bool.not_eq_false', dataBytes, pktMcast, not_not]
  rcases h with h | h | h | h | ⟨hm, ht⟩
  · exact .inl (.inl (.inl h))
  · exact .inl (.inl (.inr h))
  · refine .inl (.inr (decide_eq_false ?_))
    omega
  · refine .inl (.inr (decide_eq_false ?_))
    omega
  · exact .inr ⟨hm, ht⟩

/-- Settles O57: what the router drops of this module's own, its descriptor notes (log 54). -/
theorem badDataHeadersDrop : Obligations.BadDataHeadersDrop := by
  intro die i p s hdie hbad u dropped
  have hheader := dataHeaderOk_of_bad hbad
  refine ⟨fun howner => ?_, fun hnext chk => ?_, fun hnext => ?_⟩
  · rw [dropOwn, howner]; rfl
  · rw [exec_dataPacketRoute hdie hnext, dataAtRouter, hheader]; rfl
  · rw [exec_multicastForward hdie hnext, mcastAtRouter, hheader]; rfl

end Sys2Proof.Machine
end


section
/-! SUPPORT. Packets at this module: WRITE and FINAL_WRITE (R76, R222, R223), the piste table (R218, R219), UNREACHABLE (R231). -/
namespace Sys2Proof.Machine

variable {die : Nat} {s t u : State}

theorem takeData_eq {typ : Nat} {f : DataPkt → Bool} {p : DataPkt} (htake : takeData s die typ f = some (p, u)) :
    u = { s with fab := { s.fab with routers := u.fab.routers } } := by
  unfold takeData at htake
  obtain ⟨x, -, hx⟩ := Option.map_eq_some_iff.mp htake
  obtain ⟨-, rfl⟩ := Prod.mk.inj hx
  rfl

theorem takeData_fabricOnly {typ : Nat} {f : DataPkt → Bool} {p : DataPkt} (htake : takeData s die typ f = some (p, u)) : FabricOnly s u := by
  rw [takeData_eq htake]; rfl

theorem FabricOnly.getCore (h : FabricOnly s t) (c : CoreRef) : getCore t c = Machine.getCore s c := by
  rw [show t = { s with fab := t.fab } from h]; rfl

/-! ### WRITE and FINAL_WRITE (R222, R223) -/

theorem exec_writePacket {p : DataPkt} (hdie : die < 2) (htake : takeData s die 1 (fun _ => true) = some (p, u)) (chk : Chk) :
    exec (.writePacket die chk) s = .next (writeData chk p u) := by
  rw [show exec (.writePacket die chk) s = execWritePacket die chk s from rfl, execWritePacket, whenUnit, if_pos (dieOk_of_lt hdie), htake]

/-- A WRITE to a tier lands and counts, or is discarded with a path-parity miss. -/
theorem writeData_tier {p : DataPkt} (chk : Chk) (s : State) (hplace : placeOf (pktAddr p) (pktBytes p).length = .tier1 ∨ placeOf (pktAddr p) (pktBytes p).length = .tier2) :
    writeData chk p s = if parityMiss chk (pktAddr p) (pktBytes p).length then landFrom chk (pktAddr p) (pktBytes p) s
      else countXfer (pktXfer p) (landFrom chk (pktAddr p) (pktBytes p) s) := by
  rcases hplace with h | h
  · unfold writeData; dsimp only; rw [h]
  · unfold writeData; dsimp only; rw [h]

/-- A WRITE to an SPM window, the same by the window's epoch. -/
theorem writeData_spm {p : DataPkt} {d core off : Nat} (chk : Chk) (s : State) (hplace : placeOf (pktAddr p) (pktBytes p).length = .spm d core off) :
    writeData chk p s = if parityMiss chk (ownSpm s ⟨d, core⟩ off) (pktBytes p).length then landFrom chk (ownSpm s ⟨d, core⟩ off) (pktBytes p) s
      else countXfer (pktXfer p) (windowWrite chk ⟨d, core⟩ off (BitVec.ofNat 16 (pktEpoch p)) (pktBytes p) s) := by
  unfold writeData; dsimp only; rw [hplace]

theorem exec_finalWrite {p : RoutedCtrl} (hdie : die < 2) (htake : takeCtrl s die 1 = some (p, u)) (chk : Chk) :
    exec (.finalWrite die chk) s = .next (if fwCount p.pkt = 0 then releaseFinal chk p.pkt u else { u with fab := { u.fab with held := u.fab.held ++ [p.pkt] } }) := by
  rw [show exec (.finalWrite die chk) s = execFinalWrite die chk s from rfl, execFinalWrite, whenUnit, if_pos (dieOk_of_lt hdie), htake]

/-- Settles O36. -/
theorem writesAndFinalWrites : Obligations.WritesAndFinalWrites := by
  refine ⟨fun die p chk s u hdie htake => ⟨fun hplace => ?tier, fun d core off hplace => ?spm⟩, fun die p chk s u hdie htake => ?final,
    fun i p chk s hheld hcount => ?held, fun p chk s hflag hplace => ?flag⟩
  case tier =>
    refine ⟨fun hgood => ?_, fun hmiss => ?_⟩
    · rw [exec_writePacket hdie htake, writeData_tier chk u hplace, if_neg (by rw [hgood]; decide)]
    · rw [exec_writePacket hdie htake, writeData_tier chk u hplace, if_pos hmiss, landFrom_missed hmiss]
  case spm =>
    have hcore := (takeData_fabricOnly htake).getCore ⟨d, core⟩
    refine ⟨fun hgood hagrees hepoch => ?_, fun hmiss => ?_⟩
    · rw [← hcore] at hagrees hepoch
      rw [exec_writePacket hdie htake, writeData_spm chk u hplace]
      have hown : ownSpm u ⟨d, core⟩ off = spmAddr d (physOf u.map d core) off := rfl
      have hcurrent : BitVec.ofNat 16 (pktEpoch p) = (vget ⟨0, 0, 0⟩ (getCore u ⟨d, core⟩).windows (windowOf off)).a := by
        rw [hepoch, BitVec.ofNat_toNat, BitVec.setWidth_eq]; rfl
      rw [hown, if_neg (by rw [hgood]; decide), windowWrite]
      exact congrArg (fun t => Host.Outcome.next (countXfer (pktXfer p) t)) (windowWriteAt_current hgood hagrees hcurrent)
    · rw [exec_writePacket hdie htake, writeData_spm chk u hplace]
      exact congrArg _ ((if_pos hmiss).trans (landFrom_missed hmiss))
  case final =>
    exact ⟨fun hzero => (exec_finalWrite hdie htake chk).trans (congrArg _ (if_pos hzero)), fun hmore => (exec_finalWrite hdie htake chk).trans (congrArg _ (if_neg hmore))⟩
  case held =>
    rw [show exec (.finalWriteRelease i chk) s = execFinalWriteRelease i chk s from rfl, execFinalWriteRelease, hheld]
    exact congrArg _ (if_pos hcount)
  case flag =>
    unfold releaseFinal
    dsimp only
    rw [if_neg hflag]
    rcases hplace with h | h <;> rw [h]

/-! ### The piste table (R218, R219) -/

theorem voteTable_of_agrees (h : Agrees s.fab.tableEpoch) : voteTable s = s := by simp only [voteTable, vote, voteOf_of_agrees h]

/-- A PISTE_UPDATE taken: the routers' boxes alone differ, and no table. -/
theorem takePiste_eq {op : Nat} {p : RoutedCtrl} (htake : takePiste s die op = some (p, u)) : u = { s with fab := { s.fab with routers := u.fab.routers } } ∧
    ∀ d, (getRouter u d).piste = (getRouter s d).piste ∧ (getRouter u d).pisteBad = (getRouter s d).pisteBad := by
  unfold takePiste at htake
  obtain ⟨x, -, hx⟩ := Option.map_eq_some_iff.mp htake
  obtain ⟨-, rfl⟩ := Prod.mk.inj hx
  refine ⟨rfl, fun d => getRouter_putRouter_table ?_ ?_ d⟩ <;> rfl

/-- A packet of the slice master acts, one of any other endpoint is counted. -/
theorem masterOnly_of_agrees (die : Nat) (p : CtrlPkt) (f : State → State) (h : Agrees s.fab.torus.master) :
    masterOnly die p f s = if ctrlSrc p = s.fab.torus.master.a.toNat then f s else routerCount s die 6 1 := by
  rw [masterOnly, voteMaster_of_agrees h, masterEp, value_of_agrees h]

/-- Both dies' tables take an entry. -/
theorem writePiste_tables (id : Nat) (e : BitVec 32) (s : State) {d : Nat} (hd : d < 2) :
    mfind (getRouter (writePiste id e s) d).piste id = some (setField e 30 24 0) ∧
      ∀ id', id' ≠ id → mfind (getRouter (writePiste id e s) d).piste id' = mfind (getRouter s d).piste id' := by
  have hmap : getRouter (writePiste id e s) d = { getRouter s d with
      piste := mset (getRouter s d).piste id (setField e 30 24 0), pisteBad := (getRouter s d).pisteBad.filter (fun x => decide (x ≠ id)) } := by
    simp [getRouter, writePiste, vget, hd]
  rw [hmap]
  exact ⟨by rw [mfind_mset, if_pos rfl], fun id' hne => by rw [mfind_mset, if_neg hne]⟩

theorem exec_pisteUpdateWriteEntry {p : RoutedCtrl} (hdie : die < 2) (htake : takePiste s die 0 = some (p, u)) : exec (.pisteUpdateWriteEntry die) s =
    .next (masterOnly die p.pkt (fun s =>
        let s := voteTable s
        let e := pisteWord p.pkt
        let t := s.fab.tableEpoch.value
        if field e 23 16 = t.toNat ∨ field e 23 16 = (t + 1).toNat then writePiste (pisteId p.pkt) e s else s) u) := by
  rw [show exec (.pisteUpdateWriteEntry die) s = execPisteUpdateWriteEntry die s from rfl, execPisteUpdateWriteEntry, whenUnit, if_pos (dieOk_of_lt hdie), htake]

theorem exec_pisteUpdateSetEpoch {p : RoutedCtrl} (hdie : die < 2) (htake : takePiste s die 1 = some (p, u)) : exec (.pisteUpdateSetEpoch die) s =
    .next (masterOnly die p.pkt (fun s => { s with fab := { s.fab with tableEpoch := triple (pisteNew p.pkt) } }) u) := by
  rw [show exec (.pisteUpdateSetEpoch die) s = execPisteUpdateSetEpoch die s from rfl, execPisteUpdateSetEpoch, whenUnit, if_pos (dieOk_of_lt hdie), htake]

theorem exec_pisteUpdateSetId {p : RoutedCtrl} (hdie : die < 2) (htake : takePiste s die 2 = some (p, u)) : exec (.pisteUpdateSetId die) s =
    .next (masterOnly die p.pkt (fun s => refreshSource { s with fab := { s.fab with ownId := BitVec.ofNat 16 (pisteId p.pkt), hasId := true } }) u) := by
  rw [show exec (.pisteUpdateSetId die) s = execPisteUpdateSetId die s from rfl, execPisteUpdateSetId, whenUnit, if_pos (dieOk_of_lt hdie), htake]

/-- Every PISTE_UPDATE of another endpoint only counts. -/
theorem exec_pisteUpdate {make : Nat → Instr} {op : Nat} {p : RoutedCtrl} (hmake : (make, op) ∈ [(Instr.pisteUpdateWriteEntry, 0), (Instr.pisteUpdateSetEpoch, 1), (Instr.pisteUpdateSetId, 2)])
    (hdie : die < 2) (htake : takePiste s die op = some (p, u)) : ∃ f, exec (make die) s = .next (masterOnly die p.pkt f u) := by
  simp only [List.mem_cons, List.not_mem_nil, or_false, Prod.mk.injEq] at hmake
  rcases hmake with ⟨rfl, rfl⟩ | ⟨rfl, rfl⟩ | ⟨rfl, rfl⟩
  · exact ⟨_, exec_pisteUpdateWriteEntry hdie htake⟩
  · exact ⟨_, exec_pisteUpdateSetEpoch hdie htake⟩
  · exact ⟨_, exec_pisteUpdateSetId hdie htake⟩

/-- The update of an operation number. -/
theorem make_of_op {make : Nat → Instr} {op : Nat} (hmake : (make, op) ∈ [(Instr.pisteUpdateWriteEntry, 0), (Instr.pisteUpdateSetEpoch, 1), (Instr.pisteUpdateSetId, 2)]) :
    (op = 0 → make = Instr.pisteUpdateWriteEntry) ∧ (op = 1 → make = Instr.pisteUpdateSetEpoch) ∧ (op = 2 → make = Instr.pisteUpdateSetId) := by
  simp only [List.mem_cons, List.not_mem_nil, or_false, Prod.mk.injEq] at hmake
  rcases hmake with ⟨rfl, rfl⟩ | ⟨rfl, rfl⟩ | ⟨rfl, rfl⟩ <;> simp

/-- Settles O40. -/
theorem pisteTable : Obligations.PisteTable := by
  refine ⟨fun make op hmake die p s u hdie htake hmaster htable => ?update, fun die p s u hdie htake hmaster htable his => ?fault⟩
  case update =>
    obtain ⟨hu, htables⟩ := takePiste_eq htake
    have hmaster' : Agrees u.fab.torus.master := by rw [hu]; exact hmaster
    have htable' : Agrees u.fab.tableEpoch := by rw [hu]; exact htable
    have hsame : u.fab.torus.master = s.fab.torus.master := by rw [hu]
    have hepoch : u.fab.tableEpoch = s.fab.tableEpoch := by rw [hu]
    obtain ⟨hwrite, hset, hid⟩ := make_of_op hmake
    refine ⟨fun hother => ?_, fun hsrc hop => ?_, fun hsrc hop => ?_, fun hsrc hop hcurrent => ?_⟩
    · obtain ⟨f, hexec⟩ := exec_pisteUpdate hmake hdie htake
      rw [hexec, masterOnly_of_agrees die p.pkt f hmaster', if_neg (by rw [hsame]; exact hother)]
    · subst hop
      rw [hset rfl, exec_pisteUpdateSetEpoch hdie htake, masterOnly_of_agrees die p.pkt _ hmaster', if_pos (by rw [hsame]; exact hsrc)]
      rfl
    · subst hop
      rw [hid rfl, exec_pisteUpdateSetId hdie htake, masterOnly_of_agrees die p.pkt _ hmaster', if_pos (by rw [hsame]; exact hsrc)]
    · subst hop
      have hexec : exec (make die) s = .next (writePiste (pisteId p.pkt) (pisteWord p.pkt) u) := by
        rw [hwrite rfl, exec_pisteUpdateWriteEntry hdie htake, masterOnly_of_agrees die p.pkt _ hmaster', if_pos (by rw [hsame]; exact hsrc)]
        dsimp only
        rw [voteTable_of_agrees htable', value_of_agrees htable', if_pos (by rw [hepoch]; exact hcurrent)]
      refine ⟨_, hexec, rfl, fun d hd => ?_⟩
      obtain ⟨hnew, hold⟩ := writePiste_tables (pisteId p.pkt) (pisteWord p.pkt) u hd
      exact ⟨hnew, fun id hne => (hold id hne).trans (congrArg (mfind · id) (htables d).1)⟩
  case fault =>
    have hu := takeCtrl_eq htake
    have hmaster' : Agrees u.fab.torus.master := by rw [hu]; exact hmaster
    have htable' : Agrees u.fab.tableEpoch := by rw [hu]; exact htable
    have his' : isMaster u = true := by rw [hu]; exact his
    have hepoch : u.fab.tableEpoch = s.fab.tableEpoch := by rw [hu]
    rw [show exec (.pisteFault die) s = execPisteFault die s from rfl, execPisteFault, whenUnit, if_pos (dieOk_of_lt hdie), htake]
    dsimp only
    rw [voteMaster_of_agrees hmaster', voteTable_of_agrees htable', if_pos his', value_of_agrees htable', hepoch]

/-! ### UNREACHABLE (R157, R231) -/

/-- Only one place of a range acts, and once. -/
theorem foldl_range_once {f : State → Nat → State} {n k : Nat} (hk : k < n) (hact : f s k = t) (hbefore : ∀ i, i < n → i ≠ k → f s i = s)
    (hafter : ∀ i, i < n → i ≠ k → f t i = t) : (List.range n).foldl f s = t := by
  have hpart (m : Nat) (hm : m ≤ n) : (List.range m).foldl f s = if k < m then t else s := by
    induction m with
    | zero => rfl
    | succ m ih =>
      rw [List.range_succ, List.foldl_append, ih (by omega), List.foldl_cons, List.foldl_nil]
      rcases Nat.lt_trichotomy k m with h | h | h
      · rw [if_pos h, if_pos (by omega), hafter m (by omega) (by omega)]
      · rw [if_neg (by omega), if_pos (by omega), ← h, hact]
      · rw [if_neg (by omega), if_neg (by omega), hbefore m (by omega) (by omega)]
  rw [hpart n (Nat.le_refl n), if_pos hk]

/-- What waits of an owner is gone once withdrawn. -/
theorem waitingData_withdrawn (id : Nat) (s : State) : waitingData (withdrawData id s) id = [] := by
  have hdrop {α : Type} (g : α → Option Nat) (h : α → DataPkt) (xs : List α) :
      (xs.filter (fun p => decide (g p ≠ some id))).filterMap (fun p => if g p = some id then some (h p) else none) = [] := by
    rw [List.filterMap_eq_nil_iff]
    intro a ha
    simp only [List.mem_filter, decide_eq_true_eq] at ha
    rw [if_neg ha.2]
  unfold waitingData withdrawData
  rw [List.append_eq_nil_iff, List.flatMap_eq_nil_iff, List.flatMap_eq_nil_iff]
  refine ⟨fun r hr => ?_, fun l hl => ?_⟩
  · rw [Vector.toList_map, List.mem_map] at hr
    obtain ⟨r', -, rfl⟩ := hr
    exact hdrop _ _ _
  · rw [Vector.toList_map, List.mem_map] at hl
    obtain ⟨l', -, rfl⟩ := hl
    exact hdrop _ _ _

/-- What waits does not depend on the boxes of control packets. -/
theorem waitingData_takeCtrl {typ : Nat} {p : RoutedCtrl} (htake : takeCtrl s die typ = some (p, u)) (id : Nat) : waitingData u id = waitingData s id := by
  obtain ⟨x, -, hx⟩ := Option.map_eq_some_iff.mp htake
  obtain ⟨-, rfl⟩ := Prod.mk.inj hx
  have hinputs : ∀ r : Router, r.dataIn = (getRouter s die).dataIn → (vset s.fab.routers die r).map Router.dataIn = s.fab.routers.map Router.dataIn := by
    intro r hr
    ext1 d hd
    by_cases hdd : die = d
    · subst hdd
      simp [vset, hr, getRouter, vget, hd]
    · simp [vset, hdd]
  have hlists : ∀ r : Router, r.dataIn = (getRouter s die).dataIn → (vset s.fab.routers die r).toList.map Router.dataIn = s.fab.routers.toList.map Router.dataIn := by
    intro r hr
    rw [← Vector.toList_map, ← Vector.toList_map, hinputs r hr]
  unfold waitingData putRouter
  dsimp only
  rw [← List.flatMap_map Router.dataIn (fun xs => xs.filterMap (fun (p : RoutedData) => if p.owner = some id then some p.pkt else none)),
    ← List.flatMap_map Router.dataIn (fun xs => xs.filterMap (fun (p : RoutedData) => if p.owner = some id then some p.pkt else none)), hlists]
  rfl

/-- A channel in which nothing executes is left. -/
theorem dmaUnreachable_of_idle {c : CoreRef} {ch : Nat} (dest x : Nat) (h : (getChannel s c ch).exec = none) : dmaUnreachable c ch dest x s = s := by
  rw [dmaUnreachable]
  dsimp only
  rw [h]

/-- A descriptor with its transfer cut: LINKFAIL, and the bytes that were delivered. -/
def cutExec (s : State) (e : DmaExec) : DmaExec := { e with code := 8, doneBytes := e.doneBytes - ((waitingData s e.id).map dataBytes).sum - e.discarded }

/-- The descriptor that sends the transfer ends with LINKFAIL. -/
theorem dmaUnreachable_sends {c : CoreRef} {ch : Nat} {e : DmaExec} (hexec : (getChannel s c ch).exec = some e) (hremote : dmaRemote e.e.desc = true) (hcode : e.code = 1) :
    dmaUnreachable c ch (dmaDestEp e.e.desc) (dmaXfer e.e.desc) s =
      putChannel (withdrawData e.id s) c ch { getChannel s c ch with exec := some (cutExec s e) } := by
  rw [dmaUnreachable]
  dsimp only
  rw [hexec]
  exact if_pos ⟨hremote, hcode, rfl, rfl⟩

/-- A channel keeps what another one is given. -/
theorem getChannel_putChannel_ne {c : CoreRef} {ch i : Nat} (h : i ≠ ch) (s : State) (x : DmaChannel) : getChannel (putChannel s c ch x) c i = getChannel s c i := by
  rw [getChannel, putChannel_eq, getCore_putCore]
  exact vget_vset_ne _ _ _ h

/-- Settles O41: the bytes delivered are those that no longer wait here and that no router of this module discarded (log 54), and the descriptor is found by its transfer and destination (log 116). -/
theorem unreachableEnds : Obligations.UnreachableEnds := by
  intro die ch c p e s u hdie htake hcores hcdie hccore hch hothers hexec hbackground hqueue hremote hcode hdest hxfer
  have hu := takeCtrl_eq htake
  have hcore : getCore u c = getCore s c := by rw [hu]; rfl
  have hchannel (i : Nat) : getChannel u c i = vget {} (getCore s c).dma i := by rw [getChannel, hcore]
  let t := putChannel (withdrawData e.id u) c ch { getChannel u c ch with exec := some (cutExec u e) }
  have hchannels : (List.range 4).foldl (fun s i => dmaUnreachable c i (dmaDestEp e.e.desc) (dmaXfer e.e.desc) s) u = t := by
    refine foldl_range_once hch (dmaUnreachable_sends ((hchannel ch).symm ▸ hexec) hremote hcode) (fun i hi hne => ?_) (fun i hi hne => ?_)
    · exact dmaUnreachable_of_idle _ _ (by rw [hchannel]; exact hothers i hi hne)
    · refine dmaUnreachable_of_idle _ _ ?_
      rw [getChannel_putChannel_ne hne]
      exact (congrArg DmaChannel.exec (hchannel i)).trans (hothers i hi hne)
  have hended : exec (.unreachable die) s = .next t := by
    have hcopy : copyUnreachable (dmaDestEp e.e.desc) (dmaXfer e.e.desc) u = u := by
      rw [copyUnreachable, if_neg]
      rintro ⟨h, -, -⟩
      rw [hu] at h
      simp [hbackground] at h
    have hkey : (⟨coreKey c / 256, coreKey c % 256⟩ : CoreRef) = c := by
      rw [CoreRef.mk.injEq, coreKey]
      omega
    rw [show exec (.unreachable die) s = execUnreachable die s from rfl, execUnreachable, whenUnit, if_pos (dieOk_of_lt hdie), htake]
    dsimp only
    rw [← hdest, ← hxfer, unreachableAt, hcopy]
    have hlisted : u.cores = [(coreKey c, getCore s c)] := by rw [hu]; exact hcores
    rw [hlisted, List.foldl_cons, List.foldl_nil]
    dsimp only
    rw [hkey, hqueue, List.foldl_nil]
    exact congrArg _ hchannels
  have hput : getChannel t c ch = { getChannel u c ch with exec := some (cutExec u e) } := getChannel_putChannel hch _ _ _
  refine ⟨t, hended, ?_, waitingData_withdrawn e.id u, ?_, ?_⟩
  · show u.mem = s.mem
    rw [hu]
  · rw [show vget {} (getCore t c).dma ch = getChannel t c ch from rfl, hput, cutExec, waitingData_takeCtrl htake]
  · rw [show vget {} (getCore t c).dma ch = getChannel t c ch from rfl, hput, hchannel]

end Sys2Proof.Machine
end


section
/-! SUPPORT. WRITEs of the step program's objects and of the module's other objects (R210, R242, R268, R275 to R277, R282, R303 to R311, R361, R417, R420, R444, R445). -/
namespace Sys2Proof.Machine

variable {s t u : State} {q : DopReq} {rest : List DopReq} {v : Nat}

/-! ### WRITEs that a chapter may bind -/

/-- A row of WRITEs says what its command does, its object's chapter asking at most who the slice master is: as `DescribesWrite`, for every index. -/
structure ServesWrite (r : WriteRow) (row : Row) : Prop where
  command (s : State) : exec (r.make .queue) s = handleRow row .queue .ok s
  notActivate : row ≠ .activate
  index : r.key / 256 < 0xF000 ∧ r.key / 256 ≠ 0x2100
  named {q : DopReq} {s : State} : r.ok q (ofLE q.payload) s → writeRow r.key q.payload = row
  chapter {q : DopReq} {s : State} : hIndex q.hdr = r.key / 256 → r.ok q (ofLE q.payload) s → chapterDenies s q = false
  object (s : State) : ∃ o, objRow s r.key = some o ∧ (o.access = RW ∨ o.access = WO) ∧ o.typ = r.typ ∧ o.wpriv = r.priv
  size : typeBytes r.typ = some r.bytes
  bool {q : DopReq} {v : Nat} {s : State} : r.typ = 0 → r.ok q v s → v ≤ 1
  acts {q : DopReq} {s : State} : q.payload.length = r.bytes → r.ok q (ofLE q.payload) s →
    writeValue q.path r.key q.payload .ok s = (errNone, r.effect (ofLE q.payload) s)

/-- A WRITE that its row accepts is answered OK and has the row's effect, whatever its chapter asks. -/
theorem exec_of_served {r : WriteRow} {row : Row} (hr : ServesWrite r row) (h : Accepted r s q rest u) :
    exec (r.make .queue) s = .next (respond q okAnswer true (r.effect (ofLE q.payload) u)) := by
  obtain ⟨hhead, ⟨hop, hkey, hidx, -, htyp⟩, hlength, ⟨p, t, hpriv, hp, rfl⟩, hok⟩ := h
  obtain ⟨o, hobj, hwrites, hotyp, howpriv⟩ := hr.object (voteChapter q t)
  obtain ⟨hindex, hgroups⟩ := hr.index
  rw [← hidx] at hindex hgroups
  have hnamed : rowOf q = row := by simp only [rowOf, hop, hkey, hr.named hok]
  have hsize : typeBytes o.typ = some r.bytes := by rw [hotyp, hr.size]
  have htype : typeDiffers o q = false := typeDiffers_of_fixed (htyp.trans hotyp.symm) hsize hlength
  have hprocess : process q .ok (dequeued rest s) = (okAnswer, r.effect (ofLE q.payload) (voteChapter q t)) := by
    rw [process_write hindex hop hpriv, serveWrite_of_allowed (hkey ▸ hobj) hwrites hgroups (hr.chapter hidx hok) (howpriv ▸ hp) htype,
      takeValue_of_fixed _ hsize (fun h0 => hr.bool (hotyp ▸ h0) hok), hkey, hr.acts hlength hok]
    rfl
  rw [hr.command s]
  exact handleRow_of_process hhead hnamed hr.notActivate hprocess

/-- A row of an object whose chapter asks nothing is served. -/
theorem ServesWrite.of_plain {r : WriteRow} {row : Row} (hplain : PlainIndex (r.key / 256)) (hcommand : ∀ s, exec (r.make .queue) s = handleRow row .queue .ok s)
    (hrow : row ≠ .activate) (hnamed : ∀ {q : DopReq} {s : State}, r.ok q (ofLE q.payload) s → writeRow r.key q.payload = row)
    (hobject : ∀ s, ∃ o, objRow s r.key = some o ∧ (o.access = RW ∨ o.access = WO) ∧ o.typ = r.typ ∧ o.wpriv = r.priv) (hsize : typeBytes r.typ = some r.bytes)
    (hbool : ∀ {q : DopReq} {v : Nat} {s : State}, r.typ = 0 → r.ok q v s → v ≤ 1)
    (hacts : ∀ {q : DopReq} {s : State}, q.payload.length = r.bytes → r.ok q (ofLE q.payload) s → writeValue q.path r.key q.payload .ok s = (errNone, r.effect (ofLE q.payload) s)) :
    ServesWrite r row :=
  ⟨hcommand, hrow, ⟨hplain.1, hplain.2.1⟩, hnamed, fun hidx _ => chapterDenies_of_plain (by rw [hidx]; exact hplain) _, hobject, hsize, hbool, hacts⟩

theorem field_ofNat {w hi lo : Nat} (h : v < 2 ^ w) : field (BitVec.ofNat w v) hi lo = v / 2 ^ lo % 2 ^ (hi + 1 - lo) := by
  rw [field, BitVec.toNat_ofNat, Nat.mod_eq_of_lt h, Nat.shiftRight_eq_div_pow]

/-! ### The step program (R268, R275 to R277, R303, R361) -/

theorem writeRun_start (h : v = 2 ∧ s.run.state = 0 ∧ s.pcie.fetchResult ≠ 1) : writeRun v .ok s =
    (errNone, match runStages .ok (startStages (setRunState 1 s)) (setRunState 1 s) with
      | (some code, t) => stopRun (BitVec.ofNat 8 code) t
      | (none, t) => { t with run := { t.run with phase := .measuring, phaseAt := t.clk.tick } }) := by
  obtain ⟨rfl, hstate, hfetch⟩ := h
  rw [writeRun, if_neg hfetch, if_neg (by decide), if_pos rfl, startProgram, if_neg (by rintro (h | h); exacts [h hstate, hfetch h])]
  dsimp only
  rcases runStages .ok (startStages (setRunState 1 s)) (setRunState 1 s) with ⟨_ | code, t⟩ <;> rfl

theorem writeRun_stop (h : v = 0 ∧ s.pcie.fetchResult ≠ 1) : writeRun v .ok s =
    (errNone, if s.run.state = 1 then stopRun 0x0A s else if s.run.state = 2 then setRunState 3 s else if s.run.state = 4 then enterStopped s else s) := by
  obtain ⟨rfl, hfetch⟩ := h
  rw [writeRun, if_neg hfetch, if_pos rfl, stopWritten, if_neg hfetch]

theorem writeVariant_allowed (h : v ≤ 3 ∧ (s.run.state = 0 ∨ (s.run.state = 2 ∧ v < imgVariants s.run.hdr))) : writeVariant v s =
    (errNone, { s with run := { s.run with variantReq := BitVec.ofNat 8 v, variantAsked := s.run.variantAsked || decide (s.run.state = 2) } }) := by
  obtain ⟨hthree, hstate | ⟨hstate, hvariant⟩⟩ := h
  · have hidle : decide (s.run.state = 2) = false := by rw [hstate]; rfl
    rw [writeVariant, if_pos hstate, hold, decide_eq_true hthree, hidle, Bool.or_false]
    rfl
  · have hrunning : ¬s.run.state = 0 := by rw [hstate]; decide
    rw [writeVariant, if_neg hrunning, if_pos hstate, hold, decide_eq_true (And.intro hthree hvariant), decide_eq_true hstate, Bool.or_true]
    rfl

theorem writeStopped_allowed (h : s.run.state = 0) (t : State) : writeStopped t s = (errNone, t) := if_pos h

theorem startFetch_eq (s : State) : startFetch s =
    let t := dropReads .image s
    if s.pcie.fetchLen = 0 then setFetch 2 t
    else if s.pcie.fetchAddr.toNat < hostBase ∨ 2 ^ 48 < s.pcie.fetchAddr.toNat + s.pcie.fetchLen.toNat
        ∨ Config.tier1Bytes < s.run.base.toNat + s.pcie.fetchLen.toNat then setFetch 3 t
    else if hostUsable t then readHost .image (s.pcie.fetchAddr.toNat - hostBase) s.run.base.toNat s.pcie.fetchLen.toNat (setFetch 1 t)
    else setFetch 4 t := by
  have hzero : s.pcie.fetchLen.toNat = 0 ↔ s.pcie.fetchLen = 0 := by rw [← BitVec.toNat_inj]; rfl
  have hrange (a n b : Nat) : ¬(hostBase ≤ a ∧ a + n ≤ 2 ^ 48 ∧ b + n ≤ Config.tier1Bytes) ↔ a < hostBase ∨ 2 ^ 48 < a + n ∨ Config.tier1Bytes < b + n := by
    omega
  unfold startFetch
  dsimp only
  rw [if_congr hzero rfl rfl, if_congr (hrange _ _ _) rfl rfl]

theorem writeFetch_go (h : v = 1 ∧ s.run.state = 0) : writeFetch 3 v s = (errNone, startFetch s) := by
  obtain ⟨rfl, hstate⟩ := h
  rw [writeFetch, if_neg (by decide), if_neg (by decide), if_neg (not_not.mpr hstate)]
  rfl

theorem chapterDenies_trigger (hidx : hIndex q.hdr = 0x7011) (h : isMaster s = true ∨ q.path = .remote (masterEp s)) : chapterDenies s q = false := by
  rw [chapterDenies, hidx]
  rcases h with h | h <;> simp [h]

/-- Every row of the step program's objects is served. -/
theorem stepWrites_served : ∀ r ∈ stepWrites, ∃ row, ServesWrite r row := by
  intro r hr
  simp only [stepWrites, List.mem_cons, List.not_mem_nil, or_false] at hr
  obtain rfl | rfl | rfl | rfl | rfl | rfl | rfl | rfl | rfl | rfl | rfl := hr
  · exact ⟨.run, .of_plain (by decide) (fun _ => rfl) nofun (fun h => if_neg (by rw [h.1]; decide)) (fun _ => ⟨_, rfl, .inl rfl, rfl, rfl⟩) rfl nofun (fun _ h => writeRun_start h)⟩
  · exact ⟨.stop, .of_plain (by decide) (fun _ => rfl) nofun (fun h => if_pos h.1) (fun _ => ⟨_, rfl, .inl rfl, rfl, rfl⟩) rfl nofun (fun _ h => writeRun_stop h)⟩
  · exact ⟨.variant, .of_plain (by decide) (fun _ => rfl) nofun (fun _ => rfl) (fun _ => ⟨_, rfl, .inl rfl, rfl, rfl⟩) rfl nofun (fun _ h => writeVariant_allowed h)⟩
  · exact ⟨.resync, .of_plain (by decide) (fun _ => rfl) nofun (fun _ => rfl) (fun _ => ⟨_, rfl, .inr rfl, rfl, rfl⟩) rfl nofun (fun _ _ => rfl)⟩
  · exact ⟨.trigger, fun _ => rfl, nofun, by decide, fun _ => rfl, fun hidx h => chapterDenies_trigger hidx h,
      fun _ => ⟨_, rfl, .inl rfl, rfl, rfl⟩, rfl, nofun, fun _ _ => rfl⟩
  · exact ⟨.write, .of_plain (by decide) (fun _ => rfl) nofun (fun _ => rfl) (fun _ => ⟨_, rfl, .inl rfl, rfl, rfl⟩) rfl nofun (fun _ h => writeStopped_allowed h _)⟩
  · exact ⟨.write, .of_plain (by decide) (fun _ => rfl) nofun (fun _ => rfl) (fun _ => ⟨_, rfl, .inl rfl, rfl, rfl⟩) rfl nofun (fun _ h => writeStopped_allowed h _)⟩
  · exact ⟨.write, .of_plain (by decide) (fun _ => rfl) nofun (fun _ => rfl) (fun _ => ⟨_, rfl, .inl rfl, rfl, rfl⟩) rfl nofun (fun _ h => writeStopped_allowed h _)⟩
  · exact ⟨.write, .of_plain (by decide) (fun _ => rfl) nofun (fun _ => rfl) (fun _ => ⟨_, rfl, .inl rfl, rfl, rfl⟩) rfl nofun (fun _ _ => rfl)⟩
  · exact ⟨.write, .of_plain (by decide) (fun _ => rfl) nofun (fun _ => rfl) (fun _ => ⟨_, rfl, .inl rfl, rfl, rfl⟩) rfl nofun (fun _ _ => rfl)⟩
  · exact ⟨.fetch, .of_plain (by decide) (fun _ => rfl) nofun (fun _ => rfl) (fun _ => ⟨_, rfl, .inr rfl, rfl, rfl⟩) rfl (fun _ h => Nat.le_of_eq h.1) (fun _ h => (writeFetch_go h).trans (congrArg _ (startFetch_eq _)))⟩

/-! ### The module's other objects (R210, R242, R282, R305, R307, R311, R417, R420, R444, R445) -/

theorem chapterDenies_reset (hidx : hIndex q.hdr = 0x2010) (h : ofLE q.payload ≠ 3 ∨ q.path = .remote (masterEp s)) : chapterDenies s q = false := by
  rw [chapterDenies, hidx]
  rcases h with h | h <;> simp [h]

theorem chapterDenies_report {ep : BitVec 16} (hidx : hIndex q.hdr = 0x7003) (hpath : q.path = .remote ep)
    (h : isMaster s = true ∨ (s.fab.hasId = true ∧ s.fail.deputy = s.fab.ownId)) : chapterDenies s q = false := by
  rw [chapterDenies, hidx, hpath]
  rcases h with h | ⟨hid, hdeputy⟩
  · simp [h]
  · simp [hid, hdeputy]

/-- A quad out of use, or any quad in STOPPED, is reset core by core (R420). -/
theorem blockQuad_allowed (hlength : v < 2 ^ 16) (h : v % 2 ^ 15 < 40 ∧
      (s.run.state = 0 ∨ ∀ i, i < 4 → physState s (v / 2 ^ 15) (4 * (v % 64) + i) = .spare ∨ physState s (v / 2 ^ 15) (4 * (v % 64) + i) = .retired)) :
    blockQuad (BitVec.ofNat 16 v) s = (errNone, let t := (List.range 4).foldl (fun s i => blockCore (v / 2 ^ 15) (4 * (v % 64) + i) s) s
      { t with pwr := { t.pwr with quads := mset t.pwr.quads (40 * (v / 2 ^ 15) + v % 64) .on } }) := by
  obtain ⟨hquad, hfree⟩ := h
  have hdie : field (BitVec.ofNat 16 v) 15 15 = v / 2 ^ 15 := by rw [field_ofNat hlength]; omega
  have hq : field (BitVec.ofNat 16 v) 5 0 = v % 64 := by rw [field_ofNat hlength]; omega
  have hzero : field (BitVec.ofNat 16 v) 14 6 = 0 := by rw [field_ofNat hlength]; omega
  have hidle : ((List.range 4).any (fun i => decide (physState s (v / 2 ^ 15) (4 * (v % 64) + i) = .active ∨ physState s (v / 2 ^ 15) (4 * (v % 64) + i) = .testing))
      && decide (v % 64 < 40) && decide (s.run.state ≠ 0)) = false := by
    rcases hfree with hstopped | hspare
    · simp [hstopped]
    · have hnone : (List.range 4).any (fun i => decide (physState s (v / 2 ^ 15) (4 * (v % 64) + i) = .active ∨ physState s (v / 2 ^ 15) (4 * (v % 64) + i) = .testing)) = false := by
        refine List.any_eq_false.mpr fun i hi => ?_
        rcases hspare i (List.mem_range.mp hi) with h | h <;> rw [h] <;> decide
      rw [hnone]; rfl
  unfold blockQuad
  dsimp only
  rw [hdie, hq, hzero, hidle, if_neg Bool.false_ne_true, if_neg (by omega)]

theorem blockLink_allowed (h : v < 24 ∧ (s.run.state = 0 ∨ ((getLink s v).state ≠ .up ∧ (getLink s v).state ≠ .training))) :
    blockLink v s = (errNone, let t := if (getLink s v).state = .up then leaveUp v s else s
      notePorts (settleLink v (putLink t v (freshLink (getLink t v))))) := by
  obtain ⟨hlink, hfree⟩ := h
  have hidle : ¬(s.run.state ≠ 0 ∧ ((getLink s v).state = .up ∨ (getLink s v).state = .training)) := by
    rintro ⟨hrun, hbusy⟩
    rcases hfree with h | ⟨hup, htraining⟩
    · exact hrun h
    · exact hbusy.elim hup htraining
  rw [blockLink, if_neg (Nat.not_le.mpr hlink)]
  dsimp only
  rw [if_neg hidle]

/-- The effect of a channel's reset. -/
def channelReset (v : Nat) (s : State) : State :=
  let perDie := decide ((if v < 2 * Config.stacksPerDie then s.mem.tier1Mode else s.mem.tier2Mode) = 1)
  let lo := if v < 2 * Config.stacksPerDie then 0 else tier2Base
  let hi := if v < 2 * Config.stacksPerDie then Config.tier1Bytes else tier2Base + Config.tier2Bytes
  let t := retireWhere (fun a => decide (lo ≤ a ∧ a < hi) && decide (unitCode perDie a = v)) s
  { t with
    mem := makeUndefUnit t.mem lo hi v perDie
    boot := { t.boot with retraining := if t.boot.retraining.contains v then t.boot.retraining else t.boot.retraining ++ [v] } }

theorem blockChannel_allowed (h : (v < 2 * Config.stacksPerDie ∨ (16 ≤ v ∧ v < 16 + 2 * Config.channelsPerDie)) ∧
      s.run.state = 0 ∧ s.fail.phase = 0 ∧ s.pcie.fetchResult ≠ 1 ∧ s.fail.restoreResult ≠ 1) : blockChannel v s = (errNone, channelReset v s) := by
  obtain ⟨hunit, hstate, hphase, hfetch, hrestore⟩ := h
  unfold blockChannel channelReset
  dsimp only
  rw [if_neg (by rintro (h | h | h | h); exacts [h hstate, h hphase, hfetch h, hrestore h])]
  by_cases htier : v < 2 * Config.stacksPerDie
  · simp only [htier, decide_true, Bool.not_true, Bool.false_and, Bool.false_eq_true, if_false, if_true]
  · have hchannel := hunit.resolve_left htier
    simp only [htier, hchannel, decide_true, decide_false, Bool.not_true, Bool.not_false, Bool.true_and, Bool.false_eq_true, if_false, and_self]

theorem writeClear_cores (h : v = 1 ∨ v = 3) : writeClear v s = (errNone, { s with coreStats := [], dieStats := if v = 3 then [] else s.dieStats }) := by
  rcases h with rfl | rfl <;> rfl

theorem writeClear_dies (h : v = 2) : writeClear v s = (errNone, { s with dieStats := [] }) := by rw [h]; rfl

theorem writeSave_allowed (h : v = 1 ∧ s.life.saving = none) : writeSave v s = (errNone, startSave s) := by
  obtain ⟨rfl, hidle⟩ := h
  rw [writeSave, if_neg (by decide), hidle]
  rfl

theorem writeRestore_go (h : v = 1 ∧ s.run.state = 0) : writeRestore 3 v s = (errNone, restoreStart (dropReads .restore s)) := by
  obtain ⟨rfl, hstate⟩ := h
  rw [writeRestore, if_neg (by decide), if_neg (by decide), if_neg (not_not.mpr hstate)]
  rfl

theorem writeReport_allowed {path : DopPath} (hlength : v < 2 ^ 64) (hpath : path = .remote (BitVec.ofNat 16 (v / 2 ^ 48))) (hdir : v / 2 ^ 40 % 2 ^ 8 < 6)
    (hreserved : v / 2 ^ 32 % 2 ^ 7 = 0) : writeReport path v s = (errNone, takeReport (BitVec.ofNat 64 v) s) := by
  have hep : repEp (BitVec.ofNat 64 v) = v / 2 ^ 48 := by rw [repEp, field_ofNat hlength]; omega
  have hway : repDir (BitVec.ofNat 64 v) < 6 := by rw [repDir, field_ofNat hlength]; omega
  have hhigh : field (BitVec.ofNat 64 v) 47 43 = 0 := by rw [field_ofNat hlength]; omega
  have hlow : field (BitVec.ofNat 64 v) 38 32 = 0 := by rw [field_ofNat hlength]; omega
  rw [writeReport]
  exact if_pos ⟨by rw [hep]; exact hpath, hway, hhigh, hlow⟩

theorem writeTest_start (h : v = 1 ∧ testOn s (testDie s.fail.testTarget) = false ∧
      physState s (testDie s.fail.testTarget) (testPhys s.fail.testTarget) ≠ .retired) : writeTest 2 v s = (errNone, testStart s) := by
  obtain ⟨rfl, hidle, hpresent⟩ := h
  rw [writeTest]
  dsimp only
  rw [if_neg (by decide), if_neg (by decide), if_neg (Bool.eq_false_iff.mp hidle), if_neg hpresent]

theorem writeTest_target (hlength : v < 2 ^ 16) (h : v / 2 ^ 8 % 2 ^ 7 = 0 ∧ v % 256 < Config.physCores) :
    writeTest 1 v s = (errNone, { s with fail := { s.fail with testTarget := BitVec.ofNat 16 v } }) := by
  obtain ⟨hreserved, hcore⟩ := h
  have hfield : field (BitVec.ofNat 16 v) 14 8 = 0 := by rw [field_ofNat hlength]; omega
  have hphys : testPhys (BitVec.ofNat 16 v) < Config.physCores := by rw [testPhys, field_ofNat hlength]; omega
  rw [writeTest]
  dsimp only
  rw [if_pos rfl, hold, decide_eq_true (And.intro hfield hphys)]
  rfl

theorem hold_of {p : Prop} [Decidable p] (h : p) (t s : State) : hold (decide p) t s = (errNone, t) := by rw [hold, decide_eq_true h]; rfl

theorem ofLE_lt_of_length {n : Nat} {bs : List Byte} (h : bs.length = n) : ofLE bs < 256 ^ n := h ▸ ofLE_lt bs

/-- Every row of the module's other objects is served. -/
theorem moduleWrites_served : ∀ r ∈ moduleWrites, ∃ row, ServesWrite r row := by
  intro r hr
  rcases List.mem_append.mp hr with hr | hr
  · simp only [List.mem_cons, List.not_mem_nil, or_false] at hr
    obtain rfl | rfl | rfl | rfl | rfl | rfl | rfl | rfl | rfl | rfl | rfl | rfl | rfl | rfl | rfl | rfl | rfl | rfl := hr
    · exact ⟨.warm, fun _ => rfl, nofun, by decide, fun h => if_pos h, fun hidx h => chapterDenies_reset hidx (.inl (by rw [h]; decide)),
        fun _ => ⟨_, rfl, .inr rfl, rfl, rfl⟩, rfl, nofun, fun _ h => if_pos h⟩
    · exact ⟨.mgmt, fun _ => rfl, nofun, by decide, fun h => (if_neg (by rw [h]; decide)).trans (if_pos h),
        fun hidx h => chapterDenies_reset hidx (.inl (by rw [h]; decide)), fun _ => ⟨_, rfl, .inr rfl, rfl, rfl⟩, rfl, nofun,
        fun _ h => (if_neg (by rw [h]; decide)).trans (if_pos h)⟩
    · exact ⟨.fabric, fun _ => rfl, nofun, by decide, fun h => (if_neg (by rw [h.1]; decide)).trans (if_neg (by rw [h.1]; decide)),
        fun hidx h => chapterDenies_reset hidx (.inr h.2), fun _ => ⟨_, rfl, .inr rfl, rfl, rfl⟩, rfl, nofun,
        fun _ h => (if_neg (by rw [h.1]; decide)).trans ((if_neg (by rw [h.1]; decide)).trans (if_pos h.1))⟩
    · exact ⟨.quad, .of_plain (by decide) (fun _ => rfl) nofun (fun _ => rfl) (fun _ => ⟨_, rfl, .inr rfl, rfl, rfl⟩) rfl nofun
        (fun hlength h => blockQuad_allowed (ofLE_lt_of_length hlength) h)⟩
    · exact ⟨.link, .of_plain (by decide) (fun _ => rfl) nofun (fun _ => rfl) (fun _ => ⟨_, rfl, .inr rfl, rfl, rfl⟩) rfl nofun (fun _ h => blockLink_allowed h)⟩
    · exact ⟨.channel, .of_plain (by decide) (fun _ => rfl) nofun (fun _ => rfl) (fun _ => ⟨_, rfl, .inr rfl, rfl, rfl⟩) rfl nofun (fun _ h => blockChannel_allowed h)⟩
    · exact ⟨.clearCore, .of_plain (by decide) (fun _ => rfl) nofun (fun h => if_pos (by rcases h with h | h <;> rw [h])) (fun _ => ⟨_, rfl, .inr rfl, rfl, rfl⟩) rfl nofun
        (fun _ h => writeClear_cores h)⟩
    · exact ⟨.clearDie, .of_plain (by decide) (fun _ => rfl) nofun (fun h => if_neg (by rw [h]; decide)) (fun _ => ⟨_, rfl, .inr rfl, rfl, rfl⟩) rfl nofun
        (fun _ h => writeClear_dies h)⟩
    · exact ⟨.telemetry, .of_plain (by decide) (fun _ => rfl) nofun (fun _ => rfl) (fun _ => ⟨_, rfl, .inr rfl, rfl, rfl⟩) rfl (fun _ h => Nat.le_of_eq h)
        (fun _ h => congrArg _ (if_pos h))⟩
    · exact ⟨.save, .of_plain (by decide) (fun _ => rfl) nofun (fun _ => rfl) (fun _ => ⟨_, rfl, .inr rfl, rfl, rfl⟩) rfl (fun _ h => Nat.le_of_eq h.1)
        (fun _ h => writeSave_allowed h)⟩
    · exact ⟨.restore, .of_plain (by decide) (fun _ => rfl) nofun (fun _ => rfl) (fun _ => ⟨_, rfl, .inr rfl, rfl, rfl⟩) rfl (fun _ h => Nat.le_of_eq h.1)
        (fun _ h => writeRestore_go h)⟩
    · exact ⟨.portReport, fun _ => rfl, nofun, by decide, fun _ => rfl, fun hidx h => chapterDenies_report hidx h.1 h.2.2.2,
        fun _ => ⟨_, rfl, .inr rfl, rfl, rfl⟩, rfl, nofun, fun hlength h => writeReport_allowed (ofLE_lt_of_length hlength) h.1 h.2.1 h.2.2.1⟩
    · exact ⟨.fieldTest, .of_plain (by decide) (fun _ => rfl) nofun (fun _ => rfl) (fun _ => ⟨_, rfl, .inr rfl, rfl, rfl⟩) rfl (fun _ h => Nat.le_of_eq h.1)
        (fun _ h => writeTest_start h)⟩
    · exact ⟨.write, .of_plain (by decide) (fun _ => rfl) nofun (fun _ => rfl) (fun _ => ⟨_, rfl, .inl rfl, rfl, rfl⟩) rfl nofun (fun _ _ => rfl)⟩
    · exact ⟨.write, .of_plain (by decide) (fun _ => rfl) nofun (fun _ => rfl) (fun _ => ⟨_, rfl, .inl rfl, rfl, rfl⟩) rfl nofun (fun _ _ => rfl)⟩
    · exact ⟨.write, .of_plain (by decide) (fun _ => rfl) nofun (fun _ => rfl) (fun _ => ⟨_, rfl, .inl rfl, rfl, rfl⟩) rfl nofun (fun _ h => hold_of h _ _)⟩
    · exact ⟨.write, .of_plain (by decide) (fun _ => rfl) nofun (fun _ => rfl) (fun _ => ⟨_, rfl, .inl rfl, rfl, rfl⟩) rfl nofun (fun _ h => hold_of h _ _)⟩
    · exact ⟨.write, .of_plain (by decide) (fun _ => rfl) nofun (fun _ => rfl) (fun _ => ⟨_, rfl, .inl rfl, rfl, rfl⟩) rfl nofun
        (fun hlength h => writeTest_target (ofLE_lt_of_length hlength) h)⟩
  · obtain ⟨l, hl, rfl⟩ := List.mem_map.mp hr
    have hl24 : l < 24 := List.mem_range.mp hl
    have hindex : (0x501301 + l) / 256 = 0x5013 := by omega
    have hsub : (0x501301 + l) % 256 - 1 = l := by omega
    refine ⟨.write, .of_plain (by simp [hindex, PlainIndex]) (fun _ => rfl) nofun (fun _ => ?named) (fun s => ?object) rfl nofun (fun _ h => ?acts)⟩
    case named => simp only [writeRow, hindex]
    case object => interval_cases l <;> exact ⟨_, rfl, .inl rfl, rfl, rfl⟩
    case acts =>
      simp only [writeValue, hindex, hsub]
      exact hold_of h _ _

/-- Settles O42: a WRITE that its client and its object's chapter allow comes down to its value, and the value to the operation of its object. That the slice is filled at
the write of the image's base (log 29) and that a GO drops the reads of an earlier one (log 93) are the model's choices. -/
theorem objectWrites : Obligations.ObjectWrites := by
  intro r hr s u q rest h
  rcases List.mem_append.mp hr with hr | hr
  · obtain ⟨row, hrow⟩ := stepWrites_served r hr
    exact exec_of_served hrow h
  · obtain ⟨row, hrow⟩ := moduleWrites_served r hr
    exact exec_of_served hrow h

end Sys2Proof.Machine
end


section
/-! SUPPORT. The canonical form of the memories, kept by every function of the machine: the relation and its rules. -/
namespace Sys2Proof.Machine

variable {s t u : State} {m m' m'' : Memory}

/-- If the one memory is in canonical form, so is the other. -/
structure KeepsForm (m m' : Memory) : Prop where
  wf : m.wf = true → m'.wf = true

theorem KeepsForm.refl (m : Memory) : KeepsForm m m := ⟨id⟩

theorem KeepsForm.after (h' : KeepsForm m' m'') (h : KeepsForm m m') : KeepsForm m m'' := ⟨fun hm => h'.wf (h.wf hm)⟩

/-- Only what stands beside the cells and the undefined areas differs. -/
theorem KeepsForm.beside (hcells : m'.cells = m.cells) (hundef : m'.undef = m.undef) : KeepsForm m m' := ⟨wf_of_same hcells hundef⟩

theorem KeepsForm.ite {p : Prop} [Decidable p] (ht : KeepsForm m t.mem) (hu : KeepsForm m u.mem) : KeepsForm m (if p then t else u).mem := by
  split
  · exact ht
  · exact hu

theorem KeepsForm.foldl {α : Type} {f : State → α → State} (hf : ∀ s a, KeepsForm s.mem (f s a).mem) (xs : List α) (s : State) :
    KeepsForm s.mem (xs.foldl f s).mem := by
  induction xs generalizing s with
  | nil => exact .refl _
  | cons a xs ih => exact (ih _).after (hf s a)

theorem KeepsForm.of_fst {α : Type} {p : State × α} {a : α} (h : p = (t, a)) (hp : KeepsForm m p.1.mem) : KeepsForm m t.mem := by
  rw [h] at hp; exact hp

theorem KeepsForm.of_snd {α : Type} {p : α × State} {a : α} (h : p = (a, t)) (hp : KeepsForm m p.2.mem) : KeepsForm m t.mem := by
  rw [h] at hp; exact hp

theorem Calm.form (h : Calm s t) : KeepsForm s.mem t.mem := ⟨h.wf⟩

/-- A fold that carries something beside the machine. -/
theorem KeepsForm.foldl_fst {α β : Type} {f : State × β → α → State × β} (hf : ∀ p a, KeepsForm p.1.mem (f p a).1.mem) (xs : List α) (p : State × β) :
    KeepsForm p.1.mem (xs.foldl f p).1.mem := by
  induction xs generalizing p with
  | nil => exact .refl _
  | cons a xs ih => exact (ih _).after (hf p a)

/-- What is done if there is something to do it with. -/
theorem KeepsForm.getD {α : Type} {o : Option α} {f : α → State} (hf : ∀ a, KeepsForm s.mem (f a).mem) : KeepsForm s.mem ((o.map f).getD s).mem := by
  cases o with
  | none => exact .refl _
  | some a => exact hf a

/-- A command that answers a next state leaves the memories in canonical form. -/
structure StepKeeps (s : State) (r : Result) : Prop where
  form : ∀ t, r = .next t → KeepsForm s.mem t.mem

theorem StepKeeps.next (h : KeepsForm s.mem t.mem) : StepKeeps s (.next t) := by
  constructor
  rintro u ⟨⟩
  exact h

theorem fault_ne_next {σ φ ρ : Type} (f : φ) (s : σ) : (Host.Outcome.fault f : Host.Outcome σ φ ρ) ≠ .next s := nofun
theorem refused_ne_next {σ φ ρ : Type} (r : ρ) (s : σ) : (Host.Outcome.refused r : Host.Outcome σ φ ρ) ≠ .next s := nofun

theorem StepKeeps.fault (s : State) (f : Fault) : StepKeeps s (.fault f) := ⟨fun _ h => absurd h (fault_ne_next f _)⟩

theorem StepKeeps.refused (s : State) (r : Refusal) : StepKeeps s (.refused r) := ⟨fun _ h => absurd h (refused_ne_next r _)⟩

theorem StepKeeps.whenUnit {b : Bool} (h : KeepsForm s.mem t.mem) : StepKeeps s (Machine.whenUnit b t) := by
  unfold Machine.whenUnit
  split
  · exact .next h
  · exact .fault s _

theorem StepKeeps.ite {p : Prop} [Decidable p] {r r' : Result} (h : StepKeeps s r) (h' : StepKeeps s r') : StepKeeps s (if p then r else r') := by
  split
  · exact h
  · exact h'

/-! ### What changes the memories beside their form -/

theorem freshMemory_form (m : Memory) : KeepsForm m (freshMemory m) := ⟨fun _ => rfl⟩

theorem makeUndef_form (m : Memory) (lo hi : Nat) : KeepsForm m (makeUndef m lo hi) := ⟨makeUndef_wf m lo hi⟩

theorem makeUndefUnit_form (m : Memory) (lo hi c : Nat) (perDie : Bool) : KeepsForm m (makeUndefUnit m lo hi c perDie) := ⟨makeUndefUnit_wf m lo hi c perDie⟩

theorem setMergeList_form (m : Memory) (a : Nat) (es : List MergeEntry) : KeepsForm m (setMergeList m a es) := ⟨setMergeList_wf m a es⟩

theorem retireEntry_form (m : Memory) (e : MergeEntry) : KeepsForm m (retireEntry m e).1 := ⟨retireEntry_wf m e⟩

theorem putHrc_form (s : State) (die : Nat) (ls : List HrcLine) : KeepsForm s.mem (putHrc s die ls).mem := .beside rfl rfl

theorem clearHrc_form (s : State) : KeepsForm s.mem (clearHrc s).mem := .beside rfl rfl

theorem spmUndefined_form (die phys : Nat) (s : State) : KeepsForm s.mem (spmUndefined die phys s).mem := makeUndef_form _ _ _

theorem railsOff_form (s : State) : KeepsForm s.mem (railsOff s).mem := ⟨fun _ => rfl⟩

theorem retireEntry_form_of {e : MergeEntry} {a : Option Nat} (h : retireEntry m e = (m', a)) : KeepsForm m m' := by
  have hretired := retireEntry_form m e
  rw [h] at hretired
  exact hretired

theorem declarePermanent_form (unit : UnitId) (s : State) : KeepsForm s.mem (declarePermanent unit s).mem := by
  unfold declarePermanent
  split
  · exact .refl _
  · dsimp only
    split
    · split
      · exact .refl _
      · exact (cper_calm ..).form.after (.refl _)
    · exact .refl _
    · exact .refl _

theorem addHistory_form (unit : UnitId) (s : State) : KeepsForm s.mem (addHistory unit s).mem :=
  .ite ((declarePermanent_form ..).after (.refl _)) (.refl _)

/-! ### What a command takes, and with what it goes on -/

theorem takeData_form {die typ : Nat} {f : DataPkt → Bool} {p : DataPkt} (h : takeData s die typ f = some (p, t)) : KeepsForm s.mem t.mem := by
  rw [takeData_eq h]; exact .refl _

theorem takeCtrl_form {die typ : Nat} {p : RoutedCtrl} (h : takeCtrl s die typ = some (p, t)) : KeepsForm s.mem t.mem := by
  rw [takeCtrl_eq h]; exact .refl _

theorem takePiste_form {die op : Nat} {p : RoutedCtrl} (h : takePiste s die op = some (p, t)) : KeepsForm s.mem t.mem := by
  rw [(takePiste_eq h).1]; exact .refl _

theorem takeColl_form {die kind : Nat} {p : RoutedCtrl} (h : takeColl s die kind = some (p, t)) : KeepsForm s.mem t.mem := by
  obtain ⟨x, -, hx⟩ := Option.map_eq_some_iff.mp h
  obtain ⟨-, rfl⟩ := Prod.mk.inj hx
  exact .refl _

theorem takeRelease_form {r : Release} (h : takeRelease s = some (r, t)) : KeepsForm s.mem t.mem := by
  obtain ⟨x, -, hx⟩ := Option.map_eq_some_iff.mp h
  obtain ⟨-, rfl⟩ := Prod.mk.inj hx
  exact .refl _

theorem vote_form {α : Type} [DecidableEq α] (w : CriticalWord) (x : Tri α) (put : Tri α → State → State) (s : State)
    (hput : ∀ y, KeepsForm s.mem (put y s).mem) : KeepsForm s.mem (vote w x put s).mem := by
  unfold vote
  split
  · exact .refl _
  · exact (correctable_calm ..).form.after (hput _)
  · exact (fatalIntegrity_calm ..).form

theorem voteWordAt_form (i : Nat) (s : State) : KeepsForm s.mem (voteWordAt i s).mem := vote_form _ _ _ _ fun _ => .refl _
theorem voteKeyHash_form (i : Nat) (s : State) : KeepsForm s.mem (voteKeyHash i s).mem := vote_form _ _ _ _ fun _ => .refl _
theorem voteMaintHash_form (s : State) : KeepsForm s.mem (voteMaintHash s).mem := vote_form _ _ _ _ fun _ => .refl _
theorem voteFloor_form (i : Nat) (s : State) : KeepsForm s.mem (voteFloor i s).mem := vote_form _ _ _ _ fun _ => .refl _
theorem voteRevoked_form (s : State) : KeepsForm s.mem (voteRevoked s).mem := vote_form _ _ _ _ fun _ => .refl _

theorem mayTrap_form (c : CoreRef) (act : State → State) (s : State) (hact : ∀ u, KeepsForm u.mem (act u).mem) : KeepsForm s.mem (mayTrap c act s).mem := by
  unfold mayTrap
  dsimp only
  split
  · exact hact s
  · split
    · exact hact s
    · split
      · exact hact s
      · split
        · split
          · exact .beside rfl rfl
          · exact .refl _
        · exact .refl _

theorem dropLine_form (th : ThreadRef) (s : State) : KeepsForm s.mem (dropLine th s).mem :=
  (correctable_calm ..).form.after (putCore_calm ..).form

theorem issueThen_form (th : ThreadRef) (w : BitVec 64) (s : State) (k : State → State) (hk : ∀ u, KeepsForm u.mem (k u).mem) : StepKeeps s (issueThen th w s k) := by
  have hdrop (u : State) : KeepsForm u.mem (dropLine th u).mem := dropLine_form th u
  have hissued : KeepsForm s.mem (issued s th).mem := by rw [issued_mem]; exact .refl _
  exact .whenUnit (.ite ((hk _).after hissued) (.ite (hdrop s) (.refl _)))

theorem hold_form (ok : Bool) (t s : State) (ht : KeepsForm s.mem t.mem) : KeepsForm s.mem (hold ok t s).2.mem := by
  unfold hold
  split
  · exact ht
  · exact .refl _

theorem writeStopped_form (t s : State) (ht : KeepsForm s.mem t.mem) : KeepsForm s.mem (writeStopped t s).2.mem := by
  unfold writeStopped
  split
  · exact ht
  · exact .refl _

theorem takeValue_form (p : DopPath) (h : BitVec 128) (r : ObjRow) (payload : List Byte) (act : List Byte → State → Nat × State) (s : State)
    (hact : ∀ v u, KeepsForm u.mem (act v u).2.mem) : KeepsForm s.mem (takeValue p h r payload act s).2.mem := by
  unfold takeValue
  dsimp only
  split
  · split
    · exact .refl _
    · exact hact payload s
  · split
    · split
      · exact .refl _
      · exact .refl _
    · exact .refl _
    · exact hact _ (closeWrite p (hKey h) s)

end Sys2Proof.Machine
end


section
/-! SUPPORT. The canonical form of the memories, kept by every function of the machine: one lemma per function, in the order of the model. -/
namespace Sys2Proof.Machine

/-! ### Maps -/

theorem whenUnit_form (exists_ : Bool) (t : State) : StepKeeps t (whenUnit exists_ t) := .ite (.next (.refl _)) (.fault _ _)

/-! ### Ops -/

theorem putThreadOf_form (s : State) (th : ThreadRef) (x : Thread) : KeepsForm s.mem (putThreadOf s th x).mem := (putCore_calm ..).form

theorem takeFree_form (s : State) : KeepsForm s.mem (takeFree s).2.mem := .refl _

theorem takeId_form (s : State) : KeepsForm s.mem (takeId s).2.mem := .refl _

theorem dopCount_form (s : State) (i : Nat) : KeepsForm s.mem (dopCount s i).mem := .refl _

theorem pumpAt_form (i : Nat) (s : State) : KeepsForm s.mem (pumpAt i s).mem := by
  unfold pumpAt
  dsimp only
  split
  · exact .refl _
  · split
    · split
      · exact .after (dopCount_form ..) (.after (dopCount_form ..) (.after (emit_calm ..).form (.refl _)))
      · exact .refl _
    · exact .refl _

theorem queueNotice_form (i : Nat) (n : Notice) (s : State) : KeepsForm s.mem (queueNotice i n s).mem := by
  unfold queueNotice
  dsimp only
  split
  · exact .refl _
  · exact .after (pumpAt_form ..) (.ite (.after (dopCount_form ..) (.refl _)) (.refl _))

theorem dropNotices_form (index : Nat) (s : State) : KeepsForm s.mem (dropNotices index s).mem := .refl _

theorem lifeTest_form (off : Nat) (failed : Bool) (s : State) : KeepsForm s.mem (lifeTest off failed s).mem := .ite (.refl _) (.refl _)

theorem correctableWith_form (out : Signature → State → State) (r : Nat) (s : State) (hout : ∀ a u, KeepsForm u.mem (out a u).mem) :
    KeepsForm s.mem (correctableWith out r s).mem :=
  .after (.ite (.refl _) (.after (hout _ _) (.after (msix_calm ..).form (.after (notify_calm ..).form (.refl _))))) (lifeAdd_calm ..).form

theorem setPhysState_form (s : State) (die phys : Nat) (x : PhysState) : KeepsForm s.mem (setPhysState s die phys x).mem := .refl _

theorem checkRead_form (chk : Chk) (point die : Nat) (ranges : List (Nat × Nat)) (s : State) :
    KeepsForm s.mem (checkRead chk point die ranges s).1.mem := by
  unfold checkRead
  dsimp only
  split
  · exact .after (uncorrectableAt_calm ..).form (.foldl (fun _ _ => (noteFind_calm ..).form) _ _)
  · exact .foldl (fun _ _ => (noteFind_calm ..).form) _ _

theorem landWith_form (chk : Chk) (a : Nat) (bs : List Byte) (s : State) : KeepsForm s.mem (landWith chk a bs s).mem :=
  .after (landQuiet_calm ..).form (.foldl (fun _ _ => (noteWrite_calm ..).form) _ _)

theorem putRouter_form (s : State) (die : Nat) (r : Router) : KeepsForm s.mem (putRouter s die r).mem := .refl _

theorem reportPiste_form (die ep : Nat) (s : State) : KeepsForm s.mem (reportPiste die ep s).mem :=
  .ite (.refl _) (.ite (.refl _) (.after (injectCtrl_calm ..).form (repairMaster_calm ..).form))

theorem notePiste_form (die ep : Nat) (s : State) (x : Find) : KeepsForm s.mem (notePiste die ep s x).mem := by
  unfold notePiste
  dsimp only
  split
  · exact .ite (correctable_calm ..).form (.refl _)
  · exact .ite (putRouter_form ..) (.refl _)
  · exact .refl _

theorem readPiste_form (die ep : Nat) (chk : Chk) (s : State) : KeepsForm s.mem (readPiste die ep chk s).mem :=
  .after (.ite (.after (reportPiste_form ..) (uncorrectable_calm ..).form) (.refl _)) (.foldl (fun _ _ => notePiste_form ..) _ _)

/-! ### DmaMove -/

theorem dmaMoveBytes_form (chk : Chk) (c : CoreRef) (id : Nat) (d : BitVec 512) (bs : List Byte) (n : Nat) (s : State) :
    KeepsForm s.mem (dmaMoveBytes chk c id d bs n s).mem :=
  KeepsForm.foldl_fst (fun _ _ => (localWrite_calm ..).form) _ (s, bs)

theorem writeDmaStatus_form (c : CoreRef) (off code done : Nat) (s : State) : KeepsForm s.mem (writeDmaStatus c off code done s).mem :=
  (landQuiet_calm ..).form

/-! ### Fault -/

theorem putWindow_form (c : CoreRef) (w : Nat) (t : Tri (BitVec 16)) (s : State) : KeepsForm s.mem (putWindow c w t s).mem := (putCore_calm ..).form

theorem gateDecided_form (hi lo : BitVec 64) (nonfinite : Nat) (s : State) : KeepsForm s.mem (gateDecided hi lo nonfinite s).mem := by
  unfold gateDecided
  dsimp only
  split
  · exact (writeGate_calm ..).form
  · exact .ite (writeGate_calm ..).form (.after (writeGate_calm ..).form (takeFree_form ..))

theorem storeFault_form (a : Nat) (s : State) : KeepsForm s.mem (storeFault a s).mem := (stepFault_calm ..).form

theorem land_form (a : Nat) (bs : List Byte) (s : State) : KeepsForm s.mem (land a bs s).mem :=
  .after (settleLost_calm ..).form (landQuiet_calm ..).form

theorem landFrom_form (chk : Chk) (a : Nat) (bs : List Byte) (s : State) : KeepsForm s.mem (landFrom chk a bs s).mem :=
  .after (settleLost_calm ..).form (arriveQuiet_calm ..).form

theorem trapStop_form (c : CoreRef) (thread cause addr pc : Nat) (s : State) : KeepsForm s.mem (trapStop c thread cause addr pc s).mem :=
  .after (haltCore_calm ..).form (.after (putCore_calm ..).form (voteEpoch_calm ..).form)

theorem trap_form (c : CoreRef) (thread cause addr pc : Nat) (s : State) : KeepsForm s.mem (trap c thread cause addr pc s).mem :=
  .after (stepFault_calm ..).form (trapStop_form ..)

theorem trapHeld_form (c : CoreRef) (thread cause a pc : Nat) (s : State) : KeepsForm s.mem (trapHeld c thread cause a pc s).mem :=
  .after (stepFault_calm ..).form (trapStop_form ..)

theorem trapHeldAs_form (c : CoreRef) (thread cause a addr pc : Nat) (s : State) : KeepsForm s.mem (trapHeldAs c thread cause a addr pc s).mem :=
  .after (stepFault_calm ..).form (trapStop_form ..)

/-! ### Issue -/

theorem issued_form (s : State) (th : ThreadRef) : KeepsForm s.mem (issued s th).mem :=
  .after (putCore_calm ..).form (.ite (dropLine_form ..) (.refl _))

theorem trapIssued_form (th : ThreadRef) (cause addr : Nat) (s : State) : KeepsForm s.mem (trapIssued th cause addr s).mem :=
  .after (trap_form ..) (putThreadOf_form ..)

theorem writeResult_form (th : ThreadRef) (r : BitVec 5) (v : Word) (latency : Nat) (s : State) :
    KeepsForm s.mem (writeResult th r v latency s).mem :=
  putThreadOf_form ..

theorem jump_form (th : ThreadRef) (target : Word) (s : State) : KeepsForm s.mem (jump th target s).mem := putThreadOf_form ..

/-! ### ArrayQueue -/

theorem settleArray_form (c : CoreRef) (s : State) : KeepsForm s.mem (settleArray c s).mem := by
  unfold settleArray
  dsimp only
  split
  · exact .refl _
  · split
    · exact .refl _
    · split
      · exact (putCore_calm ..).form
      · exact (putCore_calm ..).form
      · exact .refl _

theorem enqueueArray_form (th : ThreadRef) (op : ArrayOp) (s : State) : KeepsForm s.mem (enqueueArray th op s).mem :=
  .after (settleArray_form ..) (putCore_calm ..).form

/-! ### Array -/

theorem copyDescriptor_form (th : ThreadRef) (off size : Nat) (chk : Chk) (k : Nat → State → State) (s : State)
    (hk : ∀ a u, KeepsForm u.mem (k a u).mem) :
    KeepsForm s.mem (copyDescriptor th off size chk k s).mem := by
  unfold copyDescriptor
  dsimp only
  split
  · exact trapIssued_form ..
  · split
    next h2 => exact .after (trapIssued_form ..) (.of_fst h2 (checkRead_form ..))
    next h2 => exact .after (hk _ _) (.of_fst h2 (checkRead_form ..))

theorem issueArray_form (th : ThreadRef) (ok : Bool) (spans : List (Nat × Nat)) (op : ArrayOp) (mark : Mxa → Mxa) (s : State) :
    KeepsForm s.mem (issueArray th ok spans op mark s).mem := by
  unfold issueArray
  dsimp only
  split
  · exact trapIssued_form ..
  · split
    · exact trapIssued_form ..
    · exact .after (enqueueArray_form ..) (putCore_calm ..).form

theorem startFill_form (th : ThreadRef) (f : Fields) (chk : Chk) (s : State) : KeepsForm s.mem (startFill th f chk s).mem :=
  copyDescriptor_form _ _ _ _ _ _ (fun _ _ => issueArray_form ..)

theorem startRun_form (th : ThreadRef) (f : Fields) (chk : Chk) (s : State) : KeepsForm s.mem (startRun th f chk s).mem :=
  copyDescriptor_form _ _ _ _ _ _ (fun _ _ => issueArray_form ..)

theorem startDrain_form (th : ThreadRef) (f : Fields) (chk : Chk) (s : State) : KeepsForm s.mem (startDrain th f chk s).mem :=
  copyDescriptor_form _ _ _ _ _ _ (fun _ _ => issueArray_form ..)

theorem execMxaFill_form (th : ThreadRef) (f : Fields) (chk : Chk) (s : State) : StepKeeps s (execMxaFill th f chk s) :=
  issueThen_form _ _ _ _ (fun _ => startFill_form ..)

theorem execMxaRun_form (th : ThreadRef) (f : Fields) (chk : Chk) (s : State) : StepKeeps s (execMxaRun th f chk s) :=
  issueThen_form _ _ _ _ (fun _ => startRun_form ..)

theorem execMxaDrain_form (th : ThreadRef) (f : Fields) (chk : Chk) (s : State) : StepKeeps s (execMxaDrain th f chk s) :=
  issueThen_form _ _ _ _ (fun _ => startDrain_form ..)

theorem startAlloc_form (th : ThreadRef) (f : Fields) (s : State) : KeepsForm s.mem (startAlloc th f s).mem :=
  .after (enqueueArray_form ..) (.after (putThreadOf_form ..) (putCore_calm ..).form)

theorem execAcsAlloc_form (th : ThreadRef) (f : Fields) (s : State) : StepKeeps s (execAcsAlloc th f s) :=
  .ite (.whenUnit (putThreadOf_form ..)) (issueThen_form _ _ _ _ (fun _ => startAlloc_form ..))

theorem execAcsAllocGrant_form (th : ThreadRef) (f : Fields) (s : State) : StepKeeps s (execAcsAllocGrant th f s) :=
  .ite (issueThen_form _ _ _ _ (fun _ => startAlloc_form ..)) (.whenUnit (.refl _))

theorem execAcsFree_form (th : ThreadRef) (f : Fields) (s : State) : StepKeeps s (execAcsFree th f s) :=
  issueThen_form _ _ _ _ (fun _ => enqueueArray_form ..)

theorem execMxaSync_form (th : ThreadRef) (f : Fields) (s : State) : StepKeeps s (execMxaSync th f s) :=
  issueThen_form _ _ _ _ (fun _ => putThreadOf_form ..)

theorem execMxaSyncWake_form (th : ThreadRef) (s : State) : StepKeeps s (execMxaSyncWake th s) := .whenUnit (.ite (putThreadOf_form ..) (.refl _))

theorem beginFlight_form (c : CoreRef) (fl : ArrayFlight) (mark : Mxa → Mxa) (s : State) : KeepsForm s.mem (beginFlight c fl mark s).mem :=
  (putCore_calm ..).form

theorem trapArray_form (c : CoreRef) (e : ArrayEntry) (a : Nat) (s : State) : KeepsForm s.mem (trapArray c e a s).mem := trapHeld_form ..

theorem checkAcs_form (chk : Chk) (keys : List Nat) (c : CoreRef) (s : State) : KeepsForm s.mem (checkAcs chk keys c s).1.mem := by
  unfold checkAcs
  dsimp only
  split
  · refine .after (uncorrectable_calm ..).form (.foldl (fun _ _ => ?_) _ _)
    split
    · exact .ite (correctable_calm ..).form (.refl _)
    · exact .refl _
  · refine .foldl (fun _ _ => ?_) _ _
    split
    · exact .ite (correctable_calm ..).form (.refl _)
    · exact .refl _

theorem beginFill_form (c : CoreRef) (chk : Chk) (e : ArrayEntry) (d : BitVec 256) (s : State) : KeepsForm s.mem (beginFill c chk e d s).mem := by
  unfold beginFill
  dsimp only
  split
  · exact .refl _
  · split
    next h2 => exact .after (trapArray_form ..) (.of_fst h2 (checkRead_form ..))
    next h2 => exact .after (.ite (.refl _) (.after (coreCount_calm ..).form (beginFlight_form ..))) (.of_fst h2 (checkRead_form ..))

theorem beginRun_form (c : CoreRef) (chk : Chk) (e : ArrayEntry) (d : BitVec 512) (s : State) : KeepsForm s.mem (beginRun c chk e d s).mem := by
  unfold beginRun
  dsimp only
  split
  · exact .refl _
  · split
    next h2 => exact .after (trapArray_form ..) (.after (.ite (beginFlight_form ..) (.refl _)) (.of_fst h2 (checkRead_form ..)))
    next h2 =>
      split
      · exact .of_fst h2 (checkRead_form ..)
      · split
        next h4 =>
          exact .after (trap_form ..) (.after (beginFlight_form ..) (.after (.of_fst h4 (.after (checkAcs_form ..) (.refl _))) (.of_fst h2
              (checkRead_form ..))))
        next h4 =>
          exact .after (coreCount_calm ..).form (.after (coreCount_calm ..).form (.after (beginFlight_form ..) (.after (.of_fst h4 (.after
              (checkAcs_form ..) (.refl _))) (.of_fst h2 (checkRead_form ..)))))

theorem putFlight_form (c : CoreRef) (f : ArrayFlight) (s : State) : KeepsForm s.mem (putFlight c f s).mem := (putCore_calm ..).form

theorem resolveEntries_form (c : CoreRef) (keys : List Nat) (s : State) : KeepsForm s.mem (resolveEntries c keys s).mem := (putCore_calm ..).form

theorem finishRow_form (c : CoreRef) (f : ArrayFlight) (d : BitVec 512) (s : State) : KeepsForm s.mem (finishRow c f d s).mem :=
  .after (coreCount_calm ..).form (.after (coreCount_calm ..).form (putFlight_form ..))

theorem readGroup_form (c : CoreRef) (f : ArrayFlight) (d : BitVec 512) (s : State) : KeepsForm s.mem (readGroup c f d s).mem := by
  unfold readGroup
  dsimp only
  split
  next h1 => exact .after (trapArray_form ..) (.of_fst h1 (checkRead_form ..))
  next h1 =>
    split
    next h2 => exact .after (trap_form ..) (.after (.of_fst h2 (.after (checkAcs_form ..) (.refl _))) (.of_fst h1 (checkRead_form ..)))
    next h2 =>
      exact .after (.ite (finishRow_form ..) (putFlight_form ..)) (.after (coreCount_calm ..).form (.after (resolveEntries_form ..) (.after
          (.of_fst h2 (.after (checkAcs_form ..) (.refl _))) (.of_fst h1 (checkRead_form ..)))))

theorem drainCycle_form (c : CoreRef) (s : State) : KeepsForm s.mem (drainCycle c s).mem := by
  unfold drainCycle
  refine .foldl (fun _ _ => ?_) _ _
  split
  · exact .refl _
  · split
    · exact .ite (readGroup_form ..) (.refl _)
    · exact .refl _

theorem beginDrain_form (c : CoreRef) (chk : Chk) (e : ArrayEntry) (d : BitVec 512) (s : State) : KeepsForm s.mem (beginDrain c chk e d s).mem := by
  unfold beginDrain
  dsimp only
  split
  · exact .refl _
  · split
    next h2 => exact .after (trapArray_form ..) (.of_fst h2 (checkRead_form ..))
    next h2 => exact .after (drainCycle_form ..) (.after (beginFlight_form ..) (.of_fst h2 (checkRead_form ..)))

theorem execFillBegin_form (c : CoreRef) (chk : Chk) (s : State) : StepKeeps s (execFillBegin c chk s) := by
  unfold execFillBegin
  refine .whenUnit (mayTrap_form _ _ _ (fun _ => ?_))
  split
  · split
    · exact beginFill_form ..
    · exact .refl _
  · exact .refl _

theorem execRunBegin_form (c : CoreRef) (chk : Chk) (s : State) : StepKeeps s (execRunBegin c chk s) := by
  unfold execRunBegin
  refine .whenUnit (mayTrap_form _ _ _ (fun _ => ?_))
  split
  · split
    · exact beginRun_form ..
    · exact .refl _
  · exact .refl _

theorem execDrainBegin_form (c : CoreRef) (chk : Chk) (s : State) : StepKeeps s (execDrainBegin c chk s) := by
  unfold execDrainBegin
  refine .whenUnit (mayTrap_form _ _ _ (fun _ => ?_))
  split
  · split
    · exact beginDrain_form ..
    · exact .refl _
  · exact .refl _

theorem landAll_form (chk : Chk) (c : CoreRef) (ws : List (Nat × Nat × List Byte)) (s : State) : KeepsForm s.mem (landAll chk c ws s).mem :=
  .foldl (fun _ _ => landFrom_form ..) _ _

theorem completeArray_form (c : CoreRef) (engine : Nat) (s : State) : KeepsForm s.mem (completeArray c engine s).mem := by
  unfold completeArray
  dsimp only
  split
  · exact .after (landAll_form ..) (putCore_calm ..).form
  · exact .refl _

theorem execFillComplete_form (c : CoreRef) (s : State) : StepKeeps s (execFillComplete c s) := .whenUnit (completeArray_form ..)

theorem execRunComplete_form (c : CoreRef) (s : State) : StepKeeps s (execRunComplete c s) := .whenUnit (completeArray_form ..)

theorem execDrainComplete_form (c : CoreRef) (s : State) : StepKeeps s (execDrainComplete c s) := .whenUnit (completeArray_form ..)

theorem execAcsRowsRelease_form (c : CoreRef) (i : Nat) (s : State) : StepKeeps s (execAcsRowsRelease c i s) := by
  unfold execAcsRowsRelease
  dsimp only
  refine .whenUnit ?_
  split
  · exact .ite (.refl _) (putCore_calm ..).form
  · exact .refl _

/-! ### Routing -/

theorem putLink_form (s : State) (l : Nat) (x : Link) : KeepsForm s.mem (putLink s l x).mem := .refl _

theorem injectData_form (s : State) (die : Nat) (owner : Option Nat) (ps : List DataPkt) : KeepsForm s.mem (injectData s die owner ps).mem :=
  putRouter_form ..

theorem sendFinal_form (die dest xfer exp count : Nat) (flag : Option (Nat × Nat)) (s : State) :
    KeepsForm s.mem (sendFinal die dest xfer exp count flag s).mem :=
  (injectCtrl_calm ..).form

/-! ### Dma -/

theorem startPush_form (th : ThreadRef) (f : Fields) (chk : Chk) (s : State) : KeepsForm s.mem (startPush th f chk s).mem :=
  copyDescriptor_form _ _ _ _ _ _ (fun _ _ => (putChannel_calm ..).form)

theorem execDmaPush_form (th : ThreadRef) (f : Fields) (chk : Chk) (s : State) : StepKeeps s (execDmaPush th f chk s) :=
  issueThen_form _ _ _ _ (fun _ => startPush_form ..)

theorem startStat_form (th : ThreadRef) (f : Fields) (s : State) : KeepsForm s.mem (startStat th f s).mem :=
  .after (writeResult_form ..) (putChannel_calm ..).form

theorem execDmaStat_form (th : ThreadRef) (f : Fields) (s : State) : StepKeeps s (execDmaStat th f s) :=
  issueThen_form _ _ _ _ (fun _ => startStat_form ..)

theorem pumpReads_form (s : State) : KeepsForm s.mem (pumpReads s).mem := by
  unfold pumpReads
  refine .ite (.foldl (fun s x => ?_) _ _) (.refl _)
  exact .after (emit_calm ..).form (.refl _)

theorem readHost_form (reader : HostReader) (bus dst n : Nat) (s : State) : KeepsForm s.mem (readHost reader bus dst n s).mem := by
  unfold readHost
  refine .after (pumpReads_form ..) (.foldl (fun s x => ?_) _ _)
  exact .refl _

theorem sendHostReads_form (id : Nat) (d : BitVec 512) (s : State) : KeepsForm s.mem (sendHostReads id d s).mem :=
  .foldl (fun _ _ => .ite (readHost_form ..) (.refl _)) _ _

theorem poisonFault_form (c : CoreRef) (addr : Nat) (s : State) : KeepsForm s.mem (poisonFault c addr s).mem := (stepFault_calm ..).form

theorem beginMove_form (c : CoreRef) (ch : Nat) (chk : Chk) (e : DmaEntry) (s : State) : KeepsForm s.mem (beginMove c ch chk e s).mem := by
  unfold beginMove
  dsimp only
  split
  · exact .after (sendHostReads_form ..) (.after (putChannel_calm ..).form (takeId_form ..))
  · split
    next h2 =>
      exact .after (.ite (.after (injectData_form ..) (putChannel_calm ..).form) (.after (dmaMove_calm ..).form (putChannel_calm ..).form)) (.after
          (.of_fst h2 (.after (checkRead_form ..) (.refl _))) (takeId_form ..))
    next h2 =>
      exact .after (.ite (.after (injectData_form ..) (putChannel_calm ..).form) (.ite (.after (dmaMove_calm ..).form (putChannel_calm ..).form)
          (putChannel_calm ..).form)) (.after (.of_fst h2 (.after (checkRead_form ..) (.refl _))) (takeId_form ..))

theorem execDmaDescriptorBegin_form (c : CoreRef) (ch : Nat) (chk : Chk) (s : State) : StepKeeps s (execDmaDescriptorBegin c ch chk s) := by
  unfold execDmaDescriptorBegin
  dsimp only
  refine .whenUnit ?_
  split
  · exact .ite (.refl _) (.after (.ite (.refl _) (.ite (.after (settleLost_calm ..).form (.after (beginMove_form ..) (putChannel_calm ..).form))
      (.after (putChannel_calm ..).form (takeId_form ..)))) (.ite (readPiste_form ..) (.refl _)))
  · exact .refl _

theorem settleHostReads_form (id : Nat) (failed : Bool) (s : State) : KeepsForm s.mem (settleHostReads id failed s).mem := by
  unfold settleHostReads
  dsimp only
  split
  · exact .refl _
  · exact .ite (.after (settleLost_calm ..).form (.after (dmaMoveBytes_form ..) (.after (putChannel_calm ..).form (.after (checkRead_form ..)
      (dropReads_calm ..).form)))) (.refl _)

theorem finishPoison_form (c : CoreRef) (ch : Nat) (e : DmaExec) (s : State) : KeepsForm s.mem (finishPoison c ch e s).mem :=
  .after (poisonFault_form ..) (.after (.ite (sendFinal_form ..) (.refl _)) (finishDma_calm ..).form)

theorem moveAndFinish_form (c : CoreRef) (ch : Nat) (e : DmaExec) (s : State) : KeepsForm s.mem (moveAndFinish c ch e s).mem := by
  unfold moveAndFinish
  dsimp only
  split
  next h1 => exact .after (.ite (finishPoison_form ..) (.refl _)) (.after (dmaMove_calm ..).form (.of_fst h1 (checkRead_form ..)))
  next h1 => exact .after (.ite (finishDma_calm ..).form (.refl _)) (.after (dmaMove_calm ..).form (.of_fst h1 (checkRead_form ..)))

theorem completeDma_form (c : CoreRef) (ch : Nat) (e : DmaExec) (s : State) : KeepsForm s.mem (completeDma c ch e s).mem :=
  .ite (closeDma_calm ..).form (.ite (finishPoison_form ..) (.ite (finishDma_calm ..).form (.ite (.after (sendFinal_form ..) (finishDma_calm ..).form)
      (.ite (moveAndFinish_form ..) (finishDma_calm ..).form))))

theorem execDmaDescriptorComplete_form (c : CoreRef) (ch : Nat) (s : State) : StepKeeps s (execDmaDescriptorComplete c ch s) := by
  unfold execDmaDescriptorComplete
  refine .whenUnit ?_
  split
  · exact .ite (.after (settleLost_calm ..).form (completeDma_form ..)) (.refl _)
  · exact .refl _

/-! ### Glide -/

theorem sendUp_form (h : Nat) (o : GlideOp) (s : State) : KeepsForm s.mem (sendUp h o s).mem :=
  .ite (.foldl (fun _ _ => (injectCtrl_calm ..).form) _ _) (injectCtrl_calm ..).form

theorem settleGlide_form (h : Nat) (s : State) : KeepsForm s.mem (settleGlide h s).mem := by
  unfold settleGlide
  dsimp only
  split
  · exact .refl _
  · exact .ite (.refl _) (.after (.ite (releaseGlide_calm ..).form (.after (sendUp_form ..) (.refl _))) (voteMaster_calm ..).form)

theorem glideArrive_form (h : Nat) (src : GlideSrc) (x : GlideIn) (s : State) : KeepsForm s.mem (glideArrive h src x s).mem :=
  .after (settleGlide_form ..) (.refl _)

theorem collCount_form (s : State) (die i n : Nat) : KeepsForm s.mem (collCount s die i n).mem := putRouter_form ..

theorem glidePart_form (h ep part : Nat) (v : BitVec 128) (s : State) : KeepsForm s.mem (glidePart h ep part v s).1.mem := by
  unfold glidePart
  dsimp only
  split
  · exact .refl _
  · exact .refl _

theorem glidePacket_form (die : Nat) (p : CtrlPkt) (s : State) : KeepsForm s.mem (glidePacket die p s).mem := by
  unfold glidePacket
  dsimp only
  split
  · exact collCount_form ..
  · split
    · exact .ite (releaseGlide_calm ..).form (.refl _)
    · split
      · split
        next h4 => exact .after (glideArrive_form ..) (.of_fst h4 (glidePart_form ..))
        next h4 => exact .of_fst h4 (glidePart_form ..)
      · exact glideArrive_form ..

theorem execGlideBarrier_form (die : Nat) (s : State) : StepKeeps s (execGlideBarrier die s) := by
  unfold execGlideBarrier
  refine .whenUnit ?_
  split
  next h7 => exact .after (glidePacket_form ..) (takeCtrl_form h7)
  · exact .refl _

theorem execGlideSred_form (die : Nat) (s : State) : StepKeeps s (execGlideSred die s) := by
  unfold execGlideSred
  refine .whenUnit ?_
  split
  next h7 => exact .after (glidePacket_form ..) (takeCtrl_form h7)
  · exact .refl _

/-! ### Collective -/

theorem repairDest_form (c : CoreRef) (a : Nat) (s : State) : KeepsForm s.mem (repairDest c a s).mem := by
  unfold repairDest
  split
  · exact (repairWindow_calm ..).form
  · exact .refl _

theorem setEntry_form (c : CoreRef) (seq : Nat) (f : ColEntry → ColEntry) (s : State) : KeepsForm s.mem (setEntry c seq f s).mem :=
  (putCore_calm ..).form

theorem dropEntry_form (c : CoreRef) (seq : Nat) (s : State) : KeepsForm s.mem (dropEntry c seq s).mem := (putCore_calm ..).form

theorem endEntry_form (c : CoreRef) (seq status : Nat) (s : State) : KeepsForm s.mem (endEntry c seq status s).mem := setEntry_form ..

theorem sendColl_form (c : CoreRef) (h tag kind count value : Nat) (m : BitVec 32) (s : State) :
    KeepsForm s.mem (sendColl c h tag kind count value m s).mem :=
  .after (injectCtrl_calm ..).form (repairEpoch_calm ..).form

theorem sendResult_form (c : CoreRef) (e : ColEntry) (d : BitVec 512) (dst : Nat) (bs : List Byte) (s : State) :
    KeepsForm s.mem (sendResult c e d dst bs s).mem :=
  .ite (.after (.foldl (fun _ _ => sendColl_form ..) _ _) (.after (.ite (injectData_form ..) (.refl _)) (.after
      (.foldl (fun _ _ => repairDest_form ..) _ _) (routerCount_calm ..).form))) (.foldl (fun _ _ => .after (sendColl_form ..) (.after
      (injectData_form ..) (.foldl (fun _ _ => repairDest_form ..) _ _))) _ _)

theorem writeOwn_form (chk : Chk) (c : CoreRef) (e : ColEntry) (dst : Nat) (bs : List Byte) (s : State) :
    KeepsForm s.mem (writeOwn chk c e dst bs s).mem :=
  .after (settleLost_calm ..).form (.foldl (fun _ _ => .after (localWrite_calm ..).form (repairDest_form ..)) _ _)

theorem colTrap_form (c : CoreRef) (e : ColEntry) (a : Nat) (s : State) : KeepsForm s.mem (colTrap c e a s).mem := trapHeld_form ..

theorem sendChain_form (c : CoreRef) (e : ColEntry) (d : BitVec 512) (q : Nat) (xs : List ChainVal) (s : State) :
    KeepsForm s.mem (sendChain c e d q xs s).mem := by
  unfold sendChain
  dsimp only
  split
  · exact .refl _
  · exact .after (injectData_form ..) (repairEpoch_calm ..).form

theorem sendOwn_form (c : CoreRef) (e : ColEntry) (d : BitVec 512) (q a n : Nat) (s : State) : KeepsForm s.mem (sendOwn c e d q a n s).mem :=
  .foldl (fun _ _ => sendChain_form ..) _ _

theorem readEntries_form (chk : Chk) (c : CoreRef) (e : ColEntry) (keys : List Nat) (k : State → State) (s : State)
    (hk : ∀ (a : State), KeepsForm a.mem (k a).mem) :
    KeepsForm s.mem (readEntries chk c e keys k s).mem := by
  unfold readEntries
  split
  next h1 => exact .after (trap_form ..) (.of_fst h1 (checkAcs_form ..))
  next h1 => exact .after (hk _) (.after (resolveEntries_form ..) (.of_fst h1 (checkAcs_form ..)))

theorem pumpChain_form (c : CoreRef) (s : State) : KeepsForm s.mem (pumpChain c s).mem := by
  unfold pumpChain
  refine .foldl (fun _ _ => ?_) _ _
  split
  · exact .ite (readEntries_form _ _ _ _ _ _ (fun _ => .after (setEntry_form ..) (sendOwn_form ..))) (.refl _)
  · exact .refl _

theorem sendReduce_form (c : CoreRef) (e : ColEntry) (d : BitVec 512) (m : BitVec 32) (chunk : Nat) (elems : List Byte) (s : State) :
    KeepsForm s.mem (sendReduce c e d m chunk elems s).mem :=
  .after (injectData_form ..) (repairDest_form ..)

theorem sendChunks_form (c : CoreRef) (e : ColEntry) (d : BitVec 512) (m : BitVec 32) (a n : Nat) (s : State) :
    KeepsForm s.mem (sendChunks c e d m a n s).mem :=
  .foldl (fun _ _ => .after (sendReduce_form ..) (collCount_form ..)) _ _

theorem startData_form (c : CoreRef) (e : ColEntry) (d : BitVec 512) (s : State) : KeepsForm s.mem (startData c e d s).mem := by
  unfold startData
  dsimp only
  split
  · exact .refl _
  · split
    next h2 => exact .after (colTrap_form ..) (.of_fst h2 (checkRead_form ..))
    next h2 =>
      split
      · exact .of_fst h2 (checkRead_form ..)
      · split
        · exact .after (.getD fun _ => sendChunks_form ..) (.of_fst h2 (checkRead_form ..))
        · exact .after (.ite (sendOwn_form ..) (.refl _)) (.of_fst h2 (checkRead_form ..))
        · exact .after (.foldl (fun _ _ => .getD fun _ => sendChunks_form ..) _ _) (.of_fst h2 (checkRead_form ..))
        · exact .after (sendOwn_form ..) (.of_fst h2 (checkRead_form ..))
        · exact .after (sendResult_form ..) (.of_fst h2 (checkRead_form ..))
        · exact .after (.ite (sendResult_form ..) (.refl _)) (.of_fst h2 (checkRead_form ..))
        · exact .after (.getD fun _ => sendReduce_form ..) (.of_fst h2 (checkRead_form ..))
        · exact .after (pumpChain_form ..) (.of_fst h2 (checkRead_form ..))

theorem pumpGlide_form (c : CoreRef) (h : Nat) (s : State) : KeepsForm s.mem (pumpGlide c h s).mem := by
  unfold pumpGlide
  dsimp only
  split
  · exact .refl _
  · exact .ite (.after (glideArrive_form ..) (.after (coreCount_calm ..).form (setEntry_form ..))) (.refl _)

theorem takeSignature_form (c : CoreRef) (e : ColEntry) (value : Nat) (s : State) : KeepsForm s.mem (takeSignature c e value s).mem := by
  unfold takeSignature
  dsimp only
  split
  · exact .after (pumpGlide_form ..) (.after (setEntry_form ..) (.ite (collCount_form ..) (.refl _)))
  · exact .refl _

theorem pushEntry_form (th : ThreadRef) (kind : ColKind) (h : Nat) (f : Fields) (phase : ColPhase) (s : State) :
    KeepsForm s.mem (pushEntry th kind h f phase s).1.mem :=
  .after (putCore_calm ..).form (.refl _)

theorem startCol_form (th : ThreadRef) (f : Fields) (chk : Chk) (s : State) : KeepsForm s.mem (startCol th f chk s).mem := by
  unfold startCol
  extract_lets c off h
  refine copyDescriptor_form _ _ _ _ _ _ fun v u => ?_
  extract_lets d failed one
  refine .ite (trapIssued_form ..) ?_
  split
  next u₁ e hp =>
  have hpushed : KeepsForm u.mem u₁.mem := .of_fst hp (pushEntry_form ..)
  extract_lets k u₂ _ u₃
  have hput : KeepsForm u₁.mem u₂.mem := (putCore_calm ..).form
  have htags : KeepsForm u₂.mem u₃.mem := .ite (.refl _) (.refl _)
  have hentered := htags.after (hput.after hpushed)
  clear_value u₃
  refine .ite hentered ?_
  split
  · exact hentered
  · extract_lets u₄ k'
    have hsent : KeepsForm u₃.mem u₄.mem := .getD fun _ => sendColl_form ..
    clear_value u₄
    split
    · exact .after (takeSignature_form ..) (.after (putCore_calm ..).form (hsent.after hentered))
    · exact hsent.after hentered

theorem execColStart_form (th : ThreadRef) (f : Fields) (chk : Chk) (s : State) : StepKeeps s (execColStart th f chk s) :=
  issueThen_form _ _ _ _ (fun _ => startCol_form ..)

theorem sleepOn_form (th : ThreadRef) (e : ColEntry) (ds : List (BitVec 5)) (s : State) : KeepsForm s.mem (sleepOn th e ds s).mem :=
  putThreadOf_form ..

theorem startBar_form (th : ThreadRef) (f : Fields) (s : State) : KeepsForm s.mem (startBar th f s).mem :=
  .ite (trapIssued_form ..) (.ite (writeResult_form ..) (.after (pumpGlide_form ..) (.after (sleepOn_form ..) (.after
      (putCore_calm ..).form (.refl _)))))

theorem execBar_form (th : ThreadRef) (f : Fields) (s : State) : StepKeeps s (execBar th f s) := issueThen_form _ _ _ _ (fun _ => startBar_form ..)

theorem startSred_form (th : ThreadRef) (f : Fields) (s : State) : KeepsForm s.mem (startSred th f s).mem :=
  .ite (trapIssued_form ..) (.ite (trapIssued_form ..) (.ite (.after (.ite (writeResult_form ..) (.refl _)) (writeResult_form ..)) (.after
      (pumpGlide_form ..) (.after (sleepOn_form ..) (.after (putCore_calm ..).form (.refl _))))))

theorem execSred_form (th : ThreadRef) (f : Fields) (s : State) : StepKeeps s (execSred th f s) := issueThen_form _ _ _ _ (fun _ => startSred_form ..)

theorem forgetWaited_form (c : CoreRef) (off : Nat) (s : State) : KeepsForm s.mem (forgetWaited c off s).mem := (putCore_calm ..).form

theorem startWait_form (th : ThreadRef) (f : Fields) (s : State) : KeepsForm s.mem (startWait th f s).mem := by
  unfold startWait
  dsimp only
  split
  · exact .after (forgetWaited_form ..) (writeResult_form ..)
  · exact putThreadOf_form ..

theorem execColWait_form (th : ThreadRef) (f : Fields) (s : State) : StepKeeps s (execColWait th f s) :=
  issueThen_form _ _ _ _ (fun _ => startWait_form ..)

theorem wakeWaiters_form (c : CoreRef) (off : Nat) (s : State) : KeepsForm s.mem (wakeWaiters c off s).mem := by
  unfold wakeWaiters
  dsimp only
  split
  · exact .refl _
  · exact .ite (.refl _) (.after (forgetWaited_form ..) (.foldl (fun _ _ => (putCore_calm ..).form) _ _))

theorem wakeGlide_form (c : CoreRef) (e : ColEntry) (status : Nat) (payload : BitVec 128) (s : State) :
    KeepsForm s.mem (wakeGlide c e status payload s).mem :=
  .after (dropEntry_form ..) (putCore_calm ..).form

theorem releaseReaches_form (chk : Chk) (c : CoreRef) (r : Release) (s : State) : KeepsForm s.mem (releaseReaches chk c r s).mem := by
  unfold releaseReaches
  dsimp only
  split
  · exact .refl _
  · split
    · exact .after (pumpGlide_form ..) (.ite (endEntry_form ..) (.ite (endEntry_form ..) (.after (startData_form ..) (setEntry_form ..))))
    · exact .after (pumpGlide_form ..) (wakeGlide_form ..)

theorem execGlideReleaseWake_form (c : CoreRef) (i : Nat) (chk : Chk) (s : State) : StepKeeps s (execGlideReleaseWake c i chk s) := by
  unfold execGlideReleaseWake
  dsimp only
  refine .whenUnit (mayTrap_form _ _ _ (fun _ => ?_))
  split
  · exact .ite (.after (releaseReaches_form ..) (.refl _)) (.refl _)
  · exact .refl _

theorem undefChain_form (c : CoreRef) (e : ColEntry) (status : Nat) (s : State) : KeepsForm s.mem (undefChain c e status s).mem := by
  unfold undefChain
  dsimp only
  split
  · exact .ite (putCore_calm ..).form (.refl _)
  · exact .refl _

theorem finishCol_form (c : CoreRef) (e : ColEntry) (off status : Nat) (record : List Byte) (s : State) :
    KeepsForm s.mem (finishCol c e off status record s).mem :=
  .after (settleLost_calm ..).form (.after (pumpGlide_form ..) (.after (.ite (.ite (gateDecided_form ..) (gateFaulted_calm ..).form) (.refl _))
      (.after (wakeWaiters_form ..) (.after (dropEntry_form ..) (.after (putCore_calm ..).form (.after (undefChain_form ..)
      (writeColStatus_calm ..).form))))))

theorem completeCol_form (c : CoreRef) (e : ColEntry) (d : BitVec 512) (off : Nat) (chk : Chk) (s : State) :
    KeepsForm s.mem (completeCol c e d off chk s).mem := by
  unfold completeCol
  dsimp only
  split
  next h1 => exact .after (colTrap_form ..) (.of_fst h1 (checkRead_form ..))
  next h1 =>
    exact .after (.ite (.after (finishCol_form ..) (.after (writeOwn_form ..) (collCount_form ..))) (finishCol_form ..)) (.of_fst h1
        (checkRead_form ..))

theorem execCollectiveComplete_form (c : CoreRef) (i : Nat) (chk : Chk) (s : State) : StepKeeps s (execCollectiveComplete c i chk s) := by
  unfold execCollectiveComplete
  refine .whenUnit (mayTrap_form _ _ _ (fun _ => ?_))
  split
  · exact .refl _
  · split
    · exact finishCol_form ..
    · exact .ite (completeCol_form ..) (.refl _)
    · exact .refl _

/-! ### Access -/

theorem signal_form (v : Nat) (s : State) : KeepsForm s.mem (signal v s).mem := .ite (msix_calm ..).form (.refl _)

theorem hrcTouch_form (s : State) (die : Nat) (l : HrcLine) : KeepsForm s.mem (hrcTouch s die l).mem := putHrc_form ..

theorem hrcFill_form (s : State) (die line : Nat) (data : List Byte) : KeepsForm s.mem (hrcFill s die line data).mem := putHrc_form ..

theorem hrcDrop_form (s : State) (die lo hi : Nat) : KeepsForm s.mem (hrcDrop s die lo hi).mem := putHrc_form ..

theorem fixRequest_form (c : CoreRef) (r : MemReq) (s : State) : KeepsForm s.mem (fixRequest c r s).1.mem := by
  unfold fixRequest
  split
  · exact .refl _
  · extract_lets r
    split
    · extract_lets t
      change KeepsForm s.mem t.mem
      unfold t
      split
      · exact (voteCommit_calm ..).form
      · exact .refl _
    next t _ _ _ _ _ _ =>
      have hvoted : KeepsForm s.mem t.mem := by
        unfold t
        split
        · exact (voteWindow_calm ..).form
        · exact .refl _
      split
      next h => exact .after (settleLost_calm ..).form (.of_fst h (.after (atomicAct_calm ..).form hvoted))
      next h => exact .of_fst h (.after (atomicAct_calm ..).form hvoted)

theorem fixGranule_form (th : ThreadRef) (a : Nat) (s : State) : KeepsForm s.mem (fixGranule th a s).mem := by
  unfold fixGranule
  dsimp only
  refine .foldl (fun _ _ => ?_) _ _
  split
  · exact .ite (.after (putCore_calm ..).form (fixRequest_form ..)) (.refl _)
  · exact .refl _

theorem addRequest_form (th : ThreadRef) (d : BitVec 5) (addr : Nat) (kind : ReqKind) (s : State) :
    KeepsForm s.mem (addRequest th d addr kind s).mem := by
  unfold addRequest
  exact (putCore_calm ..).form.after (.after (.refl _) (putThreadOf_form s th (markBusy (threadOf s th) d)))

theorem startLoad_form (uncached : Bool) (th : ThreadRef) (f : Fields) (s : State) : KeepsForm s.mem (startLoad uncached th f s).mem :=
  .ite (trapIssued_form ..) (.ite (trapIssued_form ..) (addRequest_form ..))

theorem startStore_form (th : ThreadRef) (f : Fields) (chk : Chk) (s : State) : KeepsForm s.mem (startStore th f chk s).mem := by
  unfold startStore
  dsimp only
  split
  · exact trapIssued_form ..
  · split
    · exact trapIssued_form ..
    · split
      · exact .ite (signal_form ..) (.refl _)
      · exact .ite (.after (landFrom_form ..) (fixGranule_form ..)) (takeId_form ..)
      · exact .after (landFrom_form ..) (fixGranule_form ..)

theorem startAtomic_form (op : AtomOp) (th : ThreadRef) (f : Fields) (s : State) : KeepsForm s.mem (startAtomic op th f s).mem :=
  .ite (trapIssued_form ..) (.ite (trapIssued_form ..) (addRequest_form ..))

theorem deliver_form (c : CoreRef) (i : Nat) (r : MemReq) (v : Word) (s : State) : KeepsForm s.mem (deliver c i r v s).mem := (putCore_calm ..).form

theorem discardLine_form (die line : Nat) (s : State) : KeepsForm s.mem (discardLine die line s).mem :=
  .after (putHrc_form ..) (correctable_calm ..).form

theorem lineCode_form (die lo n : Nat) (chk : Chk) (s : State) : KeepsForm s.mem (lineCode die lo n chk s).1.mem :=
  .foldl (fun _ _ => (dieCount_calm ..).form) _ _

theorem serveLine_form (die : Nat) (l : HrcLine) (lo n : Nat) (chk : Chk) (serve : State → State) (s : State)
    (hserve : ∀ (a : State), KeepsForm a.mem (serve a).mem) :
    KeepsForm s.mem (serveLine die l lo n chk serve s).mem := by
  unfold serveLine
  split
  next h1 => exact .after (hserve _) (.after (hrcTouch_form ..) (.of_fst h1 (lineCode_form ..)))
  next h1 => exact .after (discardLine_form ..) (.after (hserve _) (.of_fst h1 (lineCode_form ..)))
  next h1 => exact .after (discardLine_form ..) (.of_fst h1 (lineCode_form ..))

theorem completeRequest_form (c : CoreRef) (i : Nat) (r : MemReq) (chk : Chk) (s : State) : KeepsForm s.mem (completeRequest c i r chk s).mem := by
  have hfinish (u : State) : KeepsForm u.mem (deliver c i (fixRequest c r u).2 ((fixRequest c r u).2.value.getD 0) (fixRequest c r u).1).mem :=
    .after (deliver_form ..) (fixRequest_form ..)
  unfold completeRequest
  dsimp only
  split
  · exact serveLine_form _ _ _ _ _ _ _ hfinish
  · split
    next h => exact .after (trapHeld_form ..) (.of_fst h (checkRead_form ..))
    next h _ => exact .after (trapHeld_form ..) (.after (uncorrectableAt_calm ..).form (.of_fst h (checkRead_form ..)))
    next h _ => exact .after (hfinish _) (.of_fst h (checkRead_form ..))

theorem putIcache_form (c : CoreRef) (base : Nat) (bs : List Byte) (s : State) : KeepsForm s.mem (putIcache c base bs s).mem := (putCore_calm ..).form

/-! ### Sync -/

theorem execFenceLocal_form (th : ThreadRef) (f : Fields) (s : State) : StepKeeps s (execFenceLocal th f s) :=
  issueThen_form _ _ _ _ (fun _ => .ite (.refl _) (putThreadOf_form ..))

theorem execFenceLocalWake_form (th : ThreadRef) (s : State) : StepKeeps s (execFenceLocalWake th s) :=
  .whenUnit (.ite (putThreadOf_form ..) (.refl _))

theorem testFlag_form (c : CoreRef) (off : Nat) (val : Word) (chk : Chk) (s : State) : KeepsForm s.mem (testFlag c off val chk s).1.mem := by
  unfold testFlag
  dsimp only
  split
  next h1 => exact .of_fst h1 (checkRead_form ..)
  next h1 => exact .of_fst h1 (checkRead_form ..)

theorem clearFlag_form (th : ThreadRef) (s : State) : KeepsForm s.mem (clearFlag th s).mem := (putCore_calm ..).form

theorem startWaitflag_form (th : ThreadRef) (f : Fields) (chk : Chk) (s : State) : KeepsForm s.mem (startWaitflag th f chk s).mem := by
  unfold startWaitflag
  dsimp only
  split
  · exact trapIssued_form ..
  · split
    · exact trapIssued_form ..
    · split
      next h3 => exact .after (trapIssued_form ..) (.of_fst h3 (testFlag_form ..))
      next h3 => exact .after (writeResult_form ..) (.of_fst h3 (testFlag_form ..))
      next h3 => exact .after (.ite (writeResult_form ..) (.after (clearFlag_form ..) (putThreadOf_form ..))) (.of_fst h3 (testFlag_form ..))

theorem execWaitflag_form (th : ThreadRef) (f : Fields) (chk : Chk) (s : State) : StepKeeps s (execWaitflag th f chk s) :=
  issueThen_form _ _ _ _ (fun _ => startWaitflag_form ..)

theorem wakeWith_form (th : ThreadRef) (d : BitVec 5) (v : Word) (s : State) : KeepsForm s.mem (wakeWith th d v s).mem :=
  .after (clearFlag_form ..) (putThreadOf_form ..)

theorem retestFlag_form (th : ThreadRef) (chk : Chk) (s : State) : KeepsForm s.mem (retestFlag th chk s).mem := by
  unfold retestFlag
  dsimp only
  split
  · split
    next h2 => exact .after (trap_form ..) (.after (putThreadOf_form ..) (.of_fst h2 (testFlag_form ..)))
    next h2 => exact .after (.ite (wakeWith_form ..) (clearFlag_form ..)) (.of_fst h2 (testFlag_form ..))
  · exact .refl _

theorem execWaitflagRetest_form (th : ThreadRef) (chk : Chk) (s : State) : StepKeeps s (execWaitflagRetest th chk s) :=
  .whenUnit (mayTrap_form _ _ _ (fun _ => retestFlag_form ..))

theorem endWaitflag_form (th : ThreadRef) (d : BitVec 5) (s : State) : KeepsForm s.mem (endWaitflag th d s).mem := wakeWith_form ..

theorem execWaitflagTimeout_form (th : ThreadRef) (s : State) : StepKeeps s (execWaitflagTimeout th s) := by
  unfold execWaitflagTimeout
  refine .whenUnit ?_
  split
  · exact .ite (endWaitflag_form ..) (.refl _)
  · exact .refl _

theorem lateWaitflag_form (th : ThreadRef) (s : State) : KeepsForm s.mem (lateWaitflag th s).mem := by
  unfold lateWaitflag
  split
  · exact .ite (endWaitflag_form ..) (.refl _)
  · exact .refl _

theorem execKsel_form (th : ThreadRef) (f : Fields) (s : State) : StepKeeps s (execKsel th f s) :=
  issueThen_form _ _ _ _ (fun _ => (putCore_calm ..).form)

theorem execSetep_form (th : ThreadRef) (f : Fields) (s : State) : StepKeeps s (execSetep th f s) :=
  issueThen_form _ _ _ _ (fun _ => putThreadOf_form ..)

theorem execAadd_form (th : ThreadRef) (f : Fields) (s : State) : StepKeeps s (execAadd th f s) :=
  issueThen_form _ _ _ _ (fun _ => startAtomic_form ..)

theorem execAmax_form (th : ThreadRef) (f : Fields) (s : State) : StepKeeps s (execAmax th f s) :=
  issueThen_form _ _ _ _ (fun _ => startAtomic_form ..)

theorem execAmin_form (th : ThreadRef) (f : Fields) (s : State) : StepKeeps s (execAmin th f s) :=
  issueThen_form _ _ _ _ (fun _ => startAtomic_form ..)

theorem execAxchg_form (th : ThreadRef) (f : Fields) (s : State) : StepKeeps s (execAxchg th f s) :=
  issueThen_form _ _ _ _ (fun _ => startAtomic_form ..)

theorem execAcas_form (th : ThreadRef) (f : Fields) (s : State) : StepKeeps s (execAcas th f s) :=
  issueThen_form _ _ _ _ (fun _ => startAtomic_form ..)

/-! ### VectorUnit -/

theorem startVector_form (op : VecOp) (th : ThreadRef) (f : Fields) (s : State) : KeepsForm s.mem (startVector op th f s).mem := by
  unfold startVector
  dsimp only
  split
  · exact trapIssued_form ..
  · split
    · exact trapIssued_form ..
    · split
      · exact trapIssued_form ..
      · exact (putCore_calm ..).form

theorem execVadd_form (th : ThreadRef) (f : Fields) (s : State) : StepKeeps s (execVadd th f s) :=
  issueThen_form _ _ _ _ (fun _ => startVector_form ..)

theorem execVsub_form (th : ThreadRef) (f : Fields) (s : State) : StepKeeps s (execVsub th f s) :=
  issueThen_form _ _ _ _ (fun _ => startVector_form ..)

theorem execVmul_form (th : ThreadRef) (f : Fields) (s : State) : StepKeeps s (execVmul th f s) :=
  issueThen_form _ _ _ _ (fun _ => startVector_form ..)

theorem execVfma_form (th : ThreadRef) (f : Fields) (s : State) : StepKeeps s (execVfma th f s) :=
  issueThen_form _ _ _ _ (fun _ => startVector_form ..)

theorem execVmax_form (th : ThreadRef) (f : Fields) (s : State) : StepKeeps s (execVmax th f s) :=
  issueThen_form _ _ _ _ (fun _ => startVector_form ..)

theorem execVmin_form (th : ThreadRef) (f : Fields) (s : State) : StepKeeps s (execVmin th f s) :=
  issueThen_form _ _ _ _ (fun _ => startVector_form ..)

theorem execVabs_form (th : ThreadRef) (f : Fields) (s : State) : StepKeeps s (execVabs th f s) :=
  issueThen_form _ _ _ _ (fun _ => startVector_form ..)

theorem execVneg_form (th : ThreadRef) (f : Fields) (s : State) : StepKeeps s (execVneg th f s) :=
  issueThen_form _ _ _ _ (fun _ => startVector_form ..)

theorem execVcvt_form (th : ThreadRef) (f : Fields) (s : State) : StepKeeps s (execVcvt th f s) :=
  issueThen_form _ _ _ _ (fun _ => startVector_form ..)

theorem execVexp_form (th : ThreadRef) (f : Fields) (s : State) : StepKeeps s (execVexp th f s) :=
  issueThen_form _ _ _ _ (fun _ => startVector_form ..)

theorem execVlog_form (th : ThreadRef) (f : Fields) (s : State) : StepKeeps s (execVlog th f s) :=
  issueThen_form _ _ _ _ (fun _ => startVector_form ..)

theorem execVrcp_form (th : ThreadRef) (f : Fields) (s : State) : StepKeeps s (execVrcp th f s) :=
  issueThen_form _ _ _ _ (fun _ => startVector_form ..)

theorem execVrsqrt_form (th : ThreadRef) (f : Fields) (s : State) : StepKeeps s (execVrsqrt th f s) :=
  issueThen_form _ _ _ _ (fun _ => startVector_form ..)

theorem execVtanh_form (th : ThreadRef) (f : Fields) (s : State) : StepKeeps s (execVtanh th f s) :=
  issueThen_form _ _ _ _ (fun _ => startVector_form ..)

theorem execVsigmoid_form (th : ThreadRef) (f : Fields) (s : State) : StepKeeps s (execVsigmoid th f s) :=
  issueThen_form _ _ _ _ (fun _ => startVector_form ..)

theorem putVecFlight_form (c : CoreRef) (f : VecFlight) (s : State) : KeepsForm s.mem (putVecFlight c f s).mem := (putCore_calm ..).form

theorem readVecGroup_form (c : CoreRef) (f : VecFlight) (s : State) : KeepsForm s.mem (readVecGroup c f s).mem := by
  unfold readVecGroup
  dsimp only
  split
  next h1 => exact .after (trapHeld_form ..) (.of_fst h1 (checkRead_form ..))
  next h1 => exact .after (coreCount_calm ..).form (.after (coreCount_calm ..).form (.after (putVecFlight_form ..) (.of_fst h1 (checkRead_form ..))))

theorem vectorCycle_form (c : CoreRef) (s : State) : KeepsForm s.mem (vectorCycle c s).mem := by
  unfold vectorCycle
  refine .foldl (fun _ _ => ?_) _ _
  split
  · exact .refl _
  · exact .ite (readVecGroup_form ..) (.refl _)

theorem beginVector_form (c : CoreRef) (chk : Chk) (s : State) : KeepsForm s.mem (beginVector c chk s).mem := by
  unfold beginVector
  dsimp only
  split
  · exact .refl _
  · split
    · exact .refl _
    · exact .ite (putCore_calm ..).form (.after (vectorCycle_form ..) (putCore_calm ..).form)

theorem execVectorBegin_form (c : CoreRef) (chk : Chk) (s : State) : StepKeeps s (execVectorBegin c chk s) :=
  .whenUnit (mayTrap_form _ _ _ (fun _ => beginVector_form ..))

theorem execVectorComplete_form (c : CoreRef) (s : State) : StepKeeps s (execVectorComplete c s) := by
  unfold execVectorComplete
  dsimp only
  refine .whenUnit ?_
  split
  · exact .ite (.after (landAll_form ..) (putCore_calm ..).form) (.refl _)
  · exact .refl _

theorem landFlights_form (c : CoreRef) (s : State) : KeepsForm s.mem (landFlights c s).mem :=
  .ite (.refl _) (.after (.foldl (fun _ _ => landAll_form ..) _ _) (putCore_calm ..).form)

theorem unitCycle_form (c : CoreRef) (s : State) : KeepsForm s.mem (unitCycle c s).mem :=
  .after (landFlights_form ..) (.after (mayTrap_form _ _ _ (fun _ => vectorCycle_form ..)) (mayTrap_form _ _ _ (fun _ => drainCycle_form ..)))

/-! ### Clock -/

theorem aclkSlot_form (die : Nat) (s : State) : KeepsForm s.mem (aclkSlot die s).mem :=
  .ite (.refl _) (.after (.foldl (fun _ _ => .ite (.after (unitCycle_form ..) (.after (mayTrap_form _ _ _ (fun _ => pumpChain_form ..))
      (settleArray_form ..))) (.refl _)) _ _) (.refl _))

theorem tclkEdge_form (s : State) : KeepsForm s.mem (tclkEdge s).mem := .refl _

theorem tick_form (s : State) : KeepsForm s.mem (tick s).mem :=
  .ite (.refl _) (.after (.foldl (fun _ _ => lateWaitflag_form ..) _ _) (.after (.ite (tclkEdge_form ..) (.refl _)) (.ite (.after (aclkSlot_form ..)
      (.after (aclkSlot_form ..) (.refl _))) (.refl _))))

/-! ### Branch -/

theorem branchIf_form (th : ThreadRef) (f : Fields) (g : Word → Word → Bool) (s : State) : KeepsForm s.mem (branchIf th f g s).mem :=
  .ite (jump_form ..) (.refl _)

theorem execBr_form (th : ThreadRef) (f : Fields) (s : State) : StepKeeps s (execBr th f s) := issueThen_form _ _ _ _ (fun _ => branchIf_form ..)

theorem execBeq_form (th : ThreadRef) (f : Fields) (s : State) : StepKeeps s (execBeq th f s) := issueThen_form _ _ _ _ (fun _ => branchIf_form ..)

theorem execBne_form (th : ThreadRef) (f : Fields) (s : State) : StepKeeps s (execBne th f s) := issueThen_form _ _ _ _ (fun _ => branchIf_form ..)

theorem execBlt_form (th : ThreadRef) (f : Fields) (s : State) : StepKeeps s (execBlt th f s) := issueThen_form _ _ _ _ (fun _ => branchIf_form ..)

theorem execBge_form (th : ThreadRef) (f : Fields) (s : State) : StepKeeps s (execBge th f s) := issueThen_form _ _ _ _ (fun _ => branchIf_form ..)

theorem execBltu_form (th : ThreadRef) (f : Fields) (s : State) : StepKeeps s (execBltu th f s) := issueThen_form _ _ _ _ (fun _ => branchIf_form ..)

theorem execBgeu_form (th : ThreadRef) (f : Fields) (s : State) : StepKeeps s (execBgeu th f s) := issueThen_form _ _ _ _ (fun _ => branchIf_form ..)

theorem execCall_form (th : ThreadRef) (f : Fields) (s : State) : StepKeeps s (execCall th f s) :=
  issueThen_form _ _ _ _ (fun _ => .after (jump_form ..) (writeResult_form ..))

theorem jumpReg_form (th : ThreadRef) (f : Fields) (s : State) : KeepsForm s.mem (jumpReg th f s).mem := .ite (trapIssued_form ..) (jump_form ..)

theorem execJr_form (th : ThreadRef) (f : Fields) (s : State) : StepKeeps s (execJr th f s) := issueThen_form _ _ _ _ (fun _ => jumpReg_form ..)

theorem execTexit_form (th : ThreadRef) (f : Fields) (s : State) : StepKeeps s (execTexit th f s) :=
  issueThen_form _ _ _ _ (fun _ => putThreadOf_form ..)

theorem execBrk_form (th : ThreadRef) (f : Fields) (s : State) : StepKeeps s (execBrk th f s) := issueThen_form _ _ _ _ (fun _ => trapIssued_form ..)

theorem execIllegalInstruction_form (th : ThreadRef) (w : BitVec 64) (s : State) : StepKeeps s (execIllegalInstruction th w s) :=
  .ite (.whenUnit (.refl _)) (issueThen_form _ _ _ _ (fun _ => trapIssued_form ..))

/-! ### TimeBase -/

theorem stepCounters_form (offset : Int) (s : State) : KeepsForm s.mem (stepCounters offset s).mem := .refl _

theorem correct_form (offset : Int) (s : State) : KeepsForm s.mem (correct offset s).mem := .refl _

theorem judgeLock_form (offset boundNs : Int) (known : Bool) (s : State) : KeepsForm s.mem (judgeLock offset boundNs known s).mem := .refl _

theorem enterHoldover_form (s : State) : KeepsForm s.mem (enterHoldover s).mem := .ite (.refl _) (.refl _)

theorem ptpCount_form (i : Nat) (s : State) : KeepsForm s.mem (ptpCount i s).mem := .refl _

theorem setPtp_form (p : Ptp) (s : State) : KeepsForm s.mem (setPtp p s).mem := .refl _

theorem execPtpSync_form (h : PtpHead) (twoStep : Bool) (logInterval correction : Int) (s : State) :
    StepKeeps s (execPtpSync h twoStep logInterval correction s) :=
  .next (.ite (.refl _) (.after (.ite (ptpCount_form ..) (.after (setPtp_form ..) (.after (ptpCount_form ..) (.ite (ptpCount_form ..) (.refl _)))))
      (refreshSource_calm ..).form))

theorem ptpServo_form (offset : Int) (s : State) : KeepsForm s.mem (ptpServo offset s).mem :=
  .ite (stepCounters_form ..) (.after (judgeLock_form ..) (correct_form ..))

theorem execPtpFollowUp_form (h : PtpHead) (originNs : Nat) (correction : Int) (s : State) : StepKeeps s (execPtpFollowUp h originNs correction s) :=
  .next (.ite (.refl _) (.after (.ite (ptpCount_form ..) (.after (.ite (ptpServo_form ..) (.refl _)) (setPtp_form ..))) (refreshSource_calm ..).form))

theorem execPtpDelayReqSend_form (s : State) : StepKeeps s (execPtpDelayReqSend s) :=
  .next (.ite (.after (emit_calm ..).form (setPtp_form ..)) (.refl _))

theorem execPtpDelayResp_form (h : PtpHead) (mine : Bool) (receiveNs : Nat) (correction logInterval : Int) (s : State) :
    StepKeeps s (execPtpDelayResp h mine receiveNs correction logInterval s) := by
  unfold execPtpDelayResp
  dsimp only
  refine .next ?_
  split
  · exact .refl _
  · split
    · exact .ite (setPtp_form ..) (ptpCount_form ..)
    · exact ptpCount_form ..

theorem execPtpAnnounce_form (h : PtpHead) (m : PtpMaster) (logInterval : Int) (s : State) : StepKeeps s (execPtpAnnounce h m logInterval s) :=
  .next (.ite (.refl _) (.after (.ite (ptpCount_form ..) (.ite (.refl _) (.ite (setPtp_form ..) (.after (setPtp_form ..) (.refl _)))))
      (refreshSource_calm ..).form))

theorem execPtpAnnounceTimeout_form (s : State) : StepKeeps s (execPtpAnnounceTimeout s) := by
  unfold execPtpAnnounceTimeout
  dsimp only
  refine .next ?_
  split
  · exact .ite (.after (.ite (enterHoldover_form ..) (.refl _)) (.after (ptpCount_form ..) (setPtp_form ..))) (.refl _)
  · exact .refl _

theorem markArrived_form (l timeTx : Nat) (s : State) : KeepsForm s.mem (markArrived l timeTx s).mem := by
  unfold markArrived
  dsimp only
  split
  · split
    · exact .after (.ite (stepCounters_form ..) (.after (judgeLock_form ..) (correct_form ..))) (.after (refreshSource_calm ..).form
        (putLink_form ..))
    · exact .after (refreshSource_calm ..).form (putLink_form ..)
  · exact .after (refreshSource_calm ..).form (putLink_form ..)

theorem execTimeSync_form (die : Nat) (s : State) : StepKeeps s (execTimeSync die s) := by
  unfold execTimeSync
  dsimp only
  refine .whenUnit ?_
  split
  · exact .refl _
  next h7 =>
    split
    · exact takeCtrl_form h7
    · exact .after (.ite (routerCount_calm ..).form (putLink_form ..)) (takeCtrl_form h7)

theorem execFabricMarkTimeout_form (s : State) : StepKeeps s (execFabricMarkTimeout s) :=
  .next (.after (.ite (enterHoldover_form ..) (.refl _)) (refreshSource_calm ..).form)

/-! ### Links -/

theorem execTimeSyncSend_form (l : Nat) (s : State) : StepKeeps s (execTimeSyncSend l s) := by
  unfold execTimeSyncSend
  extract_lets x d payload p p'
  clear_value p'
  exact .whenUnit (.ite (.after (pushCtrl_calm ..).form (putLink_form ..)) (.refl _))

theorem settleLink_form (l : Nat) (s : State) : KeepsForm s.mem (settleLink l s).mem := by
  unfold settleLink
  extract_lets x inPort
  refine .ite (.after (notePorts_calm ..).form (putLink_form ..)) (.ite (.after (notePorts_calm ..).form (putLink_form ..)) ?_)
  split
  · exact putLink_form ..
  · exact .ite (putLink_form ..) (.refl _)
  · exact .ite (.refl _) (putLink_form ..)
  · exact .refl _

theorem execLinkPeerSignal_form (l : Nat) (s : State) : StepKeeps s (execLinkPeerSignal l s) :=
  .whenUnit (.after (settleLink_form ..) (putLink_form ..))

theorem execLinkPeerSignalLost_form (l : Nat) (s : State) : StepKeeps s (execLinkPeerSignalLost l s) :=
  .whenUnit (.after (settleLink_form ..) (putLink_form ..))

theorem execLinkRxLock_form (l : Nat) (scr : List (BitVec 31)) (lanes : List Nat) (s : State) : StepKeeps s (execLinkRxLock l scr lanes s) :=
  .whenUnit (.ite (putLink_form ..) (.refl _))

theorem failLink_form (l : Nat) (s : State) : KeepsForm s.mem (failLink l s).mem :=
  .after (notePorts_calm ..).form (.after (msix_calm ..).form (.after (cper_calm ..).form (.after (addHistory_form ..) (.after (lifeAdd_calm ..).form
      (putLink_form ..)))))

theorem linkUp_form (l : Nat) (s : State) : KeepsForm s.mem (linkUp l s).mem := .after (notePorts_calm ..).form (putLink_form ..)

theorem leavePort_form (old : Option Nat) (l : Nat) (s : State) : KeepsForm s.mem (leavePort old l s).mem :=
  .ite (.refl _) (.after (.ite (linkFault_calm ..).form (.refl _)) (.after (requeue_calm ..).form (putLink_form ..)))

theorem leaveUp_form (l : Nat) (s : State) : KeepsForm s.mem (leaveUp l s).mem :=
  .after (.ite (failLink_form ..) (settleLink_form ..)) (.after (linkFault_calm ..).form (.after (requeue_calm ..).form (.after (lifeAdd_calm ..).form
      (.after (notePorts_calm ..).form (putLink_form ..)))))

theorem execLinkRetrain_form (l : Nat) (s : State) : StepKeeps s (execLinkRetrain l s) := .whenUnit (.ite (leaveUp_form ..) (.refl _))

theorem execLinkTrainingTimeout_form (l : Nat) (s : State) : StepKeeps s (execLinkTrainingTimeout l s) :=
  .whenUnit (.ite (.ite (.after (failLink_form ..) (putLink_form ..)) (putLink_form ..)) (.refl _))

theorem inputOverflow_form (l : Nat) (s : State) : KeepsForm s.mem (inputOverflow l s).mem := .after (linkFault_calm ..).form (putLink_form ..)

theorem packetIn_form (l : Nat) (a : Assembly) (s : State) : KeepsForm s.mem (packetIn l a s).mem :=
  .after (portCount_calm ..).form (.after (portCount_calm ..).form (.after (putLink_form ..) (putRouter_form ..)))

theorem cellIn_form (l tag : Nat) (bytes : List Byte) (bad badMark : Bool) (s : State) : KeepsForm s.mem (cellIn l tag bytes bad badMark s).mem := by
  unfold cellIn
  dsimp only
  split
  · exact .ite (.refl _) (.after (portCount_calm ..).form (.after (portCount_calm ..).form (putRouter_form ..)))
  · exact .ite (putLink_form ..) (.ite (inputOverflow_form ..) (.after (.ite (packetIn_form ..) (.refl _)) (putLink_form ..)))
  · split
    · exact .refl _
    · exact .ite (.refl _) (.ite (inputOverflow_form ..) (.after (.ite (packetIn_form ..) (.refl _)) (putLink_form ..)))
  · exact .refl _

theorem frameIn_form (l : Nat) (lanes : List (List Byte)) (s : State) : KeepsForm s.mem (frameIn l lanes s).mem :=
  .after (.ite (.after (.ite (.refl _) (.foldl (fun _ _ => cellIn_form ..) _ _)) (.ite (markArrived_form ..) (.refl _))) (.ite
      (linkUp_form ..) (.refl _))) (putLink_form ..)

theorem execFrameReceive_form (l : Nat) (lanes : List (List Byte)) (s : State) : StepKeeps s (execFrameReceive l lanes s) :=
  .whenUnit (.ite (frameIn_form ..) (.refl _))

theorem frameOut_form (l : Nat) (held : Bool) (s : State) : KeepsForm s.mem (frameOut l held s).mem :=
  .after (portCount_calm ..).form (.after (portCount_calm ..).form (.after (portCount_calm ..).form (.after (portCount_calm ..).form (.after
      (portCount_calm ..).form (.after (portCount_calm ..).form (.after (portCount_calm ..).form (.after (portCount_calm ..).form (.after
      (emit_calm ..).form (.after (putLink_form ..) (.ite (expireInjected_calm ..).form (.refl _)))))))))))

theorem startWindow_form (w : Nat) (s : State) : KeepsForm s.mem (startWindow w s).mem :=
  .after (.foldl (fun _ _ => .after (portCount_calm ..).form (putLink_form ..)) _ _) (.refl _)

theorem execScheduleWindowStart_form (s : State) : StepKeeps s (execScheduleWindowStart s) := .next (.ite (startWindow_form ..) (.refl _))

/-! ### Scalar -/

theorem alu_form (th : ThreadRef) (f : Fields) (latency : Nat) (g : Word → Word → Word) (s : State) : KeepsForm s.mem (alu th f latency g s).mem :=
  writeResult_form ..

theorem aluImm_form (th : ThreadRef) (f : Fields) (g : Word → Word) (s : State) : KeepsForm s.mem (aluImm th f g s).mem := writeResult_form ..

theorem execNop_form (th : ThreadRef) (f : Fields) (s : State) : StepKeeps s (execNop th f s) := issueThen_form _ _ _ _ fun _ => .refl _

theorem execAdd_form (th : ThreadRef) (f : Fields) (s : State) : StepKeeps s (execAdd th f s) := issueThen_form _ _ _ _ (fun _ => alu_form ..)

theorem execSub_form (th : ThreadRef) (f : Fields) (s : State) : StepKeeps s (execSub th f s) := issueThen_form _ _ _ _ (fun _ => alu_form ..)

theorem execAnd_form (th : ThreadRef) (f : Fields) (s : State) : StepKeeps s (execAnd th f s) := issueThen_form _ _ _ _ (fun _ => alu_form ..)

theorem execOr_form (th : ThreadRef) (f : Fields) (s : State) : StepKeeps s (execOr th f s) := issueThen_form _ _ _ _ (fun _ => alu_form ..)

theorem execXor_form (th : ThreadRef) (f : Fields) (s : State) : StepKeeps s (execXor th f s) := issueThen_form _ _ _ _ (fun _ => alu_form ..)

theorem execShl_form (th : ThreadRef) (f : Fields) (s : State) : StepKeeps s (execShl th f s) := issueThen_form _ _ _ _ (fun _ => alu_form ..)

theorem execShr_form (th : ThreadRef) (f : Fields) (s : State) : StepKeeps s (execShr th f s) := issueThen_form _ _ _ _ (fun _ => alu_form ..)

theorem execSra_form (th : ThreadRef) (f : Fields) (s : State) : StepKeeps s (execSra th f s) := issueThen_form _ _ _ _ (fun _ => alu_form ..)

theorem execMul_form (th : ThreadRef) (f : Fields) (s : State) : StepKeeps s (execMul th f s) := issueThen_form _ _ _ _ (fun _ => alu_form ..)

theorem execMulhu_form (th : ThreadRef) (f : Fields) (s : State) : StepKeeps s (execMulhu th f s) := issueThen_form _ _ _ _ (fun _ => alu_form ..)

theorem execMulh_form (th : ThreadRef) (f : Fields) (s : State) : StepKeeps s (execMulh th f s) := issueThen_form _ _ _ _ (fun _ => alu_form ..)

theorem execMin_form (th : ThreadRef) (f : Fields) (s : State) : StepKeeps s (execMin th f s) := issueThen_form _ _ _ _ (fun _ => alu_form ..)

theorem execMax_form (th : ThreadRef) (f : Fields) (s : State) : StepKeeps s (execMax th f s) := issueThen_form _ _ _ _ (fun _ => alu_form ..)

theorem execSlt_form (th : ThreadRef) (f : Fields) (s : State) : StepKeeps s (execSlt th f s) := issueThen_form _ _ _ _ (fun _ => alu_form ..)

theorem execSltu_form (th : ThreadRef) (f : Fields) (s : State) : StepKeeps s (execSltu th f s) := issueThen_form _ _ _ _ (fun _ => alu_form ..)

theorem execAddi_form (th : ThreadRef) (f : Fields) (s : State) : StepKeeps s (execAddi th f s) := issueThen_form _ _ _ _ (fun _ => aluImm_form ..)

theorem execAndi_form (th : ThreadRef) (f : Fields) (s : State) : StepKeeps s (execAndi th f s) := issueThen_form _ _ _ _ (fun _ => aluImm_form ..)

theorem execOri_form (th : ThreadRef) (f : Fields) (s : State) : StepKeeps s (execOri th f s) := issueThen_form _ _ _ _ (fun _ => aluImm_form ..)

theorem execXori_form (th : ThreadRef) (f : Fields) (s : State) : StepKeeps s (execXori th f s) := issueThen_form _ _ _ _ (fun _ => aluImm_form ..)

theorem execShli_form (th : ThreadRef) (f : Fields) (s : State) : StepKeeps s (execShli th f s) := issueThen_form _ _ _ _ (fun _ => aluImm_form ..)

theorem execShri_form (th : ThreadRef) (f : Fields) (s : State) : StepKeeps s (execShri th f s) := issueThen_form _ _ _ _ (fun _ => aluImm_form ..)

theorem execSrai_form (th : ThreadRef) (f : Fields) (s : State) : StepKeeps s (execSrai th f s) := issueThen_form _ _ _ _ (fun _ => aluImm_form ..)

theorem execLi_form (th : ThreadRef) (f : Fields) (s : State) : StepKeeps s (execLi th f s) := issueThen_form _ _ _ _ (fun _ => writeResult_form ..)

theorem execLui_form (th : ThreadRef) (f : Fields) (s : State) : StepKeeps s (execLui th f s) := issueThen_form _ _ _ _ (fun _ => writeResult_form ..)

theorem execSeq_form (th : ThreadRef) (f : Fields) (s : State) : StepKeeps s (execSeq th f s) := issueThen_form _ _ _ _ (fun _ => alu_form ..)

theorem execLd_form (th : ThreadRef) (f : Fields) (s : State) : StepKeeps s (execLd th f s) := issueThen_form _ _ _ _ (fun _ => startLoad_form ..)

theorem execLdU_form (th : ThreadRef) (f : Fields) (s : State) : StepKeeps s (execLdU th f s) := issueThen_form _ _ _ _ (fun _ => startLoad_form ..)

theorem execSt_form (th : ThreadRef) (f : Fields) (chk : Chk) (s : State) : StepKeeps s (execSt th f chk s) :=
  issueThen_form _ _ _ _ (fun _ => startStore_form ..)

theorem startDrop_form (th : ThreadRef) (f : Fields) (s : State) : KeepsForm s.mem (startDrop th f s).mem :=
  .after (putCore_calm ..).form (.ite (.refl _) (hrcDrop_form ..))

theorem execCacheDrop_form (th : ThreadRef) (f : Fields) (s : State) : StepKeeps s (execCacheDrop th f s) :=
  issueThen_form _ _ _ _ (fun _ => startDrop_form ..)

theorem execCacheDropComplete_form (c : CoreRef) (i : Nat) (s : State) : StepKeeps s (execCacheDropComplete c i s) := by
  unfold execCacheDropComplete
  dsimp only
  refine .whenUnit ?_
  split
  · exact .ite (.after (putCore_calm ..).form (.ite (hrcDrop_form ..) (.refl _))) (.refl _)
  · exact .refl _

theorem voteSpecial_form (th : ThreadRef) (i : Nat) (s : State) : KeepsForm s.mem (voteSpecial th i s).mem :=
  .ite (voteEpoch_calm ..).form (.ite (voteWindow_calm ..).form (.ite (voteCommit_calm ..).form (.refl _)))

theorem readSpecial_form (th : ThreadRef) (f : Fields) (s : State) : KeepsForm s.mem (readSpecial th f s).mem := by
  unfold readSpecial
  split
  · exact .after (voteSpecial_form ..) (writeResult_form ..)
  · exact trapIssued_form ..

theorem execRdspec_form (th : ThreadRef) (f : Fields) (s : State) : StepKeeps s (execRdspec th f s) :=
  issueThen_form _ _ _ _ (fun _ => readSpecial_form ..)

theorem execLoadReturn_form (c : CoreRef) (i : Nat) (chk : Chk) (s : State) : StepKeeps s (execLoadReturn c i chk s) := by
  unfold execLoadReturn
  refine .whenUnit (mayTrap_form _ _ _ (fun _ => ?_))
  split
  · exact .ite (completeRequest_form ..) (.refl _)
  · exact .refl _

theorem strayRecord_form (a : Nat) (s : State) : KeepsForm s.mem (strayRecord a s).mem := (cper_calm ..).form

theorem missFill_form (c : CoreRef) (line lo n : Nat) (chk : Chk) (onBad : Nat → State → State) (onGood : State → State) (s : State)
    (honBad : ∀ a u, KeepsForm u.mem (onBad a u).mem) (honGood : ∀ (a : State), KeepsForm a.mem (onGood a).mem) :
    KeepsForm s.mem (missFill c line lo n chk onBad onGood s).mem := by
  unfold missFill
  dsimp only
  split
  · exact .after (honGood _) (.after (hrcFill_form ..) (checkRead_form ..))
  · split
    · exact .after (honBad _ _) (checkRead_form ..)
    · exact .after (honGood _) (.after (strayRecord_form ..) (checkRead_form ..))

theorem execHrcMissFill_form (c : CoreRef) (line : Nat) (chk : Chk) (s : State) : StepKeeps s (execHrcMissFill c line chk s) := by
  unfold execHrcMissFill
  dsimp only
  refine .whenUnit (mayTrap_form _ _ _ (fun _ => ?_))
  split
  · refine missFill_form _ _ _ _ _ _ _ _ (fun _ _ => trapHeld_form ..) (fun _ => ?_)
    split
    · exact .after (trapHeld_form ..) (uncorrectableAt_calm ..).form
    · exact .after (deliver_form ..) (fixRequest_form ..)
  · split
    · exact missFill_form _ _ _ _ _ _ _ _ (fun _ _ => trapHeld_form ..) (fun _ => putIcache_form ..)
    · exact .refl _

theorem execInstructionFetchReturn_form (th : ThreadRef) (chk : Chk) (s : State) : StepKeeps s (execInstructionFetchReturn th chk s) := by
  unfold execInstructionFetchReturn
  dsimp only
  refine .whenUnit (mayTrap_form _ _ _ (fun _ => ?_))
  split
  · split
    · exact trap_form ..
    · split
      · exact serveLine_form _ _ _ _ _ _ _ (fun _ => putIcache_form ..)
      · exact .refl _
  · exact .refl _

/-! ### Memories -/

theorem windowWriteAt_form (chk : Chk) (c : CoreRef) (phys off : Nat) (expected : BitVec 16) (bs : List Byte) (s : State) :
    KeepsForm s.mem (windowWriteAt chk c phys off expected bs s).mem :=
  .ite (landFrom_form ..) (.after (.ite (landFrom_form ..) (countDrop_calm ..).form) (voteWindow_calm ..).form)

theorem windowWrite_form (chk : Chk) (c : CoreRef) (off : Nat) (expected : BitVec 16) (bs : List Byte) (s : State) :
    KeepsForm s.mem (windowWrite chk c off expected bs s).mem :=
  windowWriteAt_form ..

theorem execSpmRemoteWriteArrive_form (i : Nat) (chk : Chk) (s : State) : StepKeeps s (execSpmRemoteWriteArrive i chk s) := by
  unfold execSpmRemoteWriteArrive
  dsimp only
  refine .next ?_
  split
  · exact .refl _
  · split
    · exact .refl _
    · split
      · exact .after (windowWriteAt_form ..) (.ite (.after (discardOwned_calm ..).form (.refl _)) (.refl _))
      · exact .refl _

theorem retireOldest_form (chk : Chk) (point die : Nat) (es : List MergeEntry) (due : MergeEntry → Bool) (s : State) :
    KeepsForm s.mem (retireOldest chk point die es due s).mem := by
  unfold retireOldest
  split
  · exact .refl _
  · split
    · split
      next h3 => exact .after (retireEntry_form ..) (.of_fst h3 (checkRead_form ..))
      next h3 => exact .after (storeFault_form ..) (.after (setMergeList_form ..) (.of_fst h3 (checkRead_form ..)))
    · exact .refl _

theorem execSpmMergeRetire_form (die phys bank : Nat) (chk : Chk) (s : State) : StepKeeps s (execSpmMergeRetire die phys bank chk s) :=
  .whenUnit (retireOldest_form ..)

theorem execTierMergeRetire_form (ctrl : Nat) (chk : Chk) (s : State) : StepKeeps s (execTierMergeRetire ctrl chk s) :=
  .whenUnit (retireOldest_form ..)

theorem patrol_form (a point : Nat) (chk : Chk) (s : State) : KeepsForm s.mem (patrol a point chk s).mem := by
  unfold patrol
  split
  next h1 => exact .after (strayRecord_form ..) (.of_fst h1 (checkRead_form ..))
  next h1 => exact .of_fst h1 (checkRead_form ..)

theorem execResurfacerTierRead_form (chk : Chk) (s : State) : StepKeeps s (execResurfacerTierRead chk s) :=
  .next (.ite (.after (.ite (.refl _) (.refl _)) (.ite (.refl _) (patrol_form ..))) (.refl _))

theorem voteAll_form (s : State) : KeepsForm s.mem (voteAll s).mem :=
  .after (.foldl (fun _ _ => voteFloor_form ..) _ _) (.after (voteRevoked_form ..) (.after (.foldl (fun _ _ => voteKeyHash_form ..) _ _) (.after
      (voteMaintHash_form ..) (.after (.foldl (fun _ _ => voteWordAt_form ..) _ _) (.after
      (.foldl (fun _ _ => vote_form _ _ _ _ (fun _ => .refl _)) _ _) (.after (.foldl (fun _ _ => .after (.foldl (fun _ _ =>
      (voteWindow_calm ..).form) _ _) (voteEpoch_calm ..).form) _ _) (.after (voteCommit_calm ..).form (.after (voteTable_calm ..).form
      (voteMaster_calm ..).form))))))))

theorem execResurfacerSpmRead_form (chk : Chk) (s : State) : StepKeeps s (execResurfacerSpmRead chk s) :=
  .next (.ite (.after (.ite (.refl _) (.after (voteAll_form ..) (.refl _))) (.ite (.refl _) (patrol_form ..))) (.refl _))

theorem execBucketLeakTick_form (s : State) : StepKeeps s (execBucketLeakTick s) := .next (.ite (.refl _) (.refl _))

/-! ### Consistency -/

theorem settleQuad_form (die q : Nat) (s : State) : KeepsForm s.mem (settleQuad die q s).mem :=
  .ite (.after (.foldl (fun _ _ => spmUndefined_form ..) _ _) (.refl _)) (.ite (.refl _) (.refl _))

theorem settleQuads_form (s : State) : KeepsForm s.mem (settleQuads s).mem := .ite (.foldl (fun _ _ => settleQuad_form ..) _ _) (.refl _)

theorem setTorus_form (t : Torus) (s : State) : KeepsForm s.mem (setTorus t s).mem := .refl _

theorem putValue_form (key : Nat) (bs : List Byte) (s : State) : KeepsForm s.mem (putValue key bs s).mem := by
  unfold putValue
  dsimp only
  split
  · exact .refl _
  · exact .refl _
  · exact .refl _
  · exact .refl _
  · exact .refl _
  · split
    · split
      · exact .refl _
      · exact .after (.beside (m := makeUndef s.mem 0 Config.tier1Bytes) rfl rfl) (makeUndef_form ..)
    · split
      · exact .refl _
      · exact .after (.beside (m := makeUndef s.mem tier2Base (tier2Base + Config.tier2Bytes)) rfl rfl) (makeUndef_form ..)
  · exact .ite (.refl _) (.refl _)
  · exact .ite (.refl _) (.ite (.refl _) (.refl _))
  · exact setTorus_form ..
  · exact .refl _
  · exact setTorus_form ..
  · refine .foldl (fun s h => ?_) _ _
    exact .ite (.refl _) (.refl _)
  · exact .refl _
  · exact .ite (.refl _) (.ite (.refl _) (.ite (.refl _) (.refl _)))
  all_goals exact .refl _

theorem afterGroup_form (g : Nat) (before s : State) : KeepsForm s.mem (afterGroup g before s).mem := by
  unfold afterGroup
  dsimp only
  split
  · exact .refl _
  · exact .after (.foldl (fun _ _ => .after (settleLink_form ..) (leavePort_form ..)) _ _) (notePorts_calm ..).form
  · exact (refreshSource_calm ..).form
  · exact settleQuads_form ..
  · exact .after (refreshSource_calm ..).form (limitCorrection_calm ..).form
  · exact .refl _

theorem applyGroup_form (g : Nat) (s : State) : KeepsForm s.mem (applyGroup g s).mem :=
  .after (afterGroup_form ..) (.foldl (fun _ _ => putValue_form ..) _ _)

theorem applyStopped_form (s : State) : KeepsForm s.mem (applyStopped s).mem := .foldl (fun _ _ => applyGroup_form ..) _ _

theorem enterStopped_form (s : State) : KeepsForm s.mem (enterStopped s).mem :=
  .after (applyStopped_form ..) (.after (setRunState_calm ..).form (.refl _))

theorem execConsistencyGroupApply_form (g : Nat) (s : State) : StepKeeps s (execConsistencyGroupApply g s) :=
  .next (.ite (applyGroup_form ..) (.refl _))

/-! ### Kernel -/

theorem fetchKernel_form (c : CoreRef) (i since : Nat) (s : State) : KeepsForm s.mem (fetchKernel c i since s).mem :=
  .ite (putCore_calm ..).form (putCore_calm ..).form

theorem nextKernel_form (c : CoreRef) (i since : Nat) (s : State) : KeepsForm s.mem (nextKernel c i since s).mem := by
  unfold nextKernel
  dsimp only
  split
  · split
    · exact (putCore_calm ..).form
    · exact fetchKernel_form ..
    · exact fetchKernel_form ..
    · exact fetchKernel_form ..
  · exact fetchKernel_form ..

theorem kickTurn_form (c : CoreRef) (role : BitVec 16) (mask : Nat) (s : State) : KeepsForm s.mem (kickTurn c role mask s).mem :=
  .after (putCore_calm ..).form (.after (.foldl (fun _ _ => .ite (voteWindow_calm ..).form (.refl _)) _ _) (voteEpoch_calm ..).form)

theorem switchCore_form (c : CoreRef) (s : State) : KeepsForm s.mem (switchCore c s).mem := by
  unfold switchCore
  dsimp only
  split
  · exact .refl _
  · exact .after (putCore_calm ..).form (.refl _)

theorem boundaryStart_form (c : CoreRef) (s : State) : KeepsForm s.mem (boundaryStart c s).mem := .after (switchCore_form ..) (putCore_calm ..).form

theorem execKernelBoundary_form (c : CoreRef) (s : State) : StepKeeps s (execKernelBoundary c s) :=
  .whenUnit (.ite (.after (nextKernel_form ..) (.after (boundaryStart_form ..) (.ite (kickTurn_form ..) (.refl _)))) (.refl _))

theorem startKernel_form (c : CoreRef) (d : BitVec 256) (s : State) : KeepsForm s.mem (startKernel c d s).mem := (putCore_calm ..).form

theorem execKernelDescriptorArrive_form (c : CoreRef) (chk : Chk) (s : State) : StepKeeps s (execKernelDescriptorArrive c chk s) := by
  unfold execKernelDescriptorArrive
  dsimp only
  refine .whenUnit ?_
  split
  · split
    · exact .refl _
    · split
      next h9 => exact .after (trapHeldAs_form ..) (.of_fst h9 (checkRead_form ..))
      next h9 => exact .after (.ite (trap_form ..) (startKernel_form ..)) (.of_fst h9 (checkRead_form ..))
  · exact .refl _

theorem execGateRelease_form (c : CoreRef) (s : State) : StepKeeps s (execGateRelease c s) := .whenUnit (.ite (nextKernel_form ..) (.refl _))

/-! ### Router -/

theorem toCtrlBox_form (die : Nat) (p : RoutedCtrl) (s : State) : KeepsForm s.mem (toCtrlBox die p s).mem := putRouter_form ..

theorem arriveCtrl_form (die : Nat) (p : RoutedCtrl) (s : State) : KeepsForm s.mem (arriveCtrl die p s).mem :=
  .ite (.after (routerCount_calm ..).form (voteMaster_calm ..).form) (toCtrlBox_form ..)

theorem routeCtrl_form (die : Nat) (chk : Chk) (p : RoutedCtrl) (s : State) : KeepsForm s.mem (routeCtrl die chk p s).mem := by
  unfold routeCtrl
  dsimp only
  split
  · exact .after (routerCount_calm ..).form (readPiste_form ..)
  · exact .after (routerCount_calm ..).form (readPiste_form ..)
  · exact .after (routerCount_calm ..).form (readPiste_form ..)
  · exact .after (.ite (arriveCtrl_form ..) (routerCount_calm ..).form) (readPiste_form ..)
  · split
    · exact .after (pushCtrl_calm ..).form (readPiste_form ..)
    · exact .after (dropCtrl_calm ..).form (readPiste_form ..)

theorem countCrc_form (src : Option Nat) (s : State) : KeepsForm s.mem (countCrc src s).mem := by
  unfold countCrc
  split
  · exact putLink_form ..
  · exact .refl _

theorem ctrlAtRouter_form (die : Nat) (chk : Chk) (p : RoutedCtrl) (s : State) : KeepsForm s.mem (ctrlAtRouter die chk p s).mem :=
  .ite (countCrc_form ..) (.ite (routerCount_calm ..).form (.ite (.ite (toCtrlBox_form ..) (routerCount_calm ..).form) (.ite (.after
      (arriveCtrl_form ..) (readPiste_form ..)) (routeCtrl_form ..))))

theorem execControlPacketRoute_form (die : Nat) (chk : Chk) (s : State) : StepKeeps s (execControlPacketRoute die chk s) := by
  unfold execControlPacketRoute
  dsimp only
  refine .whenUnit ?_
  split
  · exact .after (ctrlAtRouter_form ..) (putRouter_form ..)
  · exact .refl _

theorem dropOwn_form (p : RoutedData) (s : State) : KeepsForm s.mem (dropOwn p s).mem := (discardOwned_calm ..).form

theorem sendOut_form (die dir : Nat) (p : RoutedData) (s : State) : KeepsForm s.mem (sendOut die dir p s).mem := by
  unfold sendOut
  dsimp only
  split
  · exact .after (dropOwn_form ..) (dropData_calm ..).form
  · split
    · exact .after (pushData_calm ..).form (.ite (.refl _) (.refl _))
    · exact .after (dropOwn_form ..) (dropData_calm ..).form

theorem leaveInput_form (p : RoutedData) (s : State) : KeepsForm s.mem (leaveInput p s).mem := by
  unfold leaveInput
  dsimp only
  split
  · exact putLink_form ..
  · exact .refl _

theorem badPacket_form (src : Option Nat) (die : Nat) (s : State) : KeepsForm s.mem (badPacket src die s).mem := (stepFault_calm ..).form

theorem deliverData_form (die : Nat) (p : RoutedData) (accepted : Bool) (s : State) : KeepsForm s.mem (deliverData die p accepted s).mem :=
  .ite (.after (dropOwn_form ..) (routerCount_calm ..).form) (.ite (.after (dropOwn_form ..) (badPacket_form ..)) (putRouter_form ..))

theorem checkData_form (p : RoutedData) (s : State) : KeepsForm s.mem (checkData p s).2.mem := by
  unfold checkData
  dsimp only
  split
  · exact .refl _
  · exact countCrc_form ..

theorem dataAtRouter_form (die : Nat) (chk : Chk) (p : RoutedData) (s : State) : KeepsForm s.mem (dataAtRouter die chk p s).mem := by
  unfold dataAtRouter
  dsimp only
  split
  · exact .after (dropOwn_form ..) (routerCount_calm ..).form
  · split
    · exact .after (dropOwn_form ..) (.after (routerCount_calm ..).form (.after (readPiste_form ..) (checkData_form ..)))
    · exact .after (dropOwn_form ..) (.after (routerCount_calm ..).form (.after (readPiste_form ..) (checkData_form ..)))
    · exact .after (dropOwn_form ..) (.after (routerCount_calm ..).form (.after (readPiste_form ..) (checkData_form ..)))
    · exact .after (deliverData_form ..) (.after (readPiste_form ..) (checkData_form ..))
    · exact .after (sendOut_form ..) (.after (readPiste_form ..) (checkData_form ..))

theorem mcastAtRouter_form (die : Nat) (p : RoutedData) (s : State) : KeepsForm s.mem (mcastAtRouter die p s).mem := by
  unfold mcastAtRouter
  dsimp only
  exact .ite (routerCount_calm ..).form (.after (.ite (deliverData_form ..) (.refl _)) (.after (.foldl (fun _ _ => sendOut_form ..) _ _)
      (checkData_form ..)))

theorem execFrameTransmit_form (l : Nat) (s : State) : StepKeeps s (execFrameTransmit l s) := by
  unfold execFrameTransmit
  refine .whenUnit ?_
  split
  · exact .refl _
  · exact .refl _
  · exact frameOut_form ..

theorem takeRouted_form (die i : Nat) (p : RoutedData) (s : State) : KeepsForm s.mem (takeRouted die i p s).mem :=
  .after (leaveInput_form ..) (putRouter_form ..)

theorem execDataPacketRoute_form (die : Nat) (chk : Chk) (s : State) : StepKeeps s (execDataPacketRoute die chk s) := by
  unfold execDataPacketRoute
  refine .whenUnit ?_
  split
  · exact .after (dataAtRouter_form ..) (takeRouted_form ..)
  · exact .refl _

theorem execMulticastForward_form (die : Nat) (s : State) : StepKeeps s (execMulticastForward die s) := by
  unfold execMulticastForward
  refine .whenUnit ?_
  split
  · exact .after (mcastAtRouter_form ..) (takeRouted_form ..)
  · exact .refl _

/-! ### Packets -/

theorem setXfer_form (s : State) (x n : Nat) : KeepsForm s.mem (setXfer s x n).mem := .refl _

theorem releaseDones_form (c : CoreRef) (seq x : Nat) (ns : List Nat) (s : State) : KeepsForm s.mem (releaseDones c seq x ns s).mem := by
  induction ns generalizing s with
  | nil => exact .refl _
  | cons n ns ih =>
    rw [releaseDones]
    split
    · exact (ih _).after ((setEntry_form ..).after (setXfer_form ..))
    · exact .refl _

theorem settleDones_form (x : Nat) (s : State) : KeepsForm s.mem (settleDones x s).mem := by
  unfold settleDones
  dsimp only
  refine .foldl (fun _ _ => .foldl (fun _ _ => ?_) _ _) _ _
  split
  · exact .ite (releaseDones_form ..) (.refl _)
  · exact .refl _

theorem countXfer_form (x : Nat) (s : State) : KeepsForm s.mem (countXfer x s).mem := .after (settleDones_form ..) (setXfer_form ..)

theorem writeData_form (chk : Chk) (p : DataPkt) (s : State) : KeepsForm s.mem (writeData chk p s).mem := by
  unfold writeData
  dsimp only
  split
  · exact .ite (landFrom_form ..) (.after (countXfer_form ..) (windowWrite_form ..))
  · exact .after (.ite (.refl _) (countXfer_form ..)) (landFrom_form ..)
  · exact .after (.ite (.refl _) (countXfer_form ..)) (landFrom_form ..)
  · exact countXfer_form ..

theorem execWritePacket_form (die : Nat) (chk : Chk) (s : State) : StepKeeps s (execWritePacket die chk s) := by
  unfold execWritePacket
  refine .whenUnit ?_
  split
  next h7 => exact .after (writeData_form ..) (takeData_form h7)
  · exact .refl _

theorem releaseFinal_form (chk : Chk) (p : CtrlPkt) (s : State) : KeepsForm s.mem (releaseFinal chk p s).mem := by
  unfold releaseFinal
  dsimp only
  split
  · exact .after (settleDones_form ..) (setXfer_form ..)
  · split
    · exact .after (settleDones_form ..) (.after (windowWrite_form ..) (setXfer_form ..))
    · exact .after (settleDones_form ..) (.after (landFrom_form ..) (setXfer_form ..))
    · exact .after (settleDones_form ..) (.after (landFrom_form ..) (setXfer_form ..))
    · exact .after (settleDones_form ..) (setXfer_form ..)

theorem execFinalWrite_form (die : Nat) (chk : Chk) (s : State) : StepKeeps s (execFinalWrite die chk s) := by
  unfold execFinalWrite
  dsimp only
  refine .whenUnit ?_
  split
  next h7 => exact .after (.ite (releaseFinal_form ..) (.refl _)) (takeCtrl_form h7)
  · exact .refl _

theorem execFinalWriteRelease_form (i : Nat) (chk : Chk) (s : State) : StepKeeps s (execFinalWriteRelease i chk s) := by
  unfold execFinalWriteRelease
  dsimp only
  refine .next ?_
  split
  · exact .ite (.after (releaseFinal_form ..) (.refl _)) (.refl _)
  · exact .refl _

theorem releaseSlot_form (die n : Nat) (x : Slot) (late : Bool) (s : State) : KeepsForm s.mem (releaseSlot die n x late s).mem := putRouter_form ..

theorem putSlot_form (die n : Nat) (x : Slot) (expect : Nat) (s : State) : KeepsForm s.mem (putSlot die n x expect s).mem :=
  .ite (releaseSlot_form ..) (putRouter_form ..)

theorem slotPacket_form (die : Nat) (p : RoutedData) (e : BitVec 64) (s : State) : KeepsForm s.mem (slotPacket die p e s).mem := by
  unfold slotPacket
  dsimp only
  split
  · exact putSlot_form ..
  · exact .ite (putSlot_form ..) (.after (putRouter_form ..) (collCount_form ..))

theorem finishReduce_form (chk : Chk) (c : CoreRef) (e : ColEntry) (d : BitVec 512) (s : State) : KeepsForm s.mem (finishReduce chk c e d s).mem := by
  unfold finishReduce
  dsimp only
  split
  next h1 => exact .after (colTrap_form ..) (.of_fst h1 (checkRead_form ..))
  next h1 => exact .after (.ite (sendResult_form ..) (.ite (writeOwn_form ..) (sendResult_form ..))) (.of_fst h1 (checkRead_form ..))

theorem addChunk_form (chk : Chk) (c : CoreRef) (e : ColEntry) (d : BitVec 512) (bs : List Byte) (s : State) :
    KeepsForm s.mem (addChunk chk c e d bs s).mem := by
  unfold addChunk
  dsimp only
  split
  · exact .refl _
  · split
    next h2 => exact .after (colTrap_form ..) (.of_fst h2 (checkRead_form ..))
    next h2 =>
      exact .after (.ite (.refl _) (.after (.ite (finishReduce_form ..) (.refl _)) (setEntry_form ..))) (.after (landFrom_form ..) (.of_fst h2
          (checkRead_form ..)))

theorem strayPacket_form (die : Nat) (s : State) : KeepsForm s.mem (strayPacket die s).mem :=
  .after (stepFault_calm ..).form (routerCount_calm ..).form

theorem finishPacket_form (die : Nat) (chk : Chk) (p : DataPkt) (s : State) : KeepsForm s.mem (finishPacket die chk p s).mem := by
  unfold finishPacket
  dsimp only
  split
  · split
    · exact .after (countDrop_calm ..).form (voteWindow_calm ..).form
    · split
      · exact .after (strayPacket_form ..) (voteWindow_calm ..).form
      · split
        · exact (voteWindow_calm ..).form
        · exact .after (addChunk_form ..) (voteWindow_calm ..).form
  · split
    · exact strayPacket_form ..
    · split
      · exact .refl _
      · exact addChunk_form ..

theorem execReducePacket_form (die : Nat) (chk : Chk) (s : State) : StepKeeps s (execReducePacket die chk s) := by
  unfold execReducePacket
  dsimp only
  refine .whenUnit ?_
  split
  next h7 => exact .after (finishPacket_form ..) (takeData_form h7)
  · split
    · exact .refl _
    · split
      · exact .after (slotPacket_form ..) (takeRouted_form ..)
      · exact .refl _

theorem execCombiningSlotFlush_form (die slot : Nat) (s : State) : StepKeeps s (execCombiningSlotFlush die slot s) := by
  unfold execCombiningSlotFlush
  refine .whenUnit ?_
  split
  · exact .ite (.after (releaseSlot_form ..) (collCount_form ..)) (.refl _)
  · exact .refl _

theorem chainEnd_form (c : CoreRef) (e : ColEntry) (d : BitVec 512) (a : Nat) (ys : List ChainVal) (s : State) :
    KeepsForm s.mem (chainEnd c e d a ys s).mem :=
  .ite (putCore_calm ..).form (setEntry_form ..)

theorem chainFinish_form (chk : Chk) (c : CoreRef) (e : ColEntry) (d : BitVec 512) (s : State) : KeepsForm s.mem (chainFinish chk c e d s).mem := by
  unfold chainFinish
  dsimp only
  split
  · exact .refl _
  · exact .ite (sendResult_form ..) (.ite (writeOwn_form ..) (.refl _))

theorem chainStep_form (chk : Chk) (c : CoreRef) (e : ColEntry) (d : BitVec 512) (bs : List Byte) (s : State) :
    KeepsForm s.mem (chainStep chk c e d bs s).mem := by
  unfold chainStep
  dsimp only
  split
  · exact .refl _
  · split
    · exact .refl _
    · split
      · exact readEntries_form _ _ _ _ _ _ (fun _ => .after (.ite (chainFinish_form ..) (.refl _)) (.after (.ite (chainEnd_form ..)
          (sendChain_form ..)) (setEntry_form ..)))
      · split
        next h4 => exact .after (colTrap_form ..) (.of_fst h4 (checkRead_form ..))
        next h4 =>
          exact .after (.ite (chainFinish_form ..) (.refl _)) (.after (.ite (chainEnd_form ..) (sendChain_form ..)) (.after (setEntry_form ..)
              (.of_fst h4 (checkRead_form ..))))

theorem chainPacket_form (die : Nat) (chk : Chk) (p : DataPkt) (s : State) : KeepsForm s.mem (chainPacket die chk p s).mem := by
  unfold chainPacket
  dsimp only
  split
  · exact strayPacket_form ..
  · split
    · exact .after (countDrop_calm ..).form (voteEpoch_calm ..).form
    · split
      · exact .after (strayPacket_form ..) (voteEpoch_calm ..).form
      · split
        · exact .after (chainStep_form ..) (voteEpoch_calm ..).form
        · exact (voteEpoch_calm ..).form

theorem execChainPacket_form (die : Nat) (chk : Chk) (s : State) : StepKeeps s (execChainPacket die chk s) := by
  unfold execChainPacket
  refine .whenUnit ?_
  split
  next h7 => exact .after (chainPacket_form ..) (takeData_form h7)
  · exact .refl _

theorem collTarget_form (die : Nat) (p : CtrlPkt) (s : State) : KeepsForm s.mem (collTarget die p s).2.mem := by
  unfold collTarget
  dsimp only
  split
  · exact .refl _
  · split
    · exact .after (countDrop_calm ..).form (voteEpoch_calm ..).form
    · split
      · exact .after (collCount_form ..) (voteEpoch_calm ..).form
      · exact (voteEpoch_calm ..).form

theorem execCollCtrlSig_form (die : Nat) (s : State) : StepKeeps s (execCollCtrlSig die s) := by
  unfold execCollCtrlSig
  dsimp only
  refine .whenUnit ?_
  split
  · exact .refl _
  next h7 =>
    split
    next h8 => exact .after (.of_snd h8 (.after (collTarget_form ..) (.refl _))) (takeColl_form h7)
    next h8 =>
      split
      · exact .after (takeSignature_form ..) (.after (.of_snd h8 (.after (collTarget_form ..) (.refl _))) (takeColl_form h7))
      · exact .after (putCore_calm ..).form (.after (.of_snd h8 (.after (collTarget_form ..) (.refl _))) (takeColl_form h7))

theorem execCollCtrlDone_form (die : Nat) (s : State) : StepKeeps s (execCollCtrlDone die s) := by
  unfold execCollCtrlDone
  dsimp only
  refine .whenUnit ?_
  split
  · exact .refl _
  next h7 =>
    split
    next h8 => exact .after (.of_snd h8 (.after (collTarget_form ..) (.refl _))) (takeColl_form h7)
    next h8 =>
      split
      · exact .after (.of_snd h8 (.after (collTarget_form ..) (.refl _))) (takeColl_form h7)
      · split
        · exact .after (settleDones_form ..) (.after (setEntry_form ..) (.after (.of_snd h8 (.after (collTarget_form ..) (.refl _)))
            (takeColl_form h7)))
        · exact .after (setEntry_form ..) (.after (.of_snd h8 (.after (collTarget_form ..) (.refl _))) (takeColl_form h7))

theorem stopRun_form (status : BitVec 8) (s : State) : KeepsForm s.mem (stopRun status s).mem := .after (enterStopped_form ..) (.refl _)

theorem groupLost_form (s : State) : KeepsForm s.mem (groupLost s).mem := .ite (failRun_calm ..).form (.ite (stopRun_form ..) (.refl _))

theorem failGroup_form (h : Nat) (s : State) : KeepsForm s.mem (failGroup h s).mem := by
  unfold failGroup
  dsimp only
  refine .after (.ite (groupLost_form ..) (.refl _)) (.after (.ite (.refl _) (.refl _)) (.after (.foldl (fun _ _ => .foldl (fun _ _ => ?_) _ _) _ _)
      (voteMaster_calm ..).form))
  split
  · exact .refl _
  · split
    · exact .after (endEntry_form ..) (undefChain_form ..)
    · exact wakeGlide_form ..

theorem stopForMember_form (s : State) : KeepsForm s.mem (stopForMember s).mem :=
  .ite (.after (settleLost_calm ..).form (.after (haltAll_calm ..).form (.refl _))) (.refl _)

theorem abortPacket_form (die : Nat) (p : CtrlPkt) (s : State) : KeepsForm s.mem (abortPacket die p s).mem :=
  .ite (collCount_form ..) (.after (.ite (failGroup_form ..) (.ite (.after (.ite (.after (stopForMember_form ..) (.ite
      (relayAbort_calm ..).form (.refl _))) (.refl _)) (.after (voteMaster_calm ..).form (voteCommit_calm ..).form)) (.refl _))) (collCount_form ..))

theorem execCollCtrlAbort_form (die : Nat) (s : State) : StepKeeps s (execCollCtrlAbort die s) := by
  unfold execCollCtrlAbort
  refine .whenUnit ?_
  split
  next h7 => exact .after (abortPacket_form ..) (takeColl_form h7)
  · exact .refl _

theorem masterOnly_form (die : Nat) (p : CtrlPkt) (f : State → State) (s : State) (hf : ∀ (a : State), KeepsForm a.mem (f a).mem) :
    KeepsForm s.mem (masterOnly die p f s).mem :=
  .after (.ite (hf _) (routerCount_calm ..).form) (voteMaster_calm ..).form

theorem writePiste_form (id : Nat) (e : BitVec 32) (s : State) : KeepsForm s.mem (writePiste id e s).mem := .refl _

theorem execPisteUpdateWriteEntry_form (die : Nat) (s : State) : StepKeeps s (execPisteUpdateWriteEntry die s) := by
  unfold execPisteUpdateWriteEntry
  dsimp only
  refine .whenUnit ?_
  split
  · exact .refl _
  next h7 =>
    exact .after (masterOnly_form _ _ _ _ (fun _ => .after (.ite (writePiste_form ..) (.refl _)) (voteTable_calm ..).form)) (takePiste_form h7)

theorem execPisteUpdateSetEpoch_form (die : Nat) (s : State) : StepKeeps s (execPisteUpdateSetEpoch die s) := by
  unfold execPisteUpdateSetEpoch
  dsimp only
  refine .whenUnit ?_
  split
  · exact .refl _
  next h7 => exact .after (masterOnly_form _ _ _ _ (fun _ => .refl _)) (takePiste_form h7)

theorem execPisteUpdateSetId_form (die : Nat) (s : State) : StepKeeps s (execPisteUpdateSetId die s) := by
  unfold execPisteUpdateSetId
  dsimp only
  refine .whenUnit ?_
  split
  · exact .refl _
  next h7 => exact .after (masterOnly_form _ _ _ _ (fun _ => .after (refreshSource_calm ..).form (.refl _))) (takePiste_form h7)

theorem sendPiste_form (dest id op new : Nat) (e : BitVec 32) (s : State) : KeepsForm s.mem (sendPiste dest id op new e s).mem :=
  (injectCtrl_calm ..).form

theorem execPisteFault_form (die : Nat) (s : State) : StepKeeps s (execPisteFault die s) := by
  unfold execPisteFault
  dsimp only
  refine .whenUnit ?_
  split
  · exact .refl _
  next h7 => exact .after (.ite (sendPiste_form ..) (.refl _)) (.after (voteTable_calm ..).form (.after (voteMaster_calm ..).form (takeCtrl_form h7)))

theorem dmaUnreachable_form (c : CoreRef) (ch dest x : Nat) (s : State) : KeepsForm s.mem (dmaUnreachable c ch dest x s).mem := by
  unfold dmaUnreachable
  dsimp only
  split
  · exact .refl _
  · exact .ite (.after (putChannel_calm ..).form (withdrawData_calm ..).form) (.refl _)

theorem copyUnreachable_form (dest x : Nat) (s : State) : KeepsForm s.mem (copyUnreachable dest x s).mem :=
  .ite (.after (withdrawData_calm ..).form (.refl _)) (.refl _)

theorem unreachableAt_form (dest x : Nat) (s : State) : KeepsForm s.mem (unreachableAt dest x s).mem := by
  unfold unreachableAt
  dsimp only
  refine .after (.foldl (fun _ _ => .after (.foldl (fun _ _ => ?_) _ _) (.foldl (fun _ _ => dmaUnreachable_form ..) _ _)) _ _)
      (copyUnreachable_form ..)
  split
  · exact .ite (endEntry_form ..) (.refl _)
  · exact .refl _

theorem execUnreachable_form (die : Nat) (s : State) : StepKeeps s (execUnreachable die s) := by
  unfold execUnreachable
  refine .whenUnit ?_
  split
  next h7 => exact .after (unreachableAt_form ..) (takeCtrl_form h7)
  · exact .refl _

/-! ### Image -/

theorem imageRead_form (chk : Chk) (ranges : List (Nat × Nat)) (s : State) : KeepsForm s.mem (imageRead chk ranges s).1.mem := checkRead_form ..

theorem runStages_form (chk : Chk) (gs : List Stage) (s : State) : KeepsForm s.mem (runStages chk gs s).2.mem := by
  induction gs generalizing s with
  | nil => exact .refl _
  | cons g gs ih =>
    rw [runStages]
    split
    next h => exact (strayRecord_form ..).after (.of_fst h (imageRead_form ..))
    next h =>
      split
      · exact (ih _).after (.of_fst h (imageRead_form ..))
      · exact .of_fst h (imageRead_form ..)

theorem loadTables_form (s : State) : KeepsForm s.mem (loadTables s).mem := .refl _

theorem takeMap_form (base : Nat) (es : List (BitVec 128)) (s : State) : KeepsForm s.mem (takeMap base es s).mem := by
  unfold takeMap
  dsimp only
  split
  · exact .refl _
  · exact .refl _

/-! ### StepProgram -/

theorem startProgram_form (chk : Chk) (s : State) : KeepsForm s.mem (startProgram chk s).2.mem := by
  unfold startProgram
  split
  · exact .refl _
  · extract_lets u
    have hset : KeepsForm s.mem u.mem := (setRunState_calm ..).form
    split
    next h => exact .after (stopRun_form ..) (.after (.of_snd h (runStages_form ..)) hset)
    next v h =>
      have hstages : KeepsForm s.mem v.mem := .after (.of_snd h (runStages_form ..)) hset
      exact hstages

theorem stopWritten_form (s : State) : KeepsForm s.mem (stopWritten s).2.mem := by
  unfold stopWritten
  split
  · exact .refl _
  · exact .ite (stopRun_form ..) (.ite (setRunState_calm ..).form (.ite (enterStopped_form ..) (.refl _)))

theorem beginCore_form (c : CoreRef) (s : State) : KeepsForm s.mem (beginCore c s).mem :=
  .after (nextKernel_form ..) (.after (boundaryStart_form ..) (.after (putCore_calm ..).form (.refl _)))

theorem beginStep_form (origin : Nat) (s : State) : KeepsForm s.mem (beginStep origin s).mem :=
  .after (.ite (.refl _) (.after (.foldl (fun _ _ => beginCore_form ..) _ _) (.after (land_form ..) (.after (loadTables_form ..) (.refl _)))))
      (voteCommit_calm ..).form

theorem startCore_form (roles : List Nat) (c : CoreRef) (s : State) : KeepsForm s.mem (startCore roles c s).mem := (putCore_calm ..).form

theorem sequencerArrive_form (op : Nat) (v : BitVec 128) (s : State) : KeepsForm s.mem (sequencerArrive op v s).mem := glideArrive_form ..

theorem startEffect_form (s : State) : KeepsForm s.mem (startEffect s).mem :=
  .after (sequencerArrive_form ..) (.after (voteCommit_calm ..).form (.after (land_form ..) (.after (.foldl (fun _ _ => startCore_form ..) _ _)
      (.after (takeMap_form ..) (.after (loadTables_form ..) (.refl _))))))

theorem execImageMeasureComplete_form (chk : Chk) (s : State) : StepKeeps s (execImageMeasureComplete chk s) := by
  unfold execImageMeasureComplete
  refine .next ?_
  split
  · split
    next h8 => exact .after (stopRun_form ..) (.after (strayRecord_form ..) (.of_fst h8 (imageRead_form ..)))
    next h8 => exact .after (startEffect_form ..) (.of_fst h8 (imageRead_form ..))
  · exact .refl _

theorem joinLinks_form (s : State) : KeepsForm s.mem (joinLinks s).mem := .after (notePorts_calm ..).form (.refl _)

theorem execOpeningLiftRelease_form (s : State) : StepKeeps s (execOpeningLiftRelease s) := by
  unfold execOpeningLiftRelease
  refine .next ?_
  split
  · split
    · exact .refl _
    next h =>
      have htaken := takeRelease_form h
      exact .after (sequencerArrive_form ..) htaken
  · split
    · exact .refl _
    next h =>
      split
      · exact .after (stopRun_form ..) (takeRelease_form h)
      · refine .after ?_ (takeRelease_form h)
        exact .ite (.after (beginStep_form ..) (.after (joinLinks_form ..) (setRunState_calm ..).form)) (stopRun_form ..)
  · exact .refl _

theorem execOpeningLiftTimeout_form (s : State) : StepKeeps s (execOpeningLiftTimeout s) := .next (.ite (stopRun_form ..) (.refl _))

theorem arriveLift_form (s : State) : KeepsForm s.mem (arriveLift s).mem := .after (sequencerArrive_form ..) (.refl _)

theorem execLiftArrival_form (s : State) : StepKeeps s (execLiftArrival s) := .next (.ite (arriveLift_form ..) (.refl _))

theorem execLiftTimeoutBeforeArrival_form (s : State) : StepKeeps s (execLiftTimeoutBeforeArrival s) :=
  .next (.ite (.after (arriveLift_form ..) (stepFault_calm ..).form) (.refl _))

theorem execLiftTimeoutAfterArrival_form (s : State) : StepKeeps s (execLiftTimeoutAfterArrival s) :=
  .next (.ite (.after (settleLost_calm ..).form (failRun_calm ..).form) (.refl _))

theorem pendMove_form (die l spare : Nat) (s : State) : KeepsForm s.mem (pendMove die l spare s).mem := .after (setPhysState_form ..) (.refl _)

theorem spareFailed_form (key : Nat) (s : State) : KeepsForm s.mem (spareFailed key s).mem := by
  unfold spareFailed
  dsimp only
  split
  · exact .after (cper_calm ..).form (setPhysState_form ..)
  · split
    · exact (reportLost_calm ..).form
    · exact .after (cper_calm ..).form (.after (pendMove_form ..) (setPhysState_form ..))

theorem testRefused_form (s : State) : KeepsForm s.mem (testRefused s).mem := .after (msix_calm ..).form (.refl _)

theorem swapTested_form (key : Nat) (s : State) : KeepsForm s.mem (swapTested key s).mem := by
  unfold swapTested
  dsimp only
  split
  · dsimp only
    exact .after (pendMove_form ..) (setPhysState_form s _ _ .testing)
  · exact testRefused_form ..

theorem applySparing_form (s : State) : KeepsForm s.mem (applySparing s).mem :=
  .after (settleQuads_form ..) (.after (.foldl (fun _ _ => .ite (testRefused_form ..) (swapTested_form ..)) _ _) (.after
      (.foldl (fun _ _ => spareFailed_form ..) _ _) (.refl _)))

theorem startHostDrain_form (s : State) : KeepsForm s.mem (startHostDrain s).mem :=
  .after (setPhase_calm ..).form (.ite (writeHost_calm ..).form (.refl _))

theorem copyRead_form (chk : Chk) (s : State) : KeepsForm s.mem (copyRead chk s).1.mem := by
  unfold copyRead
  split
  next t b h =>
    have hread : KeepsForm s.mem t.mem := .of_fst h (imageRead_form ..)
    have hcper : KeepsForm t.mem (cper (heldAt t b { cls := 3 }) t).mem := (cper_calm ..).form
    generalize cper (heldAt t b { cls := 3 }) t = u at hcper ⊢
    exact hcper.after hread
  next h => exact .of_fst h (imageRead_form ..)

theorem startBuddy_form (s : State) : KeepsForm s.mem (startBuddy s).mem := by
  unfold startBuddy
  dsimp only
  split
  next h1 => exact .after (.of_fst h1 (.after (copyRead_form ..) (.refl _))) (.after (setPhase_calm ..).form (takeId_form ..))
  next h1 =>
    exact .after (injectData_form ..) (.after (.of_fst h1 (.after (copyRead_form ..) (.refl _))) (.after (setPhase_calm ..).form (takeId_form ..)))

theorem startBackground_form (s : State) : KeepsForm s.mem (startBackground s).mem := .ite (startBuddy_form ..) (startHostDrain_form ..)

theorem restartCopy_form (s : State) : KeepsForm s.mem (restartCopy s).mem :=
  .ite (.ite (.after (startBuddy_form ..) (.after (withdrawData_calm ..).form (.refl _))) (.ite (.after
      (startHostDrain_form ..) (.refl _)) (.refl _))) (.refl _)

theorem switchVariant_form (v : BitVec 64) (s : State) : KeepsForm s.mem (switchVariant v s).mem := by
  unfold switchVariant
  dsimp only
  split
  · exact .refl _
  · exact .refl _
  · exact .refl _

theorem applyResync_form (s : State) : KeepsForm s.mem (applyResync s).mem := by
  unfold applyResync
  dsimp only
  split
  · exact .refl _
  · exact .refl _

theorem rewindStep_form (s : State) : KeepsForm s.mem (rewindStep s).mem := .refl _

theorem snapCheck_form (v : BitVec 64) (s : State) : KeepsForm s.mem (snapCheck v s).mem :=
  .after (sequencerArrive_form ..) (.after (setPhase_calm ..).form (.refl _))

theorem stopOrNext_form (v : BitVec 64) (origin : Nat) (s : State) : KeepsForm s.mem (stopOrNext v origin s).mem :=
  .ite (stopRun_form ..) (beginStep_form ..)

theorem liftMiddle_form (v : BitVec 64) (s : State) : KeepsForm s.mem (liftMiddle v s).mem :=
  .after (restartCopy_form ..) (.after (applySparing_form ..) (.after (applyResync_form ..) (.after (joinLinks_form ..) (switchVariant_form ..))))

theorem liftReleased_form (r : Release) (s : State) : KeepsForm s.mem (liftReleased r s).mem :=
  .after (.ite (.refl _) (.ite (.ite (.after (beginStep_form ..) (.after (liftMiddle_form ..) (.after (rewindStep_form ..) (.refl _)))) (.after
      (liftMiddle_form ..) (.after (failRun_calm ..).form (.refl _)))) (.ite (.after (stopOrNext_form ..) (.after (liftMiddle_form ..) (.refl _)))
      (.after (.ite (snapCheck_form ..) (stopOrNext_form ..)) (.after (liftMiddle_form ..) (.refl _)))))) (.after (voteCommit_calm ..).form (.refl _))

theorem execLiftRelease_form (s : State) : StepKeeps s (execLiftRelease s) := by
  unfold execLiftRelease
  refine .next ?_
  split
  · split
    next h8 => exact .after (settleLost_calm ..).form (.after (liftReleased_form ..) (takeRelease_form h8))
    · exact .refl _
  · exact .refl _

theorem arriveResume_form (fail : Bool) (s : State) : KeepsForm s.mem (arriveResume fail s).mem := .after (sequencerArrive_form ..) (.refl _)

theorem execSnapshotCheckRelease_form (s : State) : StepKeeps s (execSnapshotCheckRelease s) := by
  unfold execSnapshotCheckRelease
  dsimp only
  refine .next ?_
  split
  · split
    · exact .refl _
    next h8 =>
      exact .after (.ite (.after (settleLost_calm ..).form (failRun_calm ..).form) (.ite (.after (arriveResume_form ..) (.refl _)) (.after
          (land_form ..) (.refl _)))) (takeRelease_form h8)
  · exact .refl _

theorem execSnapshotCopyDone_form (chk : Chk) (s : State) : StepKeeps s (execSnapshotCopyDone chk s) := by
  unfold execSnapshotCopyDone
  dsimp only
  refine .next ?_
  split
  · split
    next h8 => exact .after (arriveResume_form ..) (.after (makeUndef_form ..) (.after (cper_calm ..).form (.of_fst h8 (imageRead_form ..))))
    next h8 => exact .after (arriveResume_form ..) (.after (.foldl (fun _ _ => land_form ..) _ _) (.of_fst h8 (imageRead_form ..)))
  · exact .refl _

theorem execResumeLiftRelease_form (s : State) : StepKeeps s (execResumeLiftRelease s) := by
  unfold execResumeLiftRelease
  refine .next ?_
  split
  · split
    · exact .refl _
    next t h =>
      have htaken : KeepsForm s.mem t.mem := takeRelease_form h
      extract_lets v u _ w
      have hheader : KeepsForm t.mem u.mem := land_form ..
      clear_value u
      have hcopy : KeepsForm u.mem w.mem := .after (startBackground_form ..) (.refl _)
      clear_value w
      refine .after (.ite (.after (settleLost_calm ..).form (failRun_calm ..).form) (.ite ?_ ?_)) htaken
      · exact .after (stopOrNext_form ..) (.after (.ite (.refl _) (reportLost_calm ..).form) (hcopy.after hheader))
      · exact .after (stopOrNext_form ..) (setPhase_calm ..).form
  · exact .refl _

theorem execBuddyCopyComplete_form (chk : Chk) (s : State) : StepKeeps s (execBuddyCopyComplete chk s) := by
  unfold execBuddyCopyComplete
  refine .next ?_
  split
  · split
    next h8 => exact .of_fst h8 (copyRead_form ..)
    next h8 => exact .after (startHostDrain_form ..) (.after (sendFinal_form ..) (.of_fst h8 (copyRead_form ..)))
  · exact .refl _

theorem execHostDrainComplete_form (chk : Chk) (s : State) : StepKeeps s (execHostDrainComplete chk s) := by
  unfold execHostDrainComplete
  refine .next ?_
  split
  · split
    next h => exact .of_fst h (copyRead_form ..)
    next t h =>
      extract_lets a i bus c t₁ t₂ bufs
      have hread : KeepsForm s.mem t.mem := .of_fst h (copyRead_form ..)
      have hbody : KeepsForm t.mem t₁.mem := .foldl (fun _ _ => (writeHost_calm ..).form) _ _
      have hhead : KeepsForm t₁.mem t₂.mem := (writeHost_calm ..).form
      have hcopied := hhead.after (hbody.after hread)
      clear_value t₂
      exact .after (setPhase_calm ..).form hcopied
  · exact .refl _

/-! ### Objects -/

theorem voteRead_form (key : Nat) (s : State) : KeepsForm s.mem (voteRead key s).mem := by
  unfold voteRead
  split
  · exact .after (.foldl (fun _ _ => voteKeyHash_form ..) _ _) (.after (voteRevoked_form ..) (.foldl (fun _ _ => voteFloor_form ..) _ _))
  · exact (voteCommit_calm ..).form
  · exact .ite (voteMaster_calm ..).form (.refl _)
  · exact (voteTable_calm ..).form
  · exact voteFloor_form ..
  · exact .after (voteRevoked_form ..) (voteKeyHash_form ..)
  · exact .refl _

/-! ### Failures -/

theorem sendObjReq_form (dest tag : Nat) (p : BitVec 128) (s : State) : KeepsForm s.mem (sendObjReq dest tag p s).mem := (injectCtrl_calm ..).form

theorem sendRemote_form (dest op typ index sub len value : Nat) (s : State) : KeepsForm s.mem (sendRemote dest op typ index sub len value s).mem :=
  .after (sendObjReq_form ..) (.refl _)

theorem execRemoteObjectRetry_form (tag : BitVec 16) (s : State) : StepKeeps s (execRemoteObjectRetry tag s) := by
  unfold execRemoteObjectRetry
  dsimp only
  refine .next ?_
  split
  · exact .refl _
  · exact .ite (.after (sendObjReq_form ..) (.refl _)) (.refl _)

theorem setRestore_form (r : Nat) (s : State) : KeepsForm s.mem (setRestore r s).mem := .refl _

theorem settlePhase_form (s : State) : KeepsForm s.mem (settlePhase s).mem := (setPhase_calm ..).form

theorem setFilling_form (old new : BitVec 8) (s : State) : KeepsForm s.mem (setFilling old new s).mem := .ite (.refl _) (.refl _)

theorem failRestore_form (r : Nat) (s : State) : KeepsForm s.mem (failRestore r s).mem := by
  unfold failRestore
  extract_lets t
  have hdropped : KeepsForm s.mem t.mem := (dropReads_calm ..).form
  exact .after (setFilling_form ..) (.after (settlePhase_form ..) (.after (setRestore_form ..) hdropped))

theorem restoreStart_form (s : State) : KeepsForm s.mem (restoreStart s).mem := by
  unfold restoreStart
  dsimp only
  split
  · exact setRestore_form ..
  · exact .ite (setRestore_form ..) (.ite (.ite (.after (setFilling_form ..) (.after (setPhase_calm ..).form (.after (setRestore_form ..) (.refl _))))
      (.after (setRestore_form ..) (.refl _))) (.ite (.after (sendRemote_form ..) (.after (setFilling_form ..) (.after (setPhase_calm ..).form (.after
      (setRestore_form ..) (.refl _))))) (.ite (.after (readHost_form ..) (.after (readHost_form ..) (.after (setFilling_form ..) (.after
      (setPhase_calm ..).form (.after (setRestore_form ..) (.refl _)))))) (.after (setRestore_form ..) (.refl _)))))

theorem settleRestore_form (s : State) : KeepsForm s.mem (settleRestore s).mem := by
  unfold settleRestore
  dsimp only
  split
  · split
    · exact .after (failRestore_form ..) (.refl _)
    · exact .after (.foldl (fun _ _ => readHost_form ..) _ _) (.refl _)
  · exact .refl _

theorem buddyAnswered_form (commit : Nat) (s : State) : KeepsForm s.mem (buddyAnswered commit s).mem := .ite (failRestore_form ..) (.refl _)

theorem pushWard_form (s : State) : KeepsForm s.mem (pushWard s).mem :=
  .ite (.after (sendFinal_form ..) (.after (injectData_form ..) (.refl _))) (.refl _)

theorem restoreDone_form (s : State) : KeepsForm s.mem (restoreDone s).mem :=
  .after (setFilling_form ..) (.after (settlePhase_form ..) (.after (setRestore_form ..) (.refl _)))

theorem execRestoreComplete_form (chk : Chk) (s : State) : StepKeeps s (execRestoreComplete chk s) := by
  unfold execRestoreComplete
  refine .next ?_
  extract_lets rs mine t a x
  refine .ite (.refl _) (.ite (.ite ?_ (.refl _)) (.ite ?_ (.refl _)))
  · exact .after (restoreDone_form ..) (.after (.foldl (fun _ _ => land_form ..) _ _) (.refl _))
  · split
    next h => exact .after (failRestore_form ..) (.after (strayRecord_form ..) (.of_fst h (imageRead_form ..)))
    next u h =>
      extract_lets u₁
      have hread : KeepsForm s.mem u.mem := .of_fst h (imageRead_form ..)
      exact .after (restoreDone_form ..) (.after (.foldl (fun _ _ => land_form ..) _ _) hread)

theorem stopSlice_form (s : State) : KeepsForm s.mem (stopSlice s).mem := .after (stopWritten_form ..) (.foldl (fun _ _ => sendRemote_form ..) _ _)

theorem sendBuddy_form (m sub value : Nat) (s : State) : KeepsForm s.mem (sendBuddy m sub value s).mem :=
  .after (sendRemote_form ..) (sendRemote_form ..)

theorem newPair_form (lost : Nat) (s : State) (m : Nat) : KeepsForm s.mem (newPair lost s m).mem :=
  .after (sendBuddy_form ..) (.after (sendBuddy_form ..) (.refl _))

theorem moveId_form (lost : Nat) (s : State) : KeepsForm s.mem (moveId lost s).mem := by
  unfold moveId
  extract_lets s₁ t e members s₂ s₃ s₄ s₅ _ _ s₆
  have hvoted : KeepsForm s.mem s₁.mem := (voteTable_calm ..).form
  have hnews : KeepsForm s₁.mem s₂.mem := .foldl (fun _ _ => sendPiste_form ..) _ _
  have hown : KeepsForm s₂.mem s₃.mem := writePiste_form ..
  have hlost : KeepsForm s₃.mem s₄.mem := .after (sendPiste_form ..) (sendPiste_form ..)
  have hepochs : KeepsForm s₄.mem s₅.mem := .foldl (fun _ _ => sendPiste_form ..) _ _
  have hsent : KeepsForm s.mem s₅.mem := hepochs.after (hlost.after (hown.after (hnews.after hvoted)))
  clear_value s₅
  have hcounted : KeepsForm s₅.mem s₆.mem := .refl _
  clear_value s₆
  exact .after (.foldl (fun _ _ => newPair_form ..) _ _) (.after (sendBuddy_form ..) (hcounted.after hsent))

theorem takeMastership_form (lost : Nat) (s : State) : KeepsForm s.mem (takeMastership lost s).mem := by
  unfold takeMastership
  extract_lets t
  have hsent : KeepsForm s.mem t.mem := .foldl (fun _ _ => .after (sendRemote_form ..) (sendRemote_form ..)) _ _
  clear_value t
  exact hsent

theorem takeSpare_form (lost : Nat) (s : State) : KeepsForm s.mem (takeSpare lost s).mem :=
  .ite (moveId_form ..) (.after (cper_calm ..).form (.refl _))

theorem reform_form (lost : Nat) (s : State) : KeepsForm s.mem (reform lost s).mem := by
  unfold reform
  extract_lets t u v
  have hgroups : KeepsForm s.mem t.mem := .foldl (fun _ _ => .after (failGroup_form ..) (relayAbort_calm ..).form) _ _
  have hstopped : KeepsForm t.mem u.mem := .after (voteMaster_calm ..).form (stopSlice_form ..)
  have hmaster : KeepsForm u.mem v.mem := .ite (.refl _) (takeMastership_form ..)
  have hready := hmaster.after (hstopped.after hgroups)
  clear_value v
  exact .ite hready (.after (takeSpare_form ..) hready)

theorem sendRestore_form (m source : Nat) (s : State) : KeepsForm s.mem (sendRestore m source s).mem :=
  .after (sendRemote_form ..) (.after (sendRemote_form ..) (sendRemote_form ..))

theorem fillSurvivors_form (s : State) : KeepsForm s.mem (fillSurvivors s).mem :=
  .after (restoreStart_form ..) (.after (dropReads_calm ..).form (.foldl (fun _ _ => sendRemote_form ..) _ _))

theorem askResult_form (ep : Nat) (s : State) : KeepsForm s.mem (askResult ep s).mem := sendRemote_form ..

theorem fillFromDrain_form (ep : Nat) (s : State) : KeepsForm s.mem (fillFromDrain ep s).mem := by
  unfold fillFromDrain
  extract_lets go
  have hgo (t : State) : KeepsForm t.mem (go t).mem := .after (askResult_form ..) (.after (sendRestore_form ..) (.refl _))
  clear_value go
  refine .ite (hgo s) ?_
  split
  · exact .after (hgo _) (.after (fillSurvivors_form ..) (.refl _))
  · exact hgo s

theorem fillHead_form (ep : Nat) (s : State) : KeepsForm s.mem (fillHead ep s).mem :=
  .ite (.ite (.after (askResult_form ..) (.after (sendRestore_form ..) (.refl _))) (.after (fillFromDrain_form ..) (.refl _))) (.after
      (sendRemote_form ..) (.refl _))

theorem fillSlice_form (s : State) : KeepsForm s.mem (fillSlice s).mem := by
  unfold fillSlice
  split
  · exact .refl _
  · exact .ite (.after (fillHead_form ..) (fillSurvivors_form ..)) (.refl _)

theorem nextInQueue_form (s : State) : KeepsForm s.mem (nextInQueue s).mem := by
  unfold nextInQueue
  dsimp only
  split
  · exact .refl _
  · split
    · exact .refl _
    · exact .after (fillHead_form ..) (.after (reform_form ..) (.refl _))

theorem headResult_form (ep result : Nat) (s : State) : KeepsForm s.mem (headResult ep result s).mem :=
  .ite (nextInQueue_form ..) (.ite (askResult_form ..) (.ite (.refl _) (fillFromDrain_form ..)))

theorem takeoverAnswer_form (src index sub value : Nat) (s : State) : KeepsForm s.mem (takeoverAnswer src index sub value s).mem := by
  unfold takeoverAnswer
  dsimp only
  split
  · exact .ite (sendRestore_form ..) (.refl _)
  · split
    · exact buddyAnswered_form ..
    · split
      · exact .refl _
      · exact .ite (.ite (.after (askResult_form ..) (sendRestore_form ..)) (fillFromDrain_form ..)) (.refl _)
  · split
    · exact .ite (headResult_form ..) (.refl _)
    · exact .refl _
  · exact .refl _

theorem afterAnswer_form (s : State) : KeepsForm s.mem (afterAnswer s).mem := by
  unfold afterAnswer
  split
  · exact .ite (takeSpare_form ..) (.refl _)
  · exact .refl _

theorem spareLost_form (ep : Nat) (s : State) : KeepsForm s.mem (spareLost ep s).mem :=
  .ite (.after (.ite (.after (fillHead_form ..) (moveId_form ..)) (takeSpare_form ..)) (.after (cper_calm ..).form (.refl _))) (.refl _)

theorem buddyLost_form (ep : Nat) (s : State) : KeepsForm s.mem (buddyLost ep s).mem := by
  unfold buddyLost
  split
  · exact .ite (fillFromDrain_form ..) (.refl _)
  · exact .refl _

theorem declareLost_form (ep : Nat) (s : State) : KeepsForm s.mem (declareLost ep s).mem :=
  .ite (spareLost_form ..) (.after (.ite (reform_form ..) (buddyLost_form ..)) (.after (cper_calm ..).form (.refl _)))

theorem bothAlive_form (a b : Nat) (s : State) : KeepsForm s.mem (bothAlive a b s).mem := .ite (declareLost_form ..) (.refl _)

theorem sendProbe_form (ep : Nat) (s : State) : KeepsForm s.mem (sendProbe ep s).mem := .ite (.refl _) (.after (sendObjReq_form ..) (.refl _))

theorem takeReport_form (v : BitVec 64) (s : State) : KeepsForm s.mem (takeReport v s).mem := by
  unfold takeReport
  dsimp only
  split
  · exact (voteMaster_calm ..).form
  · exact .after (.ite (.ite (.ite (.after (bothAlive_form ..) (.refl _)) (.after (sendProbe_form ..) (.refl _))) (.refl _)) (.refl _))
      (voteMaster_calm ..).form

theorem probeAnswered_form (ep : Nat) (s : State) : KeepsForm s.mem (probeAnswered ep s).mem :=
  .after (.foldl (fun _ _ => bothAlive_form ..) _ _) (.after (voteMaster_calm ..).form (.refl _))

theorem execLivenessProbeTimeout_form (ep : BitVec 16) (s : State) : StepKeeps s (execLivenessProbeTimeout ep s) := by
  unfold execLivenessProbeTimeout
  dsimp only
  refine .next ?_
  split
  · exact .ite (.after (declareLost_form ..) (.refl _)) (.refl _)
  · exact .refl _

theorem sendReport_form (dest : Nat) (v : BitVec 64) (s : State) : KeepsForm s.mem (sendReport dest v s).mem :=
  .ite (takeReport_form ..) (sendRemote_form ..)

theorem reportPort_form (port : Nat) (down : Bool) (ms : Nat) (s : State) : KeepsForm s.mem (reportPort port down ms s).mem :=
  .after (.ite (sendReport_form ..) (.refl _)) (.after (sendReport_form ..) (voteMaster_calm ..).form)

theorem execPortDownReportTimer_form (port : Nat) (s : State) : StepKeeps s (execPortDownReportTimer port s) := by
  unfold execPortDownReportTimer
  dsimp only
  refine .whenUnit ?_
  split
  · exact .refl _
  · split
    · exact .ite (.after (reportPort_form ..) (.refl _)) (.refl _)
    · exact .ite (.after (reportPort_form ..) (.refl _)) (.refl _)

theorem testStart_form (s : State) : KeepsForm s.mem (testStart s).mem := by
  unfold testStart
  split
  next d p _ =>
  extract_lets t
  have hcper : KeepsForm s.mem t.mem := (cper_calm ..).form
  split
  · exact .after (settleQuads_form ..) (.after (.after (.refl _) (setPhysState_form t d p .testing)) hcper)
  · exact .after (.refl _) hcper
  · exact hcper

theorem execFieldTestEnd_form (die : Nat) (pass : Bool) (s : State) : StepKeeps s (execFieldTestEnd die pass s) := by
  unfold execFieldTestEnd
  dsimp only
  refine .whenUnit ?_
  split
  · exact .refl _
  · exact .after (settleQuads_form ..) (.after (msix_calm ..).form (.after (.ite (.after (setPhysState_form ..) (.refl _)) (.after
      (notify_calm ..).form (.after (setPhysState_form ..) (.after (declarePermanent_form ..) (.refl _))))) (lifeTest_form ..)))

/-! ### Pcie -/

theorem bar0Request_form (f : State → State) (s : State) (hf : ∀ (a : State), KeepsForm a.mem (f a).mem) : KeepsForm s.mem (bar0Request f s).mem :=
  .ite (.refl _) (.ite (emit_calm ..).form (.ite (hf _) (.refl _)))

theorem sendError_form (kind : Nat) (s : State) : KeepsForm s.mem (sendError kind s).mem := .ite (emit_calm ..).form (.refl _)

theorem aerUncorrectable_form (i : Nat) (s : State) : KeepsForm s.mem (aerUncorrectable i s).mem :=
  .ite (.refl _) (.after (sendError_form ..) (.refl _))

theorem corError_form (e : PortError) (s : State) : KeepsForm s.mem (corError e s).mem := .ite (.refl _) (.after (sendError_form ..) (.refl _))

theorem portFinds_form (chk : Chk) (s : State) : KeepsForm s.mem (portFinds chk s).mem := by
  unfold portFinds
  refine .foldl (fun _ _ => ?_) _ _
  split
  · exact corError_form ..
  · exact .refl _

theorem uncorError_form (i : Nat) (s : State) : KeepsForm s.mem (uncorError i s).mem := .after (aerUncorrectable_form ..) (.refl _)

theorem pumpMsix_form (s : State) : KeepsForm s.mem (pumpMsix s).mem := by
  unfold pumpMsix
  refine .foldl (fun s v => ?_) _ _
  exact .ite (.after (msix_calm ..).form (.refl _)) (.refl _)

theorem setFetch_form (r : BitVec 8) (s : State) : KeepsForm s.mem (setFetch r s).mem := .ite (.refl _) (.after (msix_calm ..).form (.refl _))

theorem failFetch_form (s : State) : KeepsForm s.mem (failFetch s).mem := .ite (.after (setFetch_form ..) (dropReads_calm ..).form) (.refl _)

theorem startFetch_form (s : State) : KeepsForm s.mem (startFetch s).mem :=
  .after (.ite (setFetch_form ..) (.ite (setFetch_form ..) (.ite (.after (readHost_form ..) (setFetch_form ..)) (setFetch_form ..))))
      (dropReads_calm ..).form

theorem execImageFetchComplete_form (s : State) : StepKeeps s (execImageFetchComplete s) := .next (.ite (setFetch_form ..) (.refl _))

theorem readReturned_form (r : HostRead) (data : List Byte) (s : State) : KeepsForm s.mem (readReturned r data s).mem := by
  unfold readReturned
  dsimp only
  split
  · exact .refl _
  · exact .after (land_form ..) (.refl _)
  · exact .after (settleHostReads_form ..) (.refl _)
  · exact .after (settleRestore_form ..) (.refl _)

theorem readFailed_form (r : HostRead) (s : State) : KeepsForm s.mem (readFailed r s).mem := by
  unfold readFailed
  dsimp only
  split
  · exact .refl _
  · exact .after (failFetch_form ..) (.refl _)
  · exact .after (settleHostReads_form ..) (.refl _)
  · exact .after (failRestore_form ..) (.refl _)

theorem execHostReadCompletion_form (tag : Nat) (data : List Byte) (status : CplStatus) (s : State) :
    StepKeeps s (execHostReadCompletion tag data status s) := by
  unfold execHostReadCompletion
  dsimp only
  refine .next ?_
  split
  · exact uncorError_form ..
  · split
    · exact .ite (.after (pumpReads_form ..) (readReturned_form ..)) (uncorError_form ..)
    · exact .after (pumpReads_form ..) (.after (readFailed_form ..) (uncorError_form ..))
    · exact .after (pumpReads_form ..) (.after (readFailed_form ..) (.refl _))

theorem execHostReadCompletionTimeout_form (tag : Nat) (s : State) : StepKeeps s (execHostReadCompletionTimeout tag s) := by
  unfold execHostReadCompletionTimeout
  refine .next ?_
  split
  · exact .ite (.after (pumpReads_form ..) (.after (readFailed_form ..) (uncorError_form ..))) (.refl _)
  · exact .refl _

theorem loseDescriptors_form (s : State) : KeepsForm s.mem (loseDescriptors s).mem := by
  unfold loseDescriptors
  dsimp only
  split
  · exact .refl _
  · exact .after (settleLost_calm ..).form (.after (.foldl (fun _ _ => (haltDma_calm ..).form) _ _) (stepFault_calm ..).form)

theorem loseTransfers_form (drain : Bool) (s : State) : KeepsForm s.mem (loseTransfers drain s).mem :=
  .after (.ite (.refl _) (.refl _)) (.after (.ite (failRestore_form ..) (.refl _)) (failFetch_form ..))

theorem loseLink_form (s : State) : KeepsForm s.mem (loseLink s).mem := by
  unfold loseLink
  refine .ite ?_ (.refl _)
  extract_lets t
  have hlost : KeepsForm s.mem t.mem := .after (loseTransfers_form ..) (loseDescriptors_form ..)
  clear_value t
  exact hlost

theorem resetPort_form (s : State) : KeepsForm s.mem (resetPort s).mem := .refl _

theorem execPcieLinkDown_form (s : State) : StepKeeps s (execPcieLinkDown s) := .next (loseLink_form ..)

theorem execPerstN_form (level : Bool) (s : State) : StepKeeps s (execPerstN level s) :=
  .next (.ite (.refl _) (.after (resetPort_form ..) (loseLink_form ..)))

theorem execHotReset_form (s : State) : StepKeeps s (execHotReset s) := .next (.ite (.after (resetPort_form ..) (loseLink_form ..)) (.refl _))

theorem execLinkDisable_form (s : State) : StepKeeps s (execLinkDisable s) := .next (.ite (.after (resetPort_form ..) (loseLink_form ..)) (.refl _))

theorem resetFunction_form (s : State) : KeepsForm s.mem (resetFunction s).mem := by
  unfold resetFunction
  extract_lets t
  have hlost : KeepsForm s.mem t.mem := .after (loseTransfers_form ..) (loseDescriptors_form ..)
  clear_value t
  exact .after (resetPort_form ..) hlost

theorem execFlr_form (s : State) : StepKeeps s (execFlr s) := .next (.ite (resetFunction_form ..) (.refl _))

theorem execPcieLinkUp_form (speed width : Nat) (flit : Bool) (s : State) : StepKeeps s (execPcieLinkUp speed width flit s) :=
  .next (.ite (.after (pumpMsix_form ..) (.refl _)) (.refl _))

theorem execPmeTurnOff_form (s : State) : StepKeeps s (execPmeTurnOff s) := .next (.ite (emit_calm ..).form (.refl _))

theorem writeCommand_form (v : BitVec 32) (s : State) : KeepsForm s.mem (writeCommand v s).mem :=
  .after (pumpMsix_form ..) (.ite (.after (loseTransfers_form ..) (loseDescriptors_form ..)) (.refl _))

theorem enterD3_form (s : State) : KeepsForm s.mem (enterD3 s).mem := by
  unfold enterD3
  dsimp only
  refine .after (.foldl (fun _ _ => ?_) _ _) (loseTransfers_form ..)
  split
  · exact .ite (.after (putChannel_calm ..).form (dropReads_calm ..).form) (.refl _)
  · exact .refl _

theorem writePmCsr_form (v : BitVec 32) (s : State) : KeepsForm s.mem (writePmCsr v s).mem :=
  .ite (.ite (.refl _) (enterD3_form ..)) (.ite (.after (pumpMsix_form ..) (.refl _)) (.refl _))

theorem writeDevCtl_form (v : BitVec 32) (s : State) : KeepsForm s.mem (writeDevCtl v s).mem := .ite (resetFunction_form ..) (.refl _)

theorem configWrite_form (reg : CfgReg) (v : BitVec 32) (s : State) : KeepsForm s.mem (configWrite reg v s).mem := by
  unfold configWrite
  dsimp only
  split
  · exact writeCommand_form ..
  · exact .refl _
  · exact .refl _
  · exact .refl _
  · exact .refl _
  · exact writePmCsr_form ..
  · exact writeDevCtl_form ..
  · exact .refl _
  · exact .after (pumpMsix_form ..) (.refl _)
  · exact .ite (.refl _) (.refl _)
  · exact .refl _
  · exact .refl _
  · exact .refl _
  · exact .refl _
  · exact .refl _
  · exact .refl _

theorem execConfigRequest_form (reg : CfgReg) (write : Option (BitVec 32)) (s : State) : StepKeeps s (execConfigRequest reg write s) := by
  unfold execConfigRequest
  refine .next ?_
  split
  · exact .refl _
  · split
    · exact (emit_calm ..).form
    · split
      · exact (emit_calm ..).form
      · exact .after (emit_calm ..).form (configWrite_form ..)

theorem setBar2Base_form (v : Nat) (s : State) : KeepsForm s.mem (setBar2Base v s).mem := .refl _

theorem execBar2BaseWrite_form (value : BitVec 64) (s : State) : StepKeeps s (execBar2BaseWrite value s) :=
  .next (bar0Request_form _ _ (fun _ => setBar2Base_form ..))

theorem execSignalWrite_form (value : BitVec 64) (s : State) : StepKeeps s (execSignalWrite value s) :=
  .next (bar0Request_form _ _ (fun _ => signal_form ..))

theorem countUnmapped_form (s : State) : KeepsForm s.mem (countUnmapped s).mem := .refl _

theorem landHost_form (chk : Chk) (addr : Nat) (data : List Byte) (s : State) : KeepsForm s.mem (landHost chk addr data s).mem := by
  unfold landHost
  split
  · exact .refl _
  · split
    · exact .ite (countUnmapped_form ..) (landFrom_form ..)
    · exact countUnmapped_form ..

theorem execBar2Write_form (off : Nat) (data : List Byte) (poisoned : Bool) (chk : Chk) (s : State) :
    StepKeeps s (execBar2Write off data poisoned chk s) :=
  .next (.ite (.refl _) (.after (.ite (uncorError_form ..) (.ite (.after (aerUncorrectable_form ..) (.refl _)) (.ite (.refl _) (landHost_form ..))))
      (portFinds_form ..)))

theorem poisonedRead_form (a n bad : Nat) (s : State) : KeepsForm s.mem (poisonedRead a n bad s).mem :=
  .after (strayRecord_form ..) (emit_calm ..).form

theorem readBar2_form (addr len : Nat) (chk : Chk) (s : State) : KeepsForm s.mem (readBar2 addr len chk s).mem := by
  unfold readBar2
  split
  · exact (emit_calm ..).form
  · split
    · exact .after (countUnmapped_form ..) (emit_calm ..).form
    · split
      · exact .after (poisonedRead_form ..) (uncorrectableAt_calm ..).form
      · split
        next h4 => exact .after (poisonedRead_form ..) (.of_fst h4 (checkRead_form ..))
        next h4 => exact .after (emit_calm ..).form (.of_fst h4 (checkRead_form ..))

theorem execBar2Read_form (off len : Nat) (chk : Chk) (s : State) : StepKeeps s (execBar2Read off len chk s) :=
  .next (.ite (.refl _) (.after (.ite (uncorError_form ..) (readBar2_form ..)) (portFinds_form ..)))

/-! ### Lifetime -/

theorem startSave_form (s : State) : KeepsForm s.mem (startSave s).mem := .refl _

theorem execLifetimeSaveTimer_form (s : State) : StepKeeps s (execLifetimeSaveTimer s) :=
  .next (.ite (.after (startSave_form ..) (.refl _)) (.refl _))

theorem execLifetimeSaveComplete_form (s : State) : StepKeeps s (execLifetimeSaveComplete s) := by
  unfold execLifetimeSaveComplete
  dsimp only
  refine .next ?_
  split
  · exact .refl _
  · exact .refl _

theorem loadLife_form (s : State) : KeepsForm s.mem (loadLife s).mem := by
  unfold loadLife
  dsimp only
  split
  · exact .refl _
  · exact .refl _

theorem berPeriod_form (l : Nat) (s : State) : KeepsForm s.mem (berPeriod l s).mem := .after (putLink_form ..) (.ite (lifeAdd_calm ..).form (.refl _))

theorem countSecond_form (s : State) : KeepsForm s.mem (countSecond s).mem := .refl _

theorem histSecond_form (s : State) : KeepsForm s.mem (histSecond s).mem :=
  .after (.foldl (fun _ _ => (lifeAdd_calm ..).form) _ _) (.foldl (fun _ _ => (lifeAdd_calm ..).form) _ _)

theorem stateSecond_form (s : State) : KeepsForm s.mem (stateSecond s).mem := .foldl (fun _ _ => (lifeAdd_calm ..).form) _ _

theorem throttleSecond_form (s : State) : KeepsForm s.mem (throttleSecond s).mem := .foldl (fun _ _ => .ite (lifeAdd_calm ..).form (.refl _)) _ _

theorem poweredSecond_form (s : State) : KeepsForm s.mem (poweredSecond s).mem := by
  unfold poweredSecond
  extract_lets t
  have hcounted : KeepsForm s.mem t.mem :=
    .after (throttleSecond_form ..) (.after (stateSecond_form ..) (.after (histSecond_form ..) (countSecond_form ..)))
  clear_value t
  exact .ite (.after (.foldl (fun _ _ => berPeriod_form ..) _ _) hcounted) hcounted

theorem execPoweredSecondTick_form (s : State) : StepKeeps s (execPoweredSecondTick s) := .next (.ite (poweredSecond_form ..) (.refl _))

theorem execRailDroopBegin_form (rail : Rail) (s : State) : StepKeeps s (execRailDroopBegin rail s) := .next (.ite (.refl _) (.refl _))

theorem execRailDroopEnd_form (rail : Rail) (depth : Nat) (s : State) : StepKeeps s (execRailDroopEnd rail depth s) := by
  unfold execRailDroopEnd
  dsimp only
  refine .next ?_
  split
  · exact .ite (.after (lifeAdd_calm ..).form (.refl _)) (.refl _)
  · exact .refl _

theorem clearCores_form (s : State) : KeepsForm s.mem (clearCores s).mem := .refl _

theorem clearDies_form (s : State) : KeepsForm s.mem (clearDies s).mem := .refl _

theorem clearTelemetry_form (s : State) : KeepsForm s.mem (clearTelemetry s).mem := .refl _

/-! ### Firmware -/

theorem voteFuses_form (s : State) : KeepsForm s.mem (voteFuses s).mem :=
  .after (.foldl (fun _ _ => voteFloor_form ..) _ _) (.after (voteRevoked_form ..) (.foldl (fun _ _ => voteKeyHash_form ..) _ _))

theorem readFuses_form (s : State) : KeepsForm s.mem (readFuses s).mem := .refl _

theorem solicitDad_form (s : State) : KeepsForm s.mem (solicitDad s).mem := (emit_calm ..).form

theorem bootStart_form (s : State) : KeepsForm s.mem (bootStart s).mem := .after (solicitDad_form ..) (.after (readFuses_form ..) (.refl _))

theorem runSlot_form (c : Nat) (slot : Option Nat) (log : Nat) (s : State) : KeepsForm s.mem (runSlot c slot log s).mem := .refl _

theorem endBoot_form (state : BitVec 8) (s : State) : KeepsForm s.mem (endBoot state s).mem := .refl _

theorem linkStarted_form (s : State) : KeepsForm s.mem (linkStarted s).mem := .after (.foldl (fun _ _ => settleLink_form ..) _ _) (.refl _)

theorem bootChain_form (unreadable : List Nat) (s : State) : KeepsForm s.mem (bootChain unreadable s).mem :=
  .after (.ite (.after (endBoot_form ..) (.after (runSlot_form ..) (runSlot_form ..))) (.after (.ite (.after (endBoot_form ..) (runSlot_form ..))
      (.after (.ite (endBoot_form ..) (.after (linkStarted_form ..) (endBoot_form ..))) (runSlot_form ..))) (runSlot_form ..))) (.after
      (runSlot_form ..) (voteFuses_form ..))

theorem execBootChainComplete_form (unreadable : List Nat) (s : State) : StepKeeps s (execBootChainComplete unreadable s) :=
  .next (.ite (bootChain_form ..) (.refl _))

theorem raiseFloor_form (c v : Nat) (s : State) : KeepsForm s.mem (raiseFloor c v s).2.mem := by
  unfold raiseFloor
  dsimp only
  split
  · exact voteFloor_form ..
  · split
    · exact voteFloor_form ..
    · exact voteFloor_form ..

theorem revokeKey_form (k : Nat) (s : State) : KeepsForm s.mem (revokeKey k s).2.mem := by
  unfold revokeKey
  extract_lets t
  have hvoted : KeepsForm s.mem t.mem := voteFuses_form ..
  clear_value t
  split
  · exact hvoted
  · exact hvoted

theorem setUpStatus_form (v : BitVec 8) (s : State) : KeepsForm s.mem (setUpStatus v s).mem := .refl _

theorem updateComponent_form (v : Nat) (s : State) : KeepsForm s.mem (updateComponent v s).2.mem := by
  unfold updateComponent
  dsimp only
  split
  · exact .refl _
  · split
    · exact .refl _
    · exact .refl _

theorem updateOffset_form (v : Nat) (s : State) : KeepsForm s.mem (updateOffset v s).2.mem := by
  unfold updateOffset
  dsimp only
  split
  · exact .refl _
  · split
    · exact .refl _
    · exact .refl _

theorem updateChunk_form (bs : List Byte) (s : State) : KeepsForm s.mem (updateChunk bs s).2.mem := by
  unfold updateChunk
  dsimp only
  split
  · exact .refl _
  · split
    · exact .refl _
    · exact .refl _

theorem updateVerify_form (v : Nat) (s : State) : KeepsForm s.mem (updateVerify v s).2.mem := by
  unfold updateVerify
  split
  · exact .refl _
  · split
    · exact .refl _
    · exact setUpStatus_form ..

theorem execUpdateVerifyComplete_form (flashError : Bool) (s : State) : StepKeeps s (execUpdateVerifyComplete flashError s) :=
  .next (.ite (.after (.ite (setUpStatus_form ..) (.ite (setUpStatus_form ..) (setUpStatus_form ..))) (voteFuses_form ..)) (.refl _))

theorem preferSlot_form (c slot : Nat) (s : State) : KeepsForm s.mem (preferSlot c slot s).mem := .refl _

theorem beginActivate_form (s : State) : KeepsForm s.mem (beginActivate s).mem := by
  unfold beginActivate
  extract_lets c recovery t
  have hslot : KeepsForm s.mem t.mem := preferSlot_form ..
  have hstatus (v : BitVec 8) : KeepsForm s.mem (setUpStatus v t).mem := .after (setUpStatus_form ..) hslot
  exact .ite (.after (bootStart_form ..) (hstatus 11)) (.ite (hstatus 11) (hstatus 10))

theorem activated_form (c : Nat) (s : State) : KeepsForm s.mem (activated c s).mem := .refl _

theorem endPause_form (s : State) : KeepsForm s.mem (endPause s).mem := .ite (putLink_form ..) (.refl _)

theorem execLinkControllerLoadComplete_form (s : State) : StepKeeps s (execLinkControllerLoadComplete s) := by
  unfold execLinkControllerLoadComplete
  refine .next (.ite ?_ (.refl _))
  extract_lets n t _ u v
  have hended : KeepsForm s.mem u.mem := .after (.refl t.mem) (endPause_form ..)
  have hactive : KeepsForm u.mem v.mem := activated_form ..
  clear_value u v
  exact .ite hended (.ite (.after (linkStarted_form ..) (hactive.after hended)) (hactive.after hended))

theorem abandonActivate_form (s : State) : KeepsForm s.mem (abandonActivate s).mem := endPause_form ..

theorem newReport_form (r : BitVec 5120) (s : State) : KeepsForm s.mem { s with boot := { s.boot with report := r, reportState := 1 } }.mem := .refl _

theorem takeNonce_form (nonce : List Byte) (s : State) : KeepsForm s.mem (takeNonce nonce s).2.mem := by
  by_cases hbusy : s.boot.reportState = 1
  · rw [takeNonce, if_pos hbusy]
    exact .refl _
  · rw [takeNonce, if_neg hbusy]
    exact .after (newReport_form _ _) (voteCommit_calm ..).form

theorem execAttestationReady_form (s : State) : StepKeeps s (execAttestationReady s) := .next (.ite (.refl _) (.refl _))

/-! ### Reset -/

theorem retireWhere_form (p : Nat → Bool) (s : State) : KeepsForm s.mem (retireWhere p s).mem := by
  refine (settleLost_calm ..).form.after (.foldl (fun s e => ?_) _ _)
  split
  next h => exact (uncorrectableAt_calm ..).form.after (retireEntry_form_of h)
  next h => exact retireEntry_form_of h

theorem clearCoreState_form (s : State) : KeepsForm s.mem (clearCoreState s).mem := .refl _

theorem clearFabric_form (s : State) : KeepsForm s.mem (clearFabric s).mem := .refl _

theorem trainLinks_form (s : State) : KeepsForm s.mem (trainLinks s).mem :=
  .after (notePorts_calm ..).form (.foldl (fun _ _ => settleLink_form ..) _ _)

theorem stopForReset_form (s : State) : KeepsForm s.mem (stopForReset s).mem :=
  .after (retireWhere_form ..) (.after (enterStopped_form ..) (haltAll_calm ..).form)

theorem breakCopies_form (s : State) : KeepsForm s.mem (breakCopies s).mem :=
  .ite (.after (failRestore_form ..) (.refl _)) (.after (settlePhase_form ..) (.refl _))

theorem restartPasses_form (s : State) : KeepsForm s.mem (restartPasses s).mem := .refl _

theorem setCause_form (c : BitVec 8) (s : State) : KeepsForm s.mem (setCause c s).mem := .refl _

theorem beginWarmForm (cause : BitVec 8) (s : State) : KeepsForm s.mem (beginWarm cause s).mem := by
  unfold beginWarm
  refine .ite (.refl _) (.ite (setCause_form ..) ?_)
  extract_lets t u
  have hstopped : KeepsForm s.mem t.mem := .after (breakCopies_form ..) (.after (failFetch_form ..) (stopForReset_form ..))
  have hcleared : KeepsForm t.mem u.mem :=
    .after (dropNotices_form ..) (.after (clearFabric_form ..) (.after (clearHrc_form ..) (clearCoreState_form ..)))
  clear_value u
  exact .after (setCause_form ..) (hcleared.after hstopped)

theorem finishWarmForm (s : State) : KeepsForm s.mem (finishWarm s).mem :=
  .after (.foldl (fun _ _ => landHost_form ..) _ _) (.after (restartPasses_form ..) (.after (trainLinks_form ..) (.refl _)))

theorem execWarmRstNAssert_form (s : State) : StepKeeps s (execWarmRstNAssert s) := .next (.after (beginWarmForm ..) (.refl _))

theorem execWarmResetRelease_form (s : State) : StepKeeps s (execWarmResetRelease s) := .next (.ite (.after (finishWarmForm ..) (.refl _)) (.refl _))

theorem resetUpdate_form (s : State) : KeepsForm s.mem (resetUpdate s).mem :=
  .ite (.after (setUpStatus_form ..) (abandonActivate_form ..)) (.ite (setUpStatus_form ..) (.refl _))

theorem clearServer_form (s : State) : KeepsForm s.mem (clearServer s).mem := .refl _

theorem managementReset_form (cause : BitVec 8) (s : State) : KeepsForm s.mem (managementReset cause s).mem :=
  .ite (.after (setCause_form ..) (.after (bootStart_form ..) (.after (clearServer_form ..) (resetUpdate_form ..)))) (.refl _)

theorem execWatchdogExpire_form (s : State) : StepKeeps s (execWatchdogExpire s) := .next (.ite (managementReset_form ..) (.refl _))

theorem fabricReset_form (cause : BitVec 8) (s : State) : KeepsForm s.mem (fabricReset cause s).mem := by
  unfold fabricReset
  refine .ite ?_ (.refl _)
  extract_lets t _ u v w
  have hstopped : KeepsForm s.mem t.mem := stopForReset_form ..
  clear_value t
  have hcleared : KeepsForm u.mem v.mem :=
    .after (clearFabric_form ..) (.after (clearHrc_form ..) (.after (clearCoreState_form ..) (settlePhase_form ..)))
  clear_value v
  exact .after (setCause_form ..) (.after (trainLinks_form ..) (.after (refreshSource_calm ..).form (hcleared.after hstopped)))

theorem execResetRequestDelayExpire_form (s : State) : StepKeeps s (execResetRequestDelayExpire s) := by
  unfold execResetRequestDelayExpire
  dsimp only
  refine .next ?_
  split
  · split
    · split
      · exact .after (beginWarmForm ..) (.refl _)
      · exact .after (managementReset_form ..) (.refl _)
      · exact .after (fabricReset_form ..) (.refl _)
    · exact .refl _
  · exact .refl _

theorem requestReset_form (kind : ResetKind) (s : State) : KeepsForm s.mem (requestReset kind s).mem := .refl _

theorem blockCore_form (die phys : Nat) (s : State) : KeepsForm s.mem (blockCore die phys s).mem := by
  unfold blockCore
  dsimp only
  split
  · exact .after (putCore_calm ..).form (.after (spmUndefined_form ..) (retireWhere_form ..))
  · exact .after (spmUndefined_form ..) (retireWhere_form ..)

theorem blockQuad_form (v : BitVec 16) (s : State) : KeepsForm s.mem (blockQuad v s).2.mem := by
  unfold blockQuad
  split
  extract_lets busy t
  have hblocked : KeepsForm s.mem t.mem := .foldl (fun _ _ => blockCore_form ..) _ _
  clear_value t
  split
  · exact .refl _
  · split
    · exact .refl _
    · exact hblocked

theorem blockLink_form (l : Nat) (s : State) : KeepsForm s.mem (blockLink l s).2.mem := by
  unfold blockLink
  dsimp only
  split
  · exact .refl _
  · split
    · exact .refl _
    · exact .after (notePorts_calm ..).form (.after (settleLink_form ..) (.after (putLink_form ..) (.ite (leaveUp_form ..) (.refl _))))

theorem blockChannel_form (c : Nat) (s : State) : KeepsForm s.mem (blockChannel c s).2.mem := by
  unfold blockChannel
  dsimp only
  split
  · exact .refl _
  · split
    · exact .refl _
    · exact .after (makeUndefUnit_form ..) (retireWhere_form ..)

theorem execChannelRetrainComplete_form (ch : Nat) (s : State) : StepKeeps s (execChannelRetrainComplete ch s) := .whenUnit (.ite (.refl _) (.refl _))

/-! ### Power -/

theorem setPower_form (p : PowerState) (s : State) : KeepsForm s.mem (setPower p s).mem := .refl _

theorem setNext_form (c : BitVec 8) (s : State) : KeepsForm s.mem (setNext c s).mem := .refl _

theorem tryStart_form (s : State) : KeepsForm s.mem (tryStart s).mem :=
  .ite (.after (setCause_form ..) (.after (setNext_form ..) (.after (setPower_form ..) (freshMemory_form ..)))) (.refl _)

theorem execVinOn_form (s : State) : StepKeeps s (execVinOn s) := .next (.after (tryStart_form ..) (.refl _))

theorem execVinOff_form (s : State) : StepKeeps s (execVinOff s) :=
  .next (.ite (.refl _) (.ite (.after (setNext_form ..) (.after (railsOff_form ..) (.refl _))) (.refl _)))

theorem execVinOvervoltage_form (s : State) : StepKeeps s (execVinOvervoltage s) :=
  .next (.ite (.after (setNext_form ..) (.after (setPower_form ..) (railsOff_form ..))) (.refl _))

theorem execVinOvervoltageClear_form (s : State) : StepKeeps s (execVinOvervoltageClear s) :=
  .next (.ite (.after (tryStart_form ..) (setPower_form ..)) (.refl _))

theorem execPwrEnHigh_form (s : State) : StepKeeps s (execPwrEnHigh s) := by
  unfold execPwrEnHigh
  dsimp only
  refine .next ?_
  split
  · split
    · exact .ite (.after (tryStart_form ..) (.after (setPower_form ..) (.refl _))) (.refl _)
    · exact .refl _
  · exact .after (tryStart_form ..) (.refl _)

theorem execPwrEnLow_form (s : State) : StepKeeps s (execPwrEnLow s) := by
  unfold execPwrEnLow
  dsimp only
  refine .next ?_
  split
  · exact .refl _
  · exact .refl _
  · exact .after (setNext_form ..) (.after (railsOff_form ..) (.refl _))

theorem execRailStepValid_form (s : State) : StepKeeps s (execRailStepValid s) := by
  unfold execRailStepValid
  dsimp only
  refine .next ?_
  split
  · exact .ite (setPower_form ..) (.after (setPower_form ..) (.refl _))
  · exact .refl _

theorem execRailOutOfBand_form (rail : Rail) (s : State) : StepKeeps s (execRailOutOfBand rail s) := .next (.refl _)

theorem execThermalTrip_form (s : State) : StepKeeps s (execThermalTrip s) := by
  unfold execThermalTrip
  refine .next (.ite ?_ (.refl _))
  extract_lets t
  have hoff : KeepsForm s.mem t.mem := .after (setNext_form ..) (.after (setPower_form ..) (railsOff_form ..))
  exact hoff

theorem updateW_form (watts d : Nat) (s : State) : KeepsForm s.mem (updateW watts d s).mem := .refl _

theorem execPowerSample_form (millivolts watts : Nat) (temps : List (BitVec 16)) (s : State) :
    StepKeeps s (execPowerSample millivolts watts temps s) :=
  .next (.ite (.ite (.after (updateW_form ..) (.after (updateW_form ..) (.refl _))) (.refl _)) (.refl _))

theorem execPllLock_form (slotId : BitVec 6) (testMode : Bool) (s : State) : StepKeeps s (execPllLock slotId testMode s) :=
  .next (.ite (.ite (.after (setPower_form ..) (.refl _)) (.refl _)) (.refl _))

theorem loadMap_form (die : Nat) (s : State) : KeepsForm s.mem (loadMap die s).mem := .ite (.after (reportLost_calm ..).form (.refl _)) (.refl _)

theorem loadLinks_form (s : State) : KeepsForm s.mem (loadLinks s).mem := .after (trainLinks_form ..) (.refl _)

theorem loadComplete_form (words : List Copies) (attempts repairs : Nat) (s : State) : KeepsForm s.mem (loadComplete words attempts repairs s).mem :=
  .after (bootStart_form ..) (.after (restartPasses_form ..) (.after (settleQuads_form ..) (.after (loadLinks_form ..) (.after (loadMap_form ..)
      (.after (loadMap_form ..) (.after (loadLife_form ..) (.refl _)))))))

theorem execOptionLoadComplete_form (attempts : List (List (BitVec 64 × BitVec 64 × BitVec 64))) (s : State) :
    StepKeeps s (execOptionLoadComplete attempts s) := by
  unfold execOptionLoadComplete
  dsimp only
  refine .next ?_
  split
  · split
    · exact .refl _
    · exact .ite (.ite (loadComplete_form ..) (.ite (.after (setPower_form ..) (.refl _)) (.refl _))) (.refl _)
  · exact .refl _

theorem notifyClocks_form (s : State) : KeepsForm s.mem (notifyClocks s).mem :=
  .after (notify_calm ..).form (.after (notify_calm ..).form (notify_calm ..).form)

theorem execRefLost_form (s : State) : StepKeeps s (execRefLost s) :=
  .next (.ite (.after (notify_calm ..).form (.after (notifyClocks_form ..) (.refl _))) (.refl _))

theorem execRefReturn_form (s : State) : StepKeeps s (execRefReturn s) := .next (.ite (.after (notifyClocks_form ..) (.refl _)) (.refl _))

theorem execRefLostTimeout_form (s : State) : StepKeeps s (execRefLostTimeout s) := by
  unfold execRefLostTimeout
  refine .next ?_
  split
  · exact .ite (reportLost_calm ..).form (.refl _)
  · exact .refl _

theorem setCage_form (k : Nat) (v : BitVec 8) (s : State) : KeepsForm s.mem (setCage k v s).mem := .after (notify_calm ..).form (.refl _)

theorem darkCage_form (k : Nat) (s : State) : KeepsForm s.mem (darkCage k s).mem :=
  .foldl (fun _ _ => .after (.ite (leaveUp_form ..) (settleLink_form ..)) (putLink_form ..)) _ _

theorem execCageInsert_form (cage : Nat) (a : Sys2Proof.Assembly) (s : State) : StepKeeps s (execCageInsert cage a s) :=
  .whenUnit (.ite (setCage_form ..) (.refl _))

theorem execCageRemove_form (cage : Nat) (s : State) : StepKeeps s (execCageRemove cage s) :=
  .whenUnit (.ite (.refl _) (.after (setCage_form ..) (darkCage_form ..)))

theorem execCageOvercurrent_form (cage : Nat) (s : State) : StepKeeps s (execCageOvercurrent cage s) :=
  .whenUnit (.ite (.after (setCage_form ..) (darkCage_form ..)) (.refl _))

theorem execPlcaBeaconReceived_form (s : State) : StepKeeps s (execPlcaBeaconReceived s) := .next (.ite (.refl _) (.refl _))

theorem execPlcaBeaconTimeout_form (s : State) : StepKeeps s (execPlcaBeaconTimeout s) := .next (.refl _)

theorem execDadComplete_form (duplicate : Bool) (s : State) : StepKeeps s (execDadComplete duplicate s) := .next (.ite (.refl _) (.refl _))

/-! ### Frames -/

theorem sendObjRsp_form (ep tag : Nat) (payload : List Byte) (s : State) : KeepsForm s.mem (sendObjRsp ep tag payload s).mem :=
  (injectCtrl_calm ..).form

theorem sendResponse_form (p : DopPath) (id : BitVec 32) (bs : List Byte) (s : State) : KeepsForm s.mem (sendResponse p id bs s).mem := by
  unfold sendResponse
  dsimp only
  split
  · exact .ite (.after (dopCount_form ..) (emit_calm ..).form) (.refl _)
  · exact .after (msix_calm ..).form (.refl _)
  · exact sendObjRsp_form ..

theorem keepResponse_form (p : DopPath) (id : BitVec 32) (bs : List Byte) (s : State) : KeepsForm s.mem (keepResponse p id bs s).mem := by
  unfold keepResponse
  dsimp only
  split
  · exact .refl _
  · exact .refl _

theorem countAnswer_form (p : DopPath) (h : BitVec 128) (code : Nat) (s : State) : KeepsForm s.mem (countAnswer p h code s).mem := by
  unfold countAnswer
  dsimp only
  split
  · exact .after (dopCount_form ..) (.after (.ite (dopCount_form ..) (.refl _)) (.ite (dopCount_form ..) (.refl _)))
  · exact .after (.ite (dopCount_form ..) (.refl _)) (.ite (dopCount_form ..) (.refl _))

theorem respond_form (q : DopReq) (a : Answer) (keep : Bool) (s : State) : KeepsForm s.mem (respond q a keep s).mem :=
  .after (.ite (.refl _) (sendResponse_form ..)) (.after (.ite (keepResponse_form ..) (.refl _)) (countAnswer_form ..))

/-! ### Server -/

theorem readSnap_form (p : DopPath) (h : BitVec 128) (typ : Nat) (s : State) : KeepsForm s.mem (readSnap p h typ s).2.mem := by
  unfold readSnap
  dsimp only
  split
  · split
    · exact .refl _
    · split
      · exact .refl _
      · exact .refl _
  · split
    · exact .refl _
    · exact .refl _

theorem readObject_form (p : DopPath) (h : BitVec 128) (r : ObjRow) (s : State) : KeepsForm s.mem (readObject p h r s).2.mem := by
  unfold readObject
  dsimp only
  split
  · split
    · exact .after (pushWard_form ..) (voteRead_form ..)
    · split
      · exact .after (readSnap_form ..) (.after (pushWard_form ..) (voteRead_form ..))
      · exact .after (pushWard_form ..) (voteRead_form ..)
  · split
    · exact voteRead_form ..
    · split
      · exact .after (readSnap_form ..) (voteRead_form ..)
      · exact voteRead_form ..

theorem stageValue_form (key : Nat) (bs : List Byte) (s : State) : KeepsForm s.mem (stageValue key bs s).2.mem := by
  unfold stageValue
  dsimp only
  split
  · exact .refl _
  · exact .refl _

theorem onGo_form (v : Nat) (f : State → State) (s : State) (hf : ∀ (a : State), KeepsForm a.mem (f a).mem) : KeepsForm s.mem (onGo v f s).2.mem :=
  .ite (hf _) (.refl _)

theorem writeRun_form (v : Nat) (chk : Chk) (s : State) : KeepsForm s.mem (writeRun v chk s).2.mem := by
  unfold writeRun
  split
  · exact .refl _
  · split
    · exact stopWritten_form ..
    · split
      · exact startProgram_form ..
      · exact .refl _

theorem writeVariant_form (v : Nat) (s : State) : KeepsForm s.mem (writeVariant v s).2.mem := by
  unfold writeVariant
  dsimp only
  split
  · exact hold_form _ _ _ (.refl _)
  · split
    · exact hold_form _ _ _ (.refl _)
    · exact .refl _

theorem writeFetch_form (sub v : Nat) (s : State) : KeepsForm s.mem (writeFetch sub v s).2.mem := by
  unfold writeFetch
  dsimp only
  split
  · exact .refl _
  · split
    · exact .refl _
    · split
      · exact .refl _
      · exact onGo_form _ _ _ (fun _ => startFetch_form ..)

theorem writeReset_form (v : Nat) (s : State) : KeepsForm s.mem (writeReset v s).2.mem := by
  unfold writeReset
  split
  · exact requestReset_form ..
  · split
    · exact requestReset_form ..
    · split
      · exact requestReset_form ..
      · exact .refl _

theorem writeRestore_form (sub v : Nat) (s : State) : KeepsForm s.mem (writeRestore sub v s).2.mem := by
  unfold writeRestore
  dsimp only
  split
  · exact .refl _
  · split
    · exact hold_form _ _ _ (.refl _)
    · split
      · exact .refl _
      · exact onGo_form _ _ _ (fun _ => .after (restoreStart_form ..) (dropReads_calm ..).form)

theorem writeTest_form (sub v : Nat) (s : State) : KeepsForm s.mem (writeTest sub v s).2.mem := by
  unfold writeTest
  dsimp only
  split
  · exact hold_form _ _ _ (.refl _)
  · split
    · exact .refl _
    · split
      · exact .refl _
      · split
        · exact .refl _
        · exact testStart_form ..

theorem writeClear_form (v : Nat) (s : State) : KeepsForm s.mem (writeClear v s).2.mem := by
  unfold writeClear
  dsimp only
  split
  · exact .refl _
  · exact .after (.ite (clearDies_form ..) (.refl _)) (.ite (clearCores_form ..) (.refl _))

theorem writeSave_form (v : Nat) (s : State) : KeepsForm s.mem (writeSave v s).2.mem := by
  unfold writeSave
  split
  · exact .refl _
  · split
    · exact .refl _
    · exact startSave_form ..

theorem writeReport_form (p : DopPath) (v : Nat) (s : State) : KeepsForm s.mem (writeReport p v s).2.mem := by
  unfold writeReport
  dsimp only
  split
  · exact takeReport_form ..
  · exact .refl _

theorem writeTrigger_form (v : Nat) (s : State) : KeepsForm s.mem (writeTrigger v s).2.mem :=
  .ite (.foldl (fun _ _ => sendRemote_form ..) _ _) (.refl _)

theorem writeUpdate_form (sub : Nat) (bs : List Byte) (s : State) : KeepsForm s.mem (writeUpdate sub bs s).2.mem := by
  unfold writeUpdate
  dsimp only
  split
  · exact updateComponent_form ..
  · split
    · exact updateOffset_form ..
    · split
      · exact updateChunk_form ..
      · split
        · exact updateVerify_form ..
        · split
          · exact .refl _
          · exact onGo_form _ _ _ (fun _ => beginActivate_form ..)

theorem writeToken_form (p : DopPath) (bs : List Byte) (s : State) : KeepsForm s.mem (writeToken p bs s).2.mem := by
  unfold writeToken
  dsimp only
  split
  · exact takeFree_form ..
  · split
    · exact takeFree_form ..
    · split
      · exact takeFree_form ..
      · exact takeFree_form ..

theorem writeMaintKey_form (bs : List Byte) (s : State) : KeepsForm s.mem (writeMaintKey bs s).2.mem := by
  unfold writeMaintKey
  dsimp only
  split
  · exact voteMaintHash_form ..
  · exact voteMaintHash_form ..

theorem writeValue_form (p : DopPath) (key : Nat) (bs : List Byte) (chk : Chk) (s : State) : KeepsForm s.mem (writeValue p key bs chk s).2.mem := by
  unfold writeValue
  dsimp only
  split
  · exact writeToken_form ..
  · exact writeMaintKey_form ..
  · exact writeRun_form ..
  · exact writeStopped_form _ _ (.after (fillSlice_form ..) (.refl _))
  · exact writeStopped_form _ _ (.refl _)
  · exact writeStopped_form _ _ (.refl _)
  · exact writeVariant_form ..
  · exact writeFetch_form ..
  · exact writeReset_form ..
  · split
    · exact blockQuad_form ..
    · split
      · exact blockLink_form ..
      · exact blockChannel_form ..
  · exact hold_form _ _ _ (putLink_form ..)
  · exact onGo_form _ _ _ (fun _ => clearTelemetry_form ..)
  · exact .refl _
  · exact .refl _
  · exact writeReport_form ..
  · exact writeTrigger_form ..
  · exact writeRestore_form ..
  · exact hold_form _ _ _ (.refl _)
  · exact writeTest_form ..
  · exact writeClear_form ..
  · exact writeSave_form ..
  · exact raiseFloor_form ..
  · exact revokeKey_form ..
  · exact writeUpdate_form ..
  · exact takeNonce_form ..
  · exact .refl _

theorem closeWrite_form (p : DopPath) (key : Nat) (s : State) : KeepsForm s.mem (closeWrite p key s).mem := .refl _

theorem privilege_form (s : State) (q : DopReq) : KeepsForm s.mem (privilege s q).2.mem := by
  unfold privilege
  dsimp only
  split
  · exact .refl _
  · split
    · exact .refl _
    · split
      · exact .refl _
      · exact .refl _

theorem serveRead_form (q : DopReq) (s : State) : KeepsForm s.mem (serveRead q s).2.mem := by
  unfold serveRead
  split
  · exact .refl _
  · split
    · exact .refl _
    · split
      · exact .refl _
      · exact readObject_form ..

theorem voteChapter_form (q : DopReq) (s : State) : KeepsForm s.mem (voteChapter q s).mem := .ite (voteMaster_calm ..).form (.refl _)

theorem serveWrite_form (q : DopReq) (priv : Nat) (chk : Chk) (s : State) : KeepsForm s.mem (serveWrite q priv chk s).2.mem := by
  unfold serveWrite
  split
  · exact .refl _
  · split
    · exact .refl _
    · split
      · exact .refl _
      · split
        · exact .refl _
        · split
          · exact .refl _
          · exact takeValue_form _ _ _ _ _ _ (fun _ _ => writeValue_form ..)

theorem serveStage_form (q : DopReq) (priv : Nat) (s : State) : KeepsForm s.mem (serveStage q priv s).2.mem := by
  unfold serveStage
  split
  · exact .refl _
  · split
    · exact .refl _
    · split
      · exact .refl _
      · split
        · exact .refl _
        · split
          · exact .refl _
          · exact takeValue_form _ _ _ _ _ _ (fun _ _ => stageValue_form ..)

theorem setCheck_form (g code : Nat) (s : State) : KeepsForm s.mem (setCheck g code s).mem := .refl _

theorem commitGroup_form (g : Nat) (s : State) : KeepsForm s.mem (commitGroup g s).2.mem := by
  unfold commitGroup
  dsimp only
  split
  · exact .refl _
  · split
    · exact .after (.ite (applyGroup_form ..) (.refl _)) (.after (setCheck_form ..) (.refl _))
    · exact setCheck_form ..

theorem discardGroup_form (g : Nat) (s : State) : KeepsForm s.mem (discardGroup g s).2.mem := by
  unfold discardGroup
  dsimp only
  split
  · exact .refl _
  · exact .refl _

theorem serveCommit_form (q : DopReq) (priv : Nat) (s : State) : KeepsForm s.mem (serveCommit q priv s).2.mem := by
  unfold serveCommit
  dsimp only
  split
  · exact .refl _
  · split
    · exact .refl _
    · split
      · exact .refl _
      · split
        · exact discardGroup_form ..
        · exact commitGroup_form ..

theorem subscribe_form (addr : BitVec 128) (port key lease minMs : Nat) (s : State) :
    KeepsForm s.mem (subscribe addr port key lease minMs s).2.mem := by
  unfold subscribe
  dsimp only
  split
  · exact .refl _
  · split
    · exact .refl _
    · exact .refl _

theorem serveSubscribe_form (q : DopReq) (s : State) : KeepsForm s.mem (serveSubscribe q s).2.mem := by
  unfold serveSubscribe
  dsimp only
  split
  · exact .refl _
  · split
    · split
      · exact .refl _
      · split
        · exact .refl _
        · split
          · exact .refl _
          · split
            · exact .refl _
            · exact subscribe_form ..
    · exact .refl _

theorem process_form (q : DopReq) (chk : Chk) (s : State) : KeepsForm s.mem (process q chk s).2.mem := by
  unfold process
  dsimp only
  split
  · exact .refl _
  · split
    · exact serveRead_form ..
    · exact .after (serveWrite_form ..) (.after (voteChapter_form ..) (privilege_form ..))
    · exact .after (serveStage_form ..) (privilege_form ..)
    · exact .after (serveCommit_form ..) (privilege_form ..)
    · exact serveSubscribe_form ..
    · split
      · exact .refl _
      · exact .refl _

/-! ### Dop -/

theorem serve_form (q : DopReq) (chk : Chk) (s : State) : KeepsForm s.mem (serve q chk s).mem := by
  unfold serve
  refine .ite ?_ (.after (respond_form ..) (privilege_form ..))
  extract_lets r
  have hprocessed : KeepsForm s.mem r.2.mem := process_form ..
  clear_value r
  exact .ite hprocessed (.after (respond_form ..) hprocessed)

theorem enqueue_form (q : DopReq) (s : State) : KeepsForm s.mem (enqueue q s).mem := .refl _

theorem arrive_form (q : DopReq) (go : State → State) (s : State) (hgo : ∀ (a : State), KeepsForm a.mem (go a).mem) :
    KeepsForm s.mem (arrive q go s).mem := by
  unfold arrive
  dsimp only
  split
  · exact .after (sendResponse_form ..) (.after (.ite (dopCount_form ..) (.refl _)) (dopCount_form ..))
  · exact .ite (.refl _) (.ite (respond_form ..) (hgo _))

theorem takeNet_form (q : DopReq) (chk : Chk) (s : State) : KeepsForm s.mem (takeNet q chk s).mem :=
  arrive_form _ _ _ (fun _ => .ite (enqueue_form ..) (serve_form ..))

theorem badFrame_form (s : State) : KeepsForm s.mem (badFrame s).mem := .after (dopCount_form ..) (dopCount_form ..)

theorem handleRow_form (row : Row) (r : ReqRef) (chk : Chk) (s : State) : StepKeeps s (handleRow row r chk s) := by
  unfold handleRow
  dsimp only
  refine .next ?_
  split
  · split
    · exact .refl _
    · split
      · exact badFrame_form ..
      · exact .ite (.refl _) (.after (.ite (.refl _) (takeNet_form ..)) (dopCount_form ..))
  · split
    · exact .refl _
    · exact .ite (.refl _) (.after (serve_form ..) (.refl _))

theorem execDopRead_form (r : ReqRef) (s : State) : StepKeeps s (execDopRead r s) := handleRow_form ..

theorem execDopReadSnap_form (r : ReqRef) (s : State) : StepKeeps s (execDopReadSnap r s) := handleRow_form ..

theorem execDopReadStaged_form (r : ReqRef) (s : State) : StepKeeps s (execDopReadStaged r s) := handleRow_form ..

theorem execDopWrite_form (r : ReqRef) (s : State) : StepKeeps s (execDopWrite r s) := handleRow_form ..

theorem execDopStage_form (r : ReqRef) (s : State) : StepKeeps s (execDopStage r s) := handleRow_form ..

theorem execDopCommit_form (r : ReqRef) (s : State) : StepKeeps s (execDopCommit r s) := handleRow_form ..

theorem execDopCommitDiscard_form (r : ReqRef) (s : State) : StepKeeps s (execDopCommitDiscard r s) := handleRow_form ..

theorem execDopSubscribe_form (r : ReqRef) (s : State) : StepKeeps s (execDopSubscribe r s) := handleRow_form ..

theorem execRunStateRun_form (r : ReqRef) (chk : Chk) (s : State) : StepKeeps s (execRunStateRun r chk s) := handleRow_form ..

theorem execRunStateStop_form (r : ReqRef) (s : State) : StepKeeps s (execRunStateStop r s) := handleRow_form ..

theorem execVariantReqWrite_form (r : ReqRef) (s : State) : StepKeeps s (execVariantReqWrite r s) := handleRow_form ..

theorem execRoleEpochResync_form (r : ReqRef) (s : State) : StepKeeps s (execRoleEpochResync r s) := handleRow_form ..

theorem execTriggerAtWrite_form (r : ReqRef) (s : State) : StepKeeps s (execTriggerAtWrite r s) := handleRow_form ..

theorem execRestoreGo_form (r : ReqRef) (s : State) : StepKeeps s (execRestoreGo r s) := handleRow_form ..

theorem execPortReport_form (r : ReqRef) (s : State) : StepKeeps s (execPortReport r s) := handleRow_form ..

theorem execFieldTestStart_form (r : ReqRef) (s : State) : StepKeeps s (execFieldTestStart r s) := handleRow_form ..

theorem execMaintTokenWrite_form (r : ReqRef) (s : State) : StepKeeps s (execMaintTokenWrite r s) := handleRow_form ..

theorem execMaintKeyWrite_form (r : ReqRef) (s : State) : StepKeeps s (execMaintKeyWrite r s) := handleRow_form ..

theorem execImageFetchGo_form (r : ReqRef) (s : State) : StepKeeps s (execImageFetchGo r s) := handleRow_form ..

theorem execResetRequestWarmForm (r : ReqRef) (s : State) : StepKeeps s (execResetRequestWarm r s) := handleRow_form ..

theorem execResetRequestMgmt_form (r : ReqRef) (s : State) : StepKeeps s (execResetRequestMgmt r s) := handleRow_form ..

theorem execResetRequestFabric_form (r : ReqRef) (s : State) : StepKeeps s (execResetRequestFabric r s) := handleRow_form ..

theorem execBlockResetQuad_form (r : ReqRef) (s : State) : StepKeeps s (execBlockResetQuad r s) := handleRow_form ..

theorem execBlockResetLink_form (r : ReqRef) (s : State) : StepKeeps s (execBlockResetLink r s) := handleRow_form ..

theorem execBlockResetChannel_form (r : ReqRef) (s : State) : StepKeeps s (execBlockResetChannel r s) := handleRow_form ..

theorem execCounterClearCore_form (r : ReqRef) (s : State) : StepKeeps s (execCounterClearCore r s) := handleRow_form ..

theorem execCounterClearDie_form (r : ReqRef) (s : State) : StepKeeps s (execCounterClearDie r s) := handleRow_form ..

theorem execTelemetryClear_form (r : ReqRef) (s : State) : StepKeeps s (execTelemetryClear r s) := handleRow_form ..

theorem execSaveNow_form (r : ReqRef) (s : State) : StepKeeps s (execSaveNow r s) := handleRow_form ..

theorem execNonce_form (r : ReqRef) (s : State) : StepKeeps s (execNonce r s) := handleRow_form ..

theorem execRaiseFloor_form (r : ReqRef) (s : State) : StepKeeps s (execRaiseFloor r s) := handleRow_form ..

theorem execRevoke_form (r : ReqRef) (s : State) : StepKeeps s (execRevoke r s) := handleRow_form ..

theorem execUpdateComponent_form (r : ReqRef) (s : State) : StepKeeps s (execUpdateComponent r s) := handleRow_form ..

theorem execUpdateChunk_form (r : ReqRef) (s : State) : StepKeeps s (execUpdateChunk r s) := handleRow_form ..

theorem execUpdateVerify_form (r : ReqRef) (s : State) : StepKeeps s (execUpdateVerify r s) := handleRow_form ..

theorem execActivate_form (r : ReqRef) (s : State) : StepKeeps s (execActivate r s) := handleRow_form ..

theorem answerActivate_form (r : Option DopReq) (s : State) : KeepsForm s.mem (answerActivate r s).mem := by
  unfold answerActivate
  split
  · exact respond_form ..
  · exact .refl _

theorem execMgmtHandoverComplete_form (die : Nat) (selfCheckOk : Bool) (s : State) : StepKeeps s (execMgmtHandoverComplete die selfCheckOk s) := by
  unfold execMgmtHandoverComplete
  extract_lets r _ t
  have hactive : KeepsForm s.mem t.mem := activated_form ..
  clear_value t
  exact .whenUnit (.ite (.refl _) (.ite (.after (answerActivate_form ..) (abandonActivate_form ..)) (.ite (.refl _) (.after
      (answerActivate_form ..) hactive))))

theorem execObjReq_form (die : Nat) (s : State) : StepKeeps s (execObjReq die s) := by
  unfold execObjReq
  dsimp only
  refine .whenUnit ?_
  split
  · exact .refl _
  next h7 =>
    exact .after (.ite (.refl _) (.ite (.after (respond_form ..) (process_form ..)) (arrive_form _ _ _ (fun _ => enqueue_form ..)))) (.after
        (voteMaster_calm ..).form (takeCtrl_form h7))

theorem execObjRsp_form (die : Nat) (s : State) : StepKeeps s (execObjRsp die s) := by
  unfold execObjRsp
  dsimp only
  refine .whenUnit ?_
  split
  · exact .refl _
  next h7 =>
    exact .after (.ite (probeAnswered_form ..) (.ite (.after (afterAnswer_form ..) (.ite (.after
        (takeoverAnswer_form ..) (.refl _)) (.refl _))) (.refl _))) (takeCtrl_form h7)

theorem putSub_form (i : Nat) (u : Subscription) (s : State) : KeepsForm s.mem (putSub i u s).mem := .refl _

theorem execNotifyAck_form (f : NetFrame) (s : State) : StepKeeps s (execNotifyAck f s) := by
  unfold execNotifyAck
  dsimp only
  refine .next ?_
  split
  · exact .refl _
  · split
    · exact badFrame_form ..
    · split
      · exact .refl _
      · split
        · exact .after (pumpAt_form ..) (.after (putSub_form ..) (dopCount_form ..))
        · exact dopCount_form ..

theorem execNotifyResend_form (i : Nat) (s : State) : StepKeeps s (execNotifyResend i s) := by
  unfold execNotifyResend
  refine .next ?_
  split
  · exact .refl _
  · split
    · exact .refl _
    · exact .ite (.refl _) (.ite (.after (dopCount_form ..) (.after (dopCount_form ..) (.after (emit_calm ..).form (putSub_form ..)))) (.after
        (pumpAt_form ..) (.after (dopCount_form ..) (putSub_form ..))))

theorem pollValue_form (i key : Nat) (r : ObjRow) (s : State) : KeepsForm s.mem (pollValue i key r s).mem := by
  unfold pollValue
  dsimp only
  split
  · exact .ite (.refl _) (queueNotice_form ..)
  · exact .refl _

theorem execNotifyValuePoll_form (i : Nat) (s : State) : StepKeeps s (execNotifyValuePoll i s) := by
  unfold execNotifyValuePoll
  dsimp only
  refine .next ?_
  split
  · exact .refl _
  · exact .ite (.refl _) (.after (pumpAt_form ..) (.ite (.refl _) (.foldl (fun _ _ => pollValue_form ..) _ _)))

theorem execSubscriptionExpire_form (i : Nat) (s : State) : StepKeeps s (execSubscriptionExpire i s) := by
  unfold execSubscriptionExpire
  dsimp only
  refine .next ?_
  split
  · exact .ite (.refl _) (.refl _)
  · exact .refl _

theorem execCaptureExpire_form (i : Nat) (s : State) : StepKeeps s (execCaptureExpire i s) := by
  unfold execCaptureExpire
  dsimp only
  refine .next ?_
  split
  · exact .ite (.refl _) (.refl _)
  · exact .refl _

theorem execSegmentWriteTimeout_form (i : Nat) (s : State) : StepKeeps s (execSegmentWriteTimeout i s) := by
  unfold execSegmentWriteTimeout
  dsimp only
  refine .next ?_
  split
  · exact .ite (.refl _) (.refl _)
  · exact .refl _

theorem execKeptResponseExpire_form (i : Nat) (s : State) : StepKeeps s (execKeptResponseExpire i s) := by
  unfold execKeptResponseExpire
  dsimp only
  refine .next ?_
  split
  · exact .ite (.refl _) (.refl _)
  · exact .refl _

theorem execMaintTokenExpire_form (s : State) : StepKeeps s (execMaintTokenExpire s) := by
  unfold execMaintTokenExpire
  dsimp only
  refine .next ?_
  split
  · exact .ite (.refl _) (.refl _)
  · exact .refl _

theorem execNeighbourSolicitation_form (src target : BitVec 128) (s : State) : StepKeeps s (execNeighbourSolicitation src target s) :=
  .next (.ite (emit_calm ..).form (.refl _))

theorem execEchoRequest_form (src : BitVec 128) (payload : List Byte) (s : State) : StepKeeps s (execEchoRequest src payload s) :=
  .next (.ite (emit_calm ..).form (.refl _))

/-! ### Window -/

theorem submitWindow_form (s : State) : KeepsForm s.mem (submitWindow s).mem := by
  unfold submitWindow
  dsimp only
  split
  · exact dopCount_form ..
  · exact .ite (.refl _) (.ite (.refl _) (arrive_form _ _ _ (fun _ => enqueue_form ..)))

theorem writeWinCtrl_form (v : Nat) (s : State) : KeepsForm s.mem (writeWinCtrl v s).mem :=
  .after (.ite (.refl _) (.ite (.refl _) (.after (submitWindow_form ..) (.refl _)))) (.ite (.refl _) (.refl _))

theorem execWinCtrlGo_form (value : BitVec 64) (s : State) : StepKeeps s (execWinCtrlGo value s) :=
  .next (bar0Request_form _ _ (fun _ => writeWinCtrl_form ..))

theorem writeMsixTable_form (off : Nat) (data : List Byte) (s : State) : KeepsForm s.mem (writeMsixTable off data s).mem :=
  .after (pumpMsix_form ..) (.refl _)

theorem writeBar0_form (off : Nat) (data : List Byte) (s : State) : KeepsForm s.mem (writeBar0 off data s).mem :=
  .ite (setBar2Base_form ..) (.ite (signal_form ..) (.ite (writeMsixTable_form ..) (.ite (writeWinCtrl_form ..) (.refl _))))

theorem execBar0RegisterWrite_form (off : Nat) (data : List Byte) (disabled : List Nat) (s : State) :
    StepKeeps s (execBar0RegisterWrite off data disabled s) :=
  .next (bar0Request_form _ _ (fun _ => .ite (.ite (.refl _) (uncorError_form ..)) (.ite (writeBar0_form ..) (.refl _))))

/-! ### Dispatch -/

theorem exec_form (i : Instr) (s : State) : StepKeeps s (exec i s) := by
  unfold exec
  split
  · exact execNop_form ..
  · exact execAdd_form ..
  · exact execSub_form ..
  · exact execAnd_form ..
  · exact execOr_form ..
  · exact execXor_form ..
  · exact execShl_form ..
  · exact execShr_form ..
  · exact execSra_form ..
  · exact execMul_form ..
  · exact execMulhu_form ..
  · exact execMulh_form ..
  · exact execMin_form ..
  · exact execMax_form ..
  · exact execSlt_form ..
  · exact execSltu_form ..
  · exact execAddi_form ..
  · exact execAndi_form ..
  · exact execOri_form ..
  · exact execXori_form ..
  · exact execShli_form ..
  · exact execShri_form ..
  · exact execSrai_form ..
  · exact execLi_form ..
  · exact execLui_form ..
  · exact execSeq_form ..
  · exact execLd_form ..
  · exact execLdU_form ..
  · exact execSt_form ..
  · exact execCacheDrop_form ..
  · exact execRdspec_form ..
  · exact execLoadReturn_form ..
  · exact execBr_form ..
  · exact execBeq_form ..
  · exact execBne_form ..
  · exact execBlt_form ..
  · exact execBge_form ..
  · exact execBltu_form ..
  · exact execBgeu_form ..
  · exact execCall_form ..
  · exact execJr_form ..
  · exact execTexit_form ..
  · exact execBrk_form ..
  · exact execIllegalInstruction_form ..
  · exact execMxaFill_form ..
  · exact execMxaRun_form ..
  · exact execMxaDrain_form ..
  · exact execAcsAlloc_form ..
  · exact execAcsAllocGrant_form ..
  · exact execAcsFree_form ..
  · exact execAcsRowsRelease_form ..
  · exact execMxaSync_form ..
  · exact execMxaSyncWake_form ..
  · exact execFillBegin_form ..
  · exact execFillComplete_form ..
  · exact execRunBegin_form ..
  · exact execRunComplete_form ..
  · exact execDrainBegin_form ..
  · exact execDrainComplete_form ..
  · exact execVadd_form ..
  · exact execVsub_form ..
  · exact execVmul_form ..
  · exact execVfma_form ..
  · exact execVmax_form ..
  · exact execVmin_form ..
  · exact execVabs_form ..
  · exact execVneg_form ..
  · exact execVcvt_form ..
  · exact execVexp_form ..
  · exact execVlog_form ..
  · exact execVrcp_form ..
  · exact execVrsqrt_form ..
  · exact execVtanh_form ..
  · exact execVsigmoid_form ..
  · exact execVectorBegin_form ..
  · exact execVectorComplete_form ..
  · exact execDmaPush_form ..
  · exact execDmaStat_form ..
  · exact execDmaDescriptorBegin_form ..
  · exact execDmaDescriptorComplete_form ..
  · exact execFenceLocal_form ..
  · exact execFenceLocalWake_form ..
  · exact execWaitflag_form ..
  · exact execWaitflagRetest_form ..
  · exact execWaitflagTimeout_form ..
  · exact execKsel_form ..
  · exact execSetep_form ..
  · exact execAadd_form ..
  · exact execAmax_form ..
  · exact execAmin_form ..
  · exact execAxchg_form ..
  · exact execAcas_form ..
  · exact execColStart_form ..
  · exact execBar_form ..
  · exact execSred_form ..
  · exact execColWait_form ..
  · exact execGlideReleaseWake_form ..
  · exact execCollectiveComplete_form ..
  · exact execKernelBoundary_form ..
  · exact execKernelDescriptorArrive_form ..
  · exact execGateRelease_form ..
  · exact execSpmRemoteWriteArrive_form ..
  · exact execSpmMergeRetire_form ..
  · exact execTierMergeRetire_form ..
  · exact execHrcMissFill_form ..
  · exact execCacheDropComplete_form ..
  · exact execResurfacerTierRead_form ..
  · exact execResurfacerSpmRead_form ..
  · exact execBucketLeakTick_form ..
  · exact execLinkPeerSignal_form ..
  · exact execLinkPeerSignalLost_form ..
  · exact execLinkRxLock_form ..
  · exact execFrameReceive_form ..
  · exact execFrameTransmit_form ..
  · exact execScheduleWindowStart_form ..
  · exact execLinkRetrain_form ..
  · exact execLinkTrainingTimeout_form ..
  · exact execControlPacketRoute_form ..
  · exact execDataPacketRoute_form ..
  · exact execMulticastForward_form ..
  · exact execWritePacket_form ..
  · exact execReducePacket_form ..
  · exact execCombiningSlotFlush_form ..
  · exact execChainPacket_form ..
  · exact execFinalWrite_form ..
  · exact execFinalWriteRelease_form ..
  · exact execGlideBarrier_form ..
  · exact execGlideSred_form ..
  · exact execCollCtrlSig_form ..
  · exact execCollCtrlAbort_form ..
  · exact execCollCtrlDone_form ..
  · exact execObjReq_form ..
  · exact execObjRsp_form ..
  · exact execPisteUpdateWriteEntry_form ..
  · exact execPisteUpdateSetEpoch_form ..
  · exact execPisteUpdateSetId_form ..
  · exact execTimeSync_form ..
  · exact execTimeSyncSend_form ..
  · exact execUnreachable_form ..
  · exact execPisteFault_form ..
  · exact execRunStateRun_form ..
  · exact execRunStateStop_form ..
  · exact execImageMeasureComplete_form ..
  · exact execOpeningLiftRelease_form ..
  · exact execOpeningLiftTimeout_form ..
  · exact execLiftArrival_form ..
  · exact execLiftRelease_form ..
  · exact execLiftTimeoutBeforeArrival_form ..
  · exact execLiftTimeoutAfterArrival_form ..
  · exact execVariantReqWrite_form ..
  · exact execRoleEpochResync_form ..
  · exact execSnapshotCheckRelease_form ..
  · exact execSnapshotCopyDone_form ..
  · exact execResumeLiftRelease_form ..
  · exact execBuddyCopyComplete_form ..
  · exact execHostDrainComplete_form ..
  · exact execTriggerAtWrite_form ..
  · exact execRestoreGo_form ..
  · exact execRestoreComplete_form ..
  · exact execPortDownReportTimer_form ..
  · exact execPortReport_form ..
  · exact execLivenessProbeTimeout_form ..
  · exact execFieldTestStart_form ..
  · exact execFieldTestEnd_form ..
  · exact execDopRead_form ..
  · exact execDopReadSnap_form ..
  · exact execDopReadStaged_form ..
  · exact execDopWrite_form ..
  · exact execDopStage_form ..
  · exact execDopCommit_form ..
  · exact execDopCommitDiscard_form ..
  · exact execConsistencyGroupApply_form ..
  · exact execDopSubscribe_form ..
  · exact execNotifyAck_form ..
  · exact execNotifyResend_form ..
  · exact execNotifyValuePoll_form ..
  · exact execSubscriptionExpire_form ..
  · exact execCaptureExpire_form ..
  · exact execSegmentWriteTimeout_form ..
  · exact execKeptResponseExpire_form ..
  · exact execMaintTokenWrite_form ..
  · exact execMaintTokenExpire_form ..
  · exact execMaintKeyWrite_form ..
  · exact execNeighbourSolicitation_form ..
  · exact execEchoRequest_form ..
  · exact execDadComplete_form ..
  · exact execWinCtrlGo_form ..
  · exact execBar0RegisterWrite_form ..
  · exact execBar2BaseWrite_form ..
  · exact execSignalWrite_form ..
  · exact execBar2Write_form ..
  · exact execBar2Read_form ..
  · exact execConfigRequest_form ..
  · exact execHostReadCompletion_form ..
  · exact execPmeTurnOff_form ..
  · exact execPcieLinkUp_form ..
  · exact execPcieLinkDown_form ..
  · exact execPerstN_form ..
  · exact execHotReset_form ..
  · exact execLinkDisable_form ..
  · exact execFlr_form ..
  · exact execImageFetchGo_form ..
  · exact execImageFetchComplete_form ..
  · exact execResetRequestWarmForm ..
  · exact execResetRequestMgmt_form ..
  · exact execResetRequestFabric_form ..
  · exact execBlockResetQuad_form ..
  · exact execBlockResetLink_form ..
  · exact execBlockResetChannel_form ..
  · exact execCounterClearCore_form ..
  · exact execCounterClearDie_form ..
  · exact execTelemetryClear_form ..
  · exact execSaveNow_form ..
  · exact execLifetimeSaveTimer_form ..
  · exact execLifetimeSaveComplete_form ..
  · exact execPoweredSecondTick_form ..
  · exact execRailDroopBegin_form ..
  · exact execRailDroopEnd_form ..
  · exact execNonce_form ..
  · exact execAttestationReady_form ..
  · exact execRaiseFloor_form ..
  · exact execRevoke_form ..
  · exact execUpdateComponent_form ..
  · exact execUpdateChunk_form ..
  · exact execUpdateVerify_form ..
  · exact execUpdateVerifyComplete_form ..
  · exact execActivate_form ..
  · exact execMgmtHandoverComplete_form ..
  · exact execVinOn_form ..
  · exact execVinOff_form ..
  · exact execVinOvervoltage_form ..
  · exact execPwrEnHigh_form ..
  · exact execPwrEnLow_form ..
  · exact execRailStepValid_form ..
  · exact execRailOutOfBand_form ..
  · exact execPowerSample_form ..
  · exact execThermalTrip_form ..
  · exact execWarmRstNAssert_form ..
  · exact execWarmResetRelease_form ..
  · exact execWatchdogExpire_form ..
  · exact execPllLock_form ..
  · exact execOptionLoadComplete_form ..
  · exact execBootChainComplete_form ..
  · exact execRefLost_form ..
  · exact execRefReturn_form ..
  · exact execRefLostTimeout_form ..
  · exact execCageInsert_form ..
  · exact execCageRemove_form ..
  · exact execCageOvercurrent_form ..
  · exact execPtpSync_form ..
  · exact execPtpFollowUp_form ..
  · exact execPtpDelayResp_form ..
  · exact execPtpAnnounce_form ..
  · exact execPtpDelayReqSend_form ..
  · exact execPtpAnnounceTimeout_form ..
  · exact execFabricMarkTimeout_form ..
  · exact execVinOvervoltageClear_form ..
  · exact execResetRequestDelayExpire_form ..
  · exact execInstructionFetchReturn_form ..
  · exact execHostReadCompletionTimeout_form ..
  · exact execLinkControllerLoadComplete_form ..
  · exact execChannelRetrainComplete_form ..
  · exact execPlcaBeaconReceived_form ..
  · exact execPlcaBeaconTimeout_form ..
  · exact execRemoteObjectRetry_form ..

/-! ### Step -/

theorem step_form (s : State) : StepKeeps s (step s) := by
  unfold step
  split
  · exact .next (tick_form ..)
  next c rest _ => exact ⟨(exec_form c { s with pending := rest }).form⟩

/-! ### The obligation -/

/-- Settles O4: `step` is a tick or a command, and each function that either runs leaves the cells rising with no 0 among them and the undefined areas as they should be (logs 4 and 5). -/
theorem stepKeepsMemoryCanonical : Obligations.StepKeepsMemoryCanonical := by
  unfold Obligations.StepKeepsMemoryCanonical
  intro s t hwf hstep
  exact ((step_form s).form t hstep).wf hwf

end Sys2Proof.Machine
end
